-- ==== Sys2Proof/Word.lean ====
section
/-!
DEFINITION. The word types of the panel and their plainest arithmetic: bytes, 16-, 32-, 48- and 64-bit words, and
the identifier ranges of R10 and R31 as bounded numbers.
-/
namespace Sys2Proof

abbrev Byte := BitVec 8
abbrev W16 := BitVec 16
abbrev W32 := BitVec 32
/-- The width of the stroke count (R43) and of a panel physical address (R32). -/
abbrev W48 := BitVec 48
abbrev W64 := BitVec 64
/-- One fabric flit (R212). -/
abbrev Flit := BitVec 256

/-- A hub, a host port or a partition: R168 gives a partition the number of its host port, and a host port the
number of its hub. -/
abbrev HubId := Fin 4
abbrev PortId := Fin 4
abbrev PartId := Fin 4
/-- A compute site c × 13 + p (R354, UNIT of KIND DIE). -/
abbrev SiteId := Fin 156
/-- A physical region (c × 13 + p) × 4 + q (R346, R354). -/
abbrev PRegion := Fin 624
/-- A physical core (c × 13 + p) × 36 + k (R31). -/
abbrev PCore := Fin 5616
/-- A logical die index c × 12 + l (R31). -/
abbrev DieId := Fin 144
/-- A logical region ID (R31). -/
abbrev RegionId := Fin 576
/-- A logical core ID (R31). -/
abbrev Lcid := Fin 4608
/-- A sync object number (R31). -/
abbrev ObjId := Fin 18432
abbrev StackId := Fin 48
/-- A slice number stack × 32 + pseudo-channel (R272). -/
abbrev SliceId := Fin 1536
/-- A fabric port FP0–FP15. -/
abbrev FpId := Fin 16

end Sys2Proof
end

