-- ==== Sys2Proof/Syntax.lean ====
section
/-!
DEFINITION. The commands of the panel: one constructor of Instr per row of spec/opcode_table.json, with the operands
that say which unit the row concerns and what comes from outside (a sensor reading, a host's data, a partner's frame,
the outcome of a test). Operands that the panel holds itself are read from State and are no operands.
-/
namespace Sys2Proof

/-- The units of a core (R67); the code is that of CORE_FAULT.UNIT (R105). -/
inductive CoreUnit where
  | seq | me | ve | mv | sy
  deriving DecidableEq, Repr

/-- The ratio components of R317. -/
inductive Component where
  | panel | partition | follow | thermal | localRatio
  deriving DecidableEq, Repr

/-- The events scheduled at a stroke (R48). -/
inductive EventKind where
  /-- A ratio component of a crew (R318). -/
  | cap (comp : Component) (crew : Nat) (ratio : Nat)
  /-- A coordinated frequency change of a crew (R321). -/
  | freq (crew : Nat) (op : Fin 8)
  /-- A collective start window of a tree, with its length in strokes (R260). -/
  | window (ty : Fin 2) (tree : Fin 1024) (len : Nat)
  /-- A phase is entered (R322). -/
  | phase (ph : Fin 16)
  /-- A crew starts (R185). -/
  | crewStart (crew : Nat)
  /-- A telemetry sample (R48). -/
  | telemetry
  /-- Command fetch (R48). -/
  | fetch
  /-- Layout replacement (R48). -/
  | replacement
  deriving DecidableEq, Repr

/-- Why a power request is made (R304). -/
inductive ReqKind where
  | powerOn | wake | crewStart
  deriving DecidableEq, Repr

/-- Why a link retrains (R208), or a channel (R283). -/
inductive RetrainCause where
  | replays | crc | clock
  | parity | temperature | margin
  deriving DecidableEq, Repr

/-- What the start test finds (R347 to R349). A list of findings names every unit that does not pass. -/
inductive Finding where
  /-- A die-edge link: lanes failed in each of its four groups, and the bundle it was trained on (R347, R353). -/
  | link (site : SiteId) (e : Fin 24) (bundle : Fin 8) (f0 f1 f2 f3 : Nat)
  /-- A tap leg does not train (R347). -/
  | tap (r : PRegion)
  /-- A core's firmware copy mismatches once and passes when sent again (R348). -/
  | digestOnce (k : PCore)
  /-- A core's firmware copy mismatches twice (R348). -/
  | digestTwice (k : PCore)
  /-- A part of the core's test other than the router fails (R349). -/
  | core (k : PCore)
  /-- A router port loopback fails (R349). -/
  | router (k : PCore)
  /-- The cox self-test fails (R349). -/
  | cox (site : SiteId)
  deriving DecidableEq, Repr

/-- What decoding finds in the words an access reads (R268, R279): ue are the word addresses with an uncorrectable error; parity says
that the stack found a parity error, and the command was repeated (R271). -/
structure SliceErrors where
  ue : List Nat := []
  parity : Bool := false
  deriving DecidableEq, Repr

/-- The findings of a partial write or an atomic, which read first (R279, R280): ce are the words with a single-bit error. -/
structure SliceFinds extends SliceErrors where
  ce : List Nat := []
  deriving DecidableEq, Repr

/-- INVENTORY (R343): the port, and for stacks the number of lanes that training put under repair (R271). -/
structure InventoryInput where
  port : PortId
  repaired : List (StackId × Nat) := []
  deriving DecidableEq, Repr

/-- What MESH finds (R350): lanes is, for each fabric port, the mask of good lanes after physical training (R411); channels are the
express channels that do not train, by site and link record 24 to 27. -/
structure MeshTraining where
  lanes : List Byte := []
  channels : List (SiteId × Fin 4) := []
  deriving DecidableEq, Repr

/-- What the hub learns of a bezel die at admission (R450). -/
structure BezelAnswer where
  present : Bool
  trained : Bool
  width32 : Bool
  chain   : List Byte
  measure : List Byte
  sig     : List Byte
  deriving DecidableEq, Repr

/-- What AUTH reads from the dies and the configuration store (R343, R435, R446). -/
structure AuthInput where
  factoryListOk  : Bool
  calibrationOk  : Bool
  hallmarkOk     : Bool
  /-- Sites whose serial or ROM digest differs from the table. -/
  mismatched     : List SiteId
  bezels         : List BezelAnswer
  deriving DecidableEq, Repr

/-- A firmware image (R442): the sections with the digests the manifest lists for them. -/
structure ImageSection where
  listed  : List Byte
  content : List Byte
  deriving DecidableEq, Repr

structure Image where
  version  : BitVec 24
  rootKey  : List Byte
  manifest : List Byte
  sig      : List Byte
  sections : List ImageSection
  deriving DecidableEq, Repr

/-- The 1 ms records of R309: means and peaks of current, and the powers of R323 in mW. -/
structure Telemetry where
  vin     : W16
  iin     : W16
  regions : List (PRegion × W16 × W16)
  groups  : List (Nat × W16 × W16)
  rails   : List (Nat × W16 × W16)
  aux     : List (Nat × W16 × W16)
  /-- Input power at the bus bars. -/
  inputMw : Nat
  siteMw  : List (SiteId × Nat)
  stackMw : List (StackId × Nat)
  regionMw : List (PRegion × Nat)
  deriving DecidableEq, Repr

/-- One coolant sample (R332): temperatures in 0.1 °C, pressure in 0.1 kPa, flow in 0.1 L/min. -/
structure Coolant where
  inlet  : Int
  outlet : Int
  dp     : Nat
  flow   : Nat
  leak   : Bool := false
  deriving DecidableEq, Repr

/-- The SPP header fields of R415; rsv says that a byte or bit the layout does not define is set. -/
structure SppHeader where
  version : Byte
  type    : Byte
  cls     : BitVec 2
  key     : Bool
  nak     : Bool
  first   : Bool
  last    : Bool
  rsv     : Bool
  gen     : Byte
  seq     : W32
  ack     : W32
  channel : W16
  length  : W16
  credits : List W16
  txn     : W64
  msgLen  : W32
  deriving DecidableEq, Repr

/-- A frame as it arrives at a port: header, payload in the clear, and whether FCS and GCM tag pass (R414 to R416). -/
structure Frame where
  hd      : SppHeader
  payload : List Byte
  fcsOk   : Bool
  tagOk   : Bool
  deriving DecidableEq, Repr

/-- A packet that a bezel die sends (R452): the header fields the die sets. -/
structure BezelReq where
  cls   : BitVec 2
  opc   : BitVec 4
  /-- The fields that R452 wants 0 from the die are 0, and so are the reserved bits. -/
  clean : Bool
  tag   : W16
  addr  : W48
  aux   : Byte
  payload : List Byte
  /-- Flits sent against XOFF so far, for the skid of R453. -/
  against : Nat
  deriving DecidableEq, Repr

/-- An operand of a host's BAR2 atomic (R281). -/
inductive AtomOp where
  | add | swap | cas
  deriving DecidableEq, Repr

/-- One constructor per row of spec/opcode_table.json. -/
inductive Instr where
  -- 02 stroke and clocks
  /-- STROKE_EDGE (R36): the input of hub h rises after low ns of low. -/
  | strokeEdge (h : HubId) (low : Nat)
  /-- STROKE_QUALIFIED (R36, R38): the pulse at hub h has stayed high for high ns. -/
  | strokeQualified (h : HubId) (high : Nat)
  | strokeWindowEnd
  | synthesisedStroke
  | handoverSpanEnd
  /-- STROKE_MARKER (R44, R46): the cox of a site takes a marker with count[15:0] from a ring. -/
  | strokeMarker (site : SiteId) (ring : Fin 4) (cnt : W16)
  /-- REGION_STROKE_BOUNDARY (R51): mean is the region's mean current over the interval [10 mA] (R309). -/
  | regionStrokeBoundary (r : PRegion) (mean : W16)
  /-- EVENT_POST (R49): an event of partition p is posted for stroke n. -/
  | eventPost (p : PartId) (ev : EventKind) (n : W48)
  | coxEventReceive (site : SiteId)
  | freqChangeResume (r : PRegion)
  | refLost (r : PRegion)
  | droopDetect (r : PRegion)
  | droopClear (r : PRegion)
  -- 03 instructions: the sequencer of physical core k issues its next instruction
  | nop (k : PCore)
  | halt (k : PCore)
  | br (k : PCore)
  | brr (k : PCore)
  | twait (k : PCore)
  | pset (k : PCore)
  | alu (k : PCore)
  | movi (k : PCore)
  | sld (k : PCore)
  | sst (k : PCore)
  | tdld (k : PCore)
  | tdst (k : PCore)
  | tdset (k : PCore)
  | srd (k : PCore)
  | mma (k : PCore) (ups : List (Nat × Nat × W32))
  | mst (k : PCore)
  | mld (k : PCore)
  | mzero (k : PCore)
  | ew (k : PCore)
  | cvt (k : PCore)
  | red (k : PCore)
  | trn (k : PCore)
  | smx (k : PCore)
  | warp (k : PCore)
  | copy (k : PCore)
  | rcopy (k : PCore)
  | gather (k : PCore)
  | scatter (k : PCore)
  | send (k : PCore)
  | recv (k : PCore)
  | voidMark (k : PCore)
  | route (k : PCore)
  | signal (k : PCore)
  /-- PAIR_SUBMISSION_TIMEOUT (R137): k is the primary core of the pair. -/
  | pairSubmissionTimeout (k : PCore)
  | wait (k : PCore)
  | arm (k : PCore)
  | barrier (k : PCore)
  | strokewait (k : PCore)
  /-- INSTR_COMPLETE (R66): instruction number i, in start order, of those running in unit u completes. -/
  | instrComplete (k : PCore) (u : CoreUnit) (i : Nat)
  /-- HALT_REQ (R105): host port p writes data to CORE_CTL of an LCID. -/
  | haltReq (p : PortId) (l : Lcid) (data : W32)
  -- 07 fabric: i is the packet's place in State.net
  | routerForward (i : Nat)
  /-- LINK_FRAME_RECEIVE (R206, R207): the next frame reaches link end e of a site; noise is what the link adds to its bytes, bit by
  bit from the first one on. -/
  | linkFrameReceive (site : SiteId) (e : Fin 24) (noise : List Byte)
  | linkRetrainStart (site : SiteId) (e : Fin 32) (cause : RetrainCause)
  /-- LINK_RETRAIN_DONE (R208): lanes failed in each lane group; for a station channel or tap f0 = 0 is success. -/
  | linkRetrainDone (site : SiteId) (e : Fin 32) (f0 f1 f2 f3 : Nat)
  | tapOutOfService (r : PRegion)
  | routeDrainDone (p : PartId)
  | routeDrainTimeout (p : PartId)
  | routeTablesLoaded (p : PartId)
  | responseTimeout (k : PCore) (tag : W16)
  | rdata (i : Nat)
  | ack (i : Nat)
  | release (i : Nat)
  | grant (i : Nat)
  | credit (i : Nat)
  | adata (i : Nat)
  | inboundRd (i : Nat)
  | inboundWr (i : Nat)
  | inboundWrs (i : Nat)
  | msgReceive (i : Nat)
  -- 08 sync homes, catch, trees
  | homeSignal (i : Nat)
  | homeWait (i : Nat)
  | homeArm (i : Nat)
  | homeBarrier (i : Nat)
  /-- HOME_FAULT_REPORT (R246): the home of an object takes the report that an LCID has faulted or is absent. -/
  | homeFaultReport (o : ObjId) (l : Lcid) (absent : Bool)
  /-- HOST_SIGNAL (R248): host port p writes data to SYNC_HOST of an object. -/
  | hostSignal (p : PortId) (o : ObjId) (data : W32)
  | admitRequest (i : Nat)
  /-- COX_FENCE_REPORT (R263): report i of those on the cox rings arrives. -/
  | coxFenceReport (i : Nat)
  | catchPoint (k : PCore)
  | catchEnd (k : PCore)
  | treeCredit (i : Nat)
  | treeMcast (i : Nat)
  | treeContrib (i : Nat)
  | treeResult (i : Nat)
  | treeDone (i : Nat)
  | treeDropped (i : Nat)
  -- 09 memory
  | sliceEnqueue (i : Nat)
  /-- SLICE_READ (R279): ce are the word addresses that decoding finds with a single-bit error. -/
  | sliceRead (sl : SliceId) (ce : List Nat) (errs : SliceErrors)
  | sliceWrite (sl : SliceId) (finds : SliceFinds)
  | sliceAtom (sl : SliceId) (finds : SliceFinds)
  | retireCopyDone (sl : SliceId)
  | hbmRetrainStart (st : StackId) (ch : Fin 16) (cause : RetrainCause)
  | hbmRetrainDone (st : StackId) (ch : Fin 16) (ok : Bool) (repaired : Nat)
  | hbmTempRead (st : StackId) (t : Nat)
  | stackOvertemp (st : StackId)
  | ecsRead (st : StackId) (n : Nat)
  | hbmRefresh (sl : SliceId)
  | hbmZeroDone
  | hbmMoveDone (p : PartId)
  /-- SCRUB_READ (R269): the scrubber reads one 64 B line of core k; ce and ue are the SRAM offsets of words found
  with a single-bit or an uncorrectable error; pass says that the line completes a pass of the region. -/
  | scrubRead (k : PCore) (line : Fin 32768) (ce ue : List Nat) (pass : Bool)
  | spareLoadDone (r : PRegion) (ce ue : List Nat)
  | faultRecordAppend (h : HubId)
  -- 10 power delivery
  | stageaConverterFail (n : Fin 20)
  | inputUndervoltage
  | inputOvervoltage
  | phaseFail (r : PRegion) (n : Fin 8)
  | railShort (r : PRegion)
  | railOvervoltage (r : PRegion)
  /-- SENSOR_LOSS (R298): valid is the mask of the six sensors that are still valid. -/
  | sensorLoss (r : PRegion) (valid : BitVec 6)
  | efuseTrip (site : SiteId)
  /-- GROUP_TRIP (R302): a column group trips; overcur says overcurrent and not output short. -/
  | groupTrip (g : Fin 36) (overcur : Bool)
  /-- CHANNEL_TRIP (R302): channel n of the spare-row groups (n < 12: the site S(n,12)) or of HBM stack n − 12. -/
  | channelTrip (n : Fin 60)
  | hubLost (h : HubId)
  | masterTakeover
  | baseGroupFail (b : Fin 2)
  /-- PATH_RESISTANCE_UPDATE (R301): the estimates formed since the last stroke. -/
  | pathResistanceUpdate (r : PRegion) (ests : List Nat)
  | pwrReen (p : PortId) (data : W32)
  | reenTestDone (short : Bool)
  /-- POWER_REQUEST (R308): final and present current [10 mA]. -/
  | powerRequest (r : PRegion) (kind : ReqKind) (final present : Nat)
  | powerGrantWindow
  | powerGrant (r : PRegion)
  | pllLock (r : PRegion)
  | rampDone (r : PRegion)
  | telemetryMs (t : Telemetry)
  -- 11 caps, operating points, cooling
  | capEpoch
  /-- LOCAL_LIMIT (R320): the region's present current [10 mA]. -/
  | localLimit (r : PRegion) (cur : Nat)
  | idleClockGate (r : PRegion)
  | idleRetention (r : PRegion)
  | idleRegionOff (r : PRegion)
  | regionWake (r : PRegion)
  | wakeDone (r : PRegion)
  /-- THERMAL_PREDICT (R327): predicted hot-spot temperatures 8 ms ahead [0.1 °C], by region and by stack. -/
  | thermalPredict (regionPreds : List (PRegion × Int)) (stackPreds : List (StackId × Int))
  /-- HOTSPOT_READ (R328): the pair of readings A, B of hot spot h of a site, and what the model predicts for that instant [0.1 °C]. -/
  | hotspotRead (site : SiteId) (h : Fin 8) (ab : Int × Int) (pred : Int)
  | thermalFence113 (site : SiteId)
  | comparatorTrip (site : SiteId)
  | coolantSample (c : Coolant)
  | coolantSlowStop
  | inletStop
  | suddenLoss
  | orderedStopDrain
  /-- SUPERVISOR_CHECK (R334): the outlet and each hub's hottest-die report at 1.5 s and at 2 s [0.1 °C]. -/
  | supervisorCheck (before after : List Int)
  | leakSignal
  | leakPowerOff
  | heartbeatLoss
  -- 12 bring-up; p is the host port whose BRING_STEP write is taken
  /-- POWER_ARRIVAL (R340): the bus-bar voltage [10 mV] and the images and hub hallmarks as the boot ROM finds them. -/
  | powerArrival (vin : Nat) (hallmarkOk : BitVec 4)
  | bulkChargeDone
  | supply (p : PortId) (vin : Nat)
  | hub (p : PortId)
  | auth (p : PortId) (inp : AuthInput)
  | inventory (inp : InventoryInput)
  | waves (p : PortId)
  | powerWave
  | starttest (p : PortId) (res : List Finding)
  | coreTestTimeout (k : PCore)
  | mesh (p : PortId) (training : MeshTraining)
  | load (p : PortId)
  | ready (p : PortId)
  | restart (p : PortId)
  | stepComplete (ce ue : List (PartId × Nat))
  | recoveryGo (p : PortId)
  | recoveryFetchDone (img : Option Image)
  | recoveryWriteDone
  -- 06 layout
  | layoutStage (p : PortId)
  /-- LAYOUT_FETCH_DONE (R188, R191): the bytes fetched, or none when a fetch failed. -/
  | layoutFetchDone (p : PortId) (bytes : Option (List Byte))
  | layoutDiscard (p : PortId)
  | layoutReplace (p : PortId)
  | layoutCancel (p : PortId)
  | replaceQuiet (p : PartId)
  | replaceDrainTimeout (p : PartId)
  | replaceLoadDone (p : PartId) (ce ue : List Nat)
  -- 14 host port
  | hostLinkDown (p : PortId)
  | hostLinkReturn (p : PortId)
  | bar2Read (p : PortId) (off : BitVec 36) (len : Nat)
  | bar2Write (p : PortId) (off : BitVec 36) (data : List Byte)
  /-- BAR2_ATOMIC (R281): size is the operand size in bytes (4, 8 or 16). -/
  | bar2Atomic (p : PortId) (off : BitVec 36) (op : AtomOp) (size : Nat) (op0 op1 : W64)
  | bar2BaseCommit (p : PortId) (data : W32)
  | aliasRead (p : PortId) (off : BitVec 26)
  | aliasWrite (p : PortId) (off : BitVec 26) (data : W32)
  /-- RC_READ (R394): a host reads the register at a BAR0 offset. -/
  | rcRead (p : PortId) (off : BitVec 26)
  | registerWrite (p : PortId) (off : BitVec 26) (data : W32)
  /-- CMD_HEADER_READ_DONE (R399): SQ_TAIL and CQ_HEAD as read, or none when the read failed. -/
  | cmdHeaderReadDone (p : PortId) (hdr : Option (W32 × W32))
  /-- CMD_RECORDS_READ_DONE (R399): the records read, 64 B each, or none when a read failed. -/
  | cmdRecordsReadDone (p : PortId) (recs : Option (List (List Byte)))
  | cmdNop (p : PortId)
  | copyIn (p : PortId)
  | copyOut (p : PortId)
  /-- COPY_DONE (R402): active copy i ends; data is the host's data of a COPY_IN, or none when the host side failed; ce and
  ue are the window addresses of words that decoding finds with a single-bit or an uncorrectable error. -/
  | copyDone (p : PortId) (i : Nat) (data : Option (List Byte)) (ce ue : List Nat)
  | cmdSignal (p : PortId)
  | cmdWait (p : PortId)
  | cmdEvent (p : PortId)
  | cmdStroke (p : PortId)
  /-- COMPLETION_WRITE (R404): ok says that the host took the posted write. -/
  | completionWrite (p : PortId) (ok : Bool)
  | cmdResume (p : PortId)
  -- 15 fabric ports
  | portPcsLock (f : FpId) (width4 : Bool)
  | hello (f : FpId) (fr : Frame)
  | cert (f : FpId) (fr : Frame)
  | kemEk (f : FpId) (fr : Frame)
  | kemCt (f : FpId) (fr : Frame)
  | finish (f : FpId) (fr : Frame)
  | quit (f : FpId) (fr : Frame)
  | idle (f : FpId) (fr : Frame)
  | keyUpdate (f : FpId) (fr : Frame)
  | data (f : FpId) (fr : Frame)
  | scredit (f : FpId) (fr : Frame)
  | wcredit (f : FpId) (fr : Frame)
  | chreset (f : FpId) (fr : Frame)
  | publish (f : FpId) (fr : Frame)
  | portMsgEnqueue (i : Nat)
  | portRetrainStart (f : FpId)
  /-- PORT_RETRAIN_DONE (R413): the mask of good lanes. -/
  | portRetrainDone (f : FpId) (lanes : Byte)
  | portRetrainTimeout (f : FpId)
  | portSilence (f : FpId)
  | portIdleTimer (f : FpId)
  | portTrainRetry (f : FpId) (lanes : Byte)
  | rekeyTimer (f : FpId)
  | portRekey (p : PortId) (f : FpId)
  | portDown (p : PortId) (f : FpId)
  | portRearm (p : PortId) (f : FpId) (lanes : Byte)
  | windowCommit (f : FpId) (w : Fin 16)
  | winRdWrite (p : PortId) (f : FpId) (w : Fin 16) (data : W32)
  -- 16 security and bezel; bytes is the command fetched from host memory (R437), none when the fetch failed
  | report (p : PortId) (bytes : Option (List Byte))
  | enrol (p : PortId) (bytes : Option (List Byte))
  | transfer (p : PortId) (bytes : Option (List Byte))
  | policy (p : PortId) (bytes : Option (List Byte))
  | fieldClear (p : PortId) (bytes : Option (List Byte))
  | accessOpen (p : PortId) (bytes : Option (List Byte))
  | accessClose (p : PortId) (bytes : Option (List Byte))
  | accessExpire
  | update (p : PortId) (bytes : Option (List Byte))
  | updateSlotWritten
  | calWrite (p : PortId) (bytes : Option (List Byte))
  | restoreFactory (p : PortId) (bytes : Option (List Byte))
  | decommission (p : PortId) (bytes : Option (List Byte))
  | bezEnable (p : PortId)
  | bezDisable (p : PortId)
  | bezRearm (p : PortId) (ans : BezelAnswer)
  | bezelPacket (n : Fin 4) (req : BezelReq)
  | bezelLinkLost (n : Fin 4)
  -- 18 boundary
  | supEnFall
  | smbReadReg (off : W32)
  | smbReadSup
  | powerRemoved
  /-- UPDATE_IMAGE_FETCHED (R443): the image fetched, or none when the fetch failed. -/
  | updateImageFetched (img : Option Image)
  deriving DecidableEq, Repr

end Sys2Proof
end

