-- ==== Sys2Proof/Decode.lean ====
section
/-!
DEFINITION. The reading of a command from a word. spec/opcode_table.json gives no row any bits (the panel takes
operations, not words), so no word spells a command.
-/
namespace Sys2Proof

/-- The command that a word of nbits bits spells by the table's bits: none, whatever the word. -/
def decodeTableWord (_nbits _w : Nat) : Option Instr := none

end Sys2Proof
end

