-- ==== Sys2Proof/Machine/Tab.lean ====
section
/-!
DEFINITION. Tables from numbers to data in one canonical form: keys strictly rising, no entry equal to what an unlisted
key reads as. Memories of bytes (Host.Cell) are the tables whose unlisted bytes read 0.
-/
namespace Sys2Proof.Machine

/-- A sparse table. -/
abbrev Tab (α : Type) := List (Nat × α)

/-- The entry at key k, or the value an unlisted key reads as. -/
def Tab.get {α : Type} (d : α) : Tab α → Nat → α
  | [], _ => d
  | (k, v) :: t, n => if n = k then v else if n < k then d else Tab.get d t n

/-- Remove key k. -/
def Tab.erase {α : Type} : Tab α → Nat → Tab α
  | [], _ => []
  | (k, v) :: t, n => if n = k then t else if n < k then (k, v) :: t else (k, v) :: Tab.erase t n

/-- Place v at key k, listing it whatever it is. -/
def Tab.insert {α : Type} (v : α) : Tab α → Nat → Tab α
  | [], n => [(n, v)]
  | (k, w) :: t, n =>
    if n = k then (n, v) :: t else if n < k then (n, v) :: (k, w) :: t else (k, w) :: Tab.insert v t n

/-- Write v at key k in canonical form. -/
def Tab.put {α : Type} [DecidableEq α] (d : α) (t : Tab α) (n : Nat) (v : α) : Tab α :=
  if v = d then Tab.erase t n else Tab.insert v t n

/-- Change the entry at key k. -/
def Tab.upd {α : Type} [DecidableEq α] (d : α) (t : Tab α) (n : Nat) (f : α → α) : Tab α :=
  Tab.put d t n (f (Tab.get d t n))

/-- Every key of t is above b, keys rise strictly, and no entry equals d. -/
def Tab.wfFrom {α : Type} [DecidableEq α] (d : α) : Option Nat → Tab α → Bool
  | _, [] => true
  | b, (k, v) :: t =>
    (match b with
     | none => true
     | some m => decide (m < k)) && !(decide (v = d)) && Tab.wfFrom d (some k) t

/-- The canonical form. -/
def Tab.wf {α : Type} [DecidableEq α] (d : α) (t : Tab α) : Bool := Tab.wfFrom d none t

/-- Change every listed entry, dropping those that become d. -/
def Tab.mapAll {α : Type} [DecidableEq α] (d : α) (f : Nat → α → α) : Tab α → Tab α
  | [] => []
  | (k, v) :: t => let v' := f k v; if v' = d then Tab.mapAll d f t else (k, v') :: Tab.mapAll d f t

/-- Write a run of values from key n on. -/
def Tab.putList {α : Type} [DecidableEq α] (d : α) : Tab α → Nat → List α → Tab α
  | t, _, [] => t
  | t, n, v :: vs => Tab.putList d (Tab.put d t n v) (n + 1) vs

/-- Read a run of len values from key n on. -/
def Tab.getList {α : Type} (d : α) (t : Tab α) : Nat → Nat → List α
  | _, 0 => []
  | n, len + 1 => Tab.get d t n :: Tab.getList d t (n + 1) len

/-- A strictly rising list of numbers: a set. -/
abbrev NSet := List Nat

def NSet.add : NSet → Nat → NSet
  | [], n => [n]
  | k :: t, n => if n = k then k :: t else if n < k then n :: k :: t else k :: NSet.add t n

def NSet.del (t : NSet) (n : Nat) : NSet := t.filter (fun k => k != n)

def NSet.has (t : NSet) (n : Nat) : Bool := t.contains n

/-- n held at the largest value of w bits (saturating counters). -/
def sat (w n : Nat) : Nat := min n (2 ^ w - 1)

/-- The bytes of a number, little-endian. -/
def bytesLE (len v : Nat) : List Byte := (List.range len).map (fun i => BitVec.ofNat 8 (v / 256 ^ i))

/-- The number little-endian bytes stand for. -/
def natLE : List Byte → Nat
  | [] => 0
  | b :: t => b.toNat + 256 * natLE t

/-- Bits [hi:lo] of a number. -/
def bitsOf (v hi lo : Nat) : Nat := v / 2 ^ lo % 2 ^ (hi + 1 - lo)

/-- A list cut to len places from place i on. -/
def slice {α : Type} (l : List α) (i len : Nat) : List α := (l.drop i).take len

/-- Ceiling division. -/
def ceilDiv (a b : Nat) : Nat := (a + b - 1) / b

/-- Round a up to a multiple of b. -/
def roundUp (a b : Nat) : Nat := ceilDiv a b * b

/-- Place a before the first element of a sorted list that it does not come after. -/
def insertBy {α : Type} (le : α → α → Bool) (a : α) : List α → List α
  | [] => [a]
  | b :: l => if le a b then a :: b :: l else b :: insertBy le a l

/-- The elements in the order of le; elements that are level keep their order. -/
def sortBy {α : Type} (le : α → α → Bool) : List α → List α
  | [] => []
  | a :: l => insertBy le a (sortBy le l)

end Sys2Proof.Machine
end

