-- ==== Sys2Proof/Machine/LayoutTypes.lean ====
section
/-!
DEFINITION. The records of a layout stream (R173 to R186), as they stand in a staged or an applied layout.
-/
namespace Sys2Proof.Machine

/-- R173. -/
structure PartRec where
  partition : Nat := 0
  firstCol  : Nat := 0
  lastCol   : Nat := 0
  bezel     : Bool := false
  follow    : Bool := false
  stackMask : Nat := 0
  portMask  : Nat := 0
  powerCap  : Nat := 0
  deriving DecidableEq, Repr

/-- R174. -/
structure CrewRec where
  crew   : Nat
  groups : Nat
  active : Nat
  rot    : Nat
  seed   : Nat
  deriving DecidableEq, Repr

/-- R175. role: 0 worker, 1 primary, 2 partner. -/
structure RegionRec where
  region : Nat
  crew   : Nat
  skew   : Nat
  role   : Nat
  pair   : Nat
  group  : Nat
  deriving DecidableEq, Repr

/-- R176. -/
structure ProgramRec where
  target : Nat
  all    : Bool
  image  : Nat
  length : Nat
  base   : Nat
  entry  : Nat
  deriving DecidableEq, Repr

/-- R177. -/
structure PlacementRec where
  target : Nat
  kind   : Nat
  source : Nat
  offset : Nat
  length : Nat
  src    : Nat
  stride : Nat
  deriving DecidableEq, Repr

/-- R179, R418: an LCID field of 0xF000 + f names fabric port f. -/
structure StreamRec where
  srcLcid : Nat
  srcId   : Nat
  dstLcid : Nat
  dstId   : Nat
  deriving DecidableEq, Repr

/-- R180. -/
structure SyncRec where
  obj    : Nat
  crew   : Nat
  kind   : Nat
  target : Nat
  listAt : Nat
  listN  : Nat
  group  : Nat
  deriving DecidableEq, Repr

/-- R182. -/
structure TreeRec where
  tree   : Nat
  ty     : Nat
  op     : Nat
  vfmt   : Nat
  topk   : Nat
  order  : Nat
  k      : Nat
  root   : Nat
  listAt : Nat
  listN  : Nat
  maxBytes : Nat
  deriving DecidableEq, Repr

/-- R183, KIND 1: one expert. -/
structure ExpertRec where
  expert   : Nat
  crew     : Nat
  capacity : Nat
  slots    : Nat
  listAt   : Nat
  intakeN  : Nat
  rowBase  : Nat
  tagBase  : Nat
  recBase  : Nat
  arrive0  : Nat
  arrive1  : Nat
  free0    : Nat
  free1    : Nat
  deriving DecidableEq, Repr

/-- R152, R183: one routing table. policy: 0 DROP, 1 NEXT, 2 HOME. -/
structure RouteTable where
  table   : Nat
  policy  : Nat
  fanout  : Nat
  expertsN : Nat
  window  : Nat
  seedRow : Nat
  experts : List ExpertRec
  deriving DecidableEq, Repr

/-- R184. -/
structure PhaseRec where
  phase  : Nat
  crew   : Nat
  op     : Nat
  wakeNs : Nat
  deriving DecidableEq, Repr

/-- R185. -/
structure PlanRec where
  kind   : Nat
  arg8   : Nat
  arg16  : Nat
  offset : Nat
  period : Nat
  length : Nat
  deriving DecidableEq, Repr

/-- R186. -/
structure CheckRec where
  crew  : Nat
  force : Bool
  halt  : Bool
  n     : Nat
  b     : Nat
  w     : Nat
  deriving DecidableEq, Repr

/-- A layout as its stream states it. -/
structure Layout where
  minor      : Nat := 0
  signed     : Bool := false
  streamId   : Nat := 0
  digest     : List Byte := []
  part       : PartRec := {}
  crews      : List CrewRec := []
  regions    : List RegionRec := []
  programs   : List ProgramRec := []
  placements : List PlacementRec := []
  streams    : List StreamRec := []
  syncs      : List SyncRec := []
  trees      : List TreeRec := []
  routes     : List RouteTable := []
  phases     : List PhaseRec := []
  plan       : List PlanRec := []
  checks     : List CheckRec := []
  lcids      : List Nat := []
  data       : List Byte := []
  deriving DecidableEq, Repr

end Sys2Proof.Machine
end

