-- ==== Sys2Proof/Machine/State.lean ====
section
/-!
DEFINITION. The state of the panel as plain data, the reasons a command can stop, and the state after reset. Times are
in ns on State.now. Counters that saturate are natural numbers held at their register's width.
-/
namespace Sys2Proof.Machine

/-- Why a command faults. -/
inductive Fault where
  /-- Raised by no meaning: every command has an effect on every state. Safe. -/
  | illFormed (what : String)
  deriving DecidableEq, Repr

/-- Why a command is refused. -/
inductive Refusal where
  /-- Raised by exec's arm of a command that has no meaning yet. Safe. -/
  | notModelled (mnemonic : String)
  deriving DecidableEq, Repr

/-- The part number (R4). -/
inductive Part where
  | skn1440 | skn1280 | skn0960
  deriving DecidableEq, Repr

/-! ## Packets (R212, R213) -/

/-- Where a packet stands: in a router, given by its global coordinates, or in an edge unit, given by its field number
and sub-unit (R213). -/
inductive Node where
  | router (x y : Nat)
  | edge (field sub : Nat)
  deriving DecidableEq, Repr

/-- Directions of travel, for the turn rule of R224. -/
inductive Dir where
  | north | east | south | west | localPort | tap | expX | expY
  deriving DecidableEq, Repr

/-- A packet: the header fields of R213 and its payload. PFL and PAD follow from the payload's length. -/
structure Packet where
  cls     : Nat
  opc     : Nat
  esc     : Bool := false
  ctrl    : Bool := true
  dkind   : Nat := 0
  part    : Nat := 0
  dest0   : Nat := 0
  dest1   : Nat := 0
  src0    : Nat := 0
  sedge   : Bool := false
  src1    : Nat := 0
  tag     : Nat := 0
  addr    : Nat := 0
  aux     : Nat := 0
  ttl     : Nat := 255
  payload : List Byte := []
  /-- Where the packet stands now, and the direction it came in by. -/
  loc     : Node
  arr     : Dir := .localPort
  /-- The port and router of its tree that a COL packet leaves for, once its router has given it one (R255). -/
  port    : Option (Dir × Nat) := none
  deriving DecidableEq, Repr

/-- An arbiter: the place in the cycle of classes and the rotating pointer (R219, R488). -/
structure Arb where
  cycle : Nat := 0
  ptr   : Nat := 0
  deriving DecidableEq, Repr

/-! ## Cores (R62 to R67, R102, R105) -/

/-- CORE_STAT.STATE (R105). -/
inductive CoreMode where
  | idle | running | halted | faulted
  deriving DecidableEq, Repr

/-- One accumulator bank: its type and its 64 × 64 elements, element (m, n) at key 64 m + n. -/
structure Bank where
  int   : Bool := false
  elems : Tab W32 := []
  deriving DecidableEq, Repr

/-- An issued instruction with the operand values read at issue (R71): scalars, descriptors and its number in issue
order. -/
structure Op where
  w   : W64
  pc  : Nat
  seq : Nat
  va  : W64 := 0
  vb  : W64 := 0
  vc  : W64 := 0
  ta  : BitVec 256 := 0
  tb  : BitVec 256 := 0
  td  : BitVec 256 := 0
  /-- Bits of products p[m,n] that the engine gets wrong, from the issuing row: m, n and the bits (R128). -/
  upset : List (Nat × Nat × W32) := []
  deriving DecidableEq, Repr

/-- ROUTE in progress (R154 to R159): the token and position whose request comes next, the outcomes so far, the
experts admitted, and the reserve position each token has used. -/
structure RouteRun where
  nextT    : Nat := 0
  nextC    : Nat := 0
  outcomes : Tab W32 := []
  admitted : List (Nat × Nat) := []
  reserve  : Tab Nat := []
  stopped  : Bool := false
  /-- The outcomes are on their way to a tD elsewhere in the panel. -/
  written  : Bool := false
  deriving DecidableEq, Repr

/-- An instruction that has started in a unit and not completed. done says that it asks for nothing more; alone, that it
works within its own core and completes at INSTR_COMPLETE; after is the cause it ends with once its earlier rows have
been moved (R92). -/
structure Run where
  op     : Op
  alone  : Bool := false
  done   : Bool := false
  after  : Nat := 0
  /-- The object an RCOPY signals (R91). -/
  note   : Option Nat := none
  rt     : RouteRun := {}
  /-- The object of a WAIT or BARRIER, the target of a STROKEWAIT, the stream of a SEND or RECV, the tree of a
  collective. -/
  key    : Nat := 0
  /-- A BARRIER; in the mover, a SEND or VOID. -/
  barrier : Bool := false
  /-- A void marker (R93). -/
  void   : Bool := false
  /-- A WAIT or BARRIER held at its home, or a STROKEWAIT not reached at issue: its completion is a catch point (R250). -/
  heldAtHome : Bool := false
  /-- A WAIT or BARRIER that its home has answered: the number, from 1, of the RELEASE that is on its way. -/
  freed   : Nat := 0
  bytes  : List Byte := []
  /-- A remote operand of a SEND, ROUTE, GATHER or SCATTER, or of a COPY with two: 1 while it is read, 2 once it is here;
  the pieces read, each with its place. -/
  stage  : Nat := 0
  got    : List (Nat × List Byte) := []
  deriving DecidableEq, Repr

/-- What a request of a core is for (R221). -/
inductive ReqKindMv where
  | read | write | note | sync
  /-- A read of a remote operand into the instruction's own store. -/
  | stage
  | message
  | asksGrant (t c : Nat)
  | rowWrite (t c : Nat)
  | tagWrite (t c : Nat)
  | arrive (t c : Nat)
  deriving DecidableEq, Repr

/-- A tracking entry: an injected request without its response (R221). -/
structure Req where
  tag   : Nat
  seq   : Nat
  kind  : ReqKindMv
  /-- The window the request took an entry of, or 0. -/
  win   : Nat := 0
  born  : Nat := 0
  off   : Nat := 0
  len   : Nat := 0
  addr  : Nat := 0
  /-- The slot granted: intake core, row offset, tag offset, arrival object, window number and half. -/
  slot  : Option (Nat × Nat × Nat × Nat × Nat × Nat) := none
  deriving DecidableEq, Repr

/-- A catch point to come (R251): when, and the instruction that completes with it; none when the region resumes. -/
structure Catch where
  due : Nat
  seq : Option Nat := none
  deriving DecidableEq, Repr

/-- A fault of a core (R105). -/
structure CoreFault where
  valid : Bool := false
  more  : Bool := false
  cause : Nat := 0
  unit  : Nat := 0
  tkv   : Bool := false
  tkt   : Nat := 0
  pc    : Nat := 0
  addr  : Nat := 0
  deriving DecidableEq, Repr

/-- The engine-check record of a physical core (R133), with the strokes of its events in the present window (R134). -/
structure EngChk where
  band    : List Nat := [0, 0, 0, 0]
  valid   : Bool := false
  pair    : Bool := false
  quar    : Bool := false
  op      : Nat := 0
  tj      : Nat := 0
  column  : Bool := false
  index   : Nat := 0
  winCount : Nat := 0
  stroke  : Nat := 0
  recent  : List Nat := []
  deriving DecidableEq, Repr

/-- A physical core. -/
structure Core where
  mode    : CoreMode := .idle
  lcid    : Option Nat := none
  paired  : Bool := false
  partner : Bool := false
  spare   : Bool := false
  /-- Excluded by a defect entry or the start test (R28). -/
  bad     : Bool := false
  /-- Failed under R371 in this bring-up. -/
  failed  : Bool := false
  /-- Loaded with core firmware and tested (R348, R349). -/
  tested  : Bool := false
  programmed : Bool := false
  base    : Nat := 0
  length  : Nat := 0
  entry   : Nat := 0
  pc      : Nat := 0
  sregs   : Tab W64 := []
  tregs   : Tab (BitVec 256) := []
  preds   : Byte := 0
  tickets : Tab Nat := []
  /-- Descriptors with a RECV pending (R93). -/
  tpend   : NSet := []
  banks   : Tab Bank := []
  /-- Unit queues: issued and not started (R62). -/
  meq : List Op := []
  veq : List Op := []
  mvq : List Op := []
  syq : List Op := []
  /-- Started and not completed. -/
  meRun : List Run := []
  veRun : List Run := []
  mvRun : List Run := []
  syRun : List Run := []
  seq     : Nat := 0
  nextTag : Nat := 0
  reqs    : List Req := []
  /-- Requests held for a window or the mover limit (R221), with the tracking entry each will take. -/
  held    : List (Packet × Req) := []
  /-- Credits held by outbound stream ID (R93). -/
  credits : Tab Nat := []
  /-- Requests a SY would send when fewer than 8 WAITs and BARRIERs are outstanding wait in syq (R243). -/
  fault   : CoreFault := {}
  unchecked : Nat := 0
  events  : Nat := 0
  treeLast  : W32 := 0
  treeFirst : W32 := 0x1FFF
  laneMe  : W64 := 1
  laneVe  : W64 := 1
  digest  : W64 := 0
  submitted : Option (W64 × Nat) := none
  /-- The digest submitted for the SIGNAL of an RCOPY with NOTE: the instruction, the digest and the time (R98). -/
  noteSub   : Option (Nat × W64 × Nat) := none
  /-- In a partner: what the primary has read for instructions that the partner has not started (R135). -/
  gifts   : List (Nat × List (Nat × List Byte)) := []
  catches : List Catch := []
  quarterUntil : Nat := 0
  crewStart : Nat := 0
  eng     : EngChk := {}
  badLines : NSet := []
  pairFails : Nat := 0
  /-- Number of collectives started on each tree, by tree key (R253). -/
  treeK   : Tab Nat := []
  /-- In a partner: the primary's MV and SY instructions that have completed before they started here, with the VOID
  bit of a RECV (R135). -/
  mirror  : List (Nat × Bool) := []
  arb     : Nat := 0
  deriving DecidableEq, Repr

/-! ## Regions, coxes, links -/

inductive ClockState where
  | off | running | stopped | lost
  deriving DecidableEq, Repr

inductive Droop where
  | none | stretched | recovering
  deriving DecidableEq, Repr

/-- Where a region stands in the layout in force (R175), by physical region. -/
structure Assign where
  part  : Nat
  region : Nat
  crew  : Nat
  skew  : Nat
  role  : Nat
  pair  : Nat
  group : Nat
  deriving DecidableEq, Repr

/-- A physical region: clock, supply (R310), operating point and idle depth (R338), SRAM record (R270). -/
structure Region where
  fenced   : Bool := false
  clock    : ClockState := .off
  count    : Nat := 0
  /-- The last stroke whose boundary the region has worked through: it loads the count when it resumes, and what fell
  meanwhile acts at its next boundary (R47). -/
  acted    : Nat := 0
  /-- Fenced while a column map named it, and so during the run (R35). -/
  midRun   : Bool := false
  droop    : Droop := .none
  /-- RPWR_STAT.STATE and CAUSE. -/
  pstate   : Nat := 0
  pcause   : Nat := 0
  phaseFail : Byte := 0
  pathCap  : Bool := false
  pathFlag : Bool := false
  sensors  : BitVec 6 := 0
  vset     : Nat := 0
  msPeak   : Nat := 0
  msMean   : Nat := 0
  msMw     : Nat := 0
  stkMean  : Nat := 0
  rise     : Nat := 0
  high     : Nat := 0
  ests     : List Nat := []
  /-- Final current of a granted ramp that has not ended, the time of the grant, and ramp bubbles (R305, R306). -/
  finalCur : Nat := 0
  grantAt  : Option Nat := none
  ramping  : Bool := false
  rampR    : Nat := 0
  /-- A crew start of the region has no grant yet; its RUN object asks it to wake (R181, R326). -/
  startDue : Bool := false
  wakeReq  : Bool := false
  /-- Operating point in force, a change in progress, and one waiting for it (R52, R58). -/
  op       : Nat := 3
  chg      : Option Nat := none
  chgNext  : Option Nat := none
  localR   : Nat := 0
  ratio    : Nat := 0
  source   : Nat := 0
  pref     : Nat := 3
  pred     : Int := 0
  subst    : Bool := false
  thFenced : Bool := false
  hot108   : Option Nat := none
  hot113   : Option Nat := none
  depth    : Nat := 0
  waking   : Bool := false
  idleSince : Option Nat := none
  wakes    : Nat := 0
  ce       : Nat := 0
  poisoned : Nat := 0
  ue       : Nat := 0
  ueAddr   : Option (Nat × Nat) := none
  passes   : Nat := 0
  fixed    : Nat := 0
  spareUsed : Bool := false
  spareDead : Bool := false
  loading  : Option Nat := none
  quars    : Nat := 0
  tapOut   : Bool := false
  assign   : Option Assign := none
  deriving DecidableEq, Repr

/-- A pending stroke event at a cox (R49). posted orders events of one kind (R52). -/
structure PendEvent where
  part   : Nat
  stroke : Nat
  ev     : EventKind
  posted : Nat := 0
  late   : Bool := false
  /-- A region of this cox has acted on the event. -/
  taken  : Bool := false
  /-- A region of some cox has acted on the event: what it sets outside a region is set. -/
  applied : Bool := false
  deriving DecidableEq, Repr

/-- A fault record (R377). -/
structure FaultRec where
  event  : Nat
  action : Nat := 0
  die    : Nat := 0xFFFF
  unit   : Nat := 0
  stroke : Nat := 0
  detail : Nat := 0
  part   : Nat := 0
  panel  : Bool := false
  deriving DecidableEq, Repr

/-- One hot spot (R328): readings and their exclusion, with the time since which each has been good. -/
structure HotSpot where
  a      : Int := 0
  b      : Int := 0
  /-- Readings of the last 1 ms, with their times. -/
  aHist  : List (Nat × Int) := []
  bHist  : List (Nat × Int) := []
  aExcl  : Bool := false
  bExcl  : Bool := false
  aGood  : Nat := 0
  bGood  : Nat := 0
  disagree : Bool := false
  ctrl   : Int := 0
  deriving DecidableEq, Repr

/-- The cox of a site (R27, R46, R49, R380). -/
structure Cox where
  live    : Bool := false
  fenced  : Bool := false
  count   : Nat := 0
  transit : List PendEvent := []
  events  : List PendEvent := []
  log     : Tab FaultRec := []
  total   : Nat := 0
  nextRec : Nat := 0
  mismatch : Bool := false
  /-- When the site's eFuse last opened on a trip (R312). -/
  tripAt  : Option Nat := none
  hot     : Tab HotSpot := []
  deriving DecidableEq, Repr

/-- One end of a link, a station channel end or a tap (R206 to R208, R220, R238). -/
structure LinkEnd where
  state    : Nat := 0
  groups   : Nat := 0
  spared   : Nat := 0
  retrains : Nat := 0
  replays  : Nat := 0
  crcFail  : Nat := 0
  partialDrops : Nat := 0
  ttlDrops : Nat := 0
  /-- Groups kept until acknowledged, oldest first: SEQ, slot mask and flits (R207). -/
  retry    : List (Nat × Nat × List Flit) := []
  /-- Flits waiting for a group of their own, with their virtual channel. -/
  sendQ    : List (Nat × Flit) := []
  nextSeq  : Nat := 0
  /-- Groups of the retry buffer that have been sent since the last NAK, and that have been sent at all. -/
  sendAt   : Nat := 0
  sent     : Nat := 0
  expect   : Nat := 0
  nakSent  : Bool := false
  replayRun : Nat := 0
  crcTimes : List Nat := []
  /-- Virtual channels that the partner has set OFF, and those this end has set OFF (R220). -/
  offIn    : Byte := 0
  offOut   : Byte := 0
  /-- Flits of the packet that comes in, until its last one is there. -/
  rx       : List Flit := []
  /-- Receive FIFO and its hold: the frames that have come in and are not read (R57); the turn of a stretched end. -/
  fifo     : List (List Byte) := []
  hold     : Bool := false
  turn     : Bool := false
  bundle   : Nat := 0
  deriving DecidableEq, Repr

/-! ## Sync objects, trees, admission -/

/-- A sync object (R239, R246). kind RUN carries its group (R244). -/
structure SyncObj where
  counter  : Nat := 0
  target   : Nat := 0
  released : Bool := false
  faulted  : Bool := false
  cause    : Nat := 0
  waiters  : NSet := []
  releases : Nat := 0
  run      : Bool := false
  group    : Nat := 0
  crew     : Nat := 0
  part     : Nat := 0
  signallers : NSet := []
  bound    : Bool := false
  deriving DecidableEq, Repr

/-- One input packet that a tree node holds for a fold (R257, R258). -/
structure Contribution where
  src   : Nat
  j     : Nat
  data  : List Byte
  last  : Bool
  count : Nat
  flags : Nat
  void  : Bool := false
  /-- Flits of the tree's buffer that it holds until it is folded (R255). -/
  room  : Nat := 0
  deriving DecidableEq, Repr

/-- A router of a tree (R254). Routers are named X × 72 + Y. -/
structure TreeNode where
  parent  : Option Nat := none
  kids    : List (Dir × Nat) := []
  member  : Option Nat := none
  /-- Credits held: collective, input and count. The router's own core is the input 9999. -/
  creds   : List (Nat × Nat × Nat) := []
  ins     : List Contribution := []
  nextJ   : Nat := 0
  /-- Inputs whose contribution was discarded or that have ended. -/
  finished : NSet := []
  /-- DONE counts of a multicast taken from the inputs and not sent on. -/
  dones   : List (Nat × Nat) := []
  /-- Flits of the tree's buffers in use at the neighbours that this router has sent to (R255). -/
  used    : Tab Nat := []
  deriving DecidableEq, Repr

/-- A tree with its routers and the collective in progress (R253 to R265). -/
structure Tree where
  rec?    : Option TreeRec := none
  part    : Nat := 0
  members : List Nat := []
  rootRouter : Nat := 0
  nodes   : Tab TreeNode := []
  /-- Members reported fenced or faulted (R263). -/
  dead    : NSet := []
  coll    : Nat := 0
  running : Bool := false
  latchedMembers : List Nat := []
  done    : Nat := 0
  dropped : Nat := 0
  lowDrop : Nat := 0x1FFF
  folded  : Nat := 0
  broken  : Bool := false
  gated   : Bool := false
  /-- The stroke at which the open window closes. -/
  openUntil : Option Nat := none
  rederive : Bool := false
  /-- The root router holds the credits of a multicast. -/
  ready   : Bool := false
  sizeBad : Bool := false
  /-- Contributions found malformed, and whether one was in this collective (R163). -/
  malformed : Nat := 0
  malNow  : Bool := false
  /-- OVERFLOW and CUT of this collective, as its routers have set them (R166). -/
  ovfNow  : Bool := false
  cutNow  : Bool := false
  /-- Latched members dropped from this collective with a branch (R263). -/
  cut     : NSet := []
  deriving DecidableEq, Repr

/-- An admission unit (R152 to R161). -/
structure Admit where
  valid   : Bool := false
  part    : Nat := 0
  table   : Nat := 0
  policy  : Nat := 0
  window  : Nat := 0
  expert  : ExpertRec := ⟨0, 0, 0, 0, 0, 0, 0, 0, 0, 0, 0, 0, 0⟩
  intake  : List Nat := []
  seedRow : Nat := 0
  granted : Nat := 0
  windowNo : Nat := 0
  openStroke : Nat := 0
  /-- A window has opened since the apply. -/
  opened  : Bool := false
  /-- The present window opened with its half free. -/
  open_   : Bool := false
  free0   : Bool := true
  free1   : Bool := true
  cancelled0 : Nat := 0
  cancelled1 : Nat := 0
  admitted : Nat := 0
  bounce  : Nat := 0
  drop    : Nat := 0
  pass    : Nat := 0
  busy    : Nat := 0
  cancel  : Nat := 0
  /-- Grants whose row and tag are not yet in place: sender LCID, slot, half, token, position, window. -/
  grants  : List (Nat × Nat × Nat × Nat × Nat × Nat) := []
  /-- Window records on their way, oldest first: the arrival object and N of the SIGNAL that follows the acknowledgement (R157). -/
  closing : List (Nat × Nat) := []
  deriving DecidableEq, Repr

/-! ## Memory -/

/-- A slice (R278, R284). -/
structure Slice where
  /-- Waiting requests, oldest first, each with its byte of the slice under the interleave it was forwarded under (R289). -/
  queue    : List (Packet × Nat) := []
  redirect : Tab Nat := []
  pool     : Nat := 256
  retiring : List (Nat × Nat) := []
  /-- Per-bank refreshes since bring-up (R282). -/
  refreshed : Nat := 0
  /-- The rotating pointer of the queue's inputs (R278, R488). -/
  ptr      : Nat := 0
  deriving DecidableEq, Repr

/-- A stack (R283, R285, R290). -/
structure Stack where
  state    : Nat := 0
  degraded : Bool := false
  cause    : Nat := 0
  ce       : Nat := 0
  poisoned : Nat := 0
  ue       : Nat := 0
  newRet   : Nat := 0
  listed   : NSet := []
  repaired : Nat := 0
  temp     : Nat := 0
  retrains : Nat := 0
  retraining : NSet := []
  /-- By channel: the times of its parity errors, and 1 + the temperature it last trained at, 0 while no readout tells it. -/
  parityTimes : Tab (List Nat) := []
  trainTemp : Tab Nat := []
  ueTimes  : List Nat := []
  hotSince : Option Nat := none
  doubleRefresh : Bool := false
  selfRefresh : Bool := true
  pred     : Int := 0
  mw       : Nat := 0
  deriving DecidableEq, Repr

/-! ## Power and cooling -/

/-- A request in the queue of the power manager (R304, R307). -/
structure PowReq where
  region  : Nat
  stroke  : Nat
  kind    : ReqKind
  final   : Nat
  present : Nat
  /-- When the grant was made. -/
  since   : Nat := 0
  deriving DecidableEq, Repr

/-- A compute group (R311). -/
structure Group where
  state  : Nat := 0
  cause  : Nat := 0
  sites  : Nat := 0
  /-- SITES as the group tripped: what its re-enabling powers (R303). -/
  tripped : Nat := 0
  peak   : Nat := 0
  mean   : Nat := 0
  headroom : Nat := 0
  used   : Nat := 0
  deriving DecidableEq, Repr

/-- An HBM channel or an auxiliary group (R311). -/
structure Rail where
  state : Nat := 0
  peak  : Nat := 0
  mean  : Nat := 0
  deriving DecidableEq, Repr

/-- Stage A, the power manager, eFuses and column groups (R291 to R311) and the panel's ratio (R317). -/
structure Power where
  converters : Nat := 0
  failed   : Nat := 0
  vin      : Nat := 0
  iin      : Nat := 0
  inputMw  : Nat := 0
  limited  : Bool := false
  peak     : Bool := false
  queue    : List PowReq := []
  /-- Grants on their way to a cox. -/
  granted  : List PowReq := []
  windowNo : Nat := 0
  /-- Current charged [10 mA] by window number and group; group 99 is the panel. -/
  charges  : List (Nat × Nat × Nat) := []
  groups   : Tab Group := []
  rails    : Tab Rail := []
  aux      : Tab Rail := []
  efuses   : NSet := []
  reenResult : Nat := 0
  reenKind : Nat := 0
  reenId   : Nat := 0
  reenDone : List (Nat × Nat) := []
  /-- Tests under way, oldest first: KIND, ID and start (R303); and the units that tripped on a short. -/
  reenRun  : List (Nat × Nat × Nat) := []
  shorts   : List (Nat × Nat) := []
  /-- No grant is made: the manager moves (R312) or an ordered stop runs (R333). -/
  noGrants : Bool := false
  panelR   : Nat := 0
  /-- Postings before this number are older than the last fast tightening (R337); so in Hub and Crew. -/
  tightAt  : Nat := 0
  epochs   : Nat := 0
  lastEpoch : Nat := 0
  deriving DecidableEq, Repr

/-- The coolant circuit: the present sample, its alerts and stops (R332, R333, R339). -/
structure Cooling where
  /-- A sample has been taken. -/
  sampled : Bool := false
  flow   : Nat := 0
  dp     : Nat := 0
  outlet : Int := 0
  inlet  : Int := 0
  alert80 : Bool := false
  alert60 : Bool := false
  inletHigh : Bool := false
  leak   : Bool := false
  dpHist : List (Nat × Nat) := []
  lowSince : Option Nat := none
  hotSince : Option Nat := none
  stopCause : Nat := 0
  stopStroke : Nat := 0
  stopAt : Option Nat := none
  leakAt : Option Nat := none
  drained : Bool := false
  deriving DecidableEq, Repr

/-- The supply and the supervisor (R340, R476, R477, R480). -/
structure Supply where
  vin     : Nat := 0
  supEn   : Bool := false
  charged : Bool := false
  /-- The hub hallmarks that the supervisor finds good when stage A starts (R435). -/
  hubOk   : BitVec 4 := 0
  stageA  : Bool := false
  pg      : Bool := false
  faultN  : Bool := false
  leakN   : Bool := false
  booted  : Bool := false
  deriving DecidableEq, Repr

/-! ## Bring-up and defect lists -/

/-- A defect-list entry (R353). -/
structure Defect where
  kind   : Nat
  cause  : Nat
  detail : Nat := 0
  unit   : Nat
  stroke : Nat := 0
  deriving DecidableEq, Repr

/-- What the running step finds, which acts when the step completes (R343, R344). -/
inductive StepInput where
  | none
  | auth (inp : AuthInput)
  | tests (res : List Finding)
  | mesh (lanes : List Byte) (channels : List (SiteId × Fin 4))
  deriving DecidableEq, Repr

/-- The bring-up sequence, its findings and recovery (R340 to R352, R359, R360). -/
structure BringUp where
  done     : Nat := 0
  running  : Nat := 0
  failed   : Bool := false
  stopped  : Bool := false
  recovery : Bool := false
  count    : Nat := 0
  errCode  : Nat := 0
  errStep  : Nat := 0
  errPort  : Nat := 0
  errDetail : Nat := 0
  /-- What the running step will end with: a code of R344 and a detail, 0 for success. -/
  verdict  : Nat := 0
  verdictDetail : Nat := 0
  /-- The port that started the running step, and when it was taken. -/
  port     : Nat := 0
  since    : Nat := 0
  ready    : NSet := []
  waveLeft : List Nat := []
  waveNow  : List Nat := []
  /-- Regions still to be switched off in waves (R333, R345, R351), and the 10 µs window of the last such wave. -/
  offLeft  : List Nat := []
  offWindow : Option Nat := none
  input    : StepInput := .none
  /-- The station channels that do not train, by the key of their link record (R343). -/
  noChannel : NSet := []
  resent   : Nat := 0
  digestFailed : Nat := 0
  coresFailed : Nat := 0
  linksHalf : Nat := 0
  linksOff : Nat := 0
  /-- The die-edge links that did not train perfectly: unit of R354, bundle of R353, failed lanes of the four groups. -/
  trained  : List (Nat × Nat × List Nat) := []
  recovState : Nat := 0
  recovStored : Nat := 0
  recovSupplied : Nat := 0
  recovAttempts : Nat := 0
  recovImage : Option Image := none
  deriving DecidableEq, Repr

/-- The factory and field defect lists (R353 to R358). -/
structure Defects where
  factory : List Defect := []
  field   : List Defect := []
  full    : Bool := false
  clearPend : Bool := false
  bad     : Nat := 0
  dropped : Nat := 0
  deriving DecidableEq, Repr

/-- The column map of a column (R26). -/
structure ColMap where
  valid  : Bool := false
  holes  : Nat := 0
  fenced : Nat := 0
  shift  : Nat := 15
  deriving DecidableEq, Repr

/-! ## The stroke (R36 to R43, R60, R61) -/

/-- The stroke master and the qualification of edges (R36 to R44, R60, R61). -/
structure Stroke where
  master2  : Bool := false
  takeover : Bool := false
  qualifying : Bool := false
  running  : Bool := false
  count    : Nat := 0
  standby  : Nat := 0
  base     : Nat := 0
  baseLocked : Bool := false
  dflt     : Nat := 0x2710
  free     : Bool := false
  slew     : Bool := false
  entries  : Nat := 0
  startAt  : Nat := 0
  lastAt   : Option Nat := none
  intervals : List Nat := []
  interval : Nat := 0
  nextAt   : Nat := 0
  lastExt  : Option Nat := none
  extIvls  : List Nat := []
  handover : Bool := false
  quals    : Tab (Option Nat) := []
  /-- The rise of the last edge that hub 0 judged, and the edges that hub 2 has qualified beside it (R39). -/
  judged   : Option Nat := none
  beside   : List Nat := []
  /-- The last count whose marker went into each ring (R44). -/
  ringLast : Tab Nat := []
  deriving DecidableEq, Repr

/-! ## Partitions -/

/-- A crew in force, by partition × 256 + crew (R317, R321, R322). -/
structure Crew where
  started  : Bool := false
  startAt  : Nat := 0
  op       : Nat := 3
  pref     : Nat := 3
  thermalR : Nat := 0
  tightAt  : Nat := 0
  lowEpochs : Nat := 0
  zeroEpochs : Nat := 0
  firstActive : Nat := 0
  substLimit : Bool := false
  stepDown : Bool := false
  deriving DecidableEq, Repr

/-- LAYOUT_STAT.STATE (R190). -/
inductive LayState where
  | empty | fetching | staged | rejected | replacePending | applying
  deriving DecidableEq, Repr

/-- The layout registers and the layout of a partition (R190 to R195). -/
structure LayPort where
  addr    : Nat := 0
  len     : Nat := 0
  state   : LayState := .empty
  signed  : Bool := false
  gen     : Nat := 0
  applyCount : Nat := 0
  errPass : Nat := 0
  errSection : Nat := 0
  errCode : Nat := 0
  errRec  : Nat := 0
  repl    : Nat := 0
  staged  : Option Layout := none
  layout? : Option Layout := none
  /-- Step 4 of R195 was taken at this time, and whether step 6 is past. -/
  quietSince : Option Nat := none
  loading : Bool := false
  startStroke : Nat := 0
  /-- A layout whose load is done and whose stroke A has not come (R195 step 8). -/
  pendingStart : Bool := false
  deriving DecidableEq, Repr

/-- Fabric registers and route change of a partition (R225, R237). -/
structure FabPort where
  window  : Nat := 8
  winUsed : Nat := 8
  paused  : Bool := false
  pausedAt : Nat := 0
  drained : Bool := false
  changes : Nat := 0
  fence   : Nat := 0
  noroute : Nat := 0
  ttl     : Nat := 0
  timeout : Nat := 0
  late    : Nat := 0
  /-- Packets that the partition's sources hold back while it is paused (R225). -/
  waiting : List Packet := []
  /-- The mesh that the station-state map and the escape tables in force were made for: its regions out of the mesh, and
  the link and channel records out of service (R223, R224). -/
  deadRegions : NSet := []
  deadLinks : NSet := []
  deriving DecidableEq, Repr

/-- An active command (R402). -/
structure Active where
  index  : Nat
  rec_   : List Byte
  started : Bool := true
  /-- WAIT: the release count at start. SIGNAL: its tag. COPY: bytes. -/
  aux    : Nat := 0
  deriving DecidableEq, Repr

/-- A completion record (R403). -/
structure Completion where
  index  : Nat
  opc    : Nat
  status : Nat
  user   : Nat
  stroke : Nat
  detail : Nat
  irq    : Option Nat := none
  deriving DecidableEq, Repr

/-- The command fetcher of a port (R397 to R408). -/
structure CmdPort where
  ring   : Nat := 0
  sq     : Nat := 0
  cq     : Nat := 0
  sqLog  : Nat := 8
  cqLog  : Nat := 8
  coalesce : Bool := false
  coalesceNow : Bool := false
  every  : Nat := 0
  /-- EVERY − 1 in force since the last fetch stroke. -/
  everyNow : Nat := 0
  batch  : Nat := 0x3F
  locked : Bool := false
  state  : Nat := 0
  sqHead : Nat := 0
  sqTail : Nat := 0
  cqHead : Nat := 0
  cqTail : Nat := 0
  phase  : Bool := true
  lost   : Nat := 0
  err    : Nat := 0
  /-- The fetch in progress: 0 none, 1 header read, 2 records read with their number. -/
  fetch  : Nat := 0
  fetchN : Nat := 0
  resume : Bool := false
  fetched : List (Nat × List Byte) := []
  active : List Active := []
  held   : List Completion := []
  /-- Vectors owed at the next stroke boundary under COALESCE (R407). -/
  owed   : NSet := []
  startAt : Nat := 0
  deriving DecidableEq, Repr

/-- A packet the hub has forwarded and not seen answered: kind 0 BAR2 read, 1 BAR2 write, 2 host atomic, 3 host SIGNAL,
4 SIGNAL command. -/
structure Fwd where
  tag  : Nat
  kind : Nat
  size : Nat
  addr : Nat
  deriving DecidableEq, Repr

/-- One MSI-X table entry (R462). -/
structure MsixEntry where
  addrLo : W32 := 0
  addrHi : W32 := 0
  data   : W32 := 0
  ctrl   : W32 := 1
  deriving DecidableEq, Repr

/-- The security command registers of a port (R456). -/
structure SecPort where
  addr   : Nat := 0
  len    : Nat := 0
  state  : Nat := 0
  code   : Nat := 0
  result : Nat := 0
  detail : Nat := 0
  deriving DecidableEq, Repr

/-- A hub and its host port: the registers of port scope (R459). -/
structure Hub where
  live     : Bool := false
  linkUp   : Bool := false
  /-- The partition of the port is stopped until the next bring-up (R370, R387). -/
  stopped  : Bool := false
  /-- An ordered stop of the partition began at this time and its fabric drains (R333). -/
  stopping : Option Nat := none
  minor    : Nat := 0
  lay      : LayPort := {}
  fab      : FabPort := {}
  cmd      : CmdPort := {}
  sec      : SecPort := {}
  /-- Copies of RC bits (R394). -/
  strokeRc : W32 := 0
  pwrRc    : W32 := 0
  coolRc   : W32 := 0
  layRc    : W32 := 0
  fabRc    : W32 := 0
  cmdRc    : W32 := 0
  evt      : Byte := 0
  err      : W32 := 0
  errAddr  : Nat := 0
  errBar2  : Bool := false
  bar2     : Nat := 0
  alias_   : W32 := 0
  defSel   : W32 := 0
  pcap     : Nat := 0
  /-- The cap of PCAP in force since the last epoch (R323). -/
  capNow   : Nat := 0
  partMw   : Nat := 0
  partR    : Nat := 0
  tightAt  : Nat := 0
  followR  : Nat := 0
  phase    : Nat := 0
  recovAddr : Nat := 0
  recovLen : Nat := 0
  /-- Shadow LO halves by register offset (R393). -/
  shadows  : Tab W32 := []
  msix     : Tab MsixEntry := []
  msixPend : NSet := []
  logWr    : Nat := 0
  logRd    : Nat := 0
  pending  : Nat := 0
  lost     : Nat := 0
  log      : Tab FaultRec := []
  /-- Records on the cox rings that this hub has still to take (R379). -/
  inbox    : List FaultRec := []
  /-- BAR2 accesses held during an HBM move (R287): kind 0 read, 1 write, 2 atomic, address, length and data; an atomic's
  data are its operation code and its two operands. -/
  moving   : Bool := false
  barHeld  : List (Nat × Nat × Nat × List Byte) := []
  fwd      : List Fwd := []
  nextTag  : Nat := 0
  interleave : List Nat := []
  /-- The interleave that a move in progress leads to (R287). -/
  moveTo   : List Nat := []
  /-- Units that a move could not read (R287), by window unit: for each such move the number of slices of the interleave it
  left and the places in it of the failed stacks; and the words of these units written since, by window word. -/
  lostUnits : List (Nat × List Nat) := []
  healed   : NSet := []
  bound    : Nat := 0
  /-- Stroke whose partition triggers have been taken (R51 action 6). -/
  trig     : Nat := 0
  /-- Publications of peers for R324: stroke, ratio; and the epochs of silence by port. -/
  published : List (Nat × Nat × Nat) := []
  silent   : Tab Nat := []
  mapEpoch : Nat := 0
  deriving DecidableEq, Repr

/-! ## Fabric ports (R411 to R430) -/

/-- An ingest window (R422, R429). tail counts the bytes of every record taken, rec those not committed: sequence
number, size with skipped bytes, acknowledgements to come. -/
structure Window where
  enable : Bool := false
  base   : Nat := 0
  log2   : Nat := 12
  wr     : Nat := 0
  rd     : Nat := 0
  tail   : Nat := 0
  seqNo  : Nat := 0
  recs   : List (Nat × Nat × Nat) := []
  /-- The largest message last advertised. -/
  credit : Nat := 0
  deriving DecidableEq, Repr

/-- A message in pieces: its length, the bytes so far, and whether it is being discarded. -/
structure Assembly where
  len   : Nat := 0
  bytes : List Byte := []
  drop  : Bool := false
  live  : Bool := false
  deriving DecidableEq, Repr

/-- A fabric port. STATE as in PORT_STAT. -/
structure FPort where
  state   : Nat := 0
  width4  : Bool := false
  version : Nat := 0
  cause   : Nat := 0
  ups     : Nat := 0
  enable  : Bool := true
  winIrq  : Bool := false
  rateReq : Nat := 0x64
  rateCol : Nat := 0x64
  /-- Partner identity digest, 8 bytes. -/
  peer    : List Byte := []
  malf    : Nat := 0
  tagFails : Nat := 0
  hsFails : Nat := 0
  replays : Nat := 0
  retrains : Nat := 0
  stale   : Nat := 0
  /-- Good lanes found by training (R411), and the partition that holds the port. -/
  lanes   : Byte := 0
  part    : Option Nat := none
  /-- Handshake step reached (R416), 0 when none is under way. -/
  step    : Nat := 0
  /-- Handshake payloads: step, sent by this end, bytes. -/
  talk    : List (Nat × Bool × List Byte) := []
  peerPart : Nat := 0
  chain   : List Byte := []
  peerKey : List Byte := []
  /-- The draw of this end's encapsulation key. -/
  ekDraw  : Nat := 0
  ssOwn   : Option (List Byte) := none
  ssPeer  : Option (List Byte) := none
  keys    : List Byte := []
  keyBit  : Bool := false
  keyAt   : Nat := 0
  rekeying : Bool := false
  grace   : Nat := 0
  txn     : Nat := 0
  /-- Number of the next numbered frame to send, and of the next expected. -/
  seqOut  : Nat := 0
  seqIn   : Nat := 0
  nakSent : Bool := false
  retryQ  : List (Nat × Frame) := []
  /-- Frame credits this side may use, by class (R415), and those the partner holds. -/
  credOut : List Nat := [512, 64, 128, 512]
  credIn  : List Nat := [512, 64, 128, 512]
  txq     : List Frame := []
  lastRx  : Nat := 0
  lastTx  : Nat := 0
  downAt  : Nat := 0
  malfAt  : List Nat := []
  tagAt   : List Nat := []
  hsAt    : List Nat := []
  malfUp  : Nat := 0
  /-- Generation the partner announced (R421). -/
  peerGen : Nat := 0
  /-- Stream credits given to the partner, by channel; window credits held, by channel. -/
  scIn    : Tab Nat := []
  wcOut   : Tab Nat := []
  /-- Messages being assembled, inbound and outbound, by channel. -/
  asmIn   : Tab Assembly := []
  asmOut  : Tab Assembly := []
  retrainAt : Nat := 0
  windows : Tab Window := []
  deriving DecidableEq, Repr

/-! ## Security and bezels -/

/-- The owner policy (R439). -/
structure Policy where
  signedLayout : Bool := false
  vendorAccess : Bool := false
  ownerUpdate  : Bool := false
  roots : List (List Byte) := []
  bezMask : Nat := 0
  bezels : List (List Byte) := []
  deriving DecidableEq, Repr

/-- An access session: scope, signer and the time it began (R445). -/
structure Session where
  scope  : Nat
  signer : Nat
  since  : Nat
  deriving DecidableEq, Repr

/-- Ownership, policy, image slot and nonce (R432 to R448, R456). -/
structure Security where
  owned    : Bool := false
  ownerKey : List Byte := []
  idCert   : List Byte := []
  policy   : Policy := {}
  /-- The bezel entries in force for this bring-up (R439). -/
  bezInForce : Policy := {}
  floor    : Nat := 0
  nonce    : List Byte := []
  session  : Option Session := none
  opened   : Nat := 0
  userCal  : List (Nat × Nat × Int) := []
  calStored : List (Nat × Nat × Int) := []
  restorePend : Bool := false
  updatePend : Bool := false
  slotImage : Option Image := none
  runVersion : Nat := 0x010000
  runDigest : List Byte := []
  /-- The port of an UPDATE in progress. -/
  updating : Option Nat := none
  writing  : Option Image := none
  report   : List Byte := []
  deriving DecidableEq, Repr

/-- A bezel window (R451). -/
structure BezWindow where
  base  : Nat := 0
  valid : Bool := false
  rwa   : Nat := 0
  log2  : Nat := 12
  deriving DecidableEq, Repr

/-- A bezel site (R449 to R453, R456). -/
structure Bezel where
  state  : Nat := 0
  cause  : Nat := 0
  width32 : Bool := false
  out    : Nat := 0x3F
  rate   : Nat := 0x70
  violW  : Nat := 0
  violF  : Nat := 0
  winAt  : List Nat := []
  pend   : List Nat := []
  windows : Tab BezWindow := []
  keyDigest : List Byte := []
  measure : List Byte := []
  deriving DecidableEq, Repr

/-! ## Outputs -/

/-- What the panel sends outside. -/
inductive Out where
  /-- Completion of a host read: status 0 OK, 1 Unsupported Request, 2 EP; and the bytes. -/
  | completion (port status : Nat) (data : List Byte)
  /-- A host write that was not served, with its status. -/
  | writeError (port status : Nat)
  | msix (port vector : Nat) (addr : Nat) (data : Nat)
  /-- A write into host memory: a completion record, a ring header, a report, COPY_OUT data. -/
  | hostWrite (port : Nat) (addr : Nat) (data : List Byte)
  /-- A read of host memory is issued. -/
  | hostRead (port : Nat) (addr len : Nat)
  /-- A frame on a fabric port. -/
  | frame (port : Nat) (fr : Frame)
  /-- An MCTP response (R479). -/
  | mctp (data : List Byte)
  /-- A response or flit to a bezel die. -/
  | bezel (site tag status : Nat) (data : List Byte)
  /-- A stroke marker on the four cox rings (R44). -/
  | marker (count : Nat)
  deriving DecidableEq, Repr

/-- A fence or fault report on the cox rings (R263, R367 step 2): the LCIDs it concerns, the region fenced, and whether
the LCIDs are absent. -/
structure RingReport where
  lcids  : List Nat
  region : Option Nat := none
  absent : Bool := false
  part   : Nat
  deriving DecidableEq, Repr

/-- What the last EVENT_POST was answered (R49). -/
inductive PostResult where
  | none | ok | stale | full
  deriving DecidableEq, Repr

/-- The panel. -/
structure State where
  /-- Time in ns. -/
  now     : Nat
  /-- The model's own counter of free values drawn. -/
  fv      : Nat
  part    : Part
  supply  : Supply
  stroke  : Stroke
  hubs    : Tab Hub
  bring   : BringUp
  defects : Defects
  colMaps : Tab ColMap
  coxes   : Tab Cox
  regions : Tab Region
  cores   : Tab Core
  /-- The physical core that serves each LCID. -/
  lcidAt  : Tab (Option Nat)
  crews   : Tab Crew
  syncs   : Tab SyncObj
  trees   : Tab Tree
  admits  : Tab Admit
  net     : List Packet
  links   : Tab LinkEnd
  /-- Virtual channels that the inputs of routers and edge fields have set OFF, but for those of die-edge links (R220). -/
  offs    : Tab Nat
  /-- The arbiters of router outputs, homes, admission units and hubs (R219, R241, R155, R488). -/
  arbs    : Tab Arb
  sram    : List Host.Cell
  sramUe  : NSet
  sramCe  : NSet
  hbm     : List Host.Cell
  hbmUe   : NSet
  hbmCe   : NSet
  slices  : Tab Slice
  stackTab : Tab Stack
  tallies : Tab (List (Nat × Nat))
  power   : Power
  cool    : Cooling
  fports  : Tab FPort
  sec     : Security
  bezels  : Tab Bezel
  /-- Reports on the cox rings that have not arrived. -/
  rings   : List RingReport
  posted  : PostResult
  postNo  : Nat
  out     : List Out
  pending : List Sys2Proof.Instr
  deriving DecidableEq, Repr

/-- The panel before power arrives: every register at the value the spec states for reset, memories with nothing
listed, no command waiting (R14). Values the spec does not state are those of the assumption log. -/
def State.reset : State where
  now := 0
  fv := 0
  part := .skn1440
  supply := {}
  stroke := {}
  hubs := []
  bring := {}
  defects := {}
  colMaps := []
  coxes := []
  regions := []
  cores := []
  lcidAt := []
  crews := []
  syncs := []
  trees := []
  admits := []
  net := []
  links := []
  offs := []
  arbs := []
  sram := []
  sramUe := []
  sramCe := []
  hbm := []
  hbmUe := []
  hbmCe := []
  slices := []
  stackTab := []
  tallies := []
  power := {}
  cool := {}
  fports := []
  sec := {}
  bezels := []
  rings := []
  posted := .none
  postNo := 0
  out := []
  pending := []

end Sys2Proof.Machine
end

