-- ==== Sys2Proof/Machine/Clock.lean ====
section
/-!
DEFINITION. What the panel does when no command waits: one nanosecond passes (log entry 1).
-/
namespace Sys2Proof.Machine

/-- DESIGN CHOICE (log entry 1): with no command waiting, time goes on by one nanosecond and nothing else changes. -/
def tick (s : State) : State := { s with now := s.now + 1 }

end Sys2Proof.Machine
end

