-- ==== Sys2Proof/Machine/Hash.lean ====
section
/-!
DEFINITION. The digests and checks the panel computes: SHAKE256 (R431, FIPS 202), CRC-32C (R206) and the CRC-16 of a
defect-list entry (R353).
-/
namespace Sys2Proof.Machine

/-- Rotate a 64-bit lane left. -/
def rotl64 (x n : Nat) : Nat := (x * 2 ^ n % 2 ^ 64) ||| (x / 2 ^ (64 - n))

/-- The rotation of lane x + 5 y in the rho step of Keccak. -/
def keccakRot : List Nat :=
  [0, 1, 62, 28, 27, 36, 44, 6, 55, 20, 3, 10, 43, 25, 39, 41, 45, 15, 21, 8, 18, 2, 61, 56, 14]

def keccakRC : List Nat :=
  [0x0000000000000001, 0x0000000000008082, 0x800000000000808A, 0x8000000080008000, 0x000000000000808B,
   0x0000000080000001, 0x8000000080008081, 0x8000000000008009] ++
  [0x000000000000008A, 0x0000000000000088, 0x0000000080008009, 0x000000008000000A, 0x000000008000808B,
   0x800000000000008B, 0x8000000000008089, 0x8000000000008003] ++
  [0x8000000000008002, 0x8000000000000080, 0x000000000000800A, 0x800000008000000A, 0x8000000080008081,
   0x8000000000008080, 0x0000000080000001, 0x8000000080008008]

/-- One round over 25 lanes, lane x + 5 y at place x + 5 y. -/
def keccakRound (a : List Nat) (rc : Nat) : List Nat :=
  let g := fun i => a.getD i 0
  let c := (List.range 5).map (fun x => g x ^^^ g (x + 5) ^^^ g (x + 10) ^^^ g (x + 15) ^^^ g (x + 20))
  let d := (List.range 5).map (fun x => c.getD ((x + 4) % 5) 0 ^^^ rotl64 (c.getD ((x + 1) % 5) 0) 1)
  let th := (List.range 25).map (fun i => g i ^^^ d.getD (i % 5) 0)
  -- pi: the lane at (x, y) comes from ((x + 3 y) mod 5, x), rotated by its rho offset
  let b := (List.range 25).map (fun i =>
    let x := i % 5
    let y := i / 5
    let j := (x + 3 * y) % 5 + 5 * x
    rotl64 (th.getD j 0) (keccakRot.getD j 0))
  let e := (List.range 25).map (fun i =>
    let x := i % 5
    let y := i / 5
    b.getD i 0 ^^^ ((2 ^ 64 - 1 - b.getD ((x + 1) % 5 + 5 * y) 0) &&& b.getD ((x + 2) % 5 + 5 * y) 0))
  match e with
  | [] => []
  | l :: t => (l ^^^ rc) :: t

def keccakF (a : List Nat) : List Nat := keccakRC.foldl keccakRound a

/-- The 17 lanes of one block of 136 bytes, exclusive-ored into the state. -/
def keccakAbsorb (a : List Nat) (block : List Byte) : List Nat :=
  keccakF ((List.range 25).map (fun i => a.getD i 0 ^^^ (if i < 17 then natLE (slice block (8 * i) 8) else 0)))

/-- The blocks of a message of n blocks. -/
def keccakBlocks : Nat → List Nat → List Byte → List Nat
  | 0, a, _ => a
  | n + 1, a, m => keccakBlocks n (keccakAbsorb a (m.take 136)) (m.drop 136)

/-- SHAKE256 padding: 0x1F, zeros, and 0x80 in the last byte of the block. -/
def shakePad (m : List Byte) : List Byte :=
  let z := 136 - (m.length + 1) % 136
  if z = 136 then (m ++ [0x9F])
  else m ++ [0x1F] ++ List.replicate (z - 1) 0 ++ [0x80]

/-- The first len bytes of SHAKE256, for len up to 136. -/
def shake256 (len : Nat) (m : List Byte) : List Byte :=
  let p := shakePad m
  let a := keccakBlocks (p.length / 136) (List.replicate 25 0) p
  (a.flatMap (bytesLE 8)).take len

/-- One bit of a reflected CRC-32C. -/
def crc32cBit (c : Nat) : Nat := if c % 2 = 1 then (c / 2) ^^^ 0x82F63B78 else c / 2

def crc32cByte (c : Nat) (b : Byte) : Nat := Nat.repeat crc32cBit 8 (c ^^^ b.toNat)

/-- CRC-32C (Castagnoli), initial value and final exclusive-or of ones. -/
def crc32c (m : List Byte) : Nat := (m.foldl crc32cByte 0xFFFFFFFF) ^^^ 0xFFFFFFFF

def crc16Bit (c : Nat) : Nat := if c ≥ 0x8000 then (c * 2 % 0x10000) ^^^ 0x1021 else c * 2

/-- CRC-16, polynomial 0x1021, initial value 0xFFFF, no reflection and no final exclusive-or (R353). -/
def crc16 (m : List Byte) : Nat := m.foldl (fun c b => Nat.repeat crc16Bit 8 (c ^^^ (b.toNat * 256))) 0xFFFF

end Sys2Proof.Machine
end

