-- ==== Sys2Proof/Machine/Access.lean ====
section
/-!
DEFINITION. Reading and changing one unit of the state: one getter and one updater for each table of State.
-/
namespace Sys2Proof.Machine

def State.hub (s : State) (p : Nat) : Hub := Tab.get {} s.hubs p
def State.cox (s : State) (site : Nat) : Cox := Tab.get {} s.coxes site
def State.region (s : State) (r : Nat) : Region := Tab.get {} s.regions r
def State.core (s : State) (k : Nat) : Core := Tab.get {} s.cores k
/-- The physical core that holds an LCID at this moment (R31), none when the LCID carries no core. -/
def State.coreOf (s : State) (l : Nat) : Option Nat := Tab.get none s.lcidAt l
def State.crew (s : State) (p c : Nat) : Crew := Tab.get {} s.crews (p * 256 + c)
def State.sync (s : State) (o : Nat) : SyncObj := Tab.get {} s.syncs o
def State.tree (s : State) (t : Nat) : Tree := Tab.get {} s.trees t
def State.admUnit (s : State) (u : Nat) : Admit := Tab.get {} s.admits u
def State.arb (s : State) (a : Nat) : Arb := Tab.get {} s.arbs a
def State.link (s : State) (e : Nat) : LinkEnd := Tab.get {} s.links e
def State.slice (s : State) (sl : Nat) : Slice := Tab.get {} s.slices sl
def State.stack (s : State) (st : Nat) : Stack := Tab.get {} s.stackTab st
def State.fport (s : State) (f : Nat) : FPort := Tab.get {} s.fports f
def State.bezel (s : State) (n : Nat) : Bezel := Tab.get {} s.bezels n
def State.colMap (s : State) (c : Nat) : ColMap := Tab.get {} s.colMaps c
def State.group (s : State) (g : Nat) : Group := Tab.get {} s.power.groups g

def State.updHub (s : State) (p : Nat) (f : Hub → Hub) : State := { s with hubs := Tab.upd {} s.hubs p f }
def State.updCox (s : State) (site : Nat) (f : Cox → Cox) : State := { s with coxes := Tab.upd {} s.coxes site f }
def State.updRegion (s : State) (r : Nat) (f : Region → Region) : State :=
  { s with regions := Tab.upd {} s.regions r f }
def State.updCore (s : State) (k : Nat) (f : Core → Core) : State := { s with cores := Tab.upd {} s.cores k f }
def State.setCoreOf (s : State) (l : Nat) (k : Option Nat) : State := { s with lcidAt := Tab.put none s.lcidAt l k }
def State.updCrew (s : State) (p c : Nat) (f : Crew → Crew) : State :=
  { s with crews := Tab.upd {} s.crews (p * 256 + c) f }
def State.updSync (s : State) (o : Nat) (f : SyncObj → SyncObj) : State := { s with syncs := Tab.upd {} s.syncs o f }
def State.updTree (s : State) (t : Nat) (f : Tree → Tree) : State := { s with trees := Tab.upd {} s.trees t f }
def State.updAdmit (s : State) (u : Nat) (f : Admit → Admit) : State := { s with admits := Tab.upd {} s.admits u f }
def State.updLink (s : State) (e : Nat) (f : LinkEnd → LinkEnd) : State := { s with links := Tab.upd {} s.links e f }
def State.updArb (s : State) (a : Nat) (f : Arb → Arb) : State := { s with arbs := Tab.upd {} s.arbs a f }
def State.setOffs (s : State) (v : Tab Nat) : State := { s with offs := v }
def State.setArbs (s : State) (v : Tab Arb) : State := { s with arbs := v }
def State.updSlice (s : State) (sl : Nat) (f : Slice → Slice) : State := { s with slices := Tab.upd {} s.slices sl f }
def State.updStack (s : State) (st : Nat) (f : Stack → Stack) : State :=
  { s with stackTab := Tab.upd {} s.stackTab st f }
def State.updFport (s : State) (f : Nat) (g : FPort → FPort) : State := { s with fports := Tab.upd {} s.fports f g }
def State.updBezel (s : State) (n : Nat) (f : Bezel → Bezel) : State := { s with bezels := Tab.upd {} s.bezels n f }
def State.updColMap (s : State) (c : Nat) (f : ColMap → ColMap) : State :=
  { s with colMaps := Tab.upd {} s.colMaps c f }
def State.updGroup (s : State) (g : Nat) (f : Group → Group) : State :=
  { s with power := { s.power with groups := Tab.upd {} s.power.groups g f } }
def State.updPower (s : State) (f : Power → Power) : State := { s with power := f s.power }
def State.updCool (s : State) (f : Cooling → Cooling) : State := { s with cool := f s.cool }
def State.updBring (s : State) (f : BringUp → BringUp) : State := { s with bring := f s.bring }
def State.updStroke (s : State) (f : Stroke → Stroke) : State := { s with stroke := f s.stroke }
def State.updSec (s : State) (f : Security → Security) : State := { s with sec := f s.sec }
def State.updSupply (s : State) (f : Supply → Supply) : State := { s with supply := f s.supply }
def State.updDefects (s : State) (f : Defects → Defects) : State := { s with defects := f s.defects }
def State.updLay (s : State) (p : Nat) (f : LayPort → LayPort) : State :=
  s.updHub p (fun h => { h with lay := f h.lay })
def State.updFab (s : State) (p : Nat) (f : FabPort → FabPort) : State :=
  s.updHub p (fun h => { h with fab := f h.fab })
def State.updCmd (s : State) (p : Nat) (f : CmdPort → CmdPort) : State :=
  s.updHub p (fun h => { h with cmd := f h.cmd })
def State.updSecPort (s : State) (p : Nat) (f : SecPort → SecPort) : State :=
  s.updHub p (fun h => { h with sec := f h.sec })

def State.setNet (s : State) (v : List Packet) : State := { s with net := v }
def State.setRings (s : State) (v : List RingReport) : State := { s with rings := v }
def State.setPosted (s : State) (v : PostResult) : State := { s with posted := v }
def State.setPostNo (s : State) (v : Nat) : State := { s with postNo := v }
def State.setTallies (s : State) (v : Tab (List (Nat × Nat))) : State := { s with tallies := v }
def State.setSram (s : State) (v : List Host.Cell) : State := { s with sram := v }
def State.setSramUe (s : State) (v : NSet) : State := { s with sramUe := v }
def State.setSramCe (s : State) (v : NSet) : State := { s with sramCe := v }
def State.setHbm (s : State) (v : List Host.Cell) : State := { s with hbm := v }
def State.setHbmUe (s : State) (v : NSet) : State := { s with hbmUe := v }
def State.setHbmCe (s : State) (v : NSet) : State := { s with hbmCe := v }

/-- Send a value outside. -/
def State.emit (s : State) (o : Out) : State := { s with out := s.out ++ [o] }
/-- A packet arrives where it stands: State.net holds the packets in flight, and those of one place in order of arrival. -/
def State.place (s : State) (p : Packet) : State := { s with net := s.net ++ [p] }
/-- A source injects a packet; while its partition is paused, it holds back what is no response (R225 step 1). -/
def State.send (s : State) (p : Packet) : State :=
  if p.cls != 2 && (s.hub p.part).fab.paused then s.updFab p.part (fun f => { f with waiting := f.waiting ++ [p] })
  else s.place p
/-- Packet i leaves the fabric. -/
def State.dropPacket (s : State) (i : Nat) : State := { s with net := s.net.eraseIdx i }
/-- Draw a free value: the counter moves on. -/
def State.draw (s : State) : State := { s with fv := s.fv + 1 }

/-- Apply f for every element of a list, left to right. -/
def State.each {α : Type} (s : State) (l : List α) (f : State → α → State) : State := l.foldl f s

/-- The next state of a command whose effect happens only when its event can happen (log entry 9). -/
def guardNext (g : Bool) (s t : State) : Host.Outcome State Fault Refusal := .next (if g then t else s)

end Sys2Proof.Machine
end

