-- ==== Sys2Proof/Machine/Ids.lean ====
section
/-!
DEFINITION. The anatomy of the panel and its numbering: presence (R4), the column map (R23 to R26), identifiers and
coordinates (R27 to R31), and the address map (R32 to R34).
-/
namespace Sys2Proof.Machine

/-! ## Presence (R4, R6) -/

/-- The number of present columns, which are 0 up to it. -/
def Part.cols : Part → Nat
  | .skn1440 => 12
  | .skn1280 => 11
  | .skn0960 => 8

def Part.colPresent (pt : Part) (c : Nat) : Bool := decide (c < pt.cols)

def Part.stackPresent (pt : Part) (st : Nat) : Bool :=
  match pt with
  | .skn1440 => decide (st < 48)
  | .skn1280 => decide (st < 10) || (decide (12 ≤ st) && decide (st < 24)) || (decide (26 ≤ st) && decide (st < 48))
  | .skn0960 => decide (st < 10) || (decide (26 ≤ st) && decide (st < 48))

def Part.fportPresent (pt : Part) (f : Nat) : Bool :=
  match pt with
  | .skn0960 => decide (f < 4) || (decide (12 ≤ f) && decide (f < 16))
  | _ => decide (f < 16)

/-- Host ports present (R5: hubs and bezel sites are present on every variant). -/
def Part.hostPresent (pt : Part) (p : Nat) : Bool :=
  match pt with
  | .skn0960 => p == 0 || p == 3
  | _ => decide (p < 4)

def Part.code : Part → Nat
  | .skn1440 => 0
  | .skn1280 => 1
  | .skn0960 => 2

/-- The stacks the part has, ascending. -/
def Part.stackList (pt : Part) : List Nat := (List.range 48).filter pt.stackPresent
/-- The sites the part has, ascending. -/
def Part.siteList (pt : Part) : List Nat := List.range (13 * pt.cols)

/-! ## Physical numbers -/

def siteCol (site : Nat) : Nat := site / 13
def siteRow (site : Nat) : Nat := site % 13
/-- R27: x, y and region q of physical core k of a die, and the region-local index r. -/
def coreX (k : Nat) : Nat := k % 6
def coreY (k : Nat) : Nat := k / 6
def quadOf (k : Nat) : Nat := (coreY k / 3) * 2 + coreX k / 3
def coreR (k : Nat) : Nat := (coreY k % 3) * 3 + coreX k % 3
/-- The core of a die with region q and region-local index r. -/
def coreInDie (q r : Nat) : Nat := (q / 2 * 3 + r / 3) * 6 + (q % 2 * 3 + r % 3)
/-- The site of a physical core. -/
def coreSite (k : Nat) : Nat := k / 36
/-- The physical region of a physical core. -/
def coreRegion (k : Nat) : Nat := coreSite k * 4 + quadOf (k % 36)
def regionSite (r : Nat) : Nat := r / 4
/-- The nine physical cores of a physical region, ascending in r. -/
def regionCores (r : Nat) : List Nat := (List.range 9).map (fun i => (r / 4) * 36 + coreInDie (r % 4) i)
def siteRegions (site : Nat) : List Nat := (List.range 4).map (fun q => site * 4 + q)
def siteCores (site : Nat) : List Nat := (List.range 36).map (fun k => site * 36 + k)

/-- R30: the reticle field whose oscillator a physical region locks to. -/
def regionField (r : Nat) : Nat :=
  let p := siteRow (regionSite r)
  let col := 1 + siteCol (regionSite r) / 2
  let row :=
    if r % 4 < 2 then
      (if p ≤ 1 then 1 else if p ≤ 4 then 2 else if p ≤ 6 then 3 else if p ≤ 8 then 4 else if p ≤ 10 then 5 else 6)
    else
      (if p ≤ 1 then 1 else if p ≤ 3 then 2 else if p ≤ 5 then 3 else if p ≤ 7 then 4 else if p ≤ 10 then 5 else 6)
  row * 8 + col

/-! ## Defect lists in force (R357) and the column map (R23 to R26) -/

/-- The entries of the field list that act: no RESOLVE entry names them, and they lie after the last CLEAR marker (a
pending marker does not act in the present bring-up, R358). -/
def Defects.fieldInForce (d : Defects) : List Defect :=
  let res := d.field.filterMap (fun e => if e.kind == 0x0F then some e.unit else none)
  let mark := if d.clearPend then 0 else (((d.field.zipIdx.filter (fun (e, _) => e.kind == 0x0E)).map (·.2)).getLast?).getD 0
  (d.field.zipIdx.filter (fun (e, i) => decide (mark ≤ i) && !(res.contains i) && e.kind != 0x0F && e.kind != 0x0E)).map (·.1)

def Defects.inForce (d : Defects) : List Defect := d.factory ++ d.fieldInForce

def Defects.names (d : Defects) (kind unit : Nat) : Bool := d.inForce.any (fun e => e.kind == kind && e.unit == unit)

/-- The site an entry of kind ROUTER or DIE fences (R357). -/
def Defect.fencesSite (e : Defect) : Option Nat :=
  if e.kind == 0x04 then some e.unit else if e.kind == 0x02 then some (e.unit / 36) else none

def Defects.listsSite (d : Defects) (site : Nat) : Bool := d.inForce.any (fun e => e.fencesSite == some site)

/-- R23: a site counts as fenced when a list in force names its die or its cox is fenced by the start test. -/
def State.siteFenced (s : State) (site : Nat) : Bool := s.defects.listsSite site || (s.cox site).fenced

/-- The ascending fenced rows of a column. -/
def State.fencedRows (s : State) (c : Nat) : List Nat := (List.range 13).filter (fun p => s.siteFenced (c * 13 + p))

/-- R23: the column map from the fenced rows. The shift reads 0xF when there is none (R26). -/
def colMapOf (fenced : List Nat) : ColMap :=
  let shift := match fenced with
    | [] => 15
    | f :: _ => if f < 12 then f else 15
  let phys := fun l => if l < shift then l else l + 1
  { valid := true
    holes := (List.range 12).foldl (fun a l => if fenced.contains (phys l) then a + 2 ^ l else a) 0
    fenced := fenced.length
    shift := shift }

/-- phys(c,l) of R23. -/
def ColMap.phys (m : ColMap) (l : Nat) : Nat := if l < m.shift then l else l + 1
def ColMap.hole (m : ColMap) (l : Nat) : Bool := m.holes.testBit l

/-- The word of COL_MAPc (R26). -/
def colMapWord (pt : Part) (c : Nat) (m : ColMap) : Nat :=
  if pt.colPresent c then
    (if m.valid then 2 ^ 31 else 0) + m.holes * 2 ^ 16 + m.fenced * 2 ^ 12 + 2 ^ 8 + m.shift
  else 15

/-! ## Logical numbers (R31) -/

/-- The site of a logical die, none at a hole, in an absent column and before a column map is in force. -/
def State.siteOfDie (s : State) (d : Nat) : Option Nat :=
  let m := s.colMap (d / 12)
  if d < 144 && s.part.colPresent (d / 12) && m.valid && !(m.hole (d % 12)) then some (d / 12 * 13 + m.phys (d % 12))
  else none

/-- The logical die of a site, none for a spare and before a column map is in force. -/
def State.dieOfSite (s : State) (site : Nat) : Option Nat :=
  (List.range 12).findSome? (fun l =>
    if s.siteOfDie (siteCol site * 12 + l) == some site then some (siteCol site * 12 + l) else none)

def lcidDie (l : Nat) : Nat := l / 32
def lcidRegion (l : Nat) : Nat := l / 8
/-- The physical region of a region ID. -/
def State.physRegion (s : State) (rid : Nat) : Option Nat := (s.siteOfDie (rid / 4)).map (fun st => st * 4 + rid % 4)
/-- The region ID of a physical region. -/
def State.logicalRegion (s : State) (r : Nat) : Option Nat := (s.dieOfSite (r / 4)).map (fun d => d * 4 + r % 4)
/-- The home die of a sync object. -/
def objDie (o : Nat) : Nat := o / 128

/-- The global router coordinates of a physical core (R31), none on a die without a logical row. -/
def State.routerOf (s : State) (k : Nat) : Option (Nat × Nat) :=
  (s.dieOfSite (coreSite k)).map (fun d =>
    (d / 12 * 6 + coreX (k % 36), d % 12 * 6 + coreY (k % 36)))

/-- The physical core of the router at global coordinates. -/
def State.coreAtRouter (s : State) (x y : Nat) : Option Nat :=
  if x < 72 && y < 72 then
    (s.siteOfDie (x / 6 * 12 + y / 6)).map (fun st => st * 36 + (y % 6) * 6 + x % 6)
  else none

/-! ## Partitions (R8, R173) -/

/-- The layout in force of partition p, if it is formed. -/
def State.layoutOf (s : State) (p : Nat) : Option Layout := (s.hub p).lay.layout?

/-- The formed partition that satisfies a test of its PARTITION record. -/
def State.partWhere (s : State) (f : PartRec → Bool) : Option Nat :=
  (List.range 4).find? (fun p => match s.layoutOf p with
    | some l => f l.part
    | none => false)

def State.partOfCol (s : State) (c : Nat) : Option Nat :=
  s.partWhere (fun r => decide (r.firstCol ≤ c) && decide (c ≤ r.lastCol))
def State.partOfSite (s : State) (site : Nat) : Option Nat := s.partOfCol (siteCol site)
def State.partOfDie (s : State) (d : Nat) : Option Nat := s.partOfCol (d / 12)
def State.partOfStack (s : State) (st : Nat) : Option Nat := s.partWhere (fun r => r.stackMask.testBit st)
def State.partOfPort (s : State) (f : Nat) : Option Nat := s.partWhere (fun r => r.portMask.testBit f)

/-- The stacks of a partition, ascending. -/
def State.partStacks (s : State) (p : Nat) : List Nat :=
  match s.layoutOf p with
  | some l => (List.range 48).filter (fun st => l.part.stackMask.testBit st)
  | none => []

/-- The sites with a logical row in the columns of a partition, ascending. -/
def State.partSites (s : State) (p : Nat) : List Nat :=
  match s.layoutOf p with
  | some l => (List.range 156).filter (fun st =>
      decide (l.part.firstCol ≤ siteCol st) && decide (siteCol st ≤ l.part.lastCol) && (s.dieOfSite st).isSome)
  | none => []

def State.partRegions (s : State) (p : Nat) : List Nat := (s.partSites p).flatMap siteRegions

/-- The regions that a layout in force puts in crew c of partition p. -/
def State.crewRegions (s : State) (p c : Nat) : List Nat :=
  (s.partRegions p).filter (fun r => match (s.region r).assign with
    | some a => a.part == p && a.crew == c
    | none => false)

/-! ## Addresses (R32 to R34) -/

/-- What a panel address names. -/
inductive Target where
  | hbm (a : Nat)
  | sram (lcid off : Nat)
  | hubReg (h off : Nat)
  | coxReg (die off : Nat)
  | coreReg (lcid off : Nat)
  | sync (obj off : Nat)
  | reserved
  deriving DecidableEq, Repr

def targetOf (a : Nat) : Target :=
  if a < 0x020000000000 then .hbm a
  else if 0x100000000000 ≤ a ∧ a < 0x100480000000 then
    (if (a - 0x100000000000) % 0x400000 < 0x200000 then
      .sram ((a - 0x100000000000) / 0x400000) ((a - 0x100000000000) % 0x400000) else .reserved)
  else if 0x200000000000 ≤ a ∧ a < 0x200010000000 then
    .hubReg ((a - 0x200000000000) / 0x4000000) ((a - 0x200000000000) % 0x4000000)
  else if 0x200100000000 ≤ a ∧ a < 0x200100900000 then
    .coxReg ((a - 0x200100000000) / 0x10000) ((a - 0x200100000000) % 0x10000)
  else if 0x200200000000 ≤ a ∧ a < 0x200201200000 then
    .coreReg ((a - 0x200200000000) / 0x1000) ((a - 0x200200000000) % 0x1000)
  else if 0x200300000000 ≤ a ∧ a < 0x200300048000 then
    .sync ((a - 0x200300000000) / 0x10) ((a - 0x200300000000) % 0x10)
  else .reserved

/-- The SRAM window base of an LCID (R33). -/
def sramBase (l : Nat) : Nat := 0x100000000000 + l * 0x400000

end Sys2Proof.Machine
end

