-- ==== Sys2Proof/Machine/Packets.lean ====
section
/-!
DEFINITION. Packets and flits (R212 to R216): the header in bits, the frame of a die-to-die link (R206), where the
edge units stand (R19, R213), and the HBM interleave that gives an address its slice (R274).
-/
namespace Sys2Proof.Machine

/-! ## Edge units -/

/-- The field of a hub (R19). -/
def hubField (h : Nat) : Nat := [0, 7, 63, 56].getD h 0
/-- The field of a fabric port. -/
def portField (f : Nat) : Nat := [4, 39, 59, 24].getD (f / 4) 4
/-- The field of a stack. -/
def stackField (st : Nat) : Nat := [2, 3, 5, 6, 23, 31, 47, 55, 61, 60, 58, 57, 40, 32, 16, 8].getD (st / 3) 2
/-- The edge node of a slice. -/
def sliceNode (sl : Nat) : Node := .edge (stackField (sl / 32)) (sl / 32 % 3 * 32 + sl % 32)
def portNode (f : Nat) : Node := .edge (portField f) (f % 4)
def hubNode (h : Nat) : Node := .edge (hubField h) 0
def bezelNode (h : Nat) : Node := .edge (hubField h) 1

/-- The slice of an edge node in an HBM field. -/
def nodeSlice (n : Node) : Option Nat :=
  match n with
  | .edge f u =>
    ([2, 3, 5, 6, 23, 31, 47, 55, 61, 60, 58, 57, 40, 32, 16, 8].idxOf? f).bind (fun i =>
      if u / 32 < 3 then some ((i * 3 + u / 32) * 32 + u % 32) else none)
  | .router _ _ => none

/-- The fabric port of an edge node in an optical field. -/
def nodePort (n : Node) : Option Nat :=
  match n with
  | .edge f u => ([4, 39, 59, 24].idxOf? f).map (fun i => i * 4 + u % 4)
  | .router _ _ => none

/-- The hub of an edge node in a hub field. -/
def nodeHub (n : Node) : Option Nat :=
  match n with
  | .edge f _ => [0, 7, 63, 56].idxOf? f
  | .router _ _ => none

/-! ## The packet as flits -/

/-- The node a packet is addressed to (R213); a tree packet has none. -/
def Packet.dest (p : Packet) : Option Node :=
  if p.dkind = 0 then some (.router p.dest0 p.dest1)
  else if p.dkind = 1 then some (.edge p.dest0 p.dest1)
  else none

def Packet.src (p : Packet) : Node := if p.sedge then .edge p.src0 p.src1 else .router p.src0 p.src1

def Packet.setDest (p : Packet) (n : Node) : Packet :=
  match n with
  | .router x y => { p with dkind := 0, dest0 := x, dest1 := y }
  | .edge f u => { p with dkind := 1, dest0 := f, dest1 := u }

def Packet.setSrc (p : Packet) (n : Node) : Packet :=
  match n with
  | .router x y => { p with sedge := false, src0 := x, src1 := y, loc := n }
  | .edge f u => { p with sedge := true, src0 := f, src1 := u, loc := n }

/-- The payload flits of a data packet, of which it has 2 at least (R212). -/
def Packet.payFlits (p : Packet) : Nat := max 2 (ceilDiv p.payload.length 32)
/-- PFL (R213). -/
def Packet.pfl (p : Packet) : Nat := if p.ctrl then 0 else p.payFlits - 1
/-- PAD of a data packet (R212). -/
def Packet.pad (p : Packet) : Nat := 32 * p.payFlits - p.payload.length

/-- AUX with PAD in the data form of WR, MSG, RDATA and the COL opcodes. -/
def Packet.auxByte (p : Packet) : Nat := if p.ctrl then p.aux else p.aux + p.pad

/-- The 16 header bytes (R213). -/
def Packet.header (p : Packet) : Nat :=
  p.opc % 16 + p.cls % 4 * 2 ^ 4 + (if p.esc then 2 ^ 6 else 0) + (if p.ctrl then 2 ^ 7 else 0) + p.pfl % 16 * 2 ^ 8
  + p.dkind % 4 * 2 ^ 12 + p.part % 4 * 2 ^ 14 + p.dest0 % 256 * 2 ^ 16 + p.dest1 % 256 * 2 ^ 24
  + p.src0 % 128 * 2 ^ 32 + (if p.sedge then 2 ^ 39 else 0) + p.src1 % 256 * 2 ^ 40 + p.tag % 65536 * 2 ^ 48
  + p.addr % 2 ^ 48 * 2 ^ 64 + p.auxByte % 256 * 2 ^ 112 + p.ttl % 256 * 2 ^ 120

/-- The flits of a packet (R212). -/
def Packet.flits (p : Packet) : List Flit :=
  if p.ctrl then [BitVec.ofNat 256 (p.header + natLE (p.payload.take 16) * 2 ^ 128)]
  else BitVec.ofNat 256 p.header ::
    (List.range p.payFlits).map (fun i => BitVec.ofNat 256 (natLE (slice p.payload (32 * i) 32)))

/-- The number of flits a head flit announces. -/
def headFlits (f : Flit) : Nat := if f.toNat.testBit 7 then 1 else bitsOf f.toNat 11 8 + 2

/-- The packet that flits spell, standing at loc. -/
def packetOf (fl : List Flit) (loc : Node) (arr : Dir) : Packet :=
  let h := (fl.headD 0).toNat
  let ctrl := h.testBit 7
  let aux := bitsOf h 119 112
  let body := (fl.drop 1).flatMap (fun f => bytesLE 32 f.toNat)
  let pad := bitsOf aux 5 0
  { cls := bitsOf h 5 4, opc := bitsOf h 3 0, esc := h.testBit 6, ctrl := ctrl
    dkind := bitsOf h 13 12, part := bitsOf h 15 14, dest0 := bitsOf h 23 16, dest1 := bitsOf h 31 24
    src0 := bitsOf h 38 32, sedge := h.testBit 39, src1 := bitsOf h 47 40, tag := bitsOf h 63 48
    addr := bitsOf h 111 64
    aux := if ctrl then aux else aux - pad
    ttl := bitsOf h 127 120
    payload := if ctrl then bytesLE 16 (bitsOf h 255 128) else body.take (body.length - pad)
    loc := loc, arr := arr }

/-- The tag bit of requests by router agents (R213). -/
def agentTag : Nat := 0x8000

/-- A tree's number in State.trees. -/
def treeKey (part ty tree : Nat) : Nat := part * 2048 + ty * 1024 + tree
def Packet.treeNo (p : Packet) : Nat := p.dest0 + p.dest1 % 4 * 256
def Packet.treeTy (p : Packet) : Nat := p.dest1 / 4 % 2
def Packet.treeKey (p : Packet) : Nat := Sys2Proof.Machine.treeKey p.part p.treeTy p.treeNo

/-- The virtual channel of a packet (R218). -/
def Packet.vc (p : Packet) : Nat := p.cls * 2 + (if p.esc then 1 else 0)

/-- The port of a router, in pointer order (R488), by which a packet travelling in a direction comes in, or leaves. -/
def Dir.inPort : Dir → Nat
  | .localPort => 0
  | .south => 1
  | .west => 2
  | .north => 3
  | .east => 4
  | .tap => 5
  | .expX => 6
  | .expY => 7

def Dir.outPort : Dir → Nat
  | .localPort => 0
  | .north => 1
  | .east => 2
  | .south => 3
  | .west => 4
  | .tap => 5
  | .expX => 6
  | .expY => 7

/-- Routers are named X × 72 + Y; an edge field f is named 5184 + f. -/
def Node.name : Node → Nat
  | .router x y => x * 72 + y
  | .edge f _ => 5184 + f

/-- The input at which a packet stands. -/
def Packet.inKey (p : Packet) : Nat := p.loc.name * 8 + p.arr.inPort

/-- The packets p and q stand in one queue: one virtual channel of one input, or the buffers of one tree for one neighbour
(R218, R255). -/
def Packet.sameQueue (p q : Packet) : Bool :=
  q.loc == p.loc && q.arr == p.arr && q.vc == p.vc && (p.dkind == 2) == (q.dkind == 2)
  && (p.dkind != 2 || (q.part == p.part && q.dest0 == p.dest0 && q.dest1 == p.dest1 && q.src == p.src && q.opc == p.opc && q.port == p.port))

/-- Packet i is at the head of its queue. Queues and links keep the order of arrival, and so do the packets of one pair and
class (R227). -/
def headOfLine (net : List Packet) (i : Nat) : Bool :=
  match net[i]? with
  | none => false
  | some p => (net.take i).all (fun q => !p.sameQueue q)

/-! ## Building packets -/

/-- A response to a packet: RSP, addressed to its source, with its TAG and PART. -/
def Packet.reply (p : Packet) (opc : Nat) (addr aux : Nat) (payload : List Byte) (ctrl : Bool) : Packet :=
  ({ cls := 2, opc := opc, ctrl := ctrl, part := p.part, tag := p.tag, addr := addr, aux := aux
     payload := payload, loc := p.loc } : Packet).setSrc p.loc |>.setDest p.src

def zeros (n : Nat) : List Byte := List.replicate n 0

/-- ACK with a STATUS (R215, R216). -/
def Packet.ack (p : Packet) (status : Nat) : Packet := p.reply 0x1 p.addr status (zeros 16) true

/-- Read data, in the control form for up to 16 bytes (R215). -/
def Packet.rdata (p : Packet) (off : Nat) (bytes : List Byte) : Packet :=
  if bytes.length ≤ 16 then p.reply 0x0 off (bytes.length - 1) (bytes ++ zeros (16 - bytes.length)) true
  else p.reply 0x0 off 0 bytes false

/-- The bytes an RDATA carries. -/
def Packet.readBytes (p : Packet) : List Byte := if p.ctrl then p.payload.take (p.aux % 16 + 1) else p.payload

/-- A write of bytes to an address: WRS for up to 16 bytes, else WR (R217). -/
def writePacket (cls part tag addr : Nat) (bytes : List Byte) (src dst : Node) : Packet :=
  ((({ cls := cls, opc := if bytes.length ≤ 16 then 0x2 else 0x1, ctrl := decide (bytes.length ≤ 16), part := part
       tag := tag, addr := addr, aux := if bytes.length ≤ 16 then bytes.length - 1 else 0
       payload := if bytes.length ≤ 16 then bytes ++ zeros (16 - bytes.length) else bytes, loc := src } : Packet).setSrc src).setDest dst)

/-- The bytes a WR or WRS carries. -/
def Packet.writeBytes (p : Packet) : List Byte := if p.opc = 0x2 then p.payload.take (p.aux % 16 + 1) else p.payload

/-- A read of len bytes (1 to 512) with the reply offset. -/
def readPacket (cls part tag addr len off : Nat) (src dst : Node) : Packet :=
  ((({ cls := cls, opc := 0x0, part := part, tag := tag, addr := addr
       payload := bytesLE 2 (len - 1) ++ bytesLE 3 off ++ zeros 11, loc := src } : Packet).setSrc src).setDest dst)

def Packet.readLen (p : Packet) : Nat := natLE (p.payload.take 2) % 512 + 1
def Packet.readOff (p : Packet) : Nat := natLE (slice p.payload 2 3)

/-- A SYNC packet (R245): kind 0 SIGNAL, 1 WAIT, 2 ARM, 3 BARRIER. -/
def syncPacket (cls part tag obj kind value lcid : Nat) (src dst : Node) : Packet :=
  ((({ cls := cls, opc := 0x4, part := part, tag := tag, addr := obj, aux := kind
       payload := bytesLE 4 value ++ bytesLE 2 lcid ++ zeros 10, loc := src } : Packet).setSrc src).setDest dst)

def Packet.syncValue (p : Packet) : Nat := natLE (p.payload.take 4)
def Packet.syncLcid (p : Packet) : Nat := natLE (slice p.payload 4 2)

/-! ## Frames of a die-to-die link (R206) -/

structure LinkFrame where
  seq   : Nat
  ack   : Nat
  xoff  : Nat
  mask  : Nat
  nak   : Bool
  slots : List Flit
  deriving DecidableEq, Repr

/-- Bytes 0 to 131 of a frame. -/
def LinkFrame.body (f : LinkFrame) : List Byte :=
  (List.range 4).flatMap (fun i => bytesLE 32 (f.slots.getD i 0).toNat)
  ++ [BitVec.ofNat 8 f.seq, BitVec.ofNat 8 f.ack, BitVec.ofNat 8 f.xoff, BitVec.ofNat 8 (f.mask + (if f.nak then 16 else 0))]

/-- The 136 bytes of a frame. -/
def LinkFrame.bytes (f : LinkFrame) : List Byte := f.body ++ bytesLE 4 (crc32c f.body)

/-- What a link end reads of 136 bytes: the frame, and whether its CRC passes. -/
def parseFrame (b : List Byte) : LinkFrame × Bool :=
  let g := fun i => (b.getD i 0).toNat
  ({ seq := g 128, ack := g 129, xoff := g 130, mask := g 131 % 16, nak := (g 131).testBit 4
     slots := ((List.range 4).filter (fun i => (g 131).testBit i)).map (fun i => BitVec.ofNat 256 (natLE (slice b (32 * i) 32))) },
   crc32c (b.take 132) == natLE (slice b 132 4))

/-- What arrives of bytes sent over a link that disturbs them: noise is added bit by bit from the first byte on. -/
def disturb : List Byte → List Byte → List Byte
  | b, [] => b
  | [], _ => []
  | b :: bs, n :: ns => (b ^^^ n) :: disturb bs ns

/-! ## The HBM window of a partition (R274) -/

/-- Bytes of a slice, and 4 KiB units of it that back the window (R272). -/
def sliceBytes : Nat := 750000000
def sliceUnits : Nat := 178000

/-- The slice and the byte within its backed space of an address under an interleave of ascending stacks. -/
def hbmLocate (stacks_ : List Nat) (a : Nat) : Option (Nat × Nat) :=
  let n := 32 * stacks_.length
  let u := a / 4096
  if n * sliceUnits ≤ u then none
  else
    let pos := u % n
    some (stacks_.getD (pos / 32) 0 * 32 + pos % 32, u / n * 4096 + a % 4096)

/-- Where a byte of a slice's backed space is kept: its own unit, or the pool unit it is redirected to (R284). -/
def Slice.keep (sl : Slice) (byte : Nat) : Nat := Tab.get (byte / 4096) sl.redirect (byte / 4096) * 4096 + byte % 4096

/-- The key in State.hbm of a byte of a slice. -/
def hbmKey (s : State) (sl byte : Nat) : Nat := sl * sliceBytes + (s.slice sl).keep byte

/-- The window address of the first byte of the unit that a key of State.hbm lies in, under an interleave; none for a key
that no address reaches. -/
def State.unitOfKey (s : State) (inter : List Nat) (key : Nat) : Option Nat :=
  let sl := key / sliceBytes
  let x := key % sliceBytes / 4096
  if !inter.contains (sl / 32) then none
  else
    let red := (s.slice sl).redirect
    let unit := if x < sliceUnits then (if red.any (fun e => e.1 == x) then none else some x) else (red.find? (fun e => e.2 == x)).map (·.1)
    unit.map (fun u => u * (32 * inter.length) + inter.idxOf (sl / 32) * 32 + sl % 32)

/-- The partition whose interleave a word of State.hbm lies under, with its word number in that partition's window. -/
def State.windowWord (s : State) (w : Nat) : Option (Nat × Nat) :=
  ((List.range 4).find? (fun p => (s.hub p).interleave.contains (w * 8 / sliceBytes / 32))).bind (fun p =>
    (s.unitOfKey (s.hub p).interleave (w * 8)).map (fun u => (p, u * 512 + w * 8 % sliceBytes % 4096 / 8)))

/-- A word lies in a unit that a move could not read, and has not been written since (R287). -/
def State.hbmLost (s : State) (w : Nat) : Bool :=
  if (List.range 4).all (fun p => (s.hub p).lostUnits.isEmpty) then false
  else match s.windowWord w with
    | some (p, v) => (s.hub p).lostUnits.any (fun x => x.2.contains (v / 512 % x.1 / 32)) && !(s.hub p).healed.contains v
    | none => false

/-- A word is uncorrectable or poisoned. -/
def State.hbmBad (s : State) (w : Nat) : Bool := s.hbmUe.contains w || s.hbmLost w

/-- Words that have been written whole stand with valid check bits. -/
def healWords (s : State) (ws : List Nat) : State :=
  ((s.setHbmUe (s.hbmUe.filter (fun w => !ws.contains w))).setHbmCe (s.hbmCe.filter (fun w => !ws.contains w))).each
    (ws.filter s.hbmLost) (fun s w => match s.windowWord w with
      | some (p, v) => s.updHub p (fun h => { h with healed := h.healed.add v })
      | none => s)

end Sys2Proof.Machine
end

