-- ==== Sys2Proof/Machine/Routing.lean ====
section
/-!
DEFINITION. Routing over the mesh, the express channels and the edge legs (R210, R211, R222 to R224).
-/
namespace Sys2Proof.Machine

/-- A region's routers are live (R202, R29): it is not fenced, its die is not fenced and it is supplied. -/
def State.regionLive (s : State) (r : Nat) : Bool :=
  !(s.region r).fenced && !(s.cox (r / 4)).fenced

/-- A router works while its region's clock runs (R57, R59). -/
def State.routerRuns (s : State) (k : Nat) : Bool := (s.region (coreRegion k)).clock == .running

/-- The STATUS for a router that is not live: 3 where its region was fenced during the run, 1 where it has been fenced since
configuration (R35, R222). -/
def State.deadStatus (s : State) (x y : Nat) : Nat :=
  match s.coreAtRouter x y with
  | some k => if (s.region (coreRegion k)).midRun then 3 else 1
  | none => 1

/-- The router at global coordinates is a node of the mesh. -/
def State.routerLive (s : State) (x y : Nat) : Bool :=
  match s.coreAtRouter x y with
  | some k => s.regionLive (coreRegion k)
  | none => false

/-- The record number of a link end in a direction, at in-die position (x, y) (R238). -/
def linkNo (d : Dir) (x y : Nat) (plus : Bool) : Nat :=
  match d with
  | .north => x
  | .east => 6 + y
  | .south => 12 + x
  | .west => 18 + y
  | .expX => if plus then 24 else 25
  | .expY => if plus then 26 else 27
  | _ => 28 + (y / 3 * 2 + x / 3)

def Dir.rev : Dir → Dir
  | .north => .south
  | .south => .north
  | .east => .west
  | .west => .east
  | d => d

/-- The neighbouring router in a mesh direction, none outside the array. -/
def meshStep (x y : Nat) (d : Dir) : Option (Nat × Nat) :=
  match d with
  | .north => if y = 0 then none else some (x, y - 1)
  | .south => if 71 ≤ y then none else some (x, y + 1)
  | .west => if x = 0 then none else some (x - 1, y)
  | .east => if 71 ≤ x then none else some (x + 1, y)
  | _ => none

/-- A mesh hop stays on its die. -/
def sameDie (x y x' y' : Nat) : Bool := x / 6 == x' / 6 && y / 6 == y' / 6

/-- The key of the link end that a router uses in a mesh direction. -/
def State.linkKey (s : State) (x y : Nat) (d : Dir) : Option Nat :=
  (s.coreAtRouter x y).map (fun k => coreSite k * 32 + linkNo d (x % 6) (y % 6) true)

/-- LINK_STAT.STATE of a link end allows traffic (1 full, 2 half). -/
def LinkEnd.up (l : LinkEnd) : Bool := l.state == 1 || l.state == 2

/-- The state of the hop from (x, y) in a mesh direction: 0 usable, 1 to be waited for, 2 dead. A hop on a die needs a
live router; a hop between dies needs a link that is neither unused nor disabled. -/
def State.meshHop (s : State) (x y : Nat) (d : Dir) : Nat :=
  match meshStep x y d with
  | none => 2
  | some (x', y') =>
    if !s.routerLive x' y' then 2
    else if sameDie x y x' y' then 0
    else match s.linkKey x y d with
      | none => 2
      | some e => if (s.link e).up then 0 else if (s.link e).state = 3 then 1 else 2

/-- The station coordinates (R210). -/
def stations : List Nat := [3, 27, 51]

/-- The mesh that the fabric manager works from (R225 step 3): the partition's regions out of the mesh, and the link and
channel records out of service. -/
def loadMap (s : State) (p : Nat) : State :=
  s.updFab p (fun f => { f with
    deadRegions := (s.partRegions p).filter (fun r => !s.regionLive r)
    deadLinks := (s.partSites p).flatMap (fun site => ((List.range 28).map (fun e => site * 32 + e)).filter (fun e => (s.link e).state == 4)) })

/-- The record of a station's channel, in dimension X or Y, towards higher or lower coordinates. -/
def State.channelKey (s : State) (isX : Bool) (x y : Nat) (plus : Bool) : Option Nat :=
  (s.coreAtRouter x y).map (fun k => coreSite k * 32 + linkNo (if isX then .expX else .expY) 0 0 plus)

/-- By the station-state map, the station of the die at router (x, y) is in service in the direction asked: the die is in the
mesh and in partition p, and its channel record is in service. -/
def State.stationUp (s : State) (p : Nat) (isX : Bool) (x y : Nat) (plus : Bool) : Bool :=
  s.partOfCol (x / 6) == some p
  && (match s.channelKey isX x y plus with
    | some e => (s.link e).state != 0 && !(s.hub p).fab.deadLinks.contains e
        && !((siteRegions (e / 32)).all (fun r => (s.hub p).fab.deadRegions.contains r))
    | none => false)

/-- The state of a station's channel record: 1 carries traffic, 3 holds it in a retrain (R235). -/
def State.channelState (s : State) (isX : Bool) (x y : Nat) (plus : Bool) : Nat :=
  ((s.channelKey isX x y plus).map (fun e => (s.link e).state)).getD 0

/-- The primary hop of R223 along one dimension, from c to d: the express channel to take now, or none for the mesh. -/
def expressFrom (up : Nat → Bool → Bool) (c d : Nat) : Option Nat :=
  if c < d then
    match stations.find? (fun x => decide (c ≤ x) && up x true), (stations.reverse).find? (fun x => decide (x ≤ d) && up x false) with
    | some a, some b => if a + 24 ≤ b && c == a then some b else none
    | _, _ => none
  else
    match (stations.reverse).find? (fun x => decide (x ≤ c) && up x false), stations.find? (fun x => decide (d ≤ x) && up x true) with
    | some a, some b => if b + 24 ≤ a && c == a then some b else none
    | _, _ => none

/-- The next primary hop from (x, y) towards (dx, dy): direction and router. -/
def State.primaryHop (s : State) (p x y dx dy : Nat) : Option (Dir × Nat × Nat) :=
  if x ≠ dx then
    match expressFrom (fun c plus => s.stationUp p true c y plus) x dx with
    | some b => some (.expX, b, y)
    | none =>
      let d := if x < dx then Dir.east else Dir.west
      (meshStep x y d).map (fun n => (d, n.1, n.2))
  else if y ≠ dy then
    match expressFrom (fun c plus => s.stationUp p false x c plus) y dy with
    | some b => some (.expY, x, b)
    | none =>
      let d := if y < dy then Dir.south else Dir.north
      (meshStep x y d).map (fun n => (d, n.1, n.2))
  else none

/-! ## The two ends of a die-edge link -/

/-- The router of a link end and the direction of travel into it. -/
def State.linkPlace (s : State) (site e : Nat) : Option (Nat × Nat × Dir) :=
  (s.dieOfSite site).map (fun d =>
    let x0 := d / 12 * 6
    let y0 := d % 12 * 6
    if e < 6 then (x0 + e, y0, .south)
    else if e < 12 then (x0 + 5, y0 + (e - 6), .west)
    else if e < 18 then (x0 + (e - 12), y0 + 5, .north)
    else (x0, y0 + (e - 18), .east))

/-- The other end of a die-edge link: the neighbouring logical die that the selectors join it to (R22). -/
def State.linkPartner (s : State) (site e : Nat) : Option Nat :=
  match s.linkPlace site e with
  | none => none
  | some (x, y, d) =>
    (meshStep x y d.rev).bind (fun n => (s.coreAtRouter n.1 n.2).map (fun k => coreSite k * 32 + linkNo d (n.1 % 6) (n.2 % 6) true))

/-- The core of the router that a die-edge link end belongs to. -/
def linkCore (key : Nat) : Nat :=
  let e := key % 32
  let x := if e < 6 then e else if e < 12 then 5 else if e < 18 then e - 12 else 0
  let y := if e < 6 then 0 else if e < 12 then e - 6 else if e < 18 then 5 else e - 18
  key / 32 * 36 + y * 6 + x

/-! ## Escape routes (R224) -/

/-- The turn rule: travelling a, may a packet leave in direction d at global X x? -/
def turnOk (x : Nat) (a d : Dir) : Bool :=
  match a with
  | .east => d != .west && !(x % 2 == 0 && (d == .north || d == .south))
  | .west => d != .east
  | .north => d != .south && !(x % 2 == 1 && d == .west)
  | .south => d != .north && !(x % 2 == 1 && d == .west)
  | _ => true

/-- A node of the search: router, direction of travel, and the first hop of the path to it. -/
structure EscNode where
  x : Nat
  y : Nat
  a : Dir
  first : Dir
  deriving DecidableEq, Repr

/-- A mesh hop that the tables in force use: its router is in their mesh, and its link. -/
def State.mapHop (s : State) (p x y : Nat) (d : Dir) (x' y' : Nat) : Bool :=
  s.partOfCol (x' / 6) == some p
  && (match s.coreAtRouter x' y' with
    | some k => !(s.hub p).fab.deadRegions.contains (coreRegion k)
    | none => false)
  && (sameDie x y x' y' || (match s.linkKey x y d with
    | some e => (s.link e).state != 0 && !(s.hub p).fab.deadLinks.contains e
    | none => false))

/-- The legal mesh hops of the tables from a router travelling a, in the order E, W, S, N, within partition p. -/
def State.escHops (s : State) (p x y : Nat) (a : Dir) : List (Dir × Nat × Nat) :=
  [Dir.east, .west, .south, .north].filterMap (fun d =>
    if turnOk x a d then
      match meshStep x y d with
      | some (x', y') => if s.mapHop p x y d x' y' then some (d, x', y') else none
      | none => none
    else none)

/-- Breadth-first search level by level; the first path to the destination in E, W, S, N order is the shortest. -/
def State.escSearch (s : State) (p dx dy : Nat) : Nat → List EscNode → List EscNode → Option Dir
  | 0, _, _ => none
  | fuel + 1, seen, frontier =>
    match frontier.find? (fun n => n.x == dx && n.y == dy) with
    | some n => some n.first
    | none =>
      let step := frontier.flatMap (fun n => (s.escHops p n.x n.y n.a).map (fun (d, x, y) => EscNode.mk x y d n.first))
      let fresh := step.foldl (fun acc n =>
        if (seen ++ acc).any (fun m => m.x == n.x && m.y == n.y && m.a == n.a) then acc else acc ++ [n]) []
      match fresh with
      | [] => none
      | _ => State.escSearch s p dx dy fuel (seen ++ fresh) fresh

/-- The escape table's hop from (x, y), arriving in direction a; free says that it is the first escape hop. -/
def State.escapeHop (s : State) (p x y dx dy : Nat) (a : Dir) (free : Bool) : Option (Dir × Nat × Nat) :=
  let hops := s.escHops p x y (if free then .localPort else a)
  match s.escSearch p dx dy 20736 [] (hops.map (fun (d, x', y') => EscNode.mk x' y' d d)) with
  | some d => hops.find? (fun h => h.1 == d)
  | none => none

/-- The hop that the map and the tables in force give a packet at a router, whatever stands in its way at the moment. -/
def State.tableHop (s : State) (p x y dx dy : Nat) (a : Dir) (esc : Bool) : Option (Dir × Nat × Nat × Bool) :=
  let escape := fun (free : Bool) => (s.escapeHop p x y dx dy a free).map (fun h => (h.1, h.2.1, h.2.2, true))
  if esc then escape false
  else match s.primaryHop p x y dx dy with
    | none => none
    | some (d, x', y') =>
      let there := match s.coreAtRouter x' y' with
        | some k => !(s.hub p).fab.deadRegions.contains (coreRegion k)
        | none => false
      if (if d == .expX || d == .expY then there else s.mapHop p x y d x' y') then some (d, x', y', false) else escape true

/-! ## Edge legs (R211) -/

/-- The region of a die whose tap serves region q: the region's own, or the first in service among its
substitutes. -/
def State.tapOf (s : State) (site q : Nat) : Option Nat :=
  [q, q ^^^ 1, q ^^^ 2, q ^^^ 3].find? (fun t =>
    s.regionLive (site * 4 + t) && !(s.region (site * 4 + t)).tapOut && (s.link (site * 32 + 28 + t)).up)

/-- The in-die position of the tap of region q (R200). -/
def tapXY (q : Nat) : Nat × Nat := ([2, 3, 2, 3].getD q 2, [2, 2, 3, 3].getD q 2)

/-- The global router of the tap that serves a router. -/
def State.tapRouter (s : State) (x y : Nat) : Option (Nat × Nat) :=
  (s.coreAtRouter x y).bind (fun k =>
    (s.tapOf (coreSite k) (quadOf (k % 36))).map (fun t => (x / 6 * 6 + (tapXY t).1, y / 6 * 6 + (tapXY t).2)))

/-! ## One hop of a packet -/

/-- What a router does with a packet that is not for its own core. -/
inductive Hop where
  /-- Move to a node on the same die or over an express channel or an edge leg. -/
  | move (n : Node) (arr : Dir) (esc : Bool)
  /-- Cross a die-edge link. -/
  | cross (key : Nat) (x y : Nat) (d : Dir) (esc : Bool)
  /-- Hold the packet. -/
  | hold
  /-- Answer or discard it with a STATUS (R216, R222). -/
  | stop (status : Nat)
  deriving DecidableEq, Repr

/-- A hop into a node waits while the input there has set the packet's virtual channel OFF (R220), and while the region
there is stopped, which raises a hold on its inbound links (R57, R58 step 2). The receive FIFO of such a hop is read out within
the command (log entry 153). -/
def State.enter (s : State) (p : Packet) (n : Node) (arr : Dir) (esc : Bool) : Hop :=
  let stopped := match n with
    | .router x y => !((s.coreAtRouter x y).map s.routerRuns).getD false
    | .edge _ _ => false
  if stopped || (Tab.get 0 s.offs (n.name * 8 + arr.inPort)).testBit (p.cls * 2 + (if esc then 1 else 0)) then .hold else .move n arr esc

/-- The output of a link end is free for a virtual channel: no packet of it is still to leave (R219). -/
def LinkEnd.vcFree (l : LinkEnd) (v : Nat) : Bool := l.sendQ.all (fun f => f.1 != v)

/-- The hop over a mesh link that is up. -/
def State.overLink (s : State) (p : Packet) (x y : Nat) (d : Dir) (x' y' : Nat) (esc : Bool) : Hop :=
  if sameDie x y x' y' then s.enter p (.router x' y') d esc
  else match s.linkKey x y d with
    | some e =>
      let v := p.cls * 2 + (if esc then 1 else 0)
      if (s.link e).offIn.toNat.testBit v || !(s.link e).vcFree v then .hold else .cross e x' y' d esc
    | none => .stop 3

/-- The hop in a mesh direction, with the gate of the partition's boundary (R204). -/
def State.takeHop (s : State) (p : Packet) (x y : Nat) (d : Dir) (esc : Bool) : Hop :=
  match meshStep x y d with
  | none => .stop 3
  | some (x', y') =>
    if s.partOfCol (x' / 6) != s.partOfCol (x / 6) then .stop 5
    else if s.meshHop x y d = 1 then .hold
    else s.overLink p x y d x' y' esc

/-- The hop by the escape table of a router, free on the first one; an entry that leads nowhere now is no legal entry. -/
def State.escapeTo (s : State) (p : Packet) (x y dx dy : Nat) (free : Bool) : Hop :=
  match s.escapeHop ((s.partOfCol (x / 6)).getD 0) x y dx dy p.arr free with
  | some (d, _, _) => if s.meshHop x y d = 2 then .stop (if s.routerLive dx dy then 4 else s.deadStatus dx dy) else s.takeHop p x y d true
  | none => .stop (if s.routerLive dx dy then 4 else s.deadStatus dx dy)

/-- The hop of a packet towards the router (dx, dy) (R222 to R224, R226). -/
def State.routeTo (s : State) (p : Packet) (x y dx dy : Nat) : Hop :=
  let part := (s.partOfCol (x / 6)).getD 0
  let escape := if s.routerLive dx dy then s.escapeTo p x y dx dy true else .stop (s.deadStatus dx dy)
  if p.esc then s.escapeTo p x y dx dy false
  else
    match s.primaryHop part x y dx dy with
    | none => .stop 3
    | some (d, bx, by_) =>
      if d == .expX || d == .expY then
        let st := s.channelState (d == .expX) x y (decide (x < bx) || decide (y < by_))
        if st = 3 then .hold else if st = 1 && s.routerLive bx by_ then s.enter p (.router bx by_) d false else escape
      else if s.partOfCol (bx / 6) != some part then .stop 5
      else if s.meshHop x y d = 2 then escape
      else s.takeHop p x y d false

/-- The hop of a tree's packet to the neighbour that its router has given it: only into the tree's buffer there, 34 flits of it
(R254, R255); over a link that is not up it waits. -/
def State.treeHop (s : State) (p : Packet) (x y : Nat) (d : Dir) (r : Nat) : Hop :=
  let n : TreeNode := Tab.get {} (s.tree p.treeKey).nodes (x * 72 + y)
  if !s.routerLive (r / 72) (r % 72) then .stop 3
  else if 34 < Tab.get 0 n.used r + p.flits.length then .hold
  else if d == .expX || d == .expY then
    (if s.channelState (d == .expX) x y (decide (x < r / 72) || decide (y < r % 72)) = 1 then s.enter p (.router (r / 72) (r % 72)) d false else .hold)
  else if s.meshHop x y d ≠ 0 then .hold
  else s.overLink p x y d (r / 72) (r % 72) false

/-- The next hop of a packet. Between two edge units it is one leg; from an edge unit it enters at the tap of the
destination's region; towards an edge unit it leaves by the tap of its region (R211, R223). -/
def State.nextHop (s : State) (p : Packet) : Hop :=
  match p.loc, p.dest with
  | .router x y, none =>
    (match p.port with
      | some (d, r) => s.treeHop p x y d r
      | none => .hold)
  | .edge _ _, none => .hold
  | .edge _ _, some (.edge f u) => s.enter p (.edge f u) .tap p.esc
  | .edge _ _, some (.router dx dy) =>
    (match s.tapRouter dx dy with
      | some (tx, ty) => if s.routerLive dx dy then s.enter p (.router tx ty) .tap p.esc else .stop (s.deadStatus dx dy)
      | none => .stop 3)
  | .router x y, some (.edge f u) =>
    (match s.tapRouter x y with
      | some (tx, ty) => if x == tx && y == ty then s.enter p (.edge f u) .tap p.esc else s.routeTo p x y tx ty
      | none => .stop 3)
  | .router x y, some (.router dx dy) => s.routeTo p x y dx dy

end Sys2Proof.Machine
end

