-- ==== Sys2Proof/Machine/Arbiter.lean ====
section
/-!
DEFINITION. The arbiters of the fabric (R219, R241, R155, R278, R488), the flow control of inputs (R220), and packets at
their destination. What stands at a router at one moment is offered in one flit slot; a packet takes its output from its head to
its tail.
-/
namespace Sys2Proof.Machine

/-- The physical core of the router a packet stands in. -/
def State.coreHere (s : State) (p : Packet) : Option Nat :=
  match p.loc with
  | .router x y => s.coreAtRouter x y
  | .edge _ _ => none

/-- A router ejects to its core while the region is awake (R203). -/
def State.ejects (s : State) (k : Nat) : Bool :=
  s.routerRuns k && (s.region (coreRegion k)).depth == 0 && !(s.region (coreRegion k)).waking

/-! ## Inputs (R220) -/

/-- The record of the die-edge link by which a packet came to its router, if it came by one (R238). -/
def State.edgeKey (s : State) (p : Packet) : Option Nat :=
  match p.loc with
  | .edge _ _ => none
  | .router x y =>
    (s.coreAtRouter x y).bind (fun k =>
      let base := coreSite k * 32
      match p.arr with
      | .north => if y % 6 = 5 then some (base + 12 + x % 6) else none
      | .south => if y % 6 = 0 then some (base + x % 6) else none
      | .east => if x % 6 = 0 then some (base + 18 + y % 6) else none
      | .west => if x % 6 = 5 then some (base + 6 + y % 6) else none
      | _ => none)

/-- The link record of the input a packet came in by, where the input has one (R238). -/
def State.inputKey (s : State) (p : Packet) : Option Nat :=
  match s.edgeKey p, p.loc with
  | some e, _ => some e
  | none, .router x y =>
    (s.coreAtRouter x y).bind (fun k =>
      let base := coreSite k * 32
      match p.arr with
      | .expX => some (base + (if p.sedge || p.src0 < x then 25 else 24))
      | .expY => some (base + (if p.sedge || p.src1 < y then 27 else 26))
      | .tap => some (base + 28 + quadOf (k % 36))
      | _ => none)
  | none, .edge _ _ => none

/-- The flits of a virtual channel that the packets at an input hold there; a tree's packets hold its own buffers (R254). -/
def State.heldAt (s : State) (key v : Nat) : Nat :=
  ((s.net.filter (fun p => p.inKey == key && p.vc == v && p.dkind != 2)).map (fun p => p.flits.length)).foldl (· + ·) 0

/-- OFF when 6 slots of 16 or fewer are free, ON when 12 or more are; free slots may fall below 0. -/
def offBit (held : Nat) (was : Bool) : Bool := if 10 ≤ held then true else if held ≤ 4 then false else was

/-- The 8 bits of an input's virtual channels, from the flits held and the bits before. -/
def offBits (held : Nat → Nat) (was : Nat) : Nat :=
  (List.range 8).foldl (fun a v => a + (if offBit (held v) (was.testBit v) then 2 ^ v else 0)) 0

/-- The virtual channel of the packet that comes in over a link end, and its flits. -/
def LinkEnd.rxFlits (l : LinkEnd) (v : Nat) : Nat :=
  match l.rx with
  | [] => 0
  | f :: _ => if bitsOf f.toNat 5 4 * 2 + bitsOf f.toNat 6 6 = v then l.rx.length else 0

/-- The input of a packet sets its channels OFF or ON: by the frames of its link at a die edge, else at once. The local input
of a router holds what its core and agents are still to inject. -/
def updOff (s : State) (p : Packet) : State :=
  let key := p.inKey
  match s.edgeKey p with
  | some e => s.updLink e (fun l => { l with offOut := BitVec.ofNat 8 (offBits (fun v => l.rxFlits v + s.heldAt key v) l.offOut.toNat) })
  | none => if p.arr == .localPort then s else s.setOffs (Tab.put 0 s.offs key (offBits (fun v => s.heldAt key v) (Tab.get 0 s.offs key)))

/-- A packet arrives at a node. -/
def arrive (s : State) (p : Packet) : State := updOff (s.place p) p

/-! ## Outputs (R219) -/

/-- The packet is for an agent of the router it stands at, not for the core: a SYNC or ADMIT, a response to an agent, or data of
a tree on its way (R214). -/
def Packet.forAgent (p : Packet) : Bool :=
  if p.dkind = 2 then p.opc != 2
  else if p.cls = 2 then decide (agentTag ≤ p.tag)
  else p.opc == 4 || (p.cls == 0 && p.opc == 5)

/-- The output that a packet at a router asks for and could take now; the local one ejects to the core. -/
def State.wants (s : State) (p : Packet) : Option Nat :=
  if p.dest == some p.loc || (p.dkind == 2 && p.port.isNone) then
    (if p.forAgent then none else if ((s.coreHere p).map s.ejects).getD false then some 0 else none)
  else match s.nextHop p with
    | .move _ d _ => some d.outPort
    | .cross _ _ _ d _ => some d.outPort
    | _ => none

/-- The repeating cycle of 15 grants, by class. -/
def classCycle : List Nat := [2, 3, 2, 1, 2, 3, 2, 0, 2, 3, 2, 1, 2, 3, 2]

/-- The first of some offers, in input order from a rotating pointer over n inputs, and the pointer past it. -/
def rotate (n ptr : Nat) (offers : List (Nat × Nat)) : Option (Nat × Nat) :=
  let d := fun (x : Nat × Nat) => (x.2 + n - ptr % n) % n
  (offers.find? (fun x => offers.all (fun y => decide (d x ≤ d y)))).map (fun x => (x.1, (x.2 + 1) % n))

/-- The grant of an output over its offers, place in State.net and packet: the class by the cycle, escape first, then the
input by the pointer. -/
def Arb.grant (a : Arb) (offers : List (Nat × Packet)) : Option (Nat × Arb) :=
  ((List.range 15).find? (fun n => offers.any (fun x => x.2.cls == classCycle.getD ((a.cycle + n) % 15) 0))).bind (fun n =>
    let mine := offers.filter (fun x => x.2.cls == classCycle.getD ((a.cycle + n) % 15) 0)
    let first := if mine.any (fun x => x.2.esc) then mine.filter (fun x => x.2.esc) else mine
    (rotate 8 a.ptr (first.map (fun x => (x.1, x.2.arr.inPort)))).map (fun g => (g.1, { cycle := (a.cycle + n + 1) % 15, ptr := g.2 })))

/-- The packets at the heads of their queues at a router, with their places. -/
def State.heads (s : State) (loc : Node) : List (Nat × Packet) :=
  (s.net.zipIdx.filter (fun x => x.1.loc == loc && headOfLine s.net x.2)).map (fun x => (x.2, x.1))

/-- The key of the arbiter of an output of a router; a home agent is number 8, an admission unit number 9. -/
def arbKey (loc : Node) (n : Nat) : Nat := loc.name * 16 + n

/-- The grant that an output of a router gives next. -/
def State.outGrant (s : State) (loc : Node) (o : Nat) : Option (Nat × Arb) :=
  (s.arb (arbKey loc o)).grant ((s.heads loc).filter (fun x => s.wants x.2 == some o))

/-- The packet is one that an agent takes in order of arrival: number 8 the home agent (R241), 9 the admission units (R155). -/
def Packet.agentNo (p : Packet) : Option Nat :=
  if p.dest == some p.loc && p.cls < 2 && p.opc == 4 then some 8
  else if p.dest == some p.loc && p.cls == 0 && p.opc == 5 then some 9
  else none

/-- Packet i, at its destination, goes next: by the local output's grant, or in order of arrival at an agent or an edge unit. -/
def State.goesNext (s : State) (i : Nat) (p : Packet) : Bool :=
  headOfLine s.net i && (match p.loc with
    | .edge _ _ => true
    | .router _ _ => match p.agentNo with
      | some _ => (s.net.take i).all (fun q => q.loc != p.loc || q.agentNo != p.agentNo)
      | none => p.forAgent || (s.outGrant p.loc 0).map (·.1) == some i)

/-- The arbiter that lets packet i go moves on. -/
def movePointer (s : State) (i : Nat) (p : Packet) : State :=
  match p.loc, p.agentNo with
  | .edge _ _, _ => s
  | .router _ _, some n => s.updArb (arbKey p.loc n) (fun a => { a with ptr := (p.arr.inPort + 1) % (if n = 8 then 9 else 8) })
  | .router _ _, none => match s.wants p with
    | some o => (match s.outGrant p.loc o with
      | some (j, a) => if j = i then s.updArb (arbKey p.loc o) (fun _ => a) else s
      | none => s)
    | none => s

/-- Packet i leaves where it stands: its arbiter moves on, and its input has room again. -/
def State.takePacket (s : State) (i : Nat) : State :=
  match s.net[i]? with
  | some p => updOff ((movePointer s i p).dropPacket i) p
  | none => s

/-- Packet i of the fabric, when it stands at its destination and goes next there. -/
def State.arrived (s : State) (i : Nat) (classes opcs : List Nat) : Option Packet :=
  match s.net[i]? with
  | some p => if p.dest == some p.loc && classes.contains p.cls && opcs.contains p.opc && s.goesNext i p then some p else none
  | none => none

end Sys2Proof.Machine
end

