-- ==== Sys2Proof/Machine/Num.lean ====
section
/-!
DEFINITION. Element formats, exact values, rounding and conversion (R107 to R123). An exact magnitude is a natural
number of units of 2^−320: every element value is a multiple of 2^−149 and every product of two FP32 values a multiple
of 2^−298, so sums and products of elements are exact.
-/
namespace Sys2Proof.Machine

/-- A real value with IEEE 754 signs, infinities and the one NaN of R108. -/
inductive Fpv where
  | fin (neg : Bool) (mag : Nat)
  | inf (neg : Bool)
  | nan
  deriving DecidableEq, Repr

/-- 1 in units of 2^−320. -/
def unit1 : Nat := 2 ^ 320

/-- A floating element format (R107). -/
structure FloatFmt where
  width : Nat
  mb    : Nat
  bias  : Nat
  /-- Whether the exponent of all ones is infinity and NaN (R108). -/
  ieee  : Bool
  maxMag : Nat
  /-- The NaN the panel writes. -/
  nan?  : Option Nat
  deriving DecidableEq, Repr

/-- (2^n − 1) × 2^e in units of 2^−320, for an e of at least −320 given as e + 320. -/
def topMag (n e320 : Nat) : Nat := (2 ^ n - 1) * 2 ^ e320

def fp32 : FloatFmt := ⟨32, 23, 127, true, topMag 24 (320 + 104), some 0x7FC00000⟩
def bf16 : FloatFmt := ⟨16, 7, 127, true, topMag 8 (320 + 120), some 0x7FC0⟩
def fp16 : FloatFmt := ⟨16, 10, 15, true, 65504 * unit1, some 0x7E00⟩
def e4m3 : FloatFmt := ⟨8, 3, 7, false, 448 * unit1, some 0x7F⟩
def e5m2 : FloatFmt := ⟨8, 2, 15, true, 57344 * unit1, some 0x7E⟩
def e3m2 : FloatFmt := ⟨6, 2, 3, false, 28 * unit1, none⟩
def e2m3 : FloatFmt := ⟨6, 3, 1, false, 15 * 2 ^ 319, none⟩
def e2m1 : FloatFmt := ⟨4, 1, 1, false, 6 * unit1, none⟩

/-- The element format of an FMT code (R69); none for the integer and the reserved codes. -/
def floatFmt : Nat → Option FloatFmt
  | 0x0 => some fp32
  | 0x1 => some bf16
  | 0x2 => some fp16
  | 0x3 => some e4m3
  | 0x4 => some e5m2
  | 0x5 => some e4m3
  | 0x6 => some e5m2
  | 0x7 => some e3m2
  | 0x8 => some e2m3
  | 0x9 => some e2m1
  | 0xD => some e2m1
  | _ => none

/-- The width of an integer format. -/
def intFmt : Nat → Option Nat
  | 0xA => some 8
  | 0xB => some 4
  | 0xC => some 32
  | _ => none

def isMx (f : Nat) : Bool := decide (5 ≤ f) && decide (f ≤ 9)
def isFloatFmt (f : Nat) : Bool := (floatFmt f).isSome
def isIntFmt (f : Nat) : Bool := (intFmt f).isSome

/-- The width of an element in bits. -/
def fmtBits (f : Nat) : Nat :=
  match floatFmt f with
  | some g => g.width
  | none => (intFmt f).getD 0

/-! ## Decoding (R107, R108) -/

def decodeFloat (g : FloatFmt) (v : Nat) : Fpv :=
  let neg := v.testBit (g.width - 1)
  let e := v / 2 ^ g.mb % 2 ^ (g.width - 1 - g.mb)
  let m := v % 2 ^ g.mb
  let ones := 2 ^ (g.width - 1 - g.mb) - 1
  if g.ieee && e == ones then (if m = 0 then .inf neg else .nan)
  else if g == e4m3 && v % 128 == 127 then .nan
  else if e = 0 then .fin neg (m * 2 ^ (321 - g.bias - g.mb))
  else .fin neg ((2 ^ g.mb + m) * 2 ^ (320 + e - g.bias - g.mb))

/-- The signed value of the low w bits. -/
def signed (w v : Nat) : Int := if v % 2 ^ w < 2 ^ (w - 1) then (v % 2 ^ w : Nat) else ((v % 2 ^ w : Nat) : Int) - 2 ^ w

/-- R110: an element of an MX block whose scale byte is s. -/
def mxDecode (s : Nat) (x : Fpv) : Fpv :=
  if s = 255 then .nan
  else match x with
    | .fin n m => .fin n (m * 2 ^ s / 2 ^ 127)
    | y => y

/-! ## Exact arithmetic with the sign rules of IEEE 754 -/

def Fpv.neg : Fpv → Fpv
  | .fin n m => .fin (!n) m
  | .inf n => .inf (!n)
  | .nan => .nan

def Fpv.abs : Fpv → Fpv
  | .fin _ m => .fin false m
  | .inf _ => .inf false
  | .nan => .nan

def Fpv.isNan : Fpv → Bool
  | .nan => true
  | _ => false

def Fpv.isFin : Fpv → Bool
  | .fin _ _ => true
  | _ => false

def Fpv.isNeg : Fpv → Bool
  | .fin n _ => n
  | .inf n => n
  | .nan => false

def Fpv.isZero : Fpv → Bool
  | .fin _ 0 => true
  | _ => false

/-- The signed number of units of a finite value (0 for the others). -/
def Fpv.toInt : Fpv → Int
  | .fin n m => if n then -(m : Int) else (m : Int)
  | _ => 0

/-- The value of a signed number of units; zero has the sign given. -/
def Fpv.ofInt (z : Bool) (i : Int) : Fpv :=
  if i = 0 then .fin z 0 else .fin (decide (i < 0)) i.natAbs

def Fpv.add : Fpv → Fpv → Fpv
  | .nan, _ => .nan
  | _, .nan => .nan
  | .inf a, .inf b => if a = b then .inf a else .nan
  | .inf a, _ => .inf a
  | _, .inf b => .inf b
  | .fin a m, .fin b n => Fpv.ofInt (a && b) (Fpv.toInt (.fin a m) + Fpv.toInt (.fin b n))

def Fpv.sub (a b : Fpv) : Fpv := Fpv.add a b.neg

def Fpv.mul : Fpv → Fpv → Fpv
  | .nan, _ => .nan
  | _, .nan => .nan
  | .inf a, .inf b => .inf (a != b)
  | .inf a, .fin b n => if n = 0 then .nan else .inf (a != b)
  | .fin a m, .inf b => if m = 0 then .nan else .inf (a != b)
  | .fin a m, .fin b n => .fin (a != b) (m * n / unit1)

/-- x < y, false with a NaN. -/
def Fpv.lt : Fpv → Fpv → Bool
  | .nan, _ => false
  | _, .nan => false
  | .inf a, .inf b => a && !b
  | .inf a, .fin _ _ => a
  | .fin _ _, .inf b => !b
  | .fin a m, .fin b n => decide (Fpv.toInt (.fin a m) < Fpv.toInt (.fin b n))

/-- R124: a NaN operand gives NaN; MAX(−0, +0) is +0. -/
def Fpv.max (a b : Fpv) : Fpv :=
  if a.isNan || b.isNan then .nan
  else if a.isZero && b.isZero then .fin (a.isNeg && b.isNeg) 0
  else if Fpv.lt a b then b else a

def Fpv.min (a b : Fpv) : Fpv :=
  if a.isNan || b.isNan then .nan
  else if a.isZero && b.isZero then .fin (a.isNeg || b.isNeg) 0
  else if Fpv.lt b a then b else a

/-- R78, R124: every negative value and −0 become +0. -/
def Fpv.relu (a : Fpv) : Fpv := if a.isNan then .nan else if a.isNeg then .fin false 0 else a

/-- The exact value of an integer. -/
def Fpv.ofInteger (i : Int) : Fpv := .fin (decide (i < 0)) (i.natAbs * unit1)

/-! ## Rounding (R117) -/

/-- Round a number of units to a multiple of 2^k under RND with the generator output r. -/
def roundTo (k rnd r mag : Nat) : Nat :=
  let q := mag / 2 ^ k
  let rem := mag % 2 ^ k
  if rem = 0 then mag
  else
    let up :=
      if rnd = 0 then decide (2 ^ k < 2 * rem) || (decide (2 ^ k = 2 * rem) && q % 2 == 1)
      else if rnd = 1 then false
      else decide (65536 ≤ 65536 * rem / 2 ^ k + r)
    (if up then q + 1 else q) * 2 ^ k

/-- Round a magnitude to a format, the exponent range unbounded above. -/
def FloatFmt.roundMag (g : FloatFmt) (rnd r mag : Nat) : Nat :=
  roundTo (max (mag.log2 - g.mb) (321 - g.bias - g.mb)) rnd r mag

/-- The bits of a finite representable magnitude. -/
def FloatFmt.bitsOfMag (g : FloatFmt) (neg : Bool) (mag : Nat) : Nat :=
  let k0 := 321 - g.bias - g.mb
  let s := if neg then 2 ^ (g.width - 1) else 0
  if mag < 2 ^ (k0 + g.mb) then s + mag / 2 ^ k0
  else s + (mag.log2 - (k0 + g.mb) + 1) * 2 ^ g.mb + (mag / 2 ^ (mag.log2 - g.mb) - 2 ^ g.mb)

def FloatFmt.signBit (g : FloatFmt) (neg : Bool) : Nat := if neg then 2 ^ (g.width - 1) else 0

/-- The infinity encoding of an IEEE-like format. -/
def FloatFmt.infBits (g : FloatFmt) (neg : Bool) : Nat :=
  g.signBit neg + (2 ^ (g.width - 1 - g.mb) - 1) * 2 ^ g.mb

def FloatFmt.maxBits (g : FloatFmt) (neg : Bool) : Nat := g.bitsOfMag neg g.maxMag

/-- R119 and R120: the bits a value becomes in a floating target. -/
def FloatFmt.encode (g : FloatFmt) (rnd : Nat) (sat : Bool) (r : Nat) : Fpv → Nat
  | .nan => g.nan?.getD 0
  | .inf n =>
    if sat then g.maxBits n
    else if g.ieee then g.infBits n
    else match g.nan? with
      | some v => v
      | none => g.maxBits n
  | .fin n m =>
    let m' := g.roundMag rnd r m
    if m' ≤ g.maxMag then g.bitsOfMag n m'
    else if sat || rnd == 1 then g.maxBits n
    else if g.ieee then g.infBits n
    else match g.nan? with
      | some v => v
      | none => g.maxBits n

/-- R117, R120, R121: a value becomes an integer of w bits, rounded and clamped. -/
def toIntElem (w rnd r : Nat) (x : Fpv) : Nat :=
  let clamp := fun (i : Int) =>
    ((max (-(2 ^ (w - 1))) (min (2 ^ (w - 1) - 1) i)) % (2 ^ w : Int)).toNat
  match x with
  | .nan => 0
  | .inf n => clamp (if n then -(2 ^ 400) else 2 ^ 400)
  | .fin n m =>
    let q := roundTo 320 rnd r m / unit1
    clamp (if n then -(q : Int) else (q : Int))

/-- R121: an integer becomes an integer of w bits. -/
def intToInt (w : Nat) (sat : Bool) (i : Int) : Nat :=
  if sat then ((max (-(2 ^ (w - 1))) (min (2 ^ (w - 1) - 1) i)) % (2 ^ w : Int)).toNat
  else (i % (2 ^ w : Int)).toNat

/-- Round to FP32 with round-to-nearest-even. -/
def Fpv.to32 : Fpv → Fpv
  | .fin n m =>
    let m' := fp32.roundMag 0 0 m
    if m' ≤ fp32.maxMag then .fin n m' else .inf n
  | x => x

/-- The bits of an FP32 value. -/
def bits32 (x : Fpv) : Nat := fp32.encode 0 false 0 x
/-- The FP32 value of 32 bits. -/
def num32 (v : Nat) : Fpv := decodeFloat fp32 v

def add32 (a b : Fpv) : Fpv := (Fpv.add a b).to32
def sub32 (a b : Fpv) : Fpv := (Fpv.sub a b).to32
def mul32 (a b : Fpv) : Fpv := (Fpv.mul a b).to32
def fma32 (a b c : Fpv) : Fpv := (Fpv.add (Fpv.mul a b) c).to32

/-! ## The stochastic-rounding generator (R118) -/

/-- One step of a lane. -/
def rngStep (s : W64) : W64 :=
  let a := s ^^^ (s <<< 13)
  let b := a ^^^ (a >>> 7)
  b ^^^ (b <<< 17)

def rngOut (s : W64) : Nat := (s >>> 48).toNat

/-- The seeds of the two lanes for an LCID. -/
def rngSeed (seed lcid : Nat) : W64 × W64 :=
  let m : W64 := BitVec.ofNat 64 seed ^^^ BitVec.ofNat 64 (lcid * 0x9E3779B97F4A7C15)
  let z := fun (v : W64) => if v = 0 then 1 else v
  (z m, z (m ^^^ 0xD1B54A32D192ED03))

/-! ## Conversion of runs of elements (R117 to R122) -/

/-- A value before conversion: floating or integer. -/
inductive Val where
  | f (x : Fpv)
  | i (x : Int)
  deriving DecidableEq, Repr

def Val.num : Val → Fpv
  | .f x => x
  | .i x => Fpv.ofInteger x

/-- One element in a format that is no MX format. -/
def convElem (fmt rnd : Nat) (sat : Bool) (r : Nat) (v : Val) : Nat :=
  match floatFmt fmt with
  | some g => g.encode rnd sat r v.num
  | none =>
    match v with
    | .f x => toIntElem (fmtBits fmt) rnd r x
    | .i x => intToInt (fmtBits fmt) sat x

/-- A run of elements; the lane steps once for each under RND 2. -/
def convRun (fmt rnd : Nat) (sat : Bool) : W64 → List Val → List Nat × W64
  | s, [] => ([], s)
  | s, v :: vs =>
    let s' := if rnd = 2 then rngStep s else s
    let t := convRun fmt rnd sat s' vs
    (convElem fmt rnd sat (rngOut s') v :: t.1, t.2)

/-- emax of an MX element format (R122). -/
def mxEmax : Nat → Nat
  | 5 => 8
  | 6 => 15
  | 7 => 4
  | _ => 2

/-- The lane after n steps. -/
def rngSteps (rnd n : Nat) (s : W64) : W64 := if rnd = 2 then Nat.repeat rngStep n s else s

/-- R122: one block of 32 values: the scale byte, the element bits and the lane after it. -/
def mxBlock (fmt rnd : Nat) (s : W64) (vs : List Fpv) : Nat × List Nat × W64 :=
  let g := (floatFmt fmt).getD e4m3
  if vs.any (fun x => !x.isFin) then (255, vs.map (fun _ => 0), rngSteps rnd vs.length s)
  else
    let amax := vs.foldl (fun a x => max a x.toInt.natAbs) 0
    if amax = 0 then (0, vs.map (fun x => g.signBit x.isNeg), rngSteps rnd vs.length s)
    else
      -- floor(log2(amax)) is amax.log2 − 320; the scale byte is E + 127, held in 0 to 254
      let sb := min 254 (amax.log2 + 127 - (320 + mxEmax fmt))
      let scaled := vs.map (fun x => match x with
        | .fin n m => Val.f (.fin n (m * 2 ^ 127 / 2 ^ sb))
        | y => Val.f y)
      let t := convRun fmt rnd true s scaled
      (sb, t.1, t.2)

/-- A run of MX blocks: scale bytes, element bits and the lane. -/
def mxRun (fmt rnd : Nat) : Nat → W64 → List Fpv → List Nat × List Nat × W64
  | 0, s, _ => ([], [], s)
  | n + 1, s, vs =>
    let b := mxBlock fmt rnd s (vs.take 32)
    let t := mxRun fmt rnd n b.2.2 (vs.drop 32)
    (b.1 :: t.1, b.2.1 ++ t.2.1, t.2.2)

end Sys2Proof.Machine
end

