-- ==== Sys2Proof/Machine/Operands.lean ====
section
/-!
DEFINITION. Tensor descriptors (R68 to R70): their fields, the checks on them and the addresses of their elements; and
the condition, arithmetic and field operands of the sequencer (R75).
-/
namespace Sys2Proof.Machine

/-- A descriptor's fields (R68). -/
structure Desc where
  void  : Bool
  space : Nat
  spar  : Nat
  fmt   : Nat
  scale : Nat
  md    : Nat
  str1  : Nat
  str2  : Nat
  str3  : Nat
  dim0  : Nat
  dim1  : Nat
  dim2  : Nat
  dim3  : Nat
  base  : Nat
  /-- A reserved bit is 1. -/
  rsv   : Bool
  deriving DecidableEq, Repr

def descOf (t : BitVec 256) : Desc :=
  let v := t.toNat
  { void := v.testBit 242
    space := bitsOf v 241 241
    spar := bitsOf v 240 238
    fmt := bitsOf v 237 234
    scale := bitsOf v 233 213
    md := bitsOf v 212 192
    str1 := bitsOf v 148 128
    str2 := bitsOf v 169 149
    str3 := bitsOf v 190 170
    dim0 := bitsOf v 79 64
    dim1 := bitsOf v 95 80
    dim2 := bitsOf v 111 96
    dim3 := bitsOf v 127 112
    base := bitsOf v 47 0
    rsv := bitsOf v 255 243 != 0 || v.testBit 191 || bitsOf v 63 48 != 0 }

/-- Top and bottom bit of the fields of TDSET (R75). -/
def tdsetField : Nat → Option (Nat × Nat)
  | 0 => some (47, 0)
  | 1 => some (79, 64)
  | 2 => some (95, 80)
  | 3 => some (111, 96)
  | 4 => some (127, 112)
  | 5 => some (148, 128)
  | 6 => some (169, 149)
  | 7 => some (190, 170)
  | 8 => some (237, 234)
  | 9 => some (240, 238)
  | 10 => some (241, 241)
  | 11 => some (242, 242)
  | 12 => some (212, 192)
  | 13 => some (233, 213)
  | _ => none

/-- Bits [hi:lo] of v replaced by the low bits of x. -/
def putBits (v hi lo x : Nat) : Nat :=
  v % 2 ^ lo + x % 2 ^ (hi + 1 - lo) * 2 ^ lo + v / 2 ^ (hi + 1) * 2 ^ (hi + 1)

/-- TDSET (R75): the field replaced or added to, modulo its width. -/
def tdsetValue (t : BitVec 256) (field : Nat) (add : Bool) (x : W64) : BitVec 256 :=
  match tdsetField field with
  | some (hi, lo) =>
    BitVec.ofNat 256 (putBits t.toNat hi lo ((if add then bitsOf t.toNat hi lo else 0) + x.toNat))
  | none => t

/-- The VOID bit of a descriptor written (R93). -/
def setVoid (t : BitVec 256) (b : Bool) : BitVec 256 := BitVec.ofNat 256 (putBits t.toNat 242 242 (if b then 1 else 0))

/-- R75 COND: s[SA] compared with b, or the bit tests. -/
def condValue (cond : Nat) (a b : W64) (imm16 : Nat) (void : Bool) : Bool :=
  match cond with
  | 0 => a == b
  | 1 => a != b
  | 2 => decide (a.toInt < b.toInt)
  | 3 => decide (a.toInt ≤ b.toInt)
  | 4 => decide (a.toNat < b.toNat)
  | 5 => decide (a.toNat ≤ b.toNat)
  | 6 => a.toNat.testBit (imm16 % 64)
  | _ => void

/-- R75 OP. -/
def aluValue (op : Nat) (a b : W64) : W64 :=
  match op with
  | 0 => a + b
  | 1 => a - b
  | 2 => a * b
  | 3 => a &&& b
  | 4 => a ||| b
  | 5 => a ^^^ b
  | 6 => a <<< (b.toNat % 64)
  | 7 => a >>> (b.toNat % 64)
  | 8 => a.sshiftRight (b.toNat % 64)
  | 9 => if a.toInt ≤ b.toInt then a else b
  | 10 => if a.toInt ≤ b.toInt then b else a
  | 11 => if a.toNat ≤ b.toNat then a else b
  | _ => if a.toNat ≤ b.toNat then b else a

/-- MOVI (R75). -/
def moviValue (old : W64) (h : Nat) (keep : Bool) (imm : Nat) : W64 :=
  BitVec.ofNat 64 (putBits (if keep then old.toNat else 0) (16 * h + 15) (16 * h) imm)

/-- A value sign-extended from w bits to 64. -/
def sext (w v : Nat) : W64 := BitVec.ofInt 64 (signed w v)

/-! ## Extents and addresses -/

def Desc.isMx (d : Desc) : Bool := Sys2Proof.Machine.isMx d.fmt
def Desc.isFloat (d : Desc) : Bool := isFloatFmt d.fmt
def Desc.width (d : Desc) : Nat := fmtBits d.fmt
/-- The bytes of one run of DIM0 elements. -/
def Desc.runBytes (d : Desc) : Nat := (d.dim0 * d.width + 7) / 8
def Desc.unit (d : Desc) : Nat := if d.space = 1 then 64 else 1
/-- The number of runs. -/
def Desc.runs (d : Desc) : Nat := d.dim1 * d.dim2 * d.dim3
/-- The message size of R93: the product of the extents times the element size. -/
def Desc.bytes (d : Desc) : Nat := (d.dim0 * d.dim1 * d.dim2 * d.dim3 * d.width + 7) / 8
/-- Where run i of the tensor starts; runs count DIM1 fastest, then DIM2, then DIM3. -/
def Desc.runAt (d : Desc) (i : Nat) : Nat :=
  d.base + d.unit * ((i % d.dim1) * d.str1 + (i / d.dim1 % d.dim2) * d.str2 + (i / d.dim1 / d.dim2) * d.str3)
/-- The byte after the last byte of the tensor. -/
def Desc.endAt (d : Desc) : Nat :=
  d.base + d.unit * ((d.dim1 - 1) * d.str1 + (d.dim2 - 1) * d.str2 + (d.dim3 - 1) * d.str3) + d.runBytes
def Desc.scaleBytes (d : Desc) : Nat := d.runs * d.dim0 / 32

/-! ## Checks at issue (R70) -/

/-- The SRAM offset past the last one. -/
def sramSize : Nat := 0x200000

/-- DESC_INVALID (R70); unitMeVe says that the operand is one of the ME or the VE. -/
def Desc.invalid (d : Desc) (unitMeVe : Bool) : Bool :=
  d.rsv || d.dim0 == 0 || d.dim1 == 0 || d.dim2 == 0 || d.dim3 == 0
  || decide (14 ≤ d.fmt) || decide (4 ≤ d.spar)
  || (unitMeVe && d.space == 1)
  || (d.isMx && d.dim0 % 32 != 0)
  || (decide (d.width < 8) && d.dim0 % 2 != 0)

/-- SRAM_RANGE (R70) of a dense tensor: its bytes, and its scales where it uses them. -/
def Desc.outOfRange (d : Desc) (usesScale : Bool) : Bool :=
  (d.space == 0 && decide (sramSize < d.endAt))
  || (usesScale && d.isMx && decide (sramSize < d.scale + d.scaleBytes))

/-- ALIGN (R70). -/
def Desc.misaligned (d : Desc) (isMe usesScale usesMeta : Bool) : Bool :=
  (isMe && (d.base % 64 != 0 || d.str1 % 64 != 0 || d.str2 % 64 != 0 || d.str3 % 64 != 0))
  || (usesScale && d.isMx && d.scale % 64 != 0)
  || (usesMeta && d.md % 64 != 0)

/-- The first cause that fails, in the order of R70: codes of R104, 0 for none. -/
def firstCause (invalid format shape range align : Bool) : Nat :=
  if invalid then 0x04 else if format then 0x08 else if shape then 0x07 else if range then 0x05
  else if align then 0x06 else 0

/-- The wider rate class of R111. -/
def rateClass (f : Nat) : Nat :=
  if f == 0x9 || f == 0xD || f == 0xB then 1
  else if f == 0x1 || f == 0x2 then 3
  else if f == 0x0 then 4
  else 2

/-- MMA (R79, R80, R140, R141, R145): kept is the number of blocks that a bitmap B stores. -/
def mmaCause (kept : Nat) (a b : Desc) : Nat :=
  let inval := a.invalid true || b.invalid true
  let mx := b.isMx
  let fmtBad := a.spar != 0 || (a.isFloat != b.isFloat) || a.fmt == 0xC || b.fmt == 0xC || (b.spar == 3 && mx)
  let k := a.dim0
  let n := b.dim0
  let shapeBad := decide (64 < a.dim1) || a.dim2 != 1 || a.dim3 != 1 || decide (64 < n) || b.dim1 != k
    || b.dim2 != 1 || b.dim3 != 1
    || ((b.spar == 1 || b.spar == 2) && k % 4 != 0)
    || (b.spar == 3 && (k % 16 != 0 || n % 16 != 0))
  let rows := if b.spar = 0 then k else if b.spar = 1 then k / 2 else k / 4
  let bEnd := if b.spar = 3 then (if kept = 0 then b.base else b.base + (kept - 1) * b.str2 + 32 * fmtBits b.fmt) else b.base + (rows - 1) * b.str1 + b.runBytes
  let metaEnd := if b.spar = 0 then 0 else if b.spar = 1 then b.md + k / 4 * 32
    else if b.spar = 2 then b.md + k / 4 * 16 else b.md + k / 16
  let range := a.outOfRange true || decide (sramSize < bEnd) || decide (sramSize < metaEnd)
    || (mx && decide (sramSize < b.scale + rows * n / 32))
  let align := a.misaligned true true false || b.misaligned true true (b.spar != 0)
  firstCause inval fmtBad shapeBad range align

/-- MST (R84, R140). -/
def mstCause (d : Desc) : Nat :=
  firstCause (d.invalid true) (d.spar != 0)
    (decide (64 < d.dim0) || decide (64 < d.dim1) || d.dim2 != 1 || d.dim3 != 1)
    (d.outOfRange true) (d.misaligned true true false)

/-- MLD (R84, R140). -/
def mldCause (a : Desc) : Nat :=
  firstCause (a.invalid true) (a.spar != 0 || !(a.fmt == 0x0 || a.fmt == 0xC))
    (decide (64 < a.dim0) || decide (64 < a.dim1) || a.dim2 != 1 || a.dim3 != 1)
    (a.outOfRange true) (a.misaligned true true false)

/-- Each extent of x equals the extent of d or is 1 (R86). -/
def Desc.fits (x d : Desc) : Bool :=
  (x.dim0 == d.dim0 || x.dim0 == 1) && (x.dim1 == d.dim1 || x.dim1 == 1)
  && (x.dim2 == d.dim2 || x.dim2 == 1) && (x.dim3 == d.dim3 || x.dim3 == 1)

/-- The checks every VE operand takes. -/
def veCause (ops : List Desc) (format shape : Bool) : Nat :=
  firstCause (ops.any (fun d => d.invalid true)) (format || ops.any (fun d => d.spar != 0)) shape
    (ops.any (fun d => d.outOfRange true)) (ops.any (fun d => d.misaligned false true false))

/-- Floating and integer operands together (R86). -/
def mixed (ops : List Desc) : Bool := ops.any (·.isFloat) && ops.any (fun d => !d.isFloat)

/-- EW: b is none when B is not read from SRAM. -/
def ewCause (d a : Desc) (b : Option Desc) : Nat :=
  let ops := [d, a] ++ b.toList
  veCause ops (mixed ops) (!(a.fits d) || (match b with
    | some x => !(x.fits d)
    | none => false))

def cvtCause (d a : Desc) : Nat := veCause [d, a] false (!(a.fits d))

/-- RED. op 3 is ARGMAX, whose D is INT32. -/
def redCause (op : Nat) (d a : Desc) : Nat :=
  veCause [d, a] (if op = 3 then d.fmt != 0xC else mixed [d, a])
    (d.dim0 != 1 || d.dim1 != a.dim1 || d.dim2 != a.dim2 || d.dim3 != a.dim3)

def trnCause (d a : Desc) : Nat := veCause [d, a] (mixed [d, a]) (!(a.fits d))

def smxCause (d a b : Desc) : Nat :=
  veCause [d, a, b] (mixed [d, a, b]) (!(a.fits d) || !(b.fits d) || b.dim0 != 1)

/-- WARP (R86, R88). -/
def warpCause (d a b : Desc) : Nat :=
  veCause [d, a, b] (b.fmt != 0x0 || mixed [d, a])
    (a.dim3 != 1 || b.dim0 != 2 || b.dim3 != 1 || d.dim0 != a.dim0 || d.dim1 != b.dim1 || d.dim2 != b.dim2 || d.dim3 != 1)

/-- The checks of mover operands: neither metadata nor scales are used. -/
def mvCause (ops : List Desc) (format shape : Bool) : Nat :=
  firstCause (ops.any (fun d => d.invalid false)) (format || ops.any (fun d => d.spar != 0)) shape
    (ops.any (fun d => d.outOfRange false)) false

def Desc.elems (d : Desc) : Nat := d.dim0 * d.dim1 * d.dim2 * d.dim3

/-- COPY (R90, R91): formats match. DESIGN CHOICE (log entry 149): different numbers of elements raise SHAPE. -/
def copyCause (d a : Desc) : Nat := mvCause [d, a] (d.fmt != a.fmt) (d.elems != a.elems)

/-- RCOPY (R91): both descriptors have SPACE 0. DESIGN CHOICE (log entry 149): SPACE 1 raises DESC_INVALID, different formats
FORMAT, different numbers of elements SHAPE. -/
def rcopyCause (d a : Desc) : Nat :=
  if d.space == 1 || a.space == 1 then 0x04 else mvCause [d, a] (d.fmt != a.fmt) (d.elems != a.elems)

/-- GATHER and SCATTER (R92): the list b is INT32, rows have one width, and the list has no more entries than the rows of l,
the operand that r numbers. DESIGN CHOICE (log entry 149): the causes of a breach. -/
def gsCause (d a b l : Desc) : Nat :=
  mvCause [d, a, b] (d.fmt != a.fmt || b.fmt != 0xC) (d.dim0 != a.dim0 || decide (l.dim1 < b.dim0))

/-- SEND and RECV (R93). -/
def streamCause (a : Desc) : Nat := mvCause [a] false false

/-- ROUTE (R94, R154): f is the table's FANOUT. DESIGN CHOICE (log entry 149): B or D of another format than INT32 raises
FORMAT. -/
def routeCause (a b d : Desc) (f : Nat) : Nat :=
  mvCause [a, b, d] (b.fmt != 0xC || d.fmt != 0xC)
    (decide (8 < b.dim0) || b.dim1 != a.dim1 || b.dim2 != 1 || b.dim3 != 1 || d.dim0 != b.dim0 || d.dim1 != b.dim1
      || d.dim2 != 1 || d.dim3 != 1 || decide (b.dim0 < f))

end Sys2Proof.Machine
end

