-- ==== Sys2Proof/Machine/InstrWord.lean ====
section
/-!
DEFINITION. The 64-bit instruction word of a core (R72): its fields, the functions of R75, R78, R85, R90 and R96, and
the encodings that raise ILLEGAL_OP (R74).
-/
namespace Sys2Proof.Machine

/-- The functions of the five classes. -/
inductive CoreFn where
  | nop | halt | br | brr | twait | pset | alu | movi | sld | sst | tdld | tdst | tdset | srd
  | mma | mst | mld | mzero
  | ew | cvt | red | trn | smx | warp
  | copy | rcopy | gather | scatter | send | recv | voidMark | route
  | signal | wait | arm | barrier | strokewait
  deriving DecidableEq, Repr

/-- Bits [hi:lo] of an instruction word. -/
def wbits (w : W64) (hi lo : Nat) : Nat := bitsOf w.toNat hi lo

def wCls (w : W64) : Nat := wbits w 63 60
def wFn (w : W64) : Nat := wbits w 59 54
def wPred (w : W64) : Nat := wbits w 53 51
def wPneg (w : W64) : Bool := wbits w 50 50 == 1
def wTkt (w : W64) : Nat := wbits w 49 46
def wTkv (w : W64) : Bool := wbits w 45 45 == 1

/-- The function of CLS and FN, none for a reserved code. -/
def coreFn (cls fn : Nat) : Option CoreFn :=
  match cls with
  | 0 => [CoreFn.nop, .halt, .br, .brr, .twait, .pset, .alu, .movi, .sld, .sst, .tdld, .tdst, .tdset, .srd][fn]?
  | 1 => [CoreFn.mma, .mst, .mld, .mzero][fn]?
  | 2 => [CoreFn.ew, .cvt, .red, .trn, .smx, .warp][fn]?
  | 3 => [CoreFn.copy, .rcopy, .gather, .scatter, .send, .recv, .voidMark, .route][fn]?
  | 4 => [CoreFn.signal, .wait, .arm, .barrier, .strokewait][fn]?
  | _ => none

/-- The operand fields each function lists, as bit ranges of [44:0]. -/
def operandFields : CoreFn → List (Nat × Nat)
  | .nop => []
  | .halt => []
  | .br => [(19, 0)]
  | .brr => [(44, 40)]
  | .twait => [(15, 0)]
  | .pset => [(44, 28), (15, 0)]
  | .alu => [(44, 25), (23, 0)]
  | .movi => [(44, 37), (15, 0)]
  | .sld => [(44, 35), (20, 0)]
  | .sst => [(44, 35), (20, 0)]
  | .tdld => [(44, 41), (39, 35), (20, 0)]
  | .tdst => [(44, 41), (39, 35), (20, 0)]
  | .tdset => [(44, 41), (39, 30)]
  | .srd => [(44, 40), (15, 0)]
  | .mma => [(44, 32)]
  | .mst => [(44, 33)]
  | .mld => [(44, 39)]
  | .mzero => [(44, 42)]
  | .ew => [(44, 18)]
  | .cvt => [(44, 37), (21, 19)]
  | .red => [(44, 37), (27, 22)]
  | .trn => [(44, 37), (27, 19)]
  | .smx => [(44, 33), (27, 19)]
  | .warp => [(44, 33), (27, 19), (17, 16)]
  | .copy => [(44, 37)]
  | .rcopy => [(44, 26)]
  | .gather => [(44, 33)]
  | .scatter => [(44, 33)]
  | .send => [(44, 29)]
  | .recv => [(44, 29)]
  | .voidMark => [(40, 29)]
  | .route => [(44, 27)]
  | .signal => [(44, 24), (15, 0)]
  | .wait => [(44, 24)]
  | .arm => [(44, 19)]
  | .barrier => [(44, 24)]
  | .strokewait => [(44, 39), (31, 0)]

/-- A bit of [44:0] that no listed field covers is 1. -/
def reservedSet (f : CoreFn) (w : W64) : Bool :=
  (List.range 45).any (fun b => w.toNat.testBit b && !((operandFields f).any (fun (hi, lo) => decide (lo ≤ b) && decide (b ≤ hi))))

/-- A reserved enumeration value, or a value the function's table excludes (R74 to R78, R85, R96). -/
def badEnum (f : CoreFn) (w : W64) : Bool :=
  match f with
  | .alu => decide (13 ≤ wbits w 29 26)
  | .tdset => decide (14 ≤ wbits w 34 31)
  | .srd => decide (14 ≤ wbits w 15 0)
  | .mst => wbits w 38 37 == 3 || decide (2 ≤ wbits w 35 34)
  | .ew => decide (10 ≤ wbits w 27 22) || wbits w 21 20 == 3
  | .cvt => wbits w 21 20 == 3
  | .red => decide (4 ≤ wbits w 27 22)
  | .trn => decide (5 ≤ wbits w 27 22) || wbits w 21 20 == 3
  | .smx => decide (2 ≤ wbits w 27 22) || wbits w 21 20 == 3
  | .warp => decide (2 ≤ wbits w 27 22) || wbits w 21 20 == 3 || decide (2 ≤ wbits w 17 16)
  | .signal => wbits w 15 0 == 0
  | _ => false

/-- The function of a legal word; none raises ILLEGAL_OP (R74). -/
def decodeWord (w : W64) : Option CoreFn :=
  match coreFn (wCls w) (wFn w) with
  | none => none
  | some f => if reservedSet f w || badEnum f w || (wCls w == 0 && wTkv w) then none else some f

/-- The scalar registers that an executing word reads or writes (R65). -/
def scalarRegs (f : CoreFn) (w : W64) : List Nat :=
  match f with
  | .brr => [wbits w 44 40]
  | .pset => [wbits w 41 37, wbits w 36 32]
  | .alu => [wbits w 44 40, wbits w 39 35, wbits w 34 30]
  | .movi => [wbits w 44 40]
  | .srd => [wbits w 44 40]
  | .sld => [wbits w 44 40, wbits w 39 35]
  | .sst => [wbits w 44 40, wbits w 39 35]
  | .tdld => [wbits w 39 35]
  | .tdst => [wbits w 39 35]
  | .tdset => [wbits w 39 35]
  | .rcopy => [wbits w 36 32, wbits w 30 26]
  | _ => []

/-- The descriptors that an executing word reads or writes, for the interlock of R93. -/
def descRegs (f : CoreFn) (w : W64) : List Nat :=
  let a := wbits w 44 41
  let b := wbits w 40 37
  let c := wbits w 36 33
  match f with
  | .pset => if wbits w 31 29 == 7 then [wbits w 40 37] else []
  | .tdld => [a]
  | .tdst => [a]
  | .tdset => [a]
  | .mma => [wbits w 42 39, wbits w 38 35]
  | .mst => [wbits w 42 39]
  | .mld => [wbits w 42 39]
  | .ew => if wbits w 27 22 ≤ 5 && wbits w 18 18 == 0 then [a, b, c] else [a, b]
  | .cvt => [a, b]
  | .red => [a, b]
  | .trn => [a, b]
  | .smx => [a, b, c]
  | .warp => [a, b, c]
  | .copy => [a, b]
  | .rcopy => [a, b]
  | .gather => [a, b, c]
  | .scatter => [a, b, c]
  | .send => [a]
  | .recv => [a]
  | .route => [a, b, c]
  | _ => []

/-- The unit of a class, its queue's size (R62) and its code in CORE_FAULT.UNIT. -/
def unitOfClass : Nat → CoreUnit
  | 1 => .me
  | 2 => .ve
  | 3 => .mv
  | 4 => .sy
  | _ => .seq

def unitCode : CoreUnit → Nat
  | .seq => 0
  | .me => 1
  | .ve => 2
  | .mv => 3
  | .sy => 4

def queueSize : CoreUnit → Nat
  | .seq => 0
  | .me => 4
  | .ve => 8
  | .mv => 16
  | .sy => 8

end Sys2Proof.Machine
end

