-- ==== Sys2Proof/Machine/Ops.lean ====
section
/-!
DEFINITION. The shared operations: events to the host (R407), fault records (R377 to R381), core SRAM with its SECDED
(R266 to R270), core faults (R102 to R106), failed cores and spares (R371 to R375), fencing (R367, R368) and route
changes (R225).
-/
namespace Sys2Proof.Machine

/-! ## Events to the host -/

/-- Send vector v of port p, or set its pending bit while it is masked (R407, R462). -/
def msixSend (s : State) (p v : Nat) : State :=
  let e : MsixEntry := Tab.get {} (s.hub p).msix v
  if e.ctrl.toNat.testBit 0 then s.updHub p (fun h => { h with msixPend := h.msixPend.add v })
  else s.emit (.msix p v (e.addrLo.toNat + e.addrHi.toNat * 2 ^ 32) e.data.toNat)

/-- Set bit n of HOST_EVT of port p; vector 48 + n when the bit rises (R407). -/
def raiseEvt (s : State) (p n : Nat) : State :=
  if (s.hub p).evt.toNat.testBit n then s
  else msixSend (s.updHub p (fun h => { h with evt := h.evt ||| BitVec.ofNat 8 (2 ^ n) })) p (48 + n)

/-- The host ports of the part. -/
def State.ports (s : State) : List Nat := (List.range 4).filter s.part.hostPresent

/-- Set the event at every port. -/
def raiseAll (s : State) (n : Nat) : State := s.each s.ports (fun s p => raiseEvt s p n)

/-- Set an RC bit of a register that every port reads alike, in each port's copy (R394). -/
def setStrokeRc (s : State) (bit : Nat) : State :=
  s.each (List.range 4) (fun s p => s.updHub p (fun h => { h with strokeRc := h.strokeRc ||| BitVec.ofNat 32 (2 ^ bit) }))
def setPwrRc (s : State) (bit : Nat) : State :=
  s.each (List.range 4) (fun s p => s.updHub p (fun h => { h with pwrRc := h.pwrRc ||| BitVec.ofNat 32 (2 ^ bit) }))
def setCoolRc (s : State) (bit : Nat) : State :=
  s.each (List.range 4) (fun s p => s.updHub p (fun h => { h with coolRc := h.coolRc ||| BitVec.ofNat 32 (2 ^ bit) }))
def setLayRc (s : State) (p bit : Nat) : State := s.updHub p (fun h => { h with layRc := h.layRc ||| BitVec.ofNat 32 (2 ^ bit) })
def setFabRc (s : State) (p bit : Nat) : State := s.updHub p (fun h => { h with fabRc := h.fabRc ||| BitVec.ofNat 32 (2 ^ bit) })
def setCmdRc (s : State) (p bit : Nat) : State := s.updHub p (fun h => { h with cmdRc := h.cmdRc ||| BitVec.ofNat 32 (2 ^ bit) })

/-! ## Fault records (R377 to R381) -/

/-- The hubs whose logs take a record: each that owns the partition named, or every hub for PANEL (R379). -/
def recordHubs (s : State) (rec : FaultRec) : List Nat :=
  (List.range 4).filter (fun h => (s.hub h).live && (rec.panel || (rec.part == h && (s.layoutOf h).isSome)))

/-- Report a record on the cox rings: it waits for each hub that takes it. -/
def hubRecord (s : State) (rec : FaultRec) : State :=
  s.each (recordHubs s rec) (fun s h => s.updHub h (fun x => { x with inbox := x.inbox ++ [rec] }))

/-- The cox of a site writes a record into its log, the newest 32 (R380), and reports it. -/
def coxRecord (s : State) (site : Nat) (rec : FaultRec) : State :=
  let s1 := if (s.cox site).live then
      s.updCox site (fun c => { c with log := Tab.insert rec c.log c.nextRec, nextRec := (c.nextRec + 1) % 32, total := sat 16 (c.total + 1) })
    else s
  hubRecord s1 rec

/-- A record about a site (R377): its die, stroke and partition. -/
def siteRec (s : State) (site event action unit detail : Nat) : FaultRec :=
  { event := event, action := action, die := (s.dieOfSite site).getD 0xFFFF, unit := unit
    stroke := s.stroke.count, detail := detail, part := (s.partOfSite site).getD 0 }

/-- A record of an event of R366, for every hub. -/
def panelRec (s : State) (event action unit detail : Nat) : FaultRec :=
  { event := event, action := action, unit := unit, stroke := s.stroke.count, detail := detail, panel := true }

def partRec (s : State) (p event action unit detail : Nat) : FaultRec :=
  { event := event, action := action, unit := unit, stroke := s.stroke.count, detail := detail, part := p }

/-! ## Defect-list entries (R353, R356) -/

/-- Append an entry to the field list: at most 65,536 entries; a new defect beyond them sets FULL and is recorded. -/
def appendDefect (s : State) (d : Defect) : State :=
  if s.defects.field.length < 65536 then s.updDefects (fun x => { x with field := x.field ++ [d] })
  else s.updDefects (fun x => { x with full := true })

/-! ## Core SRAM (R266 to R270) -/

/-- The key in State.sram of an offset of physical core k. -/
def sramKey (k off : Nat) : Nat := k * 0x200000 + off

def State.sramBytes (s : State) (k off len : Nat) : List Byte := Tab.getList 0 s.sram (sramKey k off) len

/-- The 8 B words of a run, by key div 8. -/
def runWords (key len : Nat) : List Nat :=
  if len = 0 then [] else (List.range ((key + len - 1) / 8 + 1 - key / 8)).map (fun i => key / 8 + i)

/-- The words of a set that a run covers. -/
def wordsIn (t : NSet) (key len : Nat) : List Nat :=
  t.filter (fun w => decide (key / 8 ≤ w) && decide (w * 8 < key + len) && decide (0 < len))

/-- A run of core k holds an uncorrectable or poisoned word. -/
def State.sramBad (s : State) (k off len : Nat) : Bool := !(wordsIn s.sramUe (sramKey k off) len).isEmpty

/-- What a read does to the record of R270 and to the lines of a core: single-bit errors are corrected and counted,
uncorrectable words counted and the last line recorded. -/
def sramRead (s : State) (k off len : Nat) : State :=
  let ce := wordsIn s.sramCe (sramKey k off) len
  let ue := wordsIn s.sramUe (sramKey k off) len
  let s1 := if ce.isEmpty then s else
    (s.updRegion (coreRegion k) (fun r => { r with ce := sat 32 (r.ce + ce.length) })).setSramCe
      (s.sramCe.filter (fun w => !ce.contains w))
  match ue.getLast? with
  | none => s1
  | some w =>
    let line := w * 8 % 0x200000 / 64 * 64
    (s1.updRegion (coreRegion k) (fun r => { r with
        ue := sat 16 (r.ue + ue.length), ueAddr := some (coreR (k % 36), line) })).updCore k (fun c =>
          { c with badLines := ue.foldl (fun b x => b.add (x * 8 % 0x200000 / 64)) c.badLines })

/-- Write bytes at an offset (R267, R268): a whole word is replaced with its poison; a word that is only partly covered
and uncorrectable stays as it is. -/
def sramWrite (s : State) (k off : Nat) (bytes : List Byte) : State :=
  let key := sramKey k off
  let len := bytes.length
  let partialBad := (wordsIn s.sramUe key len).filter (fun w => decide (w * 8 < key) || decide (key + len < w * 8 + 8))
  let cells := bytes.zipIdx.filter (fun (_, i) => !partialBad.contains ((key + i) / 8))
  let whole := fun (w : Nat) => decide (key ≤ w * 8) && decide (w * 8 + 8 ≤ key + len)
  let s1 := ((s.setSram (cells.foldl (fun m (b, i) => Tab.put 0 m (key + i) b) s.sram)).setSramUe
    (s.sramUe.filter (fun w => !whole w))).setSramCe (s.sramCe.filter (fun w => !whole w))
  if partialBad.isEmpty then s1
  else s1.updRegion (coreRegion k) (fun r => { r with poisoned := sat 16 (r.poisoned + partialBad.length) })

/-- A write covers part of an uncorrectable word (R268). -/
def State.partialBad (s : State) (k off len : Nat) : Bool :=
  (wordsIn s.sramUe (sramKey k off) len).any (fun w => decide (w * 8 < sramKey k off) || decide (sramKey k off + len < w * 8 + 8))

/-- A run touches the program region of a core (R76). -/
def Core.inProgram (c : Core) (off len : Nat) : Bool :=
  c.programmed && decide (c.base < off + len) && decide (off < c.base + 8 * c.length) && decide (0 < len)

/-! ## Tickets, runs and queues (R62, R66) -/

def Core.runs (c : Core) : CoreUnit → List Run
  | .seq => []
  | .me => c.meRun
  | .ve => c.veRun
  | .mv => c.mvRun
  | .sy => c.syRun

def Core.setRuns (c : Core) (u : CoreUnit) (r : List Run) : Core :=
  match u with
  | .seq => c
  | .me => { c with meRun := r }
  | .ve => { c with veRun := r }
  | .mv => { c with mvRun := r }
  | .sy => { c with syRun := r }

def Core.queue (c : Core) : CoreUnit → List Op
  | .seq => []
  | .me => c.meq
  | .ve => c.veq
  | .mv => c.mvq
  | .sy => c.syq

def Core.setQueue (c : Core) (u : CoreUnit) (q : List Op) : Core :=
  match u with
  | .seq => c
  | .me => { c with meq := q }
  | .ve => { c with veq := q }
  | .mv => { c with mvq := q }
  | .sy => { c with syq := q }

def Core.ticket (c : Core) (n : Nat) : Nat := Tab.get 0 c.tickets n
def Core.ticketUp (c : Core) (w : W64) : Core :=
  if wTkv w then { c with tickets := Tab.upd 0 c.tickets (wTkt w) (· + 1) } else c
def Core.ticketDown (c : Core) (w : W64) : Core :=
  if wTkv w then { c with tickets := Tab.upd 0 c.tickets (wTkt w) (· - 1) } else c

def Core.sreg (c : Core) (n : Nat) : W64 := Tab.get 0 c.sregs n
def Core.setSreg (c : Core) (n : Nat) (v : W64) : Core := { c with sregs := Tab.put 0 c.sregs n v }
def Core.treg (c : Core) (n : Nat) : BitVec 256 := Tab.get 0 c.tregs n
def Core.setTreg (c : Core) (n : Nat) (v : BitVec 256) : Core := { c with tregs := Tab.put 0 c.tregs n v }
/-- p0 always reads 1 (R62). -/
def Core.pred (c : Core) (n : Nat) : Bool := n == 0 || c.preds.toNat.testBit n
/-- Writes to p0 are ignored (R62). -/
def Core.setPred (c : Core) (n : Nat) (v : Bool) : Core :=
  if n = 0 then c else { c with preds := BitVec.ofNat 8 (putBits c.preds.toNat n n (if v then 1 else 0)) }

/-- Remove the run of an instruction by its number. -/
def dropRun (l : List Run) (seq : Nat) : List Run := l.filter (fun r => r.op.seq != seq)

/-- Change the run of an instruction by its number. -/
def mapRun (l : List Run) (seq : Nat) (f : Run → Run) : List Run := l.map (fun r => if r.op.seq = seq then f r else r)

def Core.findRun (c : Core) (u : CoreUnit) (seq : Nat) : Option Run := (c.runs u).find? (fun r => r.op.seq == seq)

/-- An instruction completes: it leaves its unit and its ticket falls by 1 (R66). -/
def Core.retire (c : Core) (u : CoreUnit) (seq : Nat) : Core :=
  match c.findRun u seq with
  | none => c
  | some r => (c.setRuns u (dropRun (c.runs u) seq)).ticketDown r.op.w

/-! ## Pairs (R135) -/

/-- The physical core paired with core k: the partner of a primary or the primary of a partner. -/
def State.pairOf (s : State) (k : Nat) : Option Nat :=
  match (s.region (coreRegion k)).assign with
  | none => none
  | some a =>
    if a.role = 0 then none
    else match (s.core k).lcid with
      | some l => (s.physRegion a.pair).bind (fun _ => s.coreOf (a.pair * 8 + l % 8))
      | none => none

/-- The cores of both regions of the pair of core k. -/
def State.pairCores (s : State) (k : Nat) : List Nat :=
  match s.pairOf k with
  | some j => (regionCores (coreRegion k) ++ regionCores (coreRegion j)).filter (fun i => (s.core i).lcid.isSome)
  | none => []

/-- The LCID a core works under: a partner sees its primary's (R135). -/
def State.lcidSeen (s : State) (k : Nat) : Nat :=
  let own := ((s.core k).lcid).getD 0
  if (s.core k).partner then (match s.pairOf k with
    | some j => ((s.core j).lcid).getD own
    | none => own) else own

/-! ## Core faults (R102 to R106) -/

/-- The partition of a physical core. -/
def State.partOfCore (s : State) (k : Nat) : Nat := (s.partOfSite (coreSite k)).getD 0

/-- The node of an LCID's router: that of the core that holds it, or of its place in the region when it carries no core
(R35). -/
def State.lcidNode (s : State) (l : Nat) : Option Node :=
  match s.coreOf l with
  | some k => (s.routerOf k).map (fun n => .router n.1 n.2)
  | none => (s.siteOfDie (lcidDie l)).bind (fun st => (s.routerOf (st * 36 + coreInDie (l / 8 % 4) (l % 8))).map (fun n => .router n.1 n.2))

/-- The home router of a sync object (R239). -/
def State.objNode (s : State) (o : Nat) : Option Node :=
  (s.siteOfDie (objDie o)).bind (fun st => (s.routerOf (st * 36 + o % 128 % 36)).map (fun n => .router n.1 n.2))

/-- The home region of a sync object, as a physical region. -/
def State.objRegion (s : State) (o : Nat) : Option Nat := (s.siteOfDie (objDie o)).map (fun st => coreRegion (st * 36 + o % 128 % 36))

/-- The router that homes an admission unit: that of intake core 0 (R152). -/
def State.unitNode (s : State) (u : Nat) : Option Node := (s.admUnit u).intake.head?.bind s.lcidNode

/-- R162: an admission unit cancels a grant: the tag with VALID 0, one more cancelled, in the window's record where it has been
written (R157), ARRIVE of the half by 1. -/
def cancelGrant (s : State) (u : Nat) (g : Nat × Nat × Nat × Nat × Nat × Nat) : State :=
  let a := s.admUnit u
  let (l, slot, half, t, c, win) := g
  let n := a.intake.length
  let core := a.intake.getD (slot % n) 0
  let off := a.expert.tagBase + (half * a.expert.slots + slot / n) * 16
  let tagBytes := bytesLE 2 l ++ bytesLE 2 t ++ bytesLE 1 c ++ bytesLE 1 a.expert.expert ++ bytesLE 2 win ++ zeros 8
  let s1 := s.updAdmit u (fun x => { x with
    grants := x.grants.filter (· != g), cancel := sat 16 (x.cancel + 1)
    cancelled0 := if half = 0 then x.cancelled0 + 1 else x.cancelled0
    cancelled1 := if half = 0 then x.cancelled1 else x.cancelled1 + 1 })
  let arrive := if half = 0 then a.expert.arrive0 else a.expert.arrive1
  let count := (if half = 0 then a.cancelled0 else a.cancelled1) + 1
  let first := a.intake.headD 0
  match s.unitNode u, s.lcidNode core, s.objNode arrive with
  | some me, some ic, some home =>
    let s2 := s1.send (writePacket 1 a.part agentTag (sramBase core + off) tagBytes me ic)
    let s3 := match s.lcidNode first with
      | some n0 =>
        if a.open_ && a.windowNo % 65536 == win % 65536 then s2
        else s2.send (writePacket 1 a.part agentTag (sramBase first + a.expert.recBase + half * 16 + 4) (bytesLE 4 count) me n0)
      | none => s2
    s3.send (syncPacket 1 a.part agentTag arrive 0 1 0 me home)
  | _, _, _ => s1

/-- Cancel every grant that an LCID holds unfilled. -/
def cancelGrants (s : State) (l : Nat) : State :=
  s.each (s.admits.map (·.1)) (fun s u =>
    s.each ((s.admUnit u).grants.filter (fun g => g.1 == l)) (fun s g => cancelGrant s u g))

/-- Stop a core with a fault (R102, R105): the fault is recorded, queued instructions are discarded, the ME and VE
abandon theirs, and the MV keeps only the transfers already injected. A further fault or halt request sets MORE. A core
that fails leaves the record of EVENT 0x01 out (R378), and its LCID is reported absent when no spare takes it (R373). -/
def haltCore (s : State) (k cause unit : Nat) (tkv : Bool) (tkt pc addr : Nat) (fails absent : Bool := false) : State :=
  if (s.core k).fault.valid then s.updCore k (fun c => { c with fault := { c.fault with more := true } })
  else
    let l := ((s.core k).lcid).getD 0
    let s1 := s.updCore k (fun c => { c with
      mode := .faulted
      fault := { valid := true, cause := cause, unit := unit, tkv := tkv, tkt := tkt, pc := pc, addr := addr }
      meq := [], veq := [], mvq := [], syq := [], meRun := [], veRun := [], syRun := [], held := [], catches := [], submitted := none, noteSub := none })
    let s2 := (cancelGrants s1 l).setRings (s1.rings ++ [{ lcids := [l], absent := absent, part := s.partOfCore k }])
    if fails then s2 else coxRecord s2 (coreSite k) (siteRec s2 (coreSite k) 0x01 1 l cause)

/-- Where a fault was found: the unit, and the ticket and PC of the instruction (R105). -/
structure Found where
  unit : Nat
  tkv  : Bool := false
  tkt  : Nat := 0
  pc   : Nat
  deriving DecidableEq, Repr

/-- An instruction as the place of a fault. -/
def Op.found (o : Op) (u : CoreUnit) : Found := { unit := unitCode u, tkv := wTkv o.w, tkt := wTkt o.w, pc := o.pc }

/-- A fault of a core: in a pair it halts both regions, and every other core records PAIR_MISMATCH (R137): peer is the other
core whose digest differed, with its SIGNAL. DESIGN CHOICE (log entry 148): the cores that have no faulting instruction record
UNIT 4, PC 0 and TKV 0. -/
def coreFault (s : State) (k cause unit : Nat) (tkv : Bool) (tkt pc addr : Nat) (fails absent : Bool := false)
    (peer : Option (Nat × Found) := none) : State :=
  let s1 := haltCore s k cause unit tkv tkt pc addr fails absent
  s1.each ((s.pairCores k).filter (· != k)) (fun s j =>
    if (s.core j).fault.valid then s
    else
      let f : Found := match peer with
        | some x => if x.1 = j then x.2 else { unit := 4, pc := 0 }
        | none => { unit := 4, pc := 0 }
      haltCore s j 0x13 f.unit f.tkv f.tkt f.pc 0)

/-- A fault found by a unit while an instruction runs. -/
def unitFault (s : State) (k : Nat) (u : CoreUnit) (op : Op) (cause addr : Nat) : State :=
  coreFault s k cause (unitCode u) (wTkv op.w) (wTkt op.w) op.pc addr

/-! ## Failed cores and spares (R371 to R375) -/

/-- The spare of a region that can take an LCID: a good, tested core without one (R28, R372). -/
def State.spareOf (s : State) (r : Nat) : Option Nat :=
  if (s.region r).spareUsed || (s.region r).spareDead then none
  else (regionCores r).find? (fun k => let c := s.core k; c.lcid.isNone && !c.bad && !c.failed && c.tested)

/-- A core fails (R371): it faults, its spare takes the LCID, or the LCID is left absent. In a fenced region no spare is
taken (R385). -/
def coreFail (s : State) (k cause : Nat) (by_ : Option Found := none) (peer : Option (Nat × Found) := none) : State :=
  let r := coreRegion k
  let c := s.core k
  match c.lcid with
  | none =>
    -- an unused core that fails is out of the region's spares (R373, R375)
    (s.updCore k (fun c => { c with failed := true })).updRegion r (fun x => { x with spareDead := true })
  | some l =>
    let fenced := (s.region r).fenced
    let f := by_.getD { unit := 0, pc := c.pc }
    let s1 := if c.fault.valid then s else coreFault s k cause f.unit f.tkv f.tkt f.pc 0 (!fenced) (!fenced && (s.spareOf r).isNone) peer
    let s2 := s1.updCore k (fun c => { c with failed := true })
    if fenced then s2
    else match s.spareOf r with
      | some sp =>
        let s3 := (s2.updCore k (fun c => { c with lcid := none, spare := false })).updCore sp (fun x =>
          { x with lcid := some l, spare := true, mode := .idle })
        let s4 := (s3.setCoreOf l (some sp)).updRegion r (fun x => { x with spareUsed := true, loading := some l })
        coxRecord s4 (coreSite k) (siteRec s4 (coreSite k) 0x02 2 l cause)
      | none =>
        let s3 := (s2.updCore k (fun c => { c with lcid := none })).setCoreOf l none
        let s4 := if !c.fault.valid then s3 else s3.setRings (s3.rings ++ [{ lcids := [l], absent := true, part := s.partOfCore k }])
        coxRecord s4 (coreSite k) (siteRec s4 (coreSite k) 0x02 3 l cause)

/-- R371: a second SRAM line of one core with an uncorrectable error fails the core. -/
def checkLines (s : State) (k : Nat) : State :=
  if 2 ≤ (s.core k).badLines.length && !(s.core k).failed then coreFail s k 0x0B else s

/-- A read of core SRAM with its consequences. -/
def sramTouch (s : State) (k off len : Nat) : State := checkLines (sramRead s k off len) k

/-! ## Route changes (R225) -/

/-- Steps 1 and 2 begin: the partition's sources pause. A further event joins the pause, whose step 3 then comes after it
(R236). -/
def routeChange (s : State) (p : Nat) : State :=
  match s.layoutOf p with
  | none => s
  | some _ =>
    if (s.hub p).fab.paused then s.updFab p (fun f => { f with drained := false })
    else
      let s1 := s.updFab p (fun f => { f with paused := true, pausedAt := s.now, drained := false, changes := sat 16 (f.changes + 1) })
      hubRecord s1 (partRec s1 p 0x06 6 0 0)

/-! ## Links cut (R55, R235) -/

/-- The flits that a link end holds and its partner has not accepted, from the head of the next packet on. -/
def State.undelivered (s : State) (key j : Nat) : List Flit :=
  let left := ((s.link key).retry.filter (fun g => decide ((g.1 + 256 - (s.link j).expect) % 256 < 128))).flatMap (·.2.2)
    ++ (s.link key).sendQ.map (·.2)
  match (s.link j).rx with
  | [] => left
  | f :: rest => left.drop (headFlits f - (rest.length + 1))

/-- Flits cut into packets. -/
def packetsOf : Nat → List Flit → List (List Flit)
  | 0, _ => []
  | _, [] => []
  | fuel + 1, f :: rest => (f :: rest).take (headFlits f) :: packetsOf fuel ((f :: rest).drop (headFlits f))

/-- Whole packets that a link end has still to deliver stand in its router again. -/
def takeBack (s : State) (key j : Nat) : State :=
  match s.linkPlace (key / 32) (key % 32) with
  | none => s
  | some (x, y, d) =>
    s.each (packetsOf 4096 (s.undelivered key j)) (fun s fl =>
      let q := packetOf fl (.router x y) .localPort
      if fl.length ≠ headFlits (fl.headD 0) then s
      else if q.dkind = 2 then s.place { q with port := (meshStep x y d.rev).map (fun n => (d.rev, n.1 * 72 + n.2)) }
      else s.place q)

/-- A link end holds nothing more; a packet partly received is discarded and counted (R55, R235). -/
def LinkEnd.cut (l : LinkEnd) : LinkEnd :=
  { l with partialDrops := sat 16 (l.partialDrops + (if l.rx.isEmpty then 0 else 1)), rx := [], sendQ := [], retry := [], fifo := []
           hold := false, sendAt := 0, sent := 0 }

/-- The links of a region whose clock stops for good: what has come in whole stays, what was still to go to it returns to the
last live router. -/
def cutRegion (s : State) (r : Nat) : State :=
  let ends := ((List.range 24).map (fun e => r / 4 * 32 + e)).filter (fun e => coreRegion (linkCore e) == r)
  s.each ends (fun s e => match s.linkPartner (e / 32) (e % 32) with
    | some j => (((takeBack s j e).updLink j LinkEnd.cut).updLink e LinkEnd.cut)
    | none => s.updLink e LinkEnd.cut)

/-! ## Fencing during a run (R367 to R369) -/

/-- The LCIDs of a region. -/
def State.regionLcids (s : State) (r : Nat) : List Nat :=
  match s.logicalRegion r with
  | some rid => (List.range 8).map (fun i => rid * 8 + i)
  | none => []

/-- The packets that stand in routers of a region. -/
def State.standsIn (s : State) (r : Nat) (p : Packet) : Bool :=
  match p.loc with
  | .router x y => (s.coreAtRouter x y).map coreRegion == some r
  | .edge _ _ => false

/-- R367 steps 1 to 3 for one region: the clock is gated, its cores stop and lose their LCIDs, packets in its routers
are lost, its 8 LCIDs are reported faulted and the regions' grants cancelled. -/
def fenceCores (s : State) (r : Nat) : State :=
  let ls := s.regionLcids r
  let s1 := (s.updRegion r (fun x => { x with fenced := true, midRun := (s.dieOfSite (r / 4)).isSome, clock := .off, waking := false, chg := none, chgNext := none, loading := none }))
  let s2 := (cutRegion (s1.setNet (s1.net.filter (fun p => !s.standsIn r p))) r).setRings
    (s1.rings ++ [{ lcids := ls, region := some r, part := (s.partOfSite (r / 4)).getD 0 }])
  let s3 := s2.each ls (fun s l => cancelGrants (s.setCoreOf l none) l)
  s3.each (regionCores r) (fun s k => s.updCore k (fun c => { c with
    mode := .idle, meq := [], veq := [], mvq := [], syq := [], meRun := [], veRun := [], mvRun := [], syRun := [], held := [], reqs := [], catches := [] }))

/-! ## Groups (R295) -/

/-- The compute group that feeds a site. -/
def siteGroup (site : Nat) : Nat := if site % 13 = 12 then 36 + site / 13 / 4 else site / 13 * 3 + site % 13 / 4
/-- The bit of a site in its group's SITES. -/
def siteBit (site : Nat) : Nat := if site % 13 = 12 then site / 13 % 4 else site % 13 % 4
/-- The sites of a group, ascending. -/
def groupSites (g : Nat) : List Nat :=
  if g < 36 then (List.range 4).map (fun j => g / 3 * 13 + g % 3 * 4 + j) else (List.range 4).map (fun j => ((g - 36) * 4 + j) * 13 + 12)

/-- A site's eFuse opens: its bit of SITES falls. -/
def openFuse (s : State) (site : Nat) : State :=
  (s.updPower (fun p => { p with efuses := p.efuses.del site })).updGroup (siteGroup site) (fun g =>
    { g with sites := putBits g.sites (siteBit site) (siteBit site) 0 })
/-- A die left with no tap in service is fenced, as is one with fewer than 2 live links: R368. The eFuse opens, the cox
with it, and the hub reports for it. -/
def fenceDie (s : State) (site detail : Nat) : State :=
  if (s.cox site).fenced then s
  else
    let s1 := s.each (siteRegions site) (fun s r => if (s.region r).fenced then s else fenceCores s r)
    let s2 := hubRecord s1 (siteRec s1 site 0x04 5 ((s.dieOfSite site).getD 0) detail)
    let s3 := openFuse (s2.updCox site (fun c => { c with live := false, fenced := true })) site
    match s.partOfSite site with
    | some p => if (s.dieOfSite site).isSome then routeChange s3 p else s3
    | none => s3

/-- Fence a region during a run (R367), with the defect CAUSE of its record; a region already fenced stays so. A die whose last
tap in service goes with it is fenced (R211). -/
def fenceRegion (s : State) (r detail : Nat) : State :=
  if (s.region r).fenced then s
  else
    let s1 := fenceCores s r
    let s2 := coxRecord s1 (r / 4) (siteRec s1 (r / 4) 0x03 4 ((s.logicalRegion r).getD 0) detail)
    let s3 := match s.partOfSite (r / 4) with
      | some p => if (s.dieOfSite (r / 4)).isSome then routeChange s2 p else s2
      | none => s2
    -- with no mesh to leave, the phases go off at once (step 5)
    if (s.partOfSite (r / 4)).isNone then s3.updRegion r (fun x => { x with pstate := if x.pstate = 4 then 4 else 0, vset := 0 })
    else if (s3.tapOf (r / 4) (r % 4)).isNone then fenceDie s3 (r / 4) detail
    else s3

/-- The partition pauses its REQ, FWD and COL sources (R225 step 1). -/
def State.paused (s : State) (p : Nat) : Bool := (s.hub p).fab.paused

end Sys2Proof.Machine
end

