-- ==== Sys2Proof/Machine/Units.lean ====
section
/-!
DEFINITION. What the units of a core share: reads and writes of its SRAM with their faults (R76, R106, R268), the digest
of paired mode (R136), the injection of requests under the windows of R221, tensors as values (R107 to R110), and the
engine-check records (R131 to R134).
-/
namespace Sys2Proof.Machine

/-- A state and the cause of a fault found, 0 for none. -/
structure Res where
  s     : State
  cause : Nat := 0
  addr  : Nat := 0
  deriving DecidableEq, Repr

/-- Go on only without a fault. -/
def Res.andThen (r : Res) (f : State → Res) : Res := if r.cause = 0 then f r.s else r

/-- Go through a list, ending at the first fault. -/
def Res.eachOf {α : Type} (r : Res) (l : List α) (f : State → α → Res) : Res := l.foldl (fun r x => r.andThen (fun s => f s x)) r

/-! ## Digest of a pair (R136) -/

/-- Add a contribution: the first 8 bytes of SHAKE256 over the record. -/
def addDigest (s : State) (k : Nat) (record : List Byte) : State :=
  if (s.core k).paired then
    s.updCore k (fun c => { c with digest := c.digest + BitVec.ofNat 64 (natLE (shake256 8 record)) })
  else s

/-- The records of a local write: one per 64 B line. -/
def writeRecords (off : Nat) (bytes : List Byte) : List (List Byte) :=
  let first := off / 64
  let last := (off + bytes.length - 1) / 64
  (List.range (last + 1 - first)).map (fun i =>
    let line := first + i
    let cell := fun (j : Nat) => let a := line * 64 + j; if off ≤ a && a < off + bytes.length then bytes[a - off]? else none
    let mask := (List.range 64).foldl (fun m j => if (cell j).isSome then m + 2 ^ j else m) 0
    [0x01] ++ bytesLE 7 (line * 64) ++ bytesLE 8 mask ++ (List.range 64).map (fun j => (cell j).getD 0))

/-! ## SRAM for the units -/

/-- The byte of the first uncorrectable word of runs (offset, length) of core k, none when every word can be read. -/
def State.firstBad (s : State) (k : Nat) (runs : List (Nat × Nat)) : Option Nat :=
  (runs.flatMap (fun r => wordsIn s.sramUe (sramKey k r.1) r.2)).head?.map (fun w => w * 8 % sramSize)

/-- Read runs of core k: SRAM_UNCORR, at the first uncorrectable word. -/
def unitReads (s : State) (k : Nat) (runs : List (Nat × Nat)) : Res :=
  let s1 := s.each runs (fun s r => sramRead s k r.1 r.2)
  match s.firstBad k runs with
  | some a => { s := checkLines s1 k, cause := 0x0B, addr := a }
  | none => { s := checkLines s1 k }

/-- The words that a write of part of them reads first (R267), as bytes inside them: at its two ends, once where both lie in one
word. -/
def writeEnds (off len : Nat) : List (Nat × Nat) :=
  let last := off + len - 1
  (if off % 8 = 0 then [] else [(off, 1)]) ++ (if (off + len) % 8 = 0 || (off % 8 ≠ 0 && last / 8 = off / 8) then [] else [(last, 1)])

/-- Write a run: never into the program region, and not over part of an uncorrectable word. -/
def unitWrite (s : State) (k off : Nat) (bytes : List Byte) : Res :=
  if bytes.isEmpty then { s := s }
  else if (s.core k).inProgram off bytes.length then { s := s, cause := 0x03, addr := off }
  else
    let ends := writeEnds off bytes.length
    let s1 := s.each ends (fun s r => sramRead s k r.1 r.2)
    let bad := s.partialBad k off bytes.length
    let s2 := (writeRecords off bytes).foldl (fun s r => addDigest s k r) (sramWrite s1 k off bytes)
    { s := checkLines s2 k, cause := if bad then 0x0B else 0, addr := if bad then (s.firstBad k ends).getD off else 0 }

/-- Write runs in order; the first fault ends the writing (R106: what is written stays). -/
def unitWrites (s : State) (k : Nat) (runs : List (Nat × List Byte)) : Res :=
  ({ s := s } : Res).eachOf runs (fun s w => unitWrite s k w.1 w.2)

/-! ## Tensors as values -/

/-- n element codes of w bits from byte off of core k. -/
def elemCodes (s : State) (k off w n : Nat) : List Nat :=
  let v := natLE (s.sramBytes k off ((n * w + 7) / 8))
  (List.range n).map (fun i => v / 2 ^ (i * w) % 2 ^ w)

/-- The bytes of a run of element codes (R109). -/
def packCodes (w : Nat) (l : List Nat) : List Byte :=
  bytesLE ((l.length * w + 7) / 8) (l.zipIdx.foldl (fun a (v, i) => a + v * 2 ^ (i * w)) 0)

/-- The value of an element code; scale is the byte of its MX block. -/
def codeVal (fmt scale v : Nat) : Val :=
  match floatFmt fmt with
  | some g => .f (if isMx fmt then mxDecode scale (decodeFloat g v) else decodeFloat g v)
  | none => .i (signed (fmtBits fmt) v)

/-- The values of n elements from byte off; scaleAt is where the scales of their blocks start. -/
def runVals (s : State) (k fmt off n scaleAt : Nat) : List Val :=
  let scales := if isMx fmt then (s.sramBytes k scaleAt (ceilDiv n 32)).map (·.toNat) else []
  (elemCodes s k off (fmtBits fmt) n).zipIdx.map (fun (v, i) => codeVal fmt (scales.getD (i / 32) 0) v)

/-- Run i of a dense tensor (R110). -/
def Desc.runVals (d : Desc) (s : State) (k i : Nat) : List Val :=
  Sys2Proof.Machine.runVals s k d.fmt (d.runAt i) d.dim0 (d.scale + i * d.dim0 / 32)

/-- The SRAM a dense tensor's runs and scales occupy. -/
def Desc.areas (d : Desc) (withScale : Bool) : List (Nat × Nat) :=
  (List.range d.runs).map (fun i => (d.runAt i, d.runBytes)) ++
    (if withScale && d.isMx then [(d.scale, d.scaleBytes)] else [])

/-- The runs to be written for D's values, run by run, with its scales, and the lane after them. -/
def storeRuns (d : Desc) (rnd : Nat) (sat : Bool) : Nat → W64 → List (List Val) → List (Nat × List Byte) × W64
  | _, g, [] => ([], g)
  | i, g, vs :: rest =>
    if d.isMx then
      let b := mxRun d.fmt rnd (d.dim0 / 32) g (vs.map Val.num)
      let t := storeRuns d rnd sat (i + 1) b.2.2 rest
      ((d.runAt i, packCodes d.width b.2.1) :: (d.scale + i * d.dim0 / 32, b.1.map (fun x => BitVec.ofNat 8 x)) :: t.1, t.2)
    else
      let b := convRun d.fmt rnd sat g vs
      let t := storeRuns d rnd sat (i + 1) b.2 rest
      ((d.runAt i, packCodes d.width b.1) :: t.1, t.2)

/-! ## Requests of a core (R221) -/

/-- The window a request takes an entry of: its HBM slice or its fabric port, 0 for none. -/
def windowKey (n : Node) : Nat :=
  match nodeSlice n with
  | some sl => sl + 1
  | none => match nodePort n with
    | some f => 2000 + f
    | none => 0

/-- A request may be injected now: the partition is not paused, the mover's limit and the window have room, and no
earlier request to its destination is held. -/
def canInject (s : State) (k : Nat) (blocked : List Node) (p : Packet) (r : Req) : Bool :=
  let c := s.core k
  !s.paused (s.partOfCore k)
  && (r.kind == .sync || decide ((c.reqs.filter (fun q => q.kind != .sync)).length < 256))
  && (r.win == 0 || decide ((c.reqs.filter (fun q => q.win == r.win)).length < (s.hub (s.partOfCore k)).fab.winUsed))
  && !(match p.dest with
    | some n => blocked.contains n
    | none => false)

/-- The record of an outbound request (R136). The TAG, which numbers requests in the order of their timing, is left out
(log entry 31). -/
def requestRecord (p : Packet) (payload : List Byte) : List Byte :=
  [0x02] ++ bytesLE 7 p.addr ++ bytesLE 16 ({ p with tag := 0 } : Packet).header ++ payload

/-- Put a request into the fabric. A partner sends nothing (R135). -/
def injectNow (s : State) (k : Nat) (p : Packet) (r : Req) : State :=
  let s1 := addDigest s k (requestRecord p p.payload)
  if (s.core k).partner then s1
  else (s1.updCore k (fun c => { c with reqs := c.reqs ++ [{ r with born := s.now }] })).send p

/-- Inject the held requests that may go, keeping the order of those to one destination. -/
def pumpHeld (s : State) (k : Nat) : State :=
  ((s.core k).held.foldl (fun (acc : State × List Node) h =>
    if canInject acc.1 k acc.2 h.1 h.2 then
      (injectNow (acc.1.updCore k (fun c => { c with held := c.held.filter (fun x => x.2.tag != h.2.tag) })) k h.1 h.2, acc.2)
    else (acc.1, match h.1.dest with
      | some n => n :: acc.2
      | none => acc.2)) (s, [])).1

/-- Give a request the next tag of the core and queue it for injection. -/
def request (s : State) (k : Nat) (p : Packet) (r : Req) : State :=
  let t := (s.core k).nextTag
  let w := match p.dest with
    | some n => windowKey n
    | none => 0
  pumpHeld (s.updCore k (fun c => { c with
    nextTag := (t + 1) % 0x8000, held := c.held ++ [({ p with tag := t }, { r with tag := t, win := w })] })) k

/-! ## Engine checks (R131 to R134, R375) -/

/-- The controlling reading of a region: the higher of its two hot spots [0.1 °C] (R328, R338). -/
def State.regionTj (s : State) (r : Nat) : Int :=
  let h := fun (i : Nat) => (Tab.get ({} : HotSpot) (s.cox (r / 4)).hot i).ctrl
  max (h (2 * (r % 4))) (h (2 * (r % 4) + 1))

/-- A temperature in whole °C as a register holds it, 0 to 255 (R338). -/
def degC (t : Int) : Nat := if t < 0 then 0 else min 255 (t / 10).toNat

/-- The band of a tagged temperature (R133). -/
def tempBand (tj : Nat) : Nat := if tj < 60 then 0 else if tj < 80 then 1 else if tj < 95 then 2 else 3

/-- The check record of a crew, with the defaults of R186. -/
def State.checkOf (s : State) (k : Nat) : CheckRec :=
  match (s.region (coreRegion k)).assign with
  | none => { crew := 0, force := true, halt := false, n := 3, b := 8, w := 1048576 }
  | some a => ((((s.layoutOf a.part).map (·.checks)).getD []).find? (fun c => c.crew == a.crew)).getD
      { crew := a.crew, force := true, halt := false, n := 3, b := 8, w := 1048576 }

/-- Quarantine of a physical core (R134, R375): it fails with the cause of the event. -/
def quarantine (s : State) (k cause : Nat) (by_ : Found) (peer : Option (Nat × Found)) : State :=
  let r := coreRegion k
  let e := (s.core k).eng
  let s1 := (s.updCore k (fun c => { c with eng := { c.eng with quar := true } })).updRegion r (fun x => { x with quars := x.quars + 1 })
  let s2 := appendDefect s1 { kind := 0x01, cause := 0x05, detail := tempBand e.tj * 64 + e.op * 8, unit := k, stroke := s.stroke.count }
  let s3 := coxRecord s2 (coreSite k) (siteRec s2 (coreSite k) 0x0A 0 (((s.core k).lcid).getD 0) 0x05)
  let s4 := if (s.region r).quars = 1 then
      coxRecord s3 (coreSite k) (siteRec s3 (coreSite k) 0x0A 0 ((s.logicalRegion r).getD 0) 0x05) else s3
  coreFail s4 k cause (some by_) peer

/-- The events of a list that lie less than w strokes before now. -/
def within (now w : Nat) (l : List Nat) : List Nat := l.filter (fun t => decide (now < t + w))

/-- An engine-check event of a physical core, tagged (R131, R133), with the thresholds of R134 in force: W counts the strokes
of the core's region (R11). N is at most 255, so the last 255 events decide. -/
def engineEvent (s : State) (k : Nat) (isPair column : Bool) (index : Nat) (by_ : Found) (peer : Option (Nat × Found) := none) : State :=
  let r := coreRegion k
  let chk := s.checkOf k
  let tj := degC (s.regionTj r)
  let band := tempBand tj
  let now := (s.region r).count
  let e := (s.core k).eng
  let recent := (e.recent.drop (e.recent.length - 254)) ++ [now]
  let bands := e.band.zipIdx.map (fun (v, i) => if i = band then sat 8 (v + 1) else v)
  let s1 := s.updCore k (fun c => { c with
    events := sat 16 (c.events + 1)
    eng := { c.eng with
      band := bands, valid := true, pair := isPair, op := (s.region r).op, tj := tj, column := column, index := index
      winCount := sat 8 (within now chk.w recent).length, stroke := now, recent := recent } })
  let cause := if isPair then 0x13 else 0x14
  let s2 := coxRecord s1 (coreSite k) (siteRec s1 (coreSite k) 0x09 0 (((s.core k).lcid).getD 0) cause)
  if !e.quar && (decide (chk.n ≤ (within now chk.w recent).length) || bands.any (fun v => decide (chk.b ≤ v))) then quarantine s2 k cause by_ peer else s2

end Sys2Proof.Machine
end

