-- ==== Sys2Proof/Machine/Flags.lean ====
section
/-!
DEFINITION. The status words of the panel's units: cox blocks (R463 to R465, with R133, R161, R238, R270, R310, R338 and
R380), core-control blocks (R466, with R105, R132 and R264) and sync windows (R248). The words of the hub page stand in
HubPage.lean.
-/
namespace Sys2Proof.Machine

def flag (b : Bool) (n : Nat) : Nat := if b then 2 ^ n else 0

/-! ## Fault records as bytes (R377) -/

def FaultRec.bytes (r : FaultRec) : List Byte :=
  bytesLE 1 r.event ++ bytesLE 1 r.action ++ bytesLE 2 r.die ++ bytesLE 4 r.unit ++ bytesLE 6 r.stroke ++ bytesLE 1 r.detail
    ++ bytesLE 1 (r.part % 4 + flag r.panel 2)

/-- Word w of a record, 0 where none is. -/
def recordWord (r : Option FaultRec) (w : Nat) : Nat :=
  match r with
  | some r => natLE (slice r.bytes (4 * w) 4)
  | none => 0

/-- A record kept at index i of a log. -/
def logAt (t : Tab FaultRec) (i : Nat) : Option FaultRec := (t.find? (fun x => x.1 == i)).map (·.2)

/-! ## The cox block -/

/-- R465: the site that cox block d addresses, none at a hole and in an absent column. -/
def State.blockSite (s : State) (d : Nat) : Option Nat :=
  if 144 ≤ d || !s.part.colPresent (d / 12) then none
  else if (s.colMap (d / 12)).valid then s.siteOfDie d
  else some (d / 12 * 13 + d % 12)

/-- The record number of an edge link and the words of a link record (R238). -/
def LinkEnd.word (l : LinkEnd) (w : Nat) : Nat :=
  match w with
  | 0 => l.state * 2 ^ 29 + l.groups * 2 ^ 20 + l.spared * 2 ^ 16 + sat 16 l.retrains
  | 1 => sat 32 l.replays
  | 2 => sat 32 l.crcFail
  | _ => sat 16 l.partialDrops * 2 ^ 16 + sat 16 l.ttlDrops

def EngChk.word (e : EngChk) (w : Nat) : Nat :=
  match w with
  | 0 => e.band.getD 3 0 * 2 ^ 24 + e.band.getD 2 0 * 2 ^ 16 + e.band.getD 1 0 * 2 ^ 8 + e.band.getD 0 0
  | 1 => flag e.valid 31 + flag e.pair 30 + flag e.quar 29 + e.op * 2 ^ 24 + e.tj * 2 ^ 16 + flag e.column 15 + e.index * 2 ^ 8 + e.winCount
  | 2 => e.stroke % 2 ^ 32
  | _ => e.stroke / 2 ^ 32 % 2 ^ 16

/-- The words of an admission unit record (R161). -/
def Admit.word (a : Admit) (w : Nat) : Nat :=
  match w with
  | 0 => if a.valid then 2 ^ 31 + a.table * 2 ^ 24 + a.expert.expert * 2 ^ 16 + a.policy * 2 ^ 14 + (a.window - 1) else 0
  | 1 => a.granted * 2 ^ 16 + a.expert.capacity
  | 2 => sat 32 a.admitted
  | 3 => sat 32 a.bounce
  | 4 => sat 32 a.drop
  | 5 => sat 32 a.pass
  | 6 => sat 32 a.busy
  | _ => flag a.free0 31 + flag a.free1 30 + flag (a.windowNo % 2 == 1) 29 + sat 16 a.cancel

/-- The words of an SRAM record (R270). -/
def Region.sramWord (r : Region) (w : Nat) : Nat :=
  match w with
  | 0 => sat 32 r.ce
  | 1 => sat 16 r.poisoned * 2 ^ 16 + sat 16 r.ue
  | 2 => (match r.ueAddr with
    | some (c, off) => 2 ^ 31 + c * 2 ^ 21 + off
    | none => 0)
  | _ => sat 16 r.passes * 2 ^ 16 + sat 16 r.fixed

/-- A single failed phase caps its region at 35 A (R302); path resistance caps it at 20 A (R301). -/
def Region.capped (r : Region) : Bool := r.pathCap || (r.phaseFail != 0 && r.pstate != 4)

/-- The words of a power record (R310). -/
def Region.powerWord (r : Region) (w : Nat) : Nat :=
  match w with
  | 0 => r.pstate * 2 ^ 29 + r.pcause * 2 ^ 26 + flag r.capped 25 + flag r.pathFlag 24 + r.sensors.toNat * 2 ^ 8 + r.vset
  | 1 => sat 16 r.msPeak * 2 ^ 16 + sat 16 r.msMean
  | 2 => sat 16 r.stkMean
  | _ => sat 16 r.rise * 2 ^ 16 + min 100 r.high * 2 ^ 8 + r.phaseFail.toNat

/-- The PHASE record in force for a crew: that of the phase, else of phase 0, else OP3 and 0 ns (R184). -/
def State.phaseOf (s : State) (p crew : Nat) : Nat × Nat :=
  let ps := ((s.layoutOf p).map (·.phases)).getD []
  let get := fun (ph : Nat) => ps.find? (fun r => r.crew == crew && r.phase == ph)
  match get (s.hub p).phase with
  | some r => (r.op, r.wakeNs)
  | none => match get 0 with
    | some r => (r.op, r.wakeNs)
    | none => (3, 0)

/-- The deepest idle depth a wake latency allows (R325). -/
def depthFor (ns : Nat) : Nat := if 120000 ≤ ns then 3 else if 8000 ≤ ns then 2 else if 100 ≤ ns then 1 else 0

def State.allowedDepth (s : State) (r : Nat) : Nat :=
  match (s.region r).assign with
  | some a => depthFor (s.phaseOf a.part a.crew).2
  | none => 0

/-- OP5 or slower counts as a preferred point while readings are substituted (R328). -/
def Crew.held (c : Crew) (pref : Nat) : Nat := if c.substLimit then max 5 pref else pref

/-- The preferred point in force at a region. -/
def State.prefOf (s : State) (r : Nat) : Nat :=
  match (s.region r).assign with
  | some a => (s.crew a.part a.crew).held (s.region r).pref
  | none => (s.region r).pref

/-- The words of ROP_STAT, RTHERM and RIDLE (R338). -/
def State.regionWord (s : State) (r w : Nat) : Nat :=
  let x := s.region r
  match w with
  | 0 => x.op * 2 ^ 29 + x.ratio * 2 ^ 22 + x.source * 2 ^ 19 + s.prefOf r * 2 ^ 16
  | 1 => degC (s.regionTj r) * 2 ^ 24 + degC x.pred * 2 ^ 16 + flag x.subst 15 + flag x.thFenced 14
  | 2 => x.depth * 2 ^ 30 + s.allowedDepth r * 2 ^ 28 + sat 16 x.wakes
  | _ => 0

def HotSpot.word (h : HotSpot) : Nat :=
  degC h.a * 2 ^ 24 + degC h.b * 2 ^ 16 + flag h.aExcl 15 + flag h.bExcl 14 + flag h.disagree 13 + degC h.ctrl

/-- The word of the cox block of die d at site st; an offset that is not listed reads 0. -/
def State.coxWord (s : State) (d st off : Nat) : Nat :=
  let c := s.cox st
  let w := off / 4 % 4
  if off = 0 then flag (s.colMap (d / 12)).valid 31 + st
  else if off = 4 then
    ((List.range 4).foldl (fun a q => a + flag (s.region (st * 4 + q)).fenced (28 + q) + flag (s.region (st * 4 + q)).spareUsed (24 + q)) 0)
      + c.events.length * 2 ^ 16
  else if 0x800 ≤ off ∧ off < 0xA00 then recordWord (logAt c.log ((off - 0x800) / 16)) w
  else if off = 0xA00 then sat 16 c.total * 2 ^ 16 + c.nextRec
  else if 0x2000 ≤ off ∧ off < 0x2240 then (s.core (st * 36 + (off - 0x2000) / 16)).eng.word w
  else if 0x3000 ≤ off ∧ off < 0x3800 then (s.admUnit (d * 64 + (off - 0x3000) / 32)).word (off / 4 % 8)
  else if 0x4000 ≤ off ∧ off < 0x4200 then (s.link (st * 32 + (off - 0x4000) / 16)).word w
  else if 0x5000 ≤ off ∧ off < 0x5040 then (s.region (st * 4 + (off - 0x5000) / 16)).sramWord w
  else if 0x6000 ≤ off ∧ off < 0x6040 then (s.region (st * 4 + (off - 0x6000) / 16)).powerWord w
  else if 0x7000 ≤ off ∧ off < 0x7040 then s.regionWord (st * 4 + (off - 0x7000) / 16) w
  else if 0x7100 ≤ off ∧ off < 0x7120 then (Tab.get ({} : HotSpot) c.hot ((off - 0x7100) / 4)).word
  else 0

/-! ## The core-control block -/

def CoreMode.code : CoreMode → Nat
  | .idle => 0
  | .running => 1
  | .halted => 2
  | .faulted => 3

/-- The word of a core-control block (R466). -/
def Core.word (c : Core) (off : Nat) : Nat :=
  match off with
  | 0x004 => c.mode.code * 2 ^ 30 + flag c.paired 29 + flag c.spare 28 + c.pc % 2 ^ 18
  | 0x010 => flag c.fault.valid 31 + flag c.fault.more 30 + c.fault.cause * 2 ^ 24 + c.fault.unit * 2 ^ 21 + flag c.fault.tkv 20 + c.fault.tkt * 2 ^ 16
  | 0x014 => c.fault.pc % 2 ^ 18
  | 0x018 => c.fault.addr % 2 ^ 32
  | 0x01C => c.fault.addr / 2 ^ 32 % 2 ^ 16
  | 0x020 => sat 16 c.unchecked * 2 ^ 16 + sat 16 c.events
  | 0x030 => c.treeLast.toNat
  | 0x034 => c.treeFirst.toNat
  | _ => 0

/-! ## The sync window (R248) -/

def SyncObj.word (o : SyncObj) (off : Nat) : Nat :=
  match off with
  | 0x0 => o.counter
  | 0x4 => o.target
  | 0x8 => flag o.released 31 + flag o.faulted 30 + flag o.run 29 + o.waiters.length * 2 ^ 16 + o.releases % 2 ^ 16
  | _ => 0

end Sys2Proof.Machine
end

