-- ==== Sys2Proof/Machine/HostOps.lean ====
section
/-!
DEFINITION. What the host port shares: error recording (R391), completions of commands (R402 to R404), and the answers
that come back to a hub.
-/
namespace Sys2Proof.Machine

/-- HOST_ERR with the failing address (R391): bit 31 ADDR, 30 SIZE, 29 DATA. -/
def hostError (s : State) (p bit addr : Nat) (bar2 : Bool) : State :=
  s.updHub p (fun h => { h with err := h.err ||| BitVec.ofNat 32 (2 ^ bit), errAddr := addr, errBar2 := bar2 })

/-- The byte i of a command record. -/
def recByte (r : List Byte) (i : Nat) : Nat := (r.getD i 0).toNat
def recNat (r : List Byte) (i n : Nat) : Nat := natLE (slice r i n)

/-- A command ends: its completion is queued in completion order (R403, R404). -/
def complete (s : State) (p index status detail : Nat) : State :=
  match (s.hub p).cmd.active.find? (fun a => a.index == index) with
  | none => s
  | some a =>
    s.updCmd p (fun c => { c with
      active := c.active.filter (fun x => x.index != index)
      held := c.held ++ [{ index := index, opc := recByte a.rec_ 0, status := status, user := recNat a.rec_ 8 8
                           stroke := s.stroke.count, detail := detail
                           irq := if (recByte a.rec_ 2) % 2 = 1 then some (recByte a.rec_ 3) else none }] })

/-- The STATUS of a host access from the STATUS of a response: 1 Unsupported Request, 2 EP. -/
def hostStatus (st : Nat) : Nat := if st = 0 then 0 else if st = 2 then 2 else 1

/-- Record a failed BAR2 access. -/
def bar2Error (s : State) (p st addr : Nat) : State := hostError s p (if st = 2 then 29 else 31) addr true

/-- The hub forwards a packet in class FWD, from its host-port unit, with a tag of its own. -/
def hubForward (s : State) (h : Nat) (pk : Packet) (f : Fwd) : State :=
  let t := (s.hub h).nextTag
  (s.updHub h (fun x => { x with nextTag := (t + 1) % 0x8000, fwd := x.fwd ++ [{ f with tag := t }] })).send { pk with tag := t }

/-- An answer reaches a hub: data, or a STATUS. -/
def hubReply (s : State) (h : Nat) (pk : Packet) (st : Nat) (data : List Byte) : State :=
  match (s.hub h).fwd.find? (fun f => f.tag == pk.tag) with
  | none => s
  | some f =>
    let s1 := s.updHub h (fun x => { x with fwd := x.fwd.filter (fun g => g.tag != pk.tag) })
    match f.kind with
    | 0 => if st = 0 then s1.emit (.completion h 0 data) else (bar2Error s1 h st f.addr).emit (.completion h (hostStatus st) [])
    | 1 => if st = 0 then s1 else (bar2Error s1 h st f.addr).emit (.writeError h (hostStatus st))
    | 2 => if st = 0 then s1.emit (.completion h 0 (if f.size = 4 && f.addr / 4 % 2 = 1 then slice data 4 4 else data.take f.size)) else (bar2Error s1 h st f.addr).emit (.completion h (hostStatus st) [])
    | 3 => if st = 0 then s1 else hostError s1 h 31 f.addr false
    | _ => complete s1 h f.size (if st = 0 then 0 else 1) 0

end Sys2Proof.Machine
end

