-- ==== Sys2Proof/Config.lean ====
section
/-!
DEFINITION. What the spec leaves open and what one panel's manufacture fixes: constants with no body. Nothing in Lean
can prove a value of one, so a statement that holds, holds for every value.
-/
namespace Sys2Proof.Config

/-! ## Numeric results that the spec bounds or does not state -/

/-- R125, R126: which of the FP32 values within the bound a function returns for an argument. -/
opaque trnPick (fn : Nat) (a b : W32) : Nat
/-- TRN and SMX on integer operands: the spec states no result (log entry 20). -/
opaque intTrn (fn : Nat) (a b : W32) : W32
/-- WARP: the fractional part of an infinite coordinate, which the spec does not state (log entry 21). -/
opaque infFraction (x : W32) : W32
/-- SRD 0x0007: region cycles since the crew start, which depend on timing (R77; log entry 22). -/
opaque regionCycles (draw : Nat) : W64

/-! ## Cryptography: the algorithms of FIPS 203 and FIPS 204 and random numbers (log entry 23) -/

/-- ML-DSA-65 verification of a signature over a message under a public key (R431). -/
opaque mldsaVerify (key msg sig : List Byte) : Bool
/-- The signature of a message under the panel's identity key (R431, R432). -/
opaque panelSign (draw : Nat) (msg : List Byte) : List Byte
/-- The signature of a message under the panel's attestation or factory key, by the name of the key. -/
opaque panelPublicKey : List Byte
/-- An ML-KEM-768 key pair drawn by the panel: encapsulation key. -/
opaque kemKey (draw : Nat) : List Byte
/-- ML-KEM-768 encapsulation to a key: ciphertext and shared secret. -/
opaque kemEncaps (draw : Nat) (ek : List Byte) : List Byte × List Byte
/-- ML-KEM-768 decapsulation with the pair of a draw. -/
opaque kemDecaps (draw : Nat) (ct : List Byte) : List Byte
/-- Random bytes from the panel's generator. -/
opaque randomBytes (draw len : Nat) : List Byte

/-! ## Manufacture -/

/-- The bubble ratio that holds a ramp to 1 A/µs (R306), by draw: the spec does not state it. -/
opaque rampRatio (draw : Nat) : Nat
/-- The factory baseline of a region's path resistance at an operating point (R301). -/
opaque pathBaseline (region op : Nat) : Nat

/-- A region's idle current at an operating point, from the factory calibration block [10 mA] (R346). -/
opaque idleCurrent (region op : Nat) : Nat
/-- The identity certificate chain of the panel as manufactured (R432). -/
opaque identityChain : List Byte
/-- The panel's serial and, by site, the die serials of the hallmarks (R435, R441). -/
opaque panelSerial : List Byte
opaque dieSerial (site : Nat) : List Byte
/-- The IEEE 1500 device identifier of a stack, and the MAC address of a fabric port (R414, R441). -/
opaque stackDevice (st : Nat) : List Byte
opaque portMac (f : Nat) : List Byte
/-- The factory calibration block (R446). -/
opaque factoryCal : List Byte
/-- The manifest of the image the panel leaves the factory with. -/
opaque factoryManifest : List Byte
/-- What training finds after a REARM that an alias write gives, by draw: the good lanes of a port, and the answer of a
bezel die in flags and in byte strings (log entry 41). -/
opaque rearmLanes (draw : Nat) : Byte
opaque rearmFlag (draw i : Nat) : Bool
opaque rearmBytes (draw i : Nat) : List Byte
/-- The vendor root key digests the boot ROM holds (R432). -/
opaque vendorRoots : List (List Byte)

end Sys2Proof.Config
end

