-- ==== Sys2Proof/Machine/Certs.lean ====
section
/-!
DEFINITION. Digests, certificates and chains (R431 to R434).
-/
namespace Sys2Proof.Machine

/-- The key digest of a public key, and every digest of 64 B (R431). -/
def digest64 (b : List Byte) : List Byte := shake256 64 b

def certSize : Nat := 5405

/-- A certificate of a chain. -/
structure Cert where
  ok      : Bool
  kind    : Nat
  issuer  : List Byte
  key     : List Byte
  body    : List Byte
  sig     : List Byte
  deriving DecidableEq, Repr

/-- R433; ok says that every fixed field is right. -/
def certOf (b : List Byte) : Cert :=
  { ok := b.length == certSize && natLE (slice b 0 4) == 0x54434E4B && natLE (slice b 4 1) == 1
      && decide (1 ≤ natLE (slice b 5 1)) && decide (natLE (slice b 5 1) ≤ 7) && natLE (slice b 6 2) == 0
      && natLE (slice b 2088 8) == 0
    kind := natLE (slice b 5 1), issuer := slice b 8 64, key := slice b 72 1952
    body := b.take 2096, sig := slice b 2096 3309 }

def Cert.signedBy (c : Cert) (key : List Byte) : Bool :=
  c.issuer == digest64 key && Config.mldsaVerify key c.body c.sig
def Cert.selfSigned (c : Cert) : Bool := c.signedBy c.key

/-- The certificates of a chain, leaf first. -/
def chainOf (b : List Byte) : List Cert := (List.range (b.length / certSize)).map (fun i => certOf (slice b (i * certSize) certSize))

/-- Each certificate is signed by the next. -/
def chainLinks : List Cert → Bool
  | [] => true
  | [_] => true
  | c :: d :: rest => c.signedBy d.key && chainLinks (d :: rest)

/-- R434: 1 to 4 certificates that link, anchored at a held key or at a listed self-signed root. -/
def chainAnchors (b : List Byte) (held listed : List (List Byte)) : Bool :=
  let cs := chainOf b
  b.length % certSize == 0 && decide (1 ≤ cs.length) && decide (cs.length ≤ 4) && cs.all (·.ok) && chainLinks cs
  && (match cs.getLast? with
    | none => false
    | some r => held.any (fun k => r.signedBy k) || (r.selfSigned && listed.contains (digest64 r.key)))

def chainLeaf (b : List Byte) : List Byte := ((chainOf b).head?.map (·.key)).getD []

/-- The panel's identity digest (R431, R432). -/
def identityDigest : List Byte := digest64 Config.panelPublicKey

/-- The owner key the panel holds, if it is owned. -/
def State.ownerKeys (s : State) : List (List Byte) := if s.sec.owned then [s.sec.ownerKey] else []

end Sys2Proof.Machine
end

