-- ==== Sys2Proof/Machine/TreeOps.lean ====
section
/-!
DEFINITION. Trees (R253 to R264): their derivation from the routes, the packets on them, the latch of a collective and
its end. Routers are named X × 72 + Y; the core of a router is its input 9999.
-/
namespace Sys2Proof.Machine

def ownCore : Nat := 9999
/-- The stream ID of a tree at its members (R253). -/
def treeStream (ty tree : Nat) : Nat := 2048 + ty * 1024 + tree
def TreeRec.stream (r : TreeRec) : Nat := treeStream r.ty r.tree
def routerNode (r : Nat) : Node := .router (r / 72) (r % 72)

/-- The router name of an LCID. -/
def State.lcidRouter (s : State) (l : Nat) : Option Nat :=
  match s.lcidNode l with
  | some (.router x y) => some (x * 72 + y)
  | _ => none

/-! ## Derivation (R254) -/

/-- The route from a router to another as the routes in force give it: the routers passed with the direction into each. -/
def State.routeFrom (s : State) (part dx dy : Nat) : Nat → Nat → Nat → Dir → Bool → List (Nat × Dir)
  | 0, _, _, _, _ => []
  | fuel + 1, x, y, a, esc =>
    if x == dx && y == dy then []
    else
      match s.tableHop part x y dx dy a esc with
      | some (d, x', y', e) => (x' * 72 + y', d) :: State.routeFrom s part dx dy fuel x' y' d e
      | none => []

/-- Add the part of a multicast route after its last router in the tree. -/
def joinDown (nodes : Tab TreeNode) (start : Nat) : List (Nat × Dir) → Tab TreeNode
  | [] => nodes
  | (r, d) :: rest =>
    let nodes' :=
      if (nodes.any (fun n => n.1 == r)) then nodes
      else
        let up := Tab.get {} nodes start
        Tab.insert { parent := some start : TreeNode } (Tab.insert { up with kids := up.kids ++ [(d, r)] } nodes start) r
    joinDown nodes' r rest

/-- The part of a route after its last router in the tree, with that router. -/
def lastIn (nodes : Tab TreeNode) (start : Nat) (route : List (Nat × Dir)) : Nat × List (Nat × Dir) :=
  route.zipIdx.foldl (fun acc x => if nodes.any (fun n => n.1 == x.1.1) then (x.1.1, route.drop (x.2 + 1)) else acc) (start, route)

/-- Add the part of a reduction route before its first router in the tree; d is the direction of travel to the parent,
so the child lies at the reverse port. -/
def joinUp (nodes : Tab TreeNode) (r : Nat) : List (Nat × Dir) → Tab TreeNode
  | [] => nodes
  | (nxt, d) :: rest =>
    if nodes.any (fun n => n.1 == r) then nodes
    else
      -- parents are added first, so that the chain hangs from the tree
      let nodes1 := joinUp nodes nxt rest
      let up := Tab.get {} nodes1 nxt
      Tab.insert { parent := some nxt : TreeNode } (Tab.insert { up with kids := up.kids ++ [(d.rev, r)] } nodes1 nxt) r

/-- Child ports in the order N, E, S, W, X express, Y express (R258). -/
def portOrder : Dir → Nat
  | .north => 0
  | .east => 1
  | .south => 2
  | .west => 3
  | .expX => 4
  | .expY => 5
  | _ => 6

def sortKids (l : List (Dir × Nat)) : List (Dir × Nat) :=
  (List.range 7).flatMap (fun i => l.filter (fun k => portOrder k.1 == i))

/-- The nodes of a tree over the members given, in ascending LCID order. -/
def deriveNodes (s : State) (part : Nat) (r : TreeRec) (members : List Nat) : Tab TreeNode :=
  match s.lcidRouter r.root with
  | none => []
  | some root =>
    let start : Tab TreeNode := [(root, {})]
    let all := members.foldl (fun nodes l => match s.lcidRouter l with
      | none => nodes
      | some m =>
        if r.ty = 0 then
          let route := s.routeFrom part (m / 72) (m % 72) 300 (root / 72) (root % 72) .localPort false
          let j := lastIn nodes root route
          joinDown nodes j.1 j.2
        else joinUp nodes m (s.routeFrom part (root / 72) (root % 72) 300 (m / 72) (m % 72) .localPort false)) start
    let withMembers := members.foldl (fun nodes l => match s.lcidRouter l with
      | some m => Tab.insert { (Tab.get {} nodes m) with member := some l } nodes m
      | none => nodes) all
    withMembers.map (fun (k, n) => (k, { n with kids := sortKids n.kids }))

/-- The COL flits a node reserves (R254). -/
def nodeFlits (r : TreeRec) (isRoot : Bool) (n : TreeNode) : Nat :=
  34 * n.kids.length + (if (r.topk == 2 && 2 ≤ n.kids.length + (if n.member.isSome then 1 else 0)) || (r.topk == 1 && isRoot)
    then ceilDiv r.k 4 else 0)

/-- The flits reserved at each router by a list of trees. -/
def poolUse (ts : List Tree) : Tab Nat :=
  ts.foldl (fun use t => match t.rec? with
    | some r => t.nodes.foldl (fun u n => Tab.upd 0 u n.1 (· + nodeFlits r (n.1 == t.rootRouter) n.2)) use
    | none => use) []

/-- Reserve flits at a list of routers. -/
def reserveAt (use : Tab Nat) (rs : List Nat) : Tab Nat := rs.foldl (fun u r => Tab.upd 0 u r (· + 34)) use

/-- The routers that hold COL buffers for one collective binding of a port, as a tree of two members: the core and the
field attachment (R420). -/
def State.bindRouters (s : State) (part : Nat) (r : StreamRec) : List Nat :=
  let out := decide (0xF000 ≤ r.dstLcid)
  let chan := if out then r.dstId else r.srcId
  if !(out || decide (0xF000 ≤ r.srcLcid)) || chan < 2048 || 3072 ≤ chan then []
  else match s.lcidRouter (if out then r.srcLcid else r.dstLcid) with
    | none => []
    | some m => match s.tapRouter (m / 72) (m % 72) with
      | none => []
      | some t =>
        if out then m :: (s.routeFrom part t.1 t.2 300 (m / 72) (m % 72) .localPort false).map (·.1)
        else ((t.1 * 72 + t.2) :: (s.routeFrom part (m / 72) (m % 72) 300 t.1 t.2 .tap false).map (·.1)).dropLast

/-- The flits reserved for the collective bindings of the layouts in force. -/
def State.bindUse (s : State) : Tab Nat :=
  (List.range 4).foldl (fun u p => match s.layoutOf p with
    | some l => l.streams.foldl (fun u r => reserveAt u (s.bindRouters p r)) u
    | none => u) []

/-! ## Live members (R263) -/

def Tree.live (t : Tree) : List Nat := t.members.filter (fun l => !t.dead.has l)

/-- The members at and below a router. -/
def Tree.below (t : Tree) : Nat → Nat → List Nat
  | 0, _ => []
  | fuel + 1, r =>
    let n : TreeNode := Tab.get {} t.nodes r
    n.member.toList ++ n.kids.flatMap (fun k => Tree.below t fuel k.2)

/-- The child ports that lead to a live member. -/
def Tree.liveKids (t : Tree) (r : Nat) : List (Dir × Nat) :=
  (Tab.get ({} : TreeNode) t.nodes r).kids.filter (fun k => (t.below 300 k.2).any (fun l => !t.dead.has l))

/-- The node's own member is live. -/
def Tree.liveOwn (t : Tree) (r : Nat) : Bool :=
  match (Tab.get ({} : TreeNode) t.nodes r).member with
  | some l => !t.dead.has l
  | none => false

/-! ## COL packets (R255) -/

/-- A COL packet that stands at router from_, with the port towards its neighbour to_, or at the local input there. j, coll, count
and flags fill ADDR, where the control form has no j and no flags; kind is in AUX. -/
def colPacket (part tree ty opc from_ to_ : Nat) (arr : Dir) (j coll count flags : Nat) (ctrl : Bool) (aux : Nat)
    (payload : List Byte) : Packet :=
  { cls := 3, opc := opc, ctrl := ctrl, dkind := 2, part := part, dest0 := tree % 256, dest1 := tree / 256 + ty * 4
    src0 := from_ / 72, src1 := from_ % 72, addr := (if ctrl then 0 else j) + coll % 65536 * 2 ^ 16 + count * 2 ^ 32 + (if ctrl then 0 else flags) * 2 ^ 45
    aux := aux, payload := payload, loc := routerNode from_, port := if arr == .localPort then none else some (arr, to_) }

def Packet.colJ (p : Packet) : Nat := bitsOf p.addr 15 0
def Packet.colK (p : Packet) : Nat := bitsOf p.addr 31 16
def Packet.colCount (p : Packet) : Nat := bitsOf p.addr 44 32
def Packet.colFlags (p : Packet) : Nat := bitsOf p.addr 47 45
/-- KIND of a control COL packet. -/
def Packet.colKind (p : Packet) : Nat := if p.ctrl then p.aux % 8 else 0
/-- The data bytes of a COL packet. -/
def Packet.colBytes (p : Packet) : List Byte := if p.ctrl then p.payload.take (p.aux / 8 % 16 + 1) else p.payload
/-- LAST of a data COL packet; the control form of DATA is the only or last packet of its message. -/
def Packet.colLast (p : Packet) : Bool := p.ctrl || p.aux.testBit 6
/-- The input a COL packet came by: a neighbouring router, or the router's own core. -/
def Packet.colFrom (p : Packet) : Nat := if p.arr == .localPort then ownCore else p.src0 * 72 + p.src1
def Packet.atRouter (p : Packet) : Nat :=
  match p.loc with
  | .router x y => x * 72 + y
  | .edge _ _ => 5184

/-- A control COL packet. -/
def colCtrl (part tree ty opc from_ to_ : Nat) (arr : Dir) (kind coll count low : Nat) : Packet :=
  colPacket part tree ty opc from_ to_ arr 0 coll count 0 true kind (bytesLE 2 low ++ zeros 14)

/-- Data cut into packets of 512 B, the last shorter, in the control form for 1 to 16 bytes. -/
def colData (part tree ty opc from_ to_ : Nat) (arr : Dir) (coll count flags : Nat) (bytes : List Byte) : List Packet :=
  let n := max 1 (ceilDiv bytes.length 512)
  (List.range n).map (fun j =>
    let b := slice bytes (512 * j) 512
    let last := j + 1 == n
    let fl := if last then flags else 0
    if b.length ≤ 16 then
      colPacket part tree ty opc from_ to_ arr j coll count fl true ((b.length - 1) * 8) (b ++ zeros (16 - b.length))
    else colPacket part tree ty opc from_ to_ arr j coll count fl false (if last then 64 else 0) b)

/-! ## Start windows (R260) -/

/-- The region of the root's router, which works only while its clock runs (R59). -/
def State.rootRegion (s : State) (t : Tree) : Option Nat := (s.coreAtRouter (t.rootRouter / 72) (t.rootRouter % 72)).map coreRegion

/-- A collective of the tree may start now: the root's region runs, no gate or a window is open by that region's count, and the
partition is not paused. -/
def State.treeOpen (s : State) (t : Tree) : Bool :=
  !s.paused t.part && !t.broken && !t.running
  && (match s.rootRegion t with
    | some r => (s.region r).clock == .running && (!t.gated || (match t.openUntil with
      | some n => decide ((s.region r).count < n)
      | none => false))
    | none => false)

/-- The physical core of the root. -/
def State.treeRoot (s : State) (t : Tree) : Option Nat := t.rec?.bind (fun r => s.coreOf r.root)

/-- The root's pending SEND of a multicast or RECV of a reduction: the oldest of its runs on the stream that has not
begun (Run.barrier marks a SEND). -/
def State.rootRun (s : State) (t : Tree) : Option (Nat × Run) :=
  match t.rec?, s.treeRoot t with
  | some r, some k =>
    if (s.core k).fault.valid then none
    else (((s.core k).mvRun.find? (fun x => x.key == r.stream && !x.done && x.barrier == (r.ty == 0))).filter (fun x => x.stage != 1)).map (fun x => (k, x))
  | _, _ => none

/-- Latch the live members and open collective t.coll. -/
def latch (s : State) (tk : Nat) : State :=
  s.updTree tk (fun t => { t with
    running := true, ready := false, latchedMembers := t.live, done := 0, dropped := 0, lowDrop := 0x1FFF, folded := 0, sizeBad := false
    malNow := false, ovfNow := false, cutNow := false, cut := []
    nodes := t.nodes.map (fun (k, n) => (k, { n with ins := [], nextJ := 0, finished := [], dones := [], used := [] })) })

def Tree.node (t : Tree) (r : Nat) : TreeNode := Tab.get {} t.nodes r

/-- The direction of a packet from a router to its parent. -/
def Tree.upDir (t : Tree) (r up : Nat) : Dir := (((t.node up).kids.find? (fun k => k.2 == r)).map (fun k => k.1.rev)).getD .north

/-- Merge credits at a router, collective by collective: one from every live child port and the own live member other than the
root; then one to the parent, or the grant at the root's router (R256 steps 2 and 3). -/
def mergeLoop : Nat → State → Nat → Nat → State
  | 0, s, _, _ => s
  | fuel + 1, s, tk, r =>
    let t := s.tree tk
    match t.rec? with
    | none => s
    | some rc =>
      let n := t.node r
      let want := (t.liveKids r).map (·.2) ++ (if t.liveOwn r && n.member != some rc.root then [ownCore] else [])
      let coll := (n.creds.map (·.1)).foldl min 0x10000
      let have_ := n.creds.filter (fun c => c.1 == coll)
      if (have_.isEmpty && !(r == t.rootRouter && want.isEmpty)) || !(want.all (fun w => have_.any (fun c => c.2.1 == w))) then s
      else
        let rest := { n with creds := n.creds.filter (fun c => c.1 != coll) }
        match n.parent with
        | some up =>
          mergeLoop fuel ((s.updTree tk (fun t => { t with nodes := Tab.insert rest t.nodes r })).send
            (colCtrl t.part rc.tree rc.ty 1 r up (t.upDir r up) 1 coll ((have_.map (·.2.2)).foldl (· + ·) 0) 0)) tk r
        | none => if t.ready then s else s.updTree tk (fun t => { t with ready := true, nodes := Tab.insert rest t.nodes r })

def mergeCredits (s : State) (tk r : Nat) : State := mergeLoop (((s.tree tk).node r).creds.length + 1) s tk r

/-- Start a multicast when the root's SEND, the credits and the window allow (R256 step 4). -/
def tryMulticast (s : State) (tk : Nat) : State :=
  let t := s.tree tk
  match t.rec?, s.rootRun t with
  | some rc, some (k, run) =>
    if rc.ty = 0 && t.ready && s.treeOpen t && run.barrier then
      let s1 := latch s tk
      let s2 := s1.updCore k (fun c => { c with mvRun := mapRun c.mvRun run.op.seq (fun x => { x with done := true }) })
      if run.void then
        s2.send (colCtrl t.part rc.tree 0 0 t.rootRouter t.rootRouter .localPort 4 t.coll 0 0)
      else s2.each (colData t.part rc.tree 0 0 t.rootRouter t.rootRouter .localPort t.coll 0 0 run.bytes) (fun s p => s.send p)
    else s
  | _, _ => s

/-- Start a reduction when the root's RECV and the window allow (R257 step 1). -/
def tryReduce (s : State) (tk : Nat) : State :=
  let t := s.tree tk
  match t.rec?, s.rootRun t with
  | some rc, some (k, run) =>
    if rc.ty = 1 && s.treeOpen t && !run.barrier then
      let s1 := latch s tk
      (s1.updCore k (fun c => { c with mvRun := mapRun c.mvRun run.op.seq (fun x => { x with done := true }) })).send
        (colCtrl t.part rc.tree 1 0 t.rootRouter t.rootRouter .localPort 1 t.coll 0 0)
    else s
  | _, _ => s

def tryTree (s : State) (tk : Nat) : State := tryReduce (tryMulticast s tk) tk

/-- TREE_LAST and TREE_FIRST (R264). -/
def treeLastWord (ty tree dropped : Nat) : Nat :=
  2 ^ 31 + (if dropped = 0 then 0 else 2 ^ 30) + ty * 2 ^ 29 + tree * 2 ^ 16 + dropped

end Sys2Proof.Machine
end

