-- ==== Sys2Proof/Machine/Mover.lean ====
section
/-!
DEFINITION. The mover: copies and their requests (R90 to R92, R217), streams (R93, R418 to R420), tree streams (R253,
R256, R257) and expert dispatch at the sender (R94, R154 to R159, R162). Completion of MV and SY instructions (R67) with
the partner of a pair (R135).
-/
namespace Sys2Proof.Machine

/-! ## Completion -/

/-- An MV or SY instruction leaves its unit: a RECV writes the VOID bit of its descriptor, the ticket falls (R66, R93). -/
def retireOne (s : State) (k : Nat) (u : CoreUnit) (seq : Nat) (void : Bool) : State :=
  match (s.core k).findRun u seq with
  | none => s
  | some r =>
    s.updCore k (fun c =>
      let t := wbits r.op.w 44 41
      let c1 := if u = .mv && wFn r.op.w = 5 then { c.setTreg t (setVoid (c.treg t) void) with tpend := NSet.del c.tpend t } else c
      c1.retire u seq)

/-- Complete an instruction; the partner's completes with it, or when it starts there (R135). -/
def finish (s : State) (k : Nat) (u : CoreUnit) (seq : Nat) (void : Bool) : State :=
  let s1 := retireOne s k u seq void
  if (s.core k).paired && !(s.core k).partner then
    match s.pairOf k with
    | some j =>
      if ((s1.core j).findRun u seq).isSome then retireOne s1 j u seq void
      else s1.updCore j (fun c => { c with mirror := c.mirror ++ [(seq, void)] })
    | none => s1
  else s1

/-- A partner's instruction that the primary has completed already. -/
def finishMirror (s : State) (k : Nat) (u : CoreUnit) (seq : Nat) : State :=
  match (s.core k).mirror.find? (fun m => m.1 == seq) with
  | some (_, v) => (retireOne s k u seq v).updCore k (fun c => { c with mirror := c.mirror.filter (fun m => m.1 != seq) })
  | none => s

/-- An instruction has requests without a response. -/
def Core.openReqs (c : Core) (seq : Nat) : Bool := c.reqs.any (fun q => q.seq == seq) || c.held.any (fun h => h.2.seq == seq)

/-- The router a core works under: that of the LCID it sees. -/
def State.nodeOf (s : State) (k : Nat) : Node := (s.lcidNode (s.lcidSeen k)).getD (.router 72 72)

def State.setRun (s : State) (k seq : Nat) (f : Run → Run) : State :=
  s.updCore k (fun c => { c with mvRun := mapRun c.mvRun seq f })

/-- A request that the primary makes for both cores of a pair: the partner's digest takes the same record with the partner's own
bytes. -/
def routeRequest (s : State) (k : Nat) (p : Packet) (partnerPayload : List Byte) (r : Req) : State :=
  let s1 := request s k p r
  if (s.core k).paired then (match s.pairOf k with
    | some j => addDigest s1 j (requestRecord p partnerPayload)
    | none => s1)
  else s1

/-! ## Pair mismatches (R98, R137) -/

/-- Every earlier-issued instruction of a core has completed. -/
def Core.earlierDone (c : Core) (seq : Nat) : Bool :=
  let ok := fun (n : Nat) => decide (seq ≤ n)
  (c.meq ++ c.veq ++ c.mvq ++ c.syq).all (fun o => ok o.seq) && (c.meRun ++ c.veRun ++ c.mvRun ++ c.syRun).all (fun r => ok r.op.seq)

/-- The first started SIGNAL of a core that has not been sent. -/
def Core.openSignal (c : Core) : Option Run := c.syRun.find? (fun r => wFn r.op.w == 0 && !r.done)

/-- The instruction whose SIGNAL a pair compares for. -/
def Core.signalling (c : Core) : Found :=
  match c.openSignal, c.mvRun.find? (fun r => r.note.isSome) with
  | some r, _ => r.op.found .sy
  | none, some r => r.op.found .mv
  | none, none => { unit := 4, pc := c.pc }

/-- A mismatch: both regions fault, the engines of both cores are counted, and the third failure of a core fails it
(R98, R134, R371). -/
def pairMismatch (s : State) (k j : Nat) : State :=
  let peer := fun (i : Nat) => if i = k then (j, (s.core j).signalling) else (k, (s.core k).signalling)
  let s1 := s.each [k, j] (fun s1 i => engineEvent (s1.updCore i (fun c => { c with pairFails := c.pairFails + 1, submitted := none, noteSub := none })) i
    true false 0 (s.core i).signalling (some (peer i)))
  let s2 := s1.each [k, j] (fun s2 i => if 3 ≤ (s2.core i).pairFails && !(s2.core i).failed then coreFail s2 i 0x13 (some (s.core i).signalling) (some (peer i)) else s2)
  let f := (s.core k).signalling
  if (s2.core k).fault.valid then s2 else coreFault s2 k 0x13 f.unit f.tkv f.tkt f.pc 0 false false (some (peer k))

/-! ## The SIGNAL of an RCOPY with NOTE (R91, R98) -/

/-- It is sent to its object's home. -/
def sendNote (s : State) (k seq obj : Nat) : State :=
  let s1 := s.setRun k seq (fun r => { r with note := none })
  match s.objNode obj with
  | some home =>
    let q := syncPacket 0 (s.partOfCore k) 0 obj 0 1 (s.lcidSeen k) (s.nodeOf k) home
    routeRequest s1 k q q.payload { tag := 0, seq := seq, kind := .note }
  | none => s1

/-- In a pair it is held until the digests submitted for it match. -/
def compareNote (s : State) (k : Nat) : State :=
  match s.pairOf k with
  | none => s
  | some j =>
    match (s.core k).noteSub, (s.core j).noteSub with
    | some (n, a, _), some (m, b, _) =>
      if n ≠ m then s
      else if a = b then
        let prim := if (s.core k).partner then j else k
        let fresh := fun (c : Core) => { c with noteSub := none, digest := 0 }
        let obj := (((s.core prim).findRun .mv n).bind (·.note)).getD 0
        let s1 := ((s.updCore k fresh).updCore j fresh).setRun (if prim = k then j else k) n (fun r => { r with note := none })
        sendNote s1 prim n obj
      else pairMismatch s k j
    | _, _ => s

/-- The digest of a core for the SIGNAL of an RCOPY, once every earlier-issued instruction has completed. -/
def submitNote (s : State) (k seq : Nat) : State :=
  if (s.core k).noteSub.isSome || !(s.core k).earlierDone seq then s
  else compareNote (s.updCore k (fun c => { c with noteSub := some (seq, c.digest, s.now) })) k

/-! ## Outcomes of a ROUTE (R159) -/

def routeB (r : Run) : Desc := descOf r.op.tb
/-- The choice at position c of token t (R94). -/
def Run.choice (r : Run) (t c : Nat) : Int := signed 32 (natLE (slice r.bytes ((t * (routeB r).dim0 + c) * 4) 4))
def Run.expert (r : Run) (t c : Nat) : Nat := ((r.choice t c) % 256).toNat

def outcomeWord (code expert : Nat) : W32 := BitVec.ofNat 32 (code * 2 ^ 30 + expert % 256)

/-- The outcome of each position: recorded, or that of a position with no choice or of an unused reserve. -/
def Run.outcome (r : Run) (t c : Nat) : W32 :=
  match (r.rt.outcomes.find? (fun o => o.1 == t * 8 + c)).map (·.2) with
  | some o => o
  | none => if r.choice t c = -1 then outcomeWord 3 0xFF else outcomeWord 3 (r.expert t c)

/-- The rows of D (R159). -/
def Run.outcomeRows (r : Run) : List (Nat × List Byte) :=
  let d := descOf r.op.td
  (List.range (routeB r).dim1).map (fun t =>
    (d.runAt t, (List.range (routeB r).dim0).flatMap (fun c => bytesLE 4 (r.outcome t c).toNat)))

/-! ## Where a request goes (R35, R458) -/

/-- The router that takes a core's access to a die's cox block. DESIGN CHOICE (log entry 147): core 0 of the die's first live
region, since R34 names no router. -/
def State.coxNode (s : State) (site : Nat) : Option Node :=
  let r := ((siteRegions site).find? s.regionLive).getD (site * 4)
  (s.routerOf ((regionCores r).headD (site * 36))).map (fun n => .router n.1 n.2)

/-- The node that a request for n bytes at a panel address is sent to; none where no packet leaves the die. -/
def State.reach (s : State) (k a n : Nat) : Option Node :=
  match targetOf a, targetOf (a + n - 1) with
  | .hbm x, .hbm _ => (hbmLocate (s.hub (s.partOfCore k)).interleave x).map (fun l => sliceNode l.1)
  | .sram l off, .sram l' _ => if l = l' && off + n ≤ sramSize then s.lcidNode l else none
  | .coxReg d _, .coxReg _ _ => (s.siteOfDie d).bind s.coxNode
  | .coreReg l _, .coreReg _ _ => s.lcidNode l
  | .sync o _, .sync _ _ => s.objNode o
  | _, _ => none

def isControl (a : Nat) : Bool := decide (0x200000000000 ≤ a)

/-- The length of the first request of a run of n bytes at address a (R217, R458). -/
def firstCut (a n : Nat) : Nat :=
  if isControl a then min n 4
  else if a < 0x020000000000 then min n (min 512 (4096 - a % 4096))
  else min n 512

/-- A run cut into requests: remote address, local offset, length. -/
def cutRun : Nat → Nat → Nat → Nat → List (Nat × Nat × Nat)
  | 0, _, _, _ => []
  | fuel + 1, a, off, n => if n = 0 then [] else
      let m := firstCut a n
      (a, off, m) :: cutRun fuel (a + m) (off + m) (n - m)

/-- Match two lists of runs of equal total length: destination, source, length. -/
def zipRuns : Nat → List (Nat × Nat) → List (Nat × Nat) → List (Nat × Nat × Nat)
  | 0, _, _ => []
  | fuel + 1, (d, dl) :: ds, (a, al) :: as_ =>
    if dl = 0 then zipRuns fuel ds ((a, al) :: as_)
    else if al = 0 then zipRuns fuel ((d, dl) :: ds) as_
    else
      let n := min dl al
      (d, a, n) :: zipRuns fuel ((d + n, dl - n) :: ds) ((a + n, al - n) :: as_)
  | _, _, _ => []

/-! ## Moving runs -/

/-- Read a run of the panel by RDs: into local SRAM at off, or into the instruction's own store. -/
def readRun (s : State) (k seq off a n : Nat) (kind : ReqKindMv := .read) : Res :=
  if isControl a && (a % 4 != 0 || n % 4 != 0) then { s := s, cause := 0x06, addr := a }
  else ({ s := s } : Res).eachOf (cutRun (n + 1) a off n) (fun s x =>
    match s.reach k x.1 x.2.2 with
    | none => { s := s, cause := 0x0A, addr := x.1 }
    | some n => { s := request s k (readPacket 0 (s.partOfCore k) 0 x.1 x.2.2 (x.2.1 % 2 ^ 24) (s.nodeOf k) n)
                    { tag := 0, seq := seq, kind := kind, off := x.2.1, len := x.2.2, addr := x.1 } })

/-- Write bytes to the panel by WRs and WRSs; both says that the partner of a pair makes the same requests with them. -/
def writeBytes (s : State) (k seq a : Nat) (bytes : List Byte) (both : Bool := false) : Res :=
  let n := bytes.length
  if isControl a && (a % 4 != 0 || n % 4 != 0) then { s := s, cause := 0x06, addr := a }
  else ({ s := s } : Res).eachOf (cutRun (n + 1) a 0 n) (fun s x =>
      match s.reach k x.1 x.2.2 with
      | none => { s := s, cause := 0x0A, addr := x.1 }
      | some n =>
        let q := writePacket 0 (s.partOfCore k) 0 x.1 (slice bytes x.2.1 x.2.2) (s.nodeOf k) n
        let r : Req := { tag := 0, seq := seq, kind := .write, off := x.2.1, len := x.2.2, addr := x.1 }
        { s := if both then routeRequest s k q q.payload r else request s k q r })

/-- Write bytes of local SRAM to the panel. -/
def writeRun (s : State) (k seq a off n : Nat) : Res :=
  if isControl a && (a % 4 != 0 || n % 4 != 0) then { s := s, cause := 0x06, addr := a }
  else (unitReads s k [(off, n)]).andThen (fun s => writeBytes s k seq a (s.sramBytes k off n))

def Desc.runList (d : Desc) : List (Nat × Nat) := (List.range d.runs).map (fun i => (d.runAt i, d.runBytes))

/-! ## Completion of transfers -/

/-- ROUTE writes tD in full as it completes, in both cores of a pair; a tD elsewhere in the panel by requests. -/
def writeOutcomes (s : State) (k : Nat) (r : Run) : Res :=
  if (descOf r.op.td).space == 1 then
    ({ s := s.setRun k r.op.seq (fun r => { r with rt := { r.rt with written := true } }) } : Res).eachOf r.outcomeRows (fun s x =>
      writeBytes s k r.op.seq x.1 x.2 true)
  else
    (unitWrites s k r.outcomeRows).andThen (fun s =>
      if (s.core k).paired then (match s.pairOf k with
        | some j => unitWrites s j r.outcomeRows
        | none => { s := s })
      else { s := s })

/-- A mover instruction whose requests have all been answered: its delayed fault, its SIGNAL, or its completion. -/
def settle (s : State) (k seq : Nat) : State :=
  match (s.core k).findRun .mv seq with
  | none => s
  | some r =>
    if r.alone || (s.core k).openReqs seq then s
    else if (s.core k).fault.valid then s.updCore k (fun c => { c with mvRun := dropRun c.mvRun seq })
    else if !r.done then s
    else if (s.core k).partner && r.note.isNone then finishMirror s k .mv seq
    else if r.after != 0 then unitFault s k .mv r.op r.after 0
    else match r.note with
      | some obj => if (s.core k).paired then submitNote s k seq else sendNote s k seq obj
      | none =>
        if wFn r.op.w = 7 && !r.rt.written then
          let w := writeOutcomes s k r
          if w.cause != 0 then unitFault w.s k .mv r.op w.cause w.addr
          else if (w.s.core k).openReqs seq then w.s
          else finish w.s k .mv seq false
        else finish s k .mv seq false

/-- The SIGNALs of RCOPYs that wait for their turn. -/
def tryNotes (s : State) (k : Nat) : State :=
  s.each ((s.core k).mvRun.filter (fun r => r.note.isSome && r.done)) (fun s r => settle s k r.op.seq)

/-! ## Remote operands of SEND, ROUTE, GATHER and SCATTER, and of a COPY with two (R70, R93) -/

/-- The places in an instruction's store: those of its list from 2^48 on. -/
def listStore : Nat := 281474976710656

/-- The bytes of an instruction's store from a place on, read in pieces. -/
def Run.store (r : Run) (at_ n : Nat) : List Byte :=
  (sortBy (fun x y => decide (x.1 ≤ y.1)) (r.got.filter (fun x => decide (at_ ≤ x.1) && decide (x.1 < at_ + n)))).flatMap (·.2)

/-- Read runs of one length into the store from a place on. -/
def stageRuns (s : State) (k seq at_ : Nat) (runs : List (Nat × Nat)) : Res :=
  ({ s := s } : Res).eachOf runs.zipIdx (fun s x => readRun s k seq (at_ + x.2 * x.1.2) x.1.1 x.1.2 .stage)

/-- The run of an instruction, by its number. -/
def State.runOf (s : State) (k seq : Nat) : Run := ((s.core k).findRun .mv seq).getD { op := { w := 0, pc := 0, seq := seq } }

/-- The bytes of run i of an operand, in local SRAM or in the store from at_ on. -/
def State.operandRun (s : State) (k : Nat) (r : Run) (d : Desc) (at_ i : Nat) : List Byte :=
  if d.space == 1 then r.store (at_ + i * d.runBytes) d.runBytes else s.sramBytes k (d.runAt i) d.runBytes

/-- Move one run: D remote, A remote, or both local; b is what the store holds of A. -/
def moveRun (s : State) (k seq : Nat) (dRemote aRemote : Bool) (d a n : Nat) (b : Option (List Byte) := none) : Res :=
  match b with
  | some bytes => if dRemote then writeBytes s k seq d bytes else unitWrite s k d bytes
  | none =>
    if dRemote then writeRun s k seq d a n
    else if aRemote then readRun s k seq d a n
    else (unitReads s k [(a, n)]).andThen (fun s => unitWrite s k d (s.sramBytes k a n))

/-- A mover instruction has nothing more to ask: alone when it stayed within the core. -/
def asked (s : State) (k seq : Nat) (alone : Bool) : State := settle (s.setRun k seq (fun r => { r with done := true, alone := alone })) k seq

/-- A void COPY, GATHER or SCATTER, and a void ROUTE, complete at start (R149). -/
def finishVoid (s : State) (k seq : Nat) : State :=
  if (s.core k).partner then asked s k seq false else finish s k .mv seq false

/-- COPY as it starts (R90, R91): a copy within the core, and one between two places outside it, reads its source whole before
it writes. -/
def copyStart (s : State) (k : Nat) (op : Op) : Res :=
  let d := descOf op.td
  let a := descOf op.ta
  let dR := d.space == 1
  let aR := a.space == 1
  if d.void || a.void then { s := finishVoid s k op.seq }
  else
    let runs := zipRuns (d.runs + a.runs + d.runs + a.runs + 2) d.runList (if dR && aR then [(0, a.runs * a.runBytes)] else a.runList)
    let r := s.runOf k op.seq
    if dR && aR then
      if r.stage = 0 then stageRuns (s.setRun k op.seq (fun r => { r with stage := 1 })) k op.seq 0 a.runList
      else
        (({ s := s } : Res).eachOf runs (fun s x => writeBytes s k op.seq x.1 (slice (r.store 0 (a.runs * a.runBytes)) x.2.1 x.2.2))).andThen
          (fun s => { s := asked s k op.seq false })
    else if dR || aR then
      (({ s := s } : Res).eachOf runs (fun s x => moveRun s k op.seq dR aR x.1 x.2.1 x.2.2)).andThen
        (fun s => { s := asked s k op.seq false })
    else
      (unitReads s k a.runList).andThen (fun s =>
        (unitWrites s k (runs.map (fun x => (x.1, s.sramBytes k x.2.1 x.2.2)))).andThen (fun s => { s := asked s k op.seq true }))

/-- RCOPY as it starts: va is s[SL], vb is s[SN]. DESIGN CHOICE (log entry 149): with NOTE, an object without a home raises
ADDR_ERROR before any data moves. -/
def rcopyStart (s : State) (k : Nat) (op : Op) : Res :=
  let d := descOf op.td
  let a := descOf op.ta
  let l := op.va.toNat
  let note := wbits op.w 31 31 == 1
  let obj := op.vb.toNat
  let void := d.void || a.void
  if !void && (decide (4608 ≤ l) || (s.lcidNode l).isNone) then { s := s, cause := 0x0A }
  else if note && (s.objNode obj).isNone then { s := s, cause := 0x0A }
  else
    let s1 := if note then s.setRun k op.seq (fun r => { r with note := some obj }) else s
    if void then { s := asked s1 k op.seq false }
    else
      (({ s := s1 } : Res).eachOf (zipRuns (2 * d.runs + 2 * a.runs + 2) d.runList a.runList) (fun s x =>
        writeRun s k op.seq (sramBase l + x.1) x.2.1 x.2.2)).andThen (fun s => { s := asked s k op.seq false })

/-- GATHER and SCATTER as they start, or go on with what they had to read first (R92): row by row, up to the first index out of
range. -/
def gsStart (s : State) (k : Nat) (op : Op) (scatter : Bool) : Res :=
  let d := descOf op.td
  let a := descOf op.ta
  let b := descOf op.tb
  let dR := d.space == 1
  let aR := a.space == 1
  let bR := b.space == 1
  let lim := if scatter then d.dim1 else a.dim1
  let r := s.runOf k op.seq
  if d.void || a.void || b.void then { s := finishVoid s k op.seq }
  else if bR && r.stage = 0 then stageRuns (s.setRun k op.seq (fun r => { r with stage := 1 })) k op.seq listStore [(b.base, 4 * b.dim0)]
  else
    (if bR then ({ s := s } : Res) else unitReads s k [(b.base, 4 * b.dim0)]).andThen (fun s =>
      let codes := if bR then (List.range b.dim0).map (fun i => natLE (slice (r.store listStore (4 * b.dim0)) (4 * i) 4)) else elemCodes s k b.base 32 b.dim0
      let idx : List Int := codes.map (signed 32)
      let good := idx.takeWhile (fun (i : Int) => decide (0 ≤ i) && decide (i < (lim : Int)))
      let bad := decide (good.length < idx.length)
      let dAt := fun (x : Int × Nat) => d.base + d.unit * ((if scatter then x.1.toNat else x.2) * d.str1)
      let aAt := fun (x : Int × Nat) => a.base + a.unit * ((if scatter then x.2 else x.1.toNat) * a.str1)
      if dR && aR && r.stage < 3 && !good.isEmpty then
        stageRuns (s.setRun k op.seq (fun r => { r with stage := 3 })) k op.seq 0 (good.zipIdx.map (fun x => (aAt x, a.runBytes)))
      else
        (({ s := s } : Res).eachOf good.zipIdx (fun s x =>
          moveRun s k op.seq dR aR (dAt x) (aAt x) d.runBytes (if dR && aR then some (r.store (x.2 * a.runBytes) a.runBytes) else none))).andThen
          (fun s =>
            let local_ := !(dR || aR || bR)
            if bad && local_ then { s := s, cause := 0x0D }
            else { s := asked (if bad then s.setRun k op.seq (fun r => { r with after := 0x0D }) else s) k op.seq local_ }))

/-! ## Streams (R93, R418 to R420) -/

/-- The tree a stream ID names in a partition (R253). -/
def State.streamTree (s : State) (p sid : Nat) : Option Nat :=
  if 2048 ≤ sid && (s.tree (treeKey p ((sid - 2048) / 1024) (sid % 1024))).rec?.isSome then
    some (treeKey p ((sid - 2048) / 1024) (sid % 1024))
  else none

def State.streamsOf (s : State) (p : Nat) : List StreamRec := ((s.layoutOf p).map (·.streams)).getD []

/-- The destination of an outbound stream of an LCID: node and stream ID or channel there. -/
def State.streamOut (s : State) (p l sid : Nat) : Option StreamRec :=
  (s.streamsOf p).find? (fun r => r.srcLcid == l && r.srcId == sid)
def State.streamIn (s : State) (p l sid : Nat) : Option StreamRec :=
  (s.streamsOf p).find? (fun r => r.dstLcid == l && r.dstId == sid)

/-- The node of an LCID field: 0xF000 + f names fabric port f (R418). -/
def State.endNode (s : State) (lc : Nat) : Option Node :=
  if 0xF000 ≤ lc then some (portNode (lc - 0xF000)) else s.lcidNode lc

/-- A collective channel of a port (R418, R420). -/
def isCollective (lc ch : Nat) : Bool := decide (0xF000 ≤ lc) && decide (2048 ≤ ch) && decide (ch < 3072)

/-- The packets of a message (R215, R217): LAST on the last, VOID on a marker. -/
def messagePackets (p : Packet) (void : Bool) (bytes : List Byte) : List Packet :=
  if void then [{ p with ctrl := true, aux := 0xC0, payload := zeros 16 }]
  else
    let n := max 1 (ceilDiv bytes.length 512)
    (List.range n).map (fun j =>
      let b := slice bytes (512 * j) 512
      let last := if j + 1 = n then 64 else 0
      if b.length ≤ 16 then { p with ctrl := true, aux := last + (16 - b.length), payload := b ++ zeros (16 - b.length) }
      else { p with ctrl := false, aux := last, payload := b })

/-- The bytes a MSG packet carries. -/
def Packet.msgBytes (p : Packet) : List Byte :=
  if p.aux.testBit 7 && p.ctrl then [] else if p.ctrl then p.payload.take (16 - p.aux % 64) else p.payload

/-- Packets of a collective message to a port: COL MCAST with the channel in ADDR[11:0] (R420). -/
def peerPackets (p : Packet) (void : Bool) (bytes : List Byte) : List Packet :=
  if void then [{ p with ctrl := true, aux := 4, payload := zeros 16 }]
  else
    let n := max 1 (ceilDiv bytes.length 512)
    (List.range n).map (fun j =>
      let b := slice bytes (512 * j) 512
      if b.length ≤ 16 then { p with ctrl := true, aux := (b.length - 1) * 8, payload := b ++ zeros (16 - b.length) }
      else { p with ctrl := false, aux := if j + 1 = n then 64 else 0, payload := b })

/-- The oldest SEND or VOID that waits for a credit of a stream. -/
def Core.waitingSend (c : Core) (sid : Nat) : Option Run := c.mvRun.find? (fun r => r.barrier && r.key == sid && !r.done)

/-- Send a message against a credit. COL packets leave only while the partition is not paused (R225). -/
def pumpStream (s : State) (k sid : Nat) : State :=
  let c := s.core k
  let p := s.partOfCore k
  let l := s.lcidSeen k
  match c.waitingSend sid, s.streamOut p l sid with
  | some r, some rec =>
    if r.stage = 1 || Tab.get 0 c.credits sid = 0 || (isCollective rec.dstLcid rec.dstId && s.paused p) then s
    else
      let s1 := (s.updCore k (fun c => { c with credits := Tab.upd 0 c.credits sid (· - 1) })).setRun k r.op.seq (fun r => { r with done := true, bytes := [] })
      match s.endNode rec.dstLcid with
      | none => unitFault s1 k .mv r.op 0x0A 0
      | some dst =>
        if isCollective rec.dstLcid rec.dstId then
          let base : Packet := (({ cls := 3, opc := 0, part := p, addr := rec.dstId, loc := s.nodeOf k } : Packet).setSrc (s.nodeOf k)).setDest dst
          let s2 := s1.each (peerPackets base r.void r.bytes) (fun s q =>
            let s' := addDigest s k (requestRecord q q.payload)
            if (s.core k).partner then s' else s'.send q)
          settle s2 k r.op.seq
        else
          let base : Packet := (({ cls := 0, opc := 6, part := p, addr := rec.dstId, loc := s.nodeOf k } : Packet).setSrc (s.nodeOf k)).setDest dst
          settle (s1.each (messagePackets base r.void r.bytes) (fun s q => request s k q { tag := 0, seq := r.op.seq, kind := .message })) k r.op.seq
  | _, _ => s

/-- The cause with which a SEND or RECV of collective coll on a tree is refused: the members use it, each in its role; a broken tree
is answered with STATUS 4; a member cut off from the collective faults there (R253, R263). -/
def treeRefusal (t : Tree) (l : Nat) (isSend : Bool) (coll : Nat) : Nat :=
  match t.rec? with
  | none => 0x0E
  | some r =>
    if !t.members.contains l then 0x0E
    else if (r.ty == 0 && isSend != (r.root == l)) || (r.ty == 1 && !isSend && r.root != l) then 0x0E
    else if t.broken then 0x0A
    else if t.running && t.cut.has l && coll % 65536 == t.coll then 0x11
    else 0

/-- A member's contribution enters its router (R257 step 3), against the credit of its collective. -/
def pumpContrib (s : State) (k tk : Nat) : State :=
  let c := s.core k
  let t := s.tree tk
  match t.rec? with
  | none => s
  | some rec =>
    match c.waitingSend rec.stream with
    | none => s
    | some r =>
      if r.stage = 1 || Tab.get 0 c.credits rec.stream = 0 || s.paused t.part then s
      else
        let coll := Tab.get 0 c.treeK tk
        let s1 := (s.updCore k (fun c => { c with
          credits := Tab.upd 0 c.credits rec.stream (· - 1), treeK := Tab.upd 0 c.treeK tk (· + 1) })).setRun k r.op.seq (fun r => { r with done := true, bytes := [] })
        match s.lcidRouter (s.lcidSeen k) with
        | none => s1
        | some me =>
          let ps := if r.void then [colCtrl t.part rec.tree 1 1 me me .localPort 4 coll 1 0]
            else (colData t.part rec.tree 1 1 me me .localPort coll 1 0 r.bytes)
          let s2 := s1.each ps (fun s q =>
            let s' := addDigest s k (requestRecord q q.payload)
            if (s.core k).partner then s' else s'.send q)
          settle s2 k r.op.seq

/-- SEND and VOID with the bytes of their message. -/
def sendWith (s : State) (k : Nat) (op : Op) (marker void : Bool) (bytes : List Byte) : Res :=
  let sid := wbits op.w 40 29
  let p := s.partOfCore k
  let s1 := s.setRun k op.seq (fun r => { r with key := sid, barrier := true, void := void, bytes := bytes })
  match s.streamTree p sid with
  | some tk =>
    let t := s.tree tk
    let coll := Tab.get 0 (s.core k).treeK tk
    let bad := treeRefusal t (s.lcidSeen k) true coll
    if bad != 0 then { s := s, cause := bad }
    else match t.rec? with
      | none => { s := s, cause := 0x0E }
      | some rec =>
        if rec.ty = 1 && !marker && (descOf op.ta).fmt != rec.vfmt && rec.op = 0 then { s := s, cause := 0x08 }
        else if rec.ty = 0 && rec.maxBytes < bytes.length then { s := s, cause := 0x0F }
        else if rec.ty = 0 then
          -- the packets of a pair's multicast enter both digests as they are submitted (R136)
          let ps := if void then [colCtrl t.part rec.tree 0 0 t.rootRouter t.rootRouter .localPort 4 coll 0 0]
            else colData t.part rec.tree 0 0 t.rootRouter t.rootRouter .localPort coll 0 0 bytes
          let s2 := ps.foldl (fun s q => addDigest s k (requestRecord q q.payload)) (s1.updCore k (fun c => { c with treeK := Tab.upd 0 c.treeK tk (· + 1) }))
          { s := if (s.core k).partner then settle (s2.setRun k op.seq (fun r => { r with done := true })) k op.seq else tryTree s2 tk }
        else { s := pumpContrib s1 k tk }
  | none => if (s.streamOut p (s.lcidSeen k) sid).isNone then { s := s, cause := 0x0E } else { s := pumpStream s1 k sid }

/-- SEND and VOID as they start; a SEND of an A elsewhere in the panel reads it first and keeps its place in the stream. -/
def sendStart (s : State) (k : Nat) (op : Op) (marker : Bool) : Res :=
  let a := descOf op.ta
  let r := s.runOf k op.seq
  if marker || a.void then sendWith s k op marker true []
  else if a.space == 1 && r.stage = 0 then
    stageRuns (s.setRun k op.seq (fun r => { r with stage := 1, key := wbits op.w 40 29, barrier := true })) k op.seq 0 a.runList
  else if a.space == 1 then sendWith s k op false false (r.store 0 (a.runs * a.runBytes))
  else (unitReads s k a.runList).andThen (fun s => sendWith s k op false false (a.runList.flatMap (fun x => s.sramBytes k x.1 x.2)))

/-- RECV as it starts: it posts one credit. -/
def recvStart (s : State) (k : Nat) (op : Op) : Res :=
  let sid := wbits op.w 40 29
  let p := s.partOfCore k
  let l := s.lcidSeen k
  let s1 := s.setRun k op.seq (fun r => { r with key := sid })
  if (s.core k).partner then { s := settle (s1.setRun k op.seq (fun r => { r with done := true })) k op.seq }
  else match s.streamTree p sid with
    | some tk =>
      let t := s.tree tk
      let bad := treeRefusal t l false (Tab.get 0 (s.core k).treeK tk)
      if bad != 0 then { s := s, cause := bad }
      else match t.rec?, s.lcidRouter l with
        | some rec, some me =>
          if rec.ty = 1 then { s := tryTree s1 tk }
          else
            let coll := Tab.get 0 (s.core k).treeK tk
            { s := (s1.updCore k (fun c => { c with treeK := Tab.upd 0 c.treeK tk (· + 1) })).send
                (colCtrl t.part rec.tree 0 1 me me .localPort 1 coll 1 0) }
        | _, _ => { s := s, cause := 0x0E }
    | none => match s.streamIn p l sid with
      | none => { s := s, cause := 0x0E }
      | some rec => match s.endNode rec.srcLcid with
        | some src => { s := s1.send ((({ cls := 2, opc := 4, part := p, addr := rec.srcId, payload := zeros 16, loc := s.nodeOf k } : Packet).setSrc (s.nodeOf k)).setDest src) }
        | none => { s := s, cause := 0x0A }

/-- A whole message reaches the oldest RECV of a stream (R93): size, write, completion; a D elsewhere in the panel is written by
requests. -/
def deliverMessage (s : State) (k : Nat) (r : Run) (void : Bool) (bytes : List Byte) : State :=
  let d := descOf r.op.td
  if void then finish s k .mv r.op.seq true
  else if bytes.length != d.bytes then unitFault s k .mv r.op 0x0F 0
  else if d.space == 1 then
    let res := ({ s := s.setRun k r.op.seq (fun r => { r with done := true }) } : Res).eachOf (zipRuns (2 * d.runs + 4) d.runList [(0, bytes.length)])
      (fun s x => writeBytes s k r.op.seq x.1 (slice bytes x.2.1 x.2.2) true)
    if res.cause = 0 then settle res.s k r.op.seq else unitFault res.s k .mv r.op res.cause res.addr
  else
    let pieces := (zipRuns (2 * d.runs + 4) d.runList [(0, bytes.length)]).map (fun x => (x.1, slice bytes x.2.1 x.2.2))
    let cores := k :: (if (s.core k).paired then (s.pairOf k).toList else [])
    let res := cores.foldl (fun r j => r.andThen (fun s => unitWrites s j pieces)) ({ s := s } : Res)
    if res.cause = 0 then finish res.s k .mv r.op.seq false else unitFault res.s k .mv r.op res.cause res.addr

/-- The oldest RECV posted on a stream. -/
def Core.postedRecv (c : Core) (sid : Nat) : Option Run := c.mvRun.find? (fun r => !r.barrier && wFn r.op.w == 5 && r.key == sid && !r.done)

/-! ## Expert dispatch at the sender (R154 to R159, R162) -/

/-- The routing table of a ROUTE in a partition's layout. -/
def State.routeTable (s : State) (p n : Nat) : Option RouteTable :=
  ((s.layoutOf p).map (·.routes)).bind (fun l => l.find? (fun t => t.table == n))

/-- The admission unit of an expert of a table. -/
def State.unitOf (s : State) (p n e : Nat) : Option Nat :=
  (s.admits.find? (fun (_, a) => a.valid && a.part == p && a.table == n && a.expert.expert == e)).map (·.1)

/-- The reserve positions left to a token, from position c on: not −1 and not an expert that admitted it (R158). -/
def Run.reserves (r : Run) (f t c : Nat) : List Nat :=
  (List.range (routeB r).dim0).filter (fun i =>
    decide (f ≤ i) && decide (c ≤ i) && decide (Tab.get 0 r.rt.reserve t ≤ i)
    && decide (r.choice t i ≠ -1) && !(r.rt.admitted.contains (t, r.expert t i)))

def setOutcome (s : State) (k seq t c : Nat) (o : W32) : State :=
  s.setRun k seq (fun r => { r with rt := { r.rt with outcomes := Tab.insert o r.rt.outcomes (t * 8 + c) } })

/-- ROUTE ends at a bad choice once its earlier requests are answered. -/
def routeStop (s : State) (k seq : Nat) : State :=
  s.setRun k seq (fun r => { r with done := true, after := 0x0D, rt := { r.rt with stopped := true } })

/-- The payload of an admission request (R155). -/
def admitPayload (l t c : Nat) (last : Bool) (e : Nat) : List Byte :=
  bytesLE 2 l ++ bytesLE 2 t ++ bytesLE 1 c ++ bytesLE 1 (if last then 1 else 0) ++ bytesLE 1 e ++ zeros 9

/-- The ROUTE of the partner of core k, with the list that the partner has in its own SRAM (R135, R136). -/
def State.partnerRoute (s : State) (k : Nat) (r : Run) : Run :=
  match s.pairOf k with
  | none => r
  | some j => match (s.core j).findRun .mv r.op.seq with
    | some x => if x.bytes.isEmpty then r else { r with bytes := x.bytes }
    | none => if (routeB r).space == 1 then r else { r with bytes := (routeB r).runList.flatMap (fun x => s.sramBytes j x.1 x.2) }

/-- Ask the unit of position c for wanted position w of token t; a refusal at once when its unit has no router. -/
def sendAdmit (s : State) (k seq : Nat) (tab : RouteTable) (t c w : Nat) : State :=
  match (s.core k).findRun .mv seq with
  | none => s
  | some r =>
    let e := r.choice t c
    if e < -1 || (tab.expertsN : Int) ≤ e then routeStop s k seq
    else
      let p := s.partOfCore k
      let lastOf := fun (r : Run) => tab.policy != 1 || (r.reserves tab.fanout t (c + 1)).isEmpty
      match (s.unitOf p tab.table e.toNat).bind s.unitNode with
      | none => routeStop s k seq
      | some n =>
        let q := s.partnerRoute k r
        let pay := admitPayload (s.lcidSeen k) t c (lastOf r) e.toNat
        routeRequest s k ((({ cls := 0, opc := 5, part := p, addr := tab.table, payload := pay, loc := s.nodeOf k } : Packet).setSrc (s.nodeOf k)).setDest n)
          (admitPayload (s.lcidSeen k) t c (lastOf q) (q.expert t c))
          { tag := 0, seq := seq, kind := .asksGrant t c, off := w }

def Core.admitsOpen (c : Core) : Nat :=
  let isAdmit := fun (q : Req) => match q.kind with
    | .asksGrant _ _ => true
    | _ => false
  (c.reqs.filter isAdmit).length + (c.held.filter (fun h => isAdmit h.2)).length

/-- Send wanted requests in order while fewer than 64 are outstanding. -/
def routePump : Nat → State → Nat → Nat → RouteTable → State
  | 0, s, _, _, _ => s
  | fuel + 1, s, k, seq, tab =>
    match (s.core k).findRun .mv seq with
    | none => s
    | some r =>
      if r.rt.stopped || r.done then s
      else if (routeB r).dim1 ≤ r.rt.nextT then s.setRun k seq (fun r => { r with done := true })
      else
        let t := r.rt.nextT
        let c := r.rt.nextC
        let adv := fun (r : Run) => { r with rt := { r.rt with
          nextC := if c + 1 < tab.fanout then c + 1 else 0, nextT := if c + 1 < tab.fanout then t else t + 1 } }
        if r.choice t c = -1 then routePump fuel (s.setRun k seq adv) k seq tab
        else if 64 ≤ (s.core k).admitsOpen then s
        else routePump fuel (sendAdmit (s.setRun k seq adv) k seq tab t c c) k seq tab

/-- A ROUTE goes on: a faulted core asks for nothing more (R102). -/
def routeGo (s : State) (k seq : Nat) : State :=
  match (s.core k).findRun .mv seq with
  | none => s
  | some r =>
    match s.routeTable (s.partOfCore k) (wbits r.op.w 32 27) with
    | some tab => settle (if (s.core k).fault.valid then s else routePump ((routeB r).dim1 * tab.fanout + 2) s k seq tab) k seq
    | none => s

/-- Every ROUTE of a core goes on, oldest first: the limit of 64 requests is the core's (R154). -/
def routeAll (s : State) (k seq : Nat) : State :=
  s.each (seq :: (((s.core k).mvRun.filter (fun r => wFn r.op.w == 7 && !r.done && r.op.seq != seq)).map (·.op.seq))) (fun s n => routeGo s k n)

/-- ROUTE as it starts; operands elsewhere in the panel are read first. -/
def routeStart (s : State) (k : Nat) (op : Op) : Res :=
  let a := descOf op.ta
  let b := descOf op.tb
  if a.void then { s := finishVoid s k op.seq }
  else match s.routeTable (s.partOfCore k) (wbits op.w 32 27) with
  | none => { s := s, cause := 0x10 }
  | some tab =>
    if a.runBytes != tab.seedRow || a.dim2 != 1 || a.dim3 != 1 then { s := s, cause := 0x0F }
    else
      let r := s.runOf k op.seq
      let far := (if a.space == 1 then [(0, a.runList)] else []) ++ (if b.space == 1 then [(listStore, b.runList)] else [])
      if !far.isEmpty && r.stage = 0 then
        ({ s := s.setRun k op.seq (fun r => { r with stage := 1 }) } : Res).eachOf far (fun s x => stageRuns s k op.seq x.1 x.2)
      else
        (if b.space == 1 then ({ s := s } : Res) else unitReads s k b.runList).andThen (fun s =>
          let bytes := (List.range b.runs).flatMap (s.operandRun k r b listStore)
          let s1 := s.setRun k op.seq (fun r => { r with bytes := bytes })
          if (s.core k).partner then { s := asked s1 k op.seq false }
          else { s := routeGo s1 k op.seq })

/-- A refusal of position c asked for wanted position w (R158, R162). -/
def routeRefused (s : State) (k seq t w : Nat) : State :=
  match (s.core k).findRun .mv seq with
  | none => s
  | some r =>
    match s.routeTable (s.partOfCore k) (wbits r.op.w 32 27) with
    | none => s
    | some tab =>
      let own := r.expert t w
      match tab.policy with
      | 0 => setOutcome s k seq t w (outcomeWord 3 own)
      | 2 => setOutcome s k seq t w (outcomeWord 2 own)
      | _ => match (r.reserves tab.fanout t 0).head? with
        | some c => sendAdmit (s.setRun k seq (fun r => { r with rt := { r.rt with reserve := Tab.put 0 r.rt.reserve t (c + 1) } })) k seq tab t c w
        | none => setOutcome s k seq t w (outcomeWord 3 own)

/-- The address in the SRAM of intake core `core` of the row and the tag of a slot (R156). -/
def rowAddr (a : Admit) (s half : Nat) : Nat := a.expert.rowBase + (half * a.expert.slots + s / a.intake.length) * roundUp a.seedRow 64
def tagAddr (a : Admit) (s half : Nat) : Nat := a.expert.tagBase + (half * a.expert.slots + s / a.intake.length) * 16

/-- A grant of slot s of half h in window win for position c (asked for w): outcomes, and the row's writes (R156, R159). -/
def routeGranted (s : State) (k seq t c w slot half win : Nat) : State :=
  match (s.core k).findRun .mv seq with
  | none => s
  | some r =>
    match s.unitOf (s.partOfCore k) (wbits r.op.w 32 27) (r.expert t c) with
    | none => s
    | some u =>
      let a := s.admUnit u
      let core := a.intake.getD (slot % a.intake.length) 0
      let s1 := if c = w then setOutcome s k seq t w (outcomeWord 0 (r.expert t c))
        else setOutcome (setOutcome s k seq t w (outcomeWord 1 (r.expert t c))) k seq t c (outcomeWord 0 (r.expert t c))
      let s2 := s1.setRun k seq (fun r => { r with rt := { r.rt with admitted := (t, r.expert t c) :: r.rt.admitted } })
      let ta := descOf r.op.ta
      let far := ta.space == 1
      let row : Res := if far then { s := s2 } else unitReads s2 k [(ta.runAt t, ta.runBytes)]
      if row.cause != 0 then unitFault row.s k .mv r.op row.cause 0
      else match s.lcidNode core with
        | none => row.s
        | some dst =>
          let bytes := s.operandRun k r ta 0 t
          let other := match s.pairOf k with
            | some j => if far then bytes else s.sramBytes j (ta.runAt t) ta.runBytes
            | none => []
          (cutRun (ta.runBytes + 1) (sramBase core + rowAddr a slot half) 0 ta.runBytes).foldl (fun s x =>
            let q := writePacket 0 (s.partOfCore k) 0 x.1 (slice bytes x.2.1 x.2.2) (s.nodeOf k) dst
            let partnerBytes := slice other x.2.1 x.2.2
            routeRequest s k q (partnerBytes ++ zeros (q.payload.length - partnerBytes.length))
              { tag := 0, seq := seq, kind := .rowWrite t c, off := w, addr := x.1, slot := some (core, u, slot, half, win, 0) }) row.s

/-- After the row the tag, after the tag the SIGNAL of ARRIVE (R156); after a fault of the core its grants are cancelled and nothing
follows (R162). -/
def routeNext (s : State) (k : Nat) (q : Req) : State :=
  let p := s.partOfCore k
  if (s.core k).fault.valid then s
  else match q.kind, q.slot, (s.core k).findRun .mv q.seq with
  | .rowWrite t c, some (core, u, slot, half, win, _), some r =>
    let more := fun (x : Req) => x.seq == q.seq && x.kind == q.kind
    if (s.core k).reqs.any more || (s.core k).held.any (fun h => more h.2) then s
    else match s.lcidNode core with
      | none => s
      | some dst =>
        let a := s.admUnit u
        let tag := bytesLE 2 (s.lcidSeen k) ++ bytesLE 2 t ++ bytesLE 1 (0x80 + c % 8) ++ bytesLE 1 (r.expert t c) ++ bytesLE 2 win ++ zeros 8
        routeRequest s k (writePacket 0 p 0 (sramBase core + tagAddr a slot half) tag (s.nodeOf k) dst) tag
          { q with kind := .tagWrite t c, addr := sramBase core + tagAddr a slot half }
  | .tagWrite t c, some (_, u, slot, half, win, _), some _ =>
    let a := s.admUnit u
    let obj := if half = 0 then a.expert.arrive0 else a.expert.arrive1
    let s1 := s.updAdmit u (fun x => { x with grants := x.grants.filter (· != (s.lcidSeen k, slot, half, t, c, win)) })
    match s.objNode obj with
    | some home =>
      let q' := syncPacket 0 p 0 obj 0 1 (s.lcidSeen k) (s.nodeOf k) home
      routeRequest s1 k q' q'.payload { q with kind := .arrive t c }
    | none => s1
  | _, _, _ => s

/-- The intake core of a grant answers with an error before its row and tag are in place (R162): outcome 3, and the
grant is cancelled. -/
def routeLost (s : State) (k : Nat) (q : Req) : State :=
  match q.slot, (s.core k).findRun .mv q.seq with
  | some (_, u, slot, half, win, _), some r =>
    let lost := fun (t c : Nat) =>
      let s1 := setOutcome s k q.seq t q.off (outcomeWord 3 (r.expert t q.off))
      let s2 := if c = q.off then s1 else setOutcome s1 k q.seq t c (outcomeWord 3 (r.expert t c))
      match (s.admUnit u).grants.find? (fun g => g == (s.lcidSeen k, slot, half, t, c, win)) with
      | some g => cancelGrant s2 u g
      | none => s2
    match q.kind with
    | .rowWrite t c => lost t c
    | .tagWrite t c => lost t c
    | _ => s
  | _, _ => s

/-! ## When the remote operands are here -/

/-- An instruction goes on with its store filled. -/
def goOn (s : State) (k : Nat) (op : Op) : State :=
  let r := match wFn op.w with
    | 0 => copyStart s k op
    | 2 => gsStart s k op false
    | 3 => gsStart s k op true
    | 4 => sendStart s k op false
    | 7 => routeStart s k op
    | _ => { s := s }
  if r.cause = 0 then r.s else unitFault r.s k .mv op r.cause r.addr

/-- A partner that waits for its store takes what its primary has read (R135). -/
def takeGift (s : State) (k seq : Nat) : State :=
  let r := s.runOf k seq
  match (s.core k).gifts.find? (fun g => g.1 == seq * 4 + r.stage) with
  | some g =>
    if r.stage % 2 = 1 then
      goOn ((s.updCore k (fun c => { c with gifts := c.gifts.filter (fun x => x.1 != g.1) })).setRun k seq (fun r => { r with stage := r.stage + 1, got := g.2 })) k r.op
    else s
  | none => s

/-- The last piece has come: the instruction goes on, and its partner with the same bytes. -/
def stageDone (s : State) (k seq : Nat) : State :=
  match (s.core k).findRun .mv seq with
  | none => s
  | some r =>
    if r.stage % 2 = 0 || (s.core k).openReqs seq || (s.core k).fault.valid then s
    else
      let s1 := goOn (s.setRun k seq (fun r => { r with stage := r.stage + 1 })) k r.op
      if (s.core k).paired then (match s.pairOf k with
        | some j => takeGift (s1.updCore j (fun c => { c with gifts := c.gifts ++ [(seq * 4 + r.stage, r.got)] })) j seq
        | none => s1)
      else s1

end Sys2Proof.Machine
end

