-- ==== Sys2Proof/Machine/PortOps.lean ====
section
/-!
DEFINITION. Fabric-port frames (R414 to R417): building, credits, numbering and replay; link-down (R423), the firewall's
counts and quarantine (R424, R426), stream credits across a port (R419) and ingest records (R422).
-/
namespace Sys2Proof.Machine

/-- The versions this panel speaks (R408, R409). -/
def fabricMin : Nat := 0x10
def fabricMax : Nat := 0x12
def fullCredits : List Nat := [512, 64, 128, 512]

/-- Each PORT_STAT change raises HOST_EVT bit 6 of the port's partition (R427). -/
def portNotice (s : State) (f : Nat) : State :=
  match (s.fport f).part with
  | some p => raiseEvt s p 6
  | none => s

def portRecord (s : State) (f event : Nat) : State :=
  match (s.fport f).part with
  | some p => hubRecord s (partRec s p event 0 f 0)
  | none => s

/-! ## Sending -/

/-- The link is up, or retrains in place (R413, R429). -/
def FPort.linkUp (p : FPort) : Bool := p.state == 4 || p.state == 5

/-- FPort.peerGen until the partner has announced its generation on this link. -/
def noGen : Nat := 256

/-- The header fields that the sender fills as a frame leaves: KEY, ACK, returned credits and TXN. -/
def FPort.stamp (p : FPort) (fr : Frame) (nak : Bool) : Frame :=
  { fr with hd := { fr.hd with
      key := p.keyBit, nak := nak
      ack := BitVec.ofNat 32 (p.seqIn + 0xFFFFFFFF)
      credits := (List.range 4).map (fun c => BitVec.ofNat 16 (fullCredits.getD c 0 - p.credIn.getD c 0))
      txn := BitVec.ofNat 64 p.txn } }

/-- A frame as its maker knows it. -/
def frameOf (version type cls : Nat) (first last : Bool) (chan msgLen : Nat) (payload : List Byte) : Frame :=
  { hd := { version := BitVec.ofNat 8 version, type := BitVec.ofNat 8 type, cls := BitVec.ofNat 2 cls, key := false, nak := false
            first := first, last := last, rsv := false, gen := 0, seq := 0, ack := 0, channel := BitVec.ofNat 16 chan
            length := BitVec.ofNat 16 payload.length, credits := [], txn := 0, msgLen := BitVec.ofNat 32 msgLen }
    payload := payload, fcsOk := true, tagOk := true }

/-- Put a frame on the fibre; a protected one counts in TXN and returns every credit owed. -/
def putFrame (s : State) (f : Nat) (fr : Frame) (nak guarded : Bool) : State :=
  let p := s.fport f
  let out := if guarded then p.stamp fr nak else fr
  (s.updFport f (fun p => { p with lastTx := s.now, txn := if guarded then p.txn + 1 else p.txn, credIn := if guarded then fullCredits else p.credIn })).emit (.frame f out)

/-- A handshake frame, in segments of at most 4,096 B; its payload joins the transcript (R416). -/
def sendTalk (s : State) (f type step : Nat) (payload : List Byte) : State :=
  let n := max 1 (ceilDiv payload.length 4096)
  let s1 := s.updFport f (fun p => { p with talk := p.talk ++ [(step, true, payload)] })
  s1.each (List.range n) (fun s i =>
    putFrame s f (frameOf fabricMax type 0 (i == 0) (i + 1 == n) 0 0 (slice payload (4096 * i) 4096)) false false)

/-- A frame whose GEN the partner judges waits for the partner's first announcement (R421, log entry 40). -/
def FPort.mayLeave (p : FPort) (fr : Frame) : Bool :=
  let c := fr.hd.cls.toNat
  p.state == 4 && !(p.rekeying && p.version == 0x10) && decide (0 < p.credOut.getD c 0) && decide (p.retryQ.length < 1024)
  && (p.peerGen != noGen || decide (0x13 ≤ fr.hd.type.toNat))

/-- Send what waits, while credits, the retry buffer and the link allow (R413, R415, R417). -/
def pumpPort (s : State) (f : Nat) : State :=
  (s.fport f).txq.foldl (fun s fr =>
    let p := s.fport f
    let c := fr.hd.cls.toNat
    if p.mayLeave fr then
      let fr' := { fr with hd := { fr.hd with version := BitVec.ofNat 8 p.version, seq := BitVec.ofNat 32 p.seqOut } }
      putFrame (s.updFport f (fun p => { p with
        seqOut := (p.seqOut + 1) % 2 ^ 32, credOut := p.credOut.set c (p.credOut.getD c 0 - 1)
        retryQ := p.retryQ ++ [(p.seqOut, fr')] })) f fr' false true
    else s.updFport f (fun p => { p with txq := p.txq ++ [fr] })) (s.updFport f (fun p => { p with txq := [] }))

/-- The generation a frame carries. -/
def withGen (fr : Frame) (g : Nat) : Frame := { fr with hd := { fr.hd with gen := BitVec.ofNat 8 g } }

/-- Queue a numbered frame with the generation last announced. -/
def queueFrame (s : State) (f type cls : Nat) (first last : Bool) (chan msgLen : Nat) (payload : List Byte) : State :=
  pumpPort (s.updFport f (fun p => { p with
    txq := p.txq ++ [withGen (frameOf p.version type cls first last chan msgLen payload) p.peerGen] })) f

/-- An unnumbered frame of an up link: IDLE, QUIT, KEY_UPDATE. -/
def sendPlain (s : State) (f type : Nat) (payload : List Byte) (nak : Bool) : State :=
  let p := s.fport f
  putFrame s f (frameOf (if p.keys.isEmpty then fabricMax else p.version) type 0 true true 0 0 payload) nak (!p.keys.isEmpty)

/-! ## Going down (R423), quarantine (R426) -/

/-- Every core that waits on a channel of the port faults with ADDR_ERROR. -/
def faultBound (s : State) (f : Nat) : State :=
  match (s.fport f).part with
  | none => s
  | some p =>
    s.each (s.streamsOf p) (fun s r =>
      let hit := fun (s : State) (l : Nat) (find : Core → Option Run) => match s.coreOf l with
        | some k => (match find (s.core k) with
          | some x => unitFault s k .mv x.op 0x0A 0
          | none => s)
        | none => s
      if r.dstLcid = 0xF000 + f then hit s r.srcLcid (fun c => c.waitingSend r.srcId)
      else if r.srcLcid = 0xF000 + f then hit s r.dstLcid (fun c => c.postedRecv r.dstId)
      else s)

/-- The port leaves service with what the link held; credits of RECVs posted since it was last up stay due. -/
def portClose (s : State) (f state cause : Nat) : State :=
  let s2 := s.updFport f (fun p => { p with
    state := state, cause := cause, version := 0, step := 0, talk := [], chain := [], keys := [], rekeying := false, retryQ := []
    asmIn := [], asmOut := [], downAt := s.now, ssOwn := none, ssPeer := none, wcOut := []
    credOut := fullCredits, credIn := fullCredits, seqOut := 0, seqIn := 0, nakSent := false })
  portNotice s2 f

/-- The link leaves service: frames are discarded, bound cores fault, records under way are dropped. -/
def portLeave (s : State) (f state cause : Nat) : State :=
  portClose ((faultBound s f).updFport f (fun p => { p with txq := [], scIn := [] })) f state cause

def portGoDown (s : State) (f cause : Nat) : State := portLeave (portRecord s f 0x11) f 7 cause

/-- QUIT, then the link goes down. -/
def portQuit (s : State) (f cause : Nat) : State := portGoDown (sendPlain s f 0x06 (bytesLE 1 cause) false) f cause

def portQuarantine (s : State) (f cause : Nat) : State :=
  portLeave (portRecord (sendPlain s f 0x06 (bytesLE 1 cause) false) f 0x14) f 6 cause

/-- The times within a span of the last one. -/
def recentTimes (l : List Nat) (now span : Nat) : List Nat := (l.filter (fun t => decide (now < t + span))) ++ [now]

/-- A malformed frame (R424, R426). -/
def portMalformed (s : State) (f : Nat) : State :=
  let p := s.fport f
  let at_ := recentTimes p.malfAt s.now 1000000
  let s1 := s.updFport f (fun p => { p with malf := sat 32 (p.malf + 1), malfUp := p.malfUp + 1, malfAt := at_ })
  if 16 ≤ at_.length || 256 ≤ p.malfUp + 1 then portQuarantine s1 f 7 else s1

/-- Ask for a replay: one NAK until the next acceptance (R207, R415). -/
def portNak (s : State) (f : Nat) : State :=
  if (s.fport f).nakSent then s
  else sendPlain (s.updFport f (fun p => { p with nakSent := true })) f 0x08 [] true

/-- A tag failure (R426, R427). -/
def portTagFail (s : State) (f : Nat) : State :=
  let p := s.fport f
  let at_ := recentTimes p.tagAt s.now 1000000
  let s1 := s.updFport f (fun p => { p with tagFails := sat 16 (p.tagFails + 1), tagAt := at_ })
  if 16 ≤ at_.length then portQuarantine s1 f 6 else portNak s1 f

/-- A failed handshake (R426): QUIT and a retry after 100 ms, quarantine at the third within 60 s. -/
def portHandshakeFail (s : State) (f cause : Nat) : State :=
  let p := s.fport f
  let at_ := recentTimes p.hsAt s.now 60000000000
  let s1 := portRecord (s.updFport f (fun p => { p with hsFails := sat 16 (p.hsFails + 1), hsAt := at_ })) f 0x13
  if 3 ≤ at_.length then portQuarantine s1 f cause
  else if p.linkUp then portQuit s1 f cause else portClose (sendPlain s1 f 0x06 (bytesLE 1 cause) false) f 7 cause

/-! ## Stream credits and ingest windows -/

/-- A core's CREDIT for an inbound channel leaves as an SCREDIT frame (R419). -/
def portCredit (s : State) (f chan : Nat) : State :=
  queueFrame (s.updFport f (fun p => { p with scIn := Tab.upd 0 p.scIn chan (· + 1) })) f 0x11 2 true true chan 0 []

def FPort.window (p : FPort) (w : Nat) : Window := Tab.get {} p.windows w
def State.updWindow (s : State) (f w : Nat) (g : Window → Window) : State :=
  s.updFport f (fun p => { p with windows := Tab.upd {} p.windows w g })

def Window.size (w : Window) : Nat := 2 ^ w.log2
def Window.toEnd (w : Window) : Nat := w.size - w.tail % w.size
def Window.room (w : Window) : Nat := w.size - (w.tail - w.rd)
/-- The largest message the window can take whole (R422). -/
def Window.largest (w : Window) : Nat := max (min w.room w.toEnd - 16) (w.room - w.toEnd - 16)

/-- Advertise a window's credit while the link is up; the value is the frame's payload (log entry 33). -/
def advertise (s : State) (f w : Nat) : State :=
  if !(s.fport f).linkUp then s
  else
  let v := ((s.fport f).window w).largest
  queueFrame (s.updWindow f w (fun x => { x with credit := v })) f 0x12 2 true true (3072 + w) 0 (bytesLE 4 v)

/-- Advertise every enabled window. -/
def advertiseAll (s : State) (f : Nat) : State :=
  s.each ((List.range 16).filter (fun w => ((s.fport f).window w).enable)) (fun s w => advertise s f w)

/-- Announce the partition's generation: the partner's credits are void, a message in pieces is lost, and the windows are
advertised anew (R421). -/
def announce (s : State) (f gen : Nat) : State :=
  advertiseAll (queueFrame (s.updFport f (fun x => { x with asmIn := [] })) f 0x13 1 true true 0 0 (bytesLE 1 gen)) f

/-- The writes of a run of bytes to the partition's HBM window, as packets of class FWD from the gateway. -/
def gatewayWrites (s : State) (f tag a : Nat) (bytes : List Byte) : List Packet :=
  match (s.fport f).part with
  | none => []
  | some p => (cutRun (bytes.length + 1) a 0 bytes.length).filterMap (fun x =>
      (hbmLocate (s.hub p).interleave x.1).map (fun l =>
        writePacket 1 p tag x.1 (slice bytes x.2.1 x.2.2) (portNode f) (sliceNode l.1)))

/-- A whole message becomes a record of a window (R422): a pad header where it wraps, header, bytes and padding. -/
def ingest (s : State) (f w : Nat) (bytes : List Byte) : State :=
  let x := (s.fport f).window w
  let size := 16 + roundUp (16 + bytes.length) 64 - 16
  let wraps := decide (x.toEnd < size)
  let skip := if wraps then x.toEnd else 0
  let place := if wraps then 0 else x.tail % x.size
  let rec_ := bytesLE 4 bytes.length ++ bytesLE 4 x.seqNo ++ zeros 8 ++ bytes ++ zeros (size - 16 - bytes.length)
  let tag := agentTag + w + 16 * (x.seqNo % 2048)
  let ps := (if wraps then gatewayWrites s f tag (x.base * 4096 + x.tail % x.size) (bytesLE 4 0xFFFFFFFF ++ zeros 12) else [])
    ++ gatewayWrites s f tag (x.base * 4096 + place) rec_
  (s.updWindow f w (fun y => { y with tail := y.tail + skip + size, seqNo := y.seqNo + 1, recs := y.recs ++ [(y.seqNo, skip + size, ps.length)] })).each ps
    (fun s q => s.send q)

/-- A slice acknowledges a write of a record; a STATUS other than 0 is no acknowledgement. -/
def portReply (s : State) (f tag st : Nat) : State :=
  if st != 0 || tag < agentTag then s
  else s.updWindow f ((tag - agentTag) % 16) (fun x => { x with
    recs := x.recs.map (fun r => if r.1 % 2048 = (tag - agentTag) / 16 then (r.1, r.2.1, r.2.2 - 1) else r) })

end Sys2Proof.Machine
end

