-- ==== Sys2Proof/Machine/Me.lean ====
section
/-!
DEFINITION. The matrix engine: MMA with its checksum, MST, MLD and MZERO (R78 to R84, R111 to R116, R128 to R131,
R140 to R149).
-/
namespace Sys2Proof.Machine

/-! ## Groups and sums (R113 to R116) -/

/-- The exact sum of products, rounded once (R113, R114, R115); skipped says that the group has a skipped product. -/
def groupSum (l : List Fpv) (skipped : Bool) : Fpv :=
  if l.any Fpv.isNan then .nan
  else
    let pos := l.any (fun x => x == .inf false)
    let neg := l.any (fun x => x == .inf true)
    if pos && neg then .nan
    else if pos then .inf false
    else if neg then .inf true
    else (Fpv.ofInt (!skipped && !l.isEmpty && l.all (fun x => x.isNeg)) ((l.map Fpv.toInt).foldl (· + ·) 0)).to32

/-- The group rule over the groups listed, ascending (R113 steps 2 and 3): prods g are the products of group g. -/
def groupRule (groups : List Nat) (prods : Nat → List Fpv) (skipped : Nat → Bool) : Fpv :=
  groups.foldl (fun p g => add32 p (groupSum (prods g) (skipped g))) (.fin false 0)

/-- Σ in ascending order with FP32 rounding (R128). -/
def runSum (l : List Fpv) : Fpv := l.foldl add32 (.fin false 0)

/-! ## Operand B (R141 to R146) -/

/-- The kept entries of a column of B within group g, as (k, value), and whether the group has skipped products. -/
structure BCol where
  kept    : List (Nat × Val)
  skipped : Bool
  deriving DecidableEq, Repr

/-- Row r of the stored values of B (all forms but the bitmap): N elements, with the scales of R110 and R146. -/
def bRow (s : State) (k : Nat) (b : Desc) (r : Nat) : List Val :=
  runVals s k b.fmt (b.base + r * b.str1) b.dim0 (b.scale + r * b.dim0 / 32)

/-- The number of kept blocks of slab sl before block blk: ascending slab, then block (R145). -/
def bitmapByte (s : State) (k : Nat) (b : Desc) (sl : Nat) : Nat :=
  ((s.sramBytes k (b.md + sl) 1).headD 0).toNat % 2 ^ min 4 (b.dim0 / 16)

def popcount (n : Nat) : Nat := (List.range 8).foldl (fun a i => if n.testBit i then a + 1 else a) 0

/-- The place of block (sl, blk) among the kept blocks, none when it is pruned. -/
def bitmapPlace (s : State) (k : Nat) (b : Desc) (sl blk : Nat) : Option Nat :=
  let m := bitmapByte s k b sl
  if m.testBit blk then
    some ((List.range sl).foldl (fun a i => a + popcount (bitmapByte s k b i)) 0 + popcount (m % 2 ^ blk))
  else none

/-- The number of blocks that the bitmap of B keeps (R141). -/
def bitmapKept (s : State) (k : Nat) (b : Desc) : Nat :=
  if b.spar = 3 then (List.range (b.dim1 / 16)).foldl (fun a i => a + popcount (bitmapByte s k b i)) 0 else 0

/-- The indices k of group g (R113). -/
def groupKs (kDim g : Nat) : List Nat := ((List.range 32).map (fun i => 32 * g + i)).filter (fun i => decide (i < kDim))

/-- Column n of group g of operand B. -/
def bCol (s : State) (k : Nat) (b : Desc) (g n : Nat) : BCol :=
  let ks := groupKs b.dim1 g
  match b.spar with
  | 0 => { kept := ks.map (fun i => (i, ((bRow s k b i)[n]?).getD (.i 0))), skipped := false }
  | 1 =>
    { kept := (ks.filter (fun i => i % 4 == 0)).flatMap (fun i =>
        let j := i / 4
        let entry := natLE (s.sramBytes k (b.md + j * 32 + n / 2) 1) / 2 ^ (4 * (n % 2)) % 16
        [(4 * j + entry % 4, ((bRow s k b (2 * j))[n]?).getD (.i 0)), (4 * j + entry / 4, ((bRow s k b (2 * j + 1))[n]?).getD (.i 0))])
      skipped := true }
  | 2 =>
    { kept := (ks.filter (fun i => i % 4 == 0)).map (fun i =>
        let j := i / 4
        let idx := natLE (s.sramBytes k (b.md + j * 16 + n / 4) 1) / 2 ^ (2 * (n % 4)) % 4
        (4 * j + idx, ((bRow s k b j)[n]?).getD (.i 0)))
      skipped := true }
  | _ =>
    let kept := ks.filterMap (fun i =>
      (bitmapPlace s k b (i / 16) (n / 16)).map (fun q =>
        let v := (elemCodes s k (b.base + q * b.str2) (fmtBits b.fmt) 256).getD (i % 16 * 16 + n % 16) 0
        (i, codeVal b.fmt 0 v)))
    { kept := kept, skipped := decide (kept.length < ks.length) }

/-- The SRAM that a group of B occupies: stored rows, their scales, and metadata records (R148). -/
def bAreas (s : State) (k : Nat) (b : Desc) (g : Nat) : List (Nat × Nat) :=
  let ks := groupKs b.dim1 g
  let rows := match b.spar with
    | 0 => ks
    | 1 => (ks.filter (fun i => i % 2 == 0)).map (· / 2)
    | 2 => (ks.filter (fun i => i % 4 == 0)).map (· / 4)
    | _ => []
  let js := (ks.filter (fun i => i % 4 == 0)).map (· / 4)
  rows.map (fun r => (b.base + r * b.str1, b.runBytes))
    ++ (if b.isMx then rows.map (fun r => (b.scale + r * b.dim0 / 32, ceilDiv b.dim0 32)) else [])
    ++ (match b.spar with
      | 1 => js.map (fun j => (b.md + j * 32, 32))
      | 2 => js.map (fun j => (b.md + j * 16, 16))
      | 3 => (ks.filter (fun i => i % 16 == 0)).flatMap (fun i => (List.range (b.dim0 / 16)).filterMap (fun blk =>
          (bitmapPlace s k b (i / 16) blk).map (fun q => (b.base + q * b.str2, 32 * fmtBits b.fmt))))
      | _ => [])

/-! ## MMA -/

def Val.int : Val → Int
  | .i x => x
  | .f _ => 0

def valProd (x y : Val) : Fpv := Fpv.mul x.num y.num

/-- A is zero in group g: every element is +0 or −0 (R114). -/
def zeroGroup (a : List (List Val)) (kDim g : Nat) : Bool :=
  a.all (fun row => (groupKs kDim g).all (fun i => match row[i]? with
    | some (.f x) => x.isZero
    | some (.i x) => x == 0
    | none => true))

/-- The operands of one MMA as values: A by row, the live groups, and B's columns by live group. -/
structure MmaData where
  m    : Nat
  n    : Nat
  kDim : Nat
  isInt : Bool
  a    : List (List Val)
  live : List Nat
  b    : List (Nat × List BCol)
  upset : List (Nat × Nat × W32)
  deriving DecidableEq, Repr

def MmaData.col (d : MmaData) (g n : Nat) : BCol :=
  ((((d.b.find? (fun x => x.1 == g)).map (·.2)).getD [])[n]?).getD { kept := [], skipped := true }

def MmaData.at_ (d : MmaData) (m k : Nat) : Val := (((d.a[m]?).getD [])[k]?).getD (.i 0)

/-- The bits the engine gets wrong in p[m,n]. -/
def MmaData.flips (d : MmaData) (m n : Nat) : W32 := (d.upset.filter (fun u => u.1 == m && u.2.1 == n)).foldl (fun x u => x ^^^ u.2.2) 0

/-- The product p[m,n] of R113, floating. -/
def MmaData.prod (d : MmaData) (m n : Nat) : Fpv :=
  let p := groupRule d.live (fun g => (d.col g n).kept.map (fun (k, v) => valProd (d.at_ m k) v)) (fun g => (d.col g n).skipped)
  if d.flips m n = 0 then p else num32 (bits32 p ^^^ (d.flips m n).toNat)

def word32 (i : Int) : W32 := BitVec.ofInt 32 i

/-- The product of an integer MMA (R116). -/
def MmaData.iprod (d : MmaData) (m n : Nat) : W32 :=
  d.flips m n ^^^ word32 (d.live.foldl (fun acc g => acc + ((d.col g n).kept.map (fun (k, v) => (d.at_ m k).int * v.int)).foldl (· + ·) 0) 0)

/-! ## The checksum (R128 to R130) -/

/-- A row or column after its check: unchecked, or failing or not. -/
inductive Check where
  | unchecked | pass | fail
  deriving DecidableEq, Repr

/-- R129: tol = (G + 128 c) × 2^−23 × mag + 2^−126, compared exactly. -/
def judge (g c : Nat) (obs ref mag : Fpv) : Check :=
  if obs.isFin && ref.isFin && mag.isFin then
    let d := (obs.toInt - ref.toInt).natAbs
    if (g + 128 * c) * mag.toInt.natAbs + 2 ^ (320 - 126 + 23) < d * 2 ^ 23 then .fail else .pass
  else .unchecked

/-- The term of index k of a row's reference: A times the sum of the kept weights; a product skipped in every column counts
+0 (R128). -/
def keptTerm (ws : List Fpv) (a : Fpv) : Fpv := if ws.isEmpty then .fin false 0 else Fpv.mul a (runSum ws)

/-- The kept values of B at index k of column n, in one group. -/
def MmaData.bVals (d : MmaData) (g n k : Nat) : List Fpv := ((d.col g n).kept.filter (fun e => e.1 == k)).map (fun e => e.2.num)

def MmaData.rowCheck (d : MmaData) (g c m : Nat) : Check :=
  let ns := List.range d.n
  if d.isInt then
    let obs := ns.foldl (fun acc n => acc + d.iprod m n) 0
    let ref := d.live.foldl (fun acc gr => (groupKs d.kDim gr).foldl (fun acc k =>
      acc + word32 (((d.at_ m k).int) * (ns.foldl (fun b n => b + (((d.col gr n).kept.filter (fun e => e.1 == k)).map (fun e => e.2.int)).foldl (· + ·) 0) 0))) acc) 0
    if obs = ref then .pass else .fail
  else
    let ref := groupRule d.live (fun gr => (groupKs d.kDim gr).map (fun k =>
      keptTerm (ns.flatMap (fun n => d.bVals gr n k)) (d.at_ m k).num)) (fun _ => true)
    let mag := groupRule d.live (fun gr => (groupKs d.kDim gr).map (fun k =>
      keptTerm (ns.flatMap (fun n => (d.bVals gr n k).map Fpv.abs)) (d.at_ m k).num.abs)) (fun _ => true)
    judge g c (runSum (ns.map (d.prod m))) ref mag

def MmaData.colCheck (d : MmaData) (g c n : Nat) : Check :=
  let ms := List.range d.m
  if d.isInt then
    let obs := ms.foldl (fun acc m => acc + d.iprod m n) 0
    let ref := d.live.foldl (fun acc gr => ((d.col gr n).kept).foldl (fun acc e =>
      acc + word32 (e.2.int * (ms.foldl (fun a m => a + (d.at_ m e.1).int) 0))) acc) 0
    if obs = ref then .pass else .fail
  else
    let ref := groupRule d.live (fun gr => (d.col gr n).kept.map (fun e =>
      Fpv.mul (runSum (ms.map (fun m => (d.at_ m e.1).num))) e.2.num)) (fun _ => true)
    let mag := groupRule d.live (fun gr => (d.col gr n).kept.map (fun e =>
      Fpv.mul (runSum (ms.map (fun m => (d.at_ m e.1).num.abs))) e.2.num.abs)) (fun _ => true)
    judge g c (runSum (ms.map (fun m => d.prod m n))) ref mag

/-- K_eff (R147). -/
def kEff (s : State) (k : Nat) (b : Desc) (live : List Nat) : Nat :=
  let sz := live.foldl (fun acc g => acc + (groupKs b.dim1 g).length) 0
  match b.spar with
  | 0 => sz
  | 1 => sz / 2
  | 2 => sz / 4
  | _ => 16 * (live.foldl (fun acc g => acc + ((groupKs b.dim1 g).filter (fun i => i % 16 == 0 && bitmapByte s k b (i / 16) != 0)).length) 0)

/-! ## Banks -/

/-- A bank from its elements, row by row, 64 to a row; zero elements are not listed. -/
def bankOf (isInt : Bool) (f : Nat → Nat → W32) : Bank :=
  { int := isInt, elems := (((List.range 4096).map (fun i => (i, f (i / 64) (i % 64)))).filter (fun e => e.2 != 0)) }

def Bank.at_ (b : Bank) (m n : Nat) : W32 := Tab.get 0 b.elems (64 * m + n)

def State.bank (s : State) (k ab : Nat) : Bank := Tab.get {} (s.core k).banks ab
def State.setBank (s : State) (k ab : Nat) (b : Bank) : State :=
  s.updCore k (fun c => { c with banks := Tab.put {} c.banks ab b })

/-- The operands of an MMA as values. -/
def mmaData (s : State) (k : Nat) (a b : Desc) (zskip : Bool) (ups : List (Nat × Nat × W32)) : MmaData :=
  let av := (List.range a.dim1).map (fun i => a.runVals s k i)
  let groups := List.range (ceilDiv a.dim0 32)
  let live := if zskip then groups.filter (fun g => !zeroGroup av a.dim0 g) else groups
  { m := a.dim1, n := b.dim0, kDim := a.dim0, isInt := !a.isFloat, a := av, live := live
    b := live.map (fun g => (g, (List.range b.dim0).map (fun n => bCol s k b g n))), upset := ups }

/-- The checks of an MMA and their consequences (R130 to R132): rows before columns. -/
def mmaCheck (s : State) (k : Nat) (op : Op) (d : MmaData) (g c : Nat) : Res :=
  let rows := (List.range d.m).map (fun m => d.rowCheck g c m)
  let cols := (List.range d.n).map (fun n => d.colCheck g c n)
  let un := (rows ++ cols).filter (fun x => x == .unchecked) |>.length
  let s1 := s.updCore k (fun x => { x with unchecked := sat 16 (x.unchecked + un) })
  let first := match rows.idxOf? .fail with
    | some m => some (false, m)
    | none => (cols.idxOf? .fail).map (fun n => (true, n))
  match first with
  | none => { s := s1 }
  | some (column, i) =>
    { s := engineEvent s1 k false column i (op.found .me), cause := if (s.checkOf k).halt then 0x14 else 0 }

/-- MMA as it starts (R79 to R83, R113 to R116, R149). -/
def mmaStart (s : State) (k : Nat) (op : Op) : Res :=
  let a := descOf op.ta
  let b := descOf op.tb
  let ab := wbits op.w 44 43
  let acc := wbits op.w 34 34 == 1
  let zskip := wbits op.w 32 32 == 1
  let old := s.bank k ab
  let isInt := !a.isFloat
  if a.void || b.void then { s := if acc then s else s.setBank k ab { int := isInt, elems := [] } }
  else if acc && old.int != isInt then { s := s, cause := 0x09 }
  else
    let slabs := if b.spar = 3 then (List.range (b.dim1 / 16)).map (fun i => (b.md + i, 1)) else []
    (unitReads s k (a.areas true ++ slabs)).andThen (fun s =>
      let d := mmaData s k a b zskip op.upset
      let areas := d.live.flatMap (fun g => bAreas s k b g)
      if areas.any (fun x => decide (sramSize < x.1 + x.2)) then { s := s, cause := 0x05 }
      else (unitReads s k areas).andThen (fun s =>
        let f := fun (m n : Nat) =>
          if m < d.m && n < d.n then
            (if isInt then (if acc then old.at_ m n + d.iprod m n else d.iprod m n)
            else
              let p := d.prod m n
              BitVec.ofNat 32 (bits32 (if acc then add32 (num32 (old.at_ m n).toNat) p else p)))
          else if acc then old.at_ m n else 0
        let s1 := s.setBank k ab (bankOf isInt f)
        let chk := (s.checkOf k).force || wbits op.w 33 33 == 1
        if chk then mmaCheck s1 k op d (ceilDiv (kEff s k b d.live) 32)
          (let r := max (rateClass a.fmt) (rateClass b.fmt); if r ≤ 2 then 1 else if r = 3 then 2 else 4)
        else { s := s1 }))

/-! ## MST, MLD, MZERO (R78, R84) -/

/-- MST as it starts. -/
def mstStart (s : State) (k : Nat) (op : Op) : Res :=
  let d := descOf op.td
  let ab := wbits op.w 44 43
  let b := s.bank k ab
  let act := wbits op.w 35 34 == 1
  let clear := fun (s : State) => if wbits op.w 33 33 == 1 then s.setBank k ab { int := b.int, elems := [] } else s
  if d.void then { s := clear s }
  else
    let val := fun (m n : Nat) =>
      if b.int then
        let i := (b.at_ m n).toInt
        Val.i (if act && i < 0 then 0 else i)
      else
        let x := num32 (b.at_ m n).toNat
        Val.f (if act then x.relu else x)
    let runs := (List.range d.dim1).map (fun m => (List.range d.dim0).map (fun n => val m n))
    let st := storeRuns d (wbits op.w 38 37) (wbits op.w 36 36 == 1) 0 (s.core k).laneMe runs
    (unitWrites (s.updCore k (fun c => { c with laneMe := st.2 })) k st.1).andThen (fun s => { s := clear s })

/-- MLD as it starts. -/
def mldStart (s : State) (k : Nat) (op : Op) : Res :=
  let a := descOf op.ta
  let ab := wbits op.w 44 43
  let isInt := a.fmt == 0xC
  if a.void then { s := s.setBank k ab { int := isInt, elems := [] } }
  else
    (unitReads s k (a.areas false)).andThen (fun s =>
      let rows := (List.range a.dim1).map (fun m => elemCodes s k (a.runAt m) 32 a.dim0)
      { s := s.setBank k ab (bankOf isInt (fun m n => BitVec.ofNat 32 (((rows[m]?).getD [])[n]?.getD 0))) })

/-- MZERO as it starts. -/
def mzeroStart (s : State) (k : Nat) (op : Op) : Res :=
  { s := s.setBank k (wbits op.w 44 43) { int := wbits op.w 42 42 == 1, elems := [] } }

end Sys2Proof.Machine
end

