-- ==== Sys2Proof/Machine/SyncUnit.lean ====
section
/-!
DEFINITION. The sync unit of a core (R96, R97, R243, R245), the pair comparator (R136, R137) and catch points (R250 to
R252).
-/
namespace Sys2Proof.Machine

def State.setSyRun (s : State) (k seq : Nat) (f : Run → Run) : State :=
  s.updCore k (fun c => { c with syRun := mapRun c.syRun seq f })

/-- The object operand (R96). -/
def Op.obj (op : Op) : Nat := if wbits op.w 39 39 = 1 then wbits op.w 38 24 else op.va.toNat

/-- A SYNC request to an object's home (R245); ADDR_ERROR where no home exists. -/
def syncRequest (s : State) (k seq obj kind value : Nat) : Res :=
  match s.objNode obj with
  | none => { s := s, cause := 0x0A }
  | some home => { s := request s k (syncPacket 0 (s.partOfCore k) 0 obj kind value (s.lcidSeen k) (s.nodeOf k) home)
                     { tag := 0, seq := seq, kind := .sync } }

/-! ## Catch points (R250 to R252) -/

def State.skewOf (s : State) (k : Nat) : Nat := ((s.region (coreRegion k)).assign.map (·.skew)).getD 0

/-- A catch point falls on a core at s × 32 ns after its event; with it an instruction of the SY may complete (R251). -/
def catchAt (s : State) (k : Nat) (seq : Option Nat) : State :=
  s.updCore k (fun c => { c with catches := c.catches ++ [{ due := s.now + s.skewOf k * 32, seq := seq }] })

/-! ## The pair comparator (R137) -/

/-- Compare the digests of a pair when both are there. -/
def comparePair (s : State) (k : Nat) : State :=
  match s.pairOf k with
  | none => s
  | some j =>
    match (s.core k).submitted, (s.core j).submitted with
    | some (a, _), some (b, _) =>
      if a = b then
        let fresh := fun (c : Core) => { c with submitted := none, digest := 0, syRun := match c.openSignal with
          | some r => mapRun c.syRun r.op.seq (fun r => { r with done := true })
          | none => c.syRun }
        let prim := if (s.core k).partner then j else k
        let s1 := (s.updCore k fresh).updCore j fresh
        match (s.core prim).openSignal with
        | some r =>
          let q := syncRequest s1 prim r.op.seq r.op.obj 0 (wbits r.op.w 15 0)
          let q' := if q.cause = 0 then q.s else unitFault q.s prim .sy r.op q.cause 0
          -- the partner would inject the same request
          match s1.objNode r.op.obj with
          | some home =>
            let other := if prim = k then j else k
            let pk := syncPacket 0 (s1.partOfCore prim) 0 r.op.obj 0 (wbits r.op.w 15 0) (s1.lcidSeen other) (s1.nodeOf other) home
            addDigest q' other (requestRecord pk pk.payload)
          | none => q'
        | none => s1
      else pairMismatch s k j
    | _, _ => s

/-! ## Starts -/

/-- SIGNAL as it starts: in a pair the core's digest is submitted, and the SIGNAL waits for the comparison (R137). -/
def signalStart (s : State) (k : Nat) (op : Op) : Res :=
  if (s.core k).paired then
    if (s.objNode op.obj).isNone then { s := s, cause := 0x0A }
    else { s := comparePair (s.updCore k (fun c => { c with submitted := some (c.digest, s.now) })) k }
  else syncRequest (s.setSyRun k op.seq (fun r => { r with done := true })) k op.seq op.obj 0 (wbits op.w 15 0)

/-- A request of the sync unit: a partner's completes with its primary's. -/
def syStart (s : State) (k : Nat) (op : Op) (kind value : Nat) : Res :=
  (syncRequest (s.setSyRun k op.seq (fun r => { r with key := op.obj, barrier := kind == 3 })) k op.seq op.obj kind value).andThen
    (fun s => { s := if (s.core k).partner then finishMirror s k .sy op.seq else s })

/-- STROKEWAIT in its unit: va is the target (R97). A target reached since issue completes at a catch point. -/
def strokewaitStart (s : State) (k : Nat) (op : Op) : Res :=
  let s1 := s.setSyRun k op.seq (fun r => { r with key := op.va.toNat, heldAtHome := true })
  { s := if op.va.toNat ≤ (s.region (coreRegion k)).count then catchAt s1 k (some op.seq) else s1 }

end Sys2Proof.Machine
end

