-- ==== Sys2Proof/Machine/Elem.lean ====
section
/-!
DEFINITION. The functions of TRN and SMX (R125, R126): the exact real value to far more places than FP32 has, and the
choice, left free, among the FP32 values within the bound.
-/
namespace Sys2Proof.Machine

/-- Fixed-point product and quotient in units of 2^−320. -/
def fxMul (a b : Int) : Int := a * b / 2 ^ 320
def fxDiv (a b : Int) : Int := if b = 0 then 0 else a * 2 ^ 320 / b

/-- Σ terms of a power series: term(n+1) = term(n) × z × num(n) / den(n), over n steps. -/
def series (z : Int) (num den : Nat → Int) : Nat → Nat → Int → Int → Int
  | 0, _, _, acc => acc
  | fuel + 1, n, term, acc =>
    series z num den fuel (n + 1) (fxMul term z * num n / den n) (acc + term)

/-- 2 × atanh(z), |z| ≤ 1/3: Σ 2 z^(2n+1)/(2n+1). -/
def fxAtanh2 (z : Int) : Int :=
  series (fxMul z z) (fun n => 2 * n + 1) (fun n => 2 * n + 3) 110 0 (2 * z) 0

/-- ln 2 = 2 atanh(1/3). -/
def fxLn2 : Int := fxAtanh2 (2 ^ 320 / 3)

/-- exp of r in [0, 1). -/
def fxExpSmall (r : Int) : Int := series r (fun _ => 1) (fun n => n + 1) 90 0 (2 ^ 320) 0

/-- exp(x) for |x| below about 110. -/
def fxExp (x : Int) : Int :=
  let k := x / fxLn2
  let e := fxExpSmall (x - k * fxLn2)
  if 0 ≤ k then e * 2 ^ k.toNat else e / 2 ^ (-k).toNat

/-- ln(x) of a positive number of units. -/
def fxLog (m : Nat) : Int :=
  let e := m.log2
  -- the mantissa in [1, 2)
  let f : Int := if 320 ≤ e then m / 2 ^ (e - 320) else m * 2 ^ (320 - e)
  fxAtanh2 (fxDiv (f - 2 ^ 320) (f + 2 ^ 320)) + ((e : Int) - 320) * fxLn2

/-- The integer square root, bit by bit from bit n − 1 down. -/
def isqrtFrom (m : Nat) : Nat → Nat → Nat
  | 0, r => r
  | n + 1, r => let t := r + 2 ^ n; isqrtFrom m n (if t * t ≤ m then t else r)

def fxRsqrt (m : Nat) : Int := (isqrtFrom (2 ^ 960 / m) 480 0 : Nat)

/-- exp(y) − 1 for y in [0, 20). -/
def fxExpm1 (y : Int) : Int :=
  if y < 2 ^ 319 then series y (fun _ => 1) (fun n => n + 2) 90 0 y 0 else fxExp y - 2 ^ 320

/-- tanh of a positive argument. -/
def fxTanh (x : Int) : Int := let e := fxExpm1 (2 * x); fxDiv e (e + 2 ^ 321)

/-- atan(1/n): Σ (−1)^k / ((2k+1) n^(2k+1)). -/
def fxAtanInv (n : Int) : Int :=
  series (-(2 ^ 320) / (n * n)) (fun k => 2 * k + 1) (fun k => 2 * k + 3) 150 0 (2 ^ 320 / n) 0

def fxPi : Int := 16 * fxAtanInv 5 - 4 * fxAtanInv 239

/-- erf of a positive argument below 4: 2/√π Σ (−1)^n x^(2n+1)/(n!(2n+1)). -/
def fxErf (x : Int) : Int :=
  let t := series (-(fxMul x x)) (fun n => 2 * n + 1) (fun n => (n + 1) * (2 * n + 3)) 160 0 x 0
  fxMul (2 * t) (fxRsqrt fxPi.toNat)

/-- The magnitude of a pattern of positive FP32 numbers; patterns from 0x7F80_0000 on stand for values beyond the
largest finite one. -/
def patternMag (v : Nat) : Nat :=
  if v / 2 ^ 23 = 0 then v * 2 ^ 171 else (2 ^ 23 + v % 2 ^ 23) * 2 ^ (170 + v / 2 ^ 23)

/-- One ulp at an exact magnitude (R125). -/
def ulpAt (m : Nat) : Nat := 2 ^ (max (m.log2 - 23) 171)

/-- The FP32 patterns of positive values within bound ulp of a magnitude, ascending. -/
def withinUlp (bound m : Nat) : List Nat :=
  let b := fp32.bitsOfMag false (fp32.roundMag 0 0 m)
  ((List.range (4 * bound + 5)).map (fun i => b + i - (2 * bound + 2))).eraseDups.filter
    (fun v => let d := (patternMag v : Int) - m; decide (d.natAbs ≤ bound * ulpAt m))

/-- The value of a positive pattern with a sign. -/
def patternFpv (neg : Bool) (v : Nat) : Fpv := if 0x7F800000 ≤ v then .inf neg else .fin neg (patternMag v)

/-- Pick one of the FP32 values within bound ulp of an exact value: the choice is free. -/
def pickUlp (fn bound : Nat) (a b : W32) (neg : Bool) (m : Nat) : Fpv :=
  let l := withinUlp bound m
  patternFpv neg (l.getD (Config.trnPick fn a b % l.length) (fp32.bitsOfMag false (fp32.roundMag 0 0 m)))

/-- TRN and the exponential of SMX on an FP32 argument (R125). fn: 0 EXP, 1 LOG, 2 RSQRT, 3 TANH, 4 ERF. -/
def trnFn (fn : Nat) (x : Fpv) : Fpv :=
  let w := fun (y : Fpv) => BitVec.ofNat 32 (bits32 y)
  match fn, x with
  | _, .nan => .nan
  | 0, .inf n => if n then .fin false 0 else .inf false
  | 0, .fin n m =>
    if m = 0 then .fin false unit1
    else if !n && decide (887229 * unit1 ≤ m * 10000) then .inf false
    else if n && decide (1039721 * unit1 ≤ m * 10000) then .fin false 0
    else pickUlp 0 2 (w x) 0 false (fxExp x.toInt).toNat
  | 1, .inf n => if n then .nan else .inf false
  | 1, .fin n m =>
    if m = 0 then .inf true else if n then .nan else if m = unit1 then .fin false 0
    else let y := fxLog m; pickUlp 1 2 (w x) 0 (decide (y < 0)) y.natAbs
  | 2, .inf n => if n then .nan else .fin false 0
  | 2, .fin n m =>
    if m = 0 then .inf n else if n then .nan else pickUlp 2 1 (w x) 0 false (fxRsqrt m).toNat
  | 3, .inf n => .fin n unit1
  | 3, .fin n m =>
    if m = 0 then .fin n 0 else if 902 * unit1 ≤ m * 100 then .fin n unit1
    else pickUlp 3 2 (w (.fin false m)) 0 n (fxTanh m).toNat
  | _, .inf n => .fin n unit1
  | _, .fin n m =>
    if m = 0 then .fin n 0 else if 4 * unit1 ≤ m then .fin n unit1
    else pickUlp 4 3 (w (.fin false m)) 0 n (fxErf m).toNat

/-- EXPSUB (R126). -/
def expSub (a b : Fpv) : Fpv := trnFn 0 (sub32 a b)

/-- The reciprocal within 1 ulp (R126). -/
def recip (b : Fpv) : Fpv :=
  match b with
  | .nan => .nan
  | .inf n => .fin n 0
  | .fin n m => if m = 0 then .inf n else pickUlp 5 1 (BitVec.ofNat 32 (bits32 (.fin false m))) 0 n (2 ^ 640 / m)

/-- DIVROW (R126): the product of A and the reciprocal, within 2 ulp of the quotient; where the product of the free
reciprocal would lie outside, the quotient's own free choice within 2 ulp. -/
def divRow (a b : Fpv) : Fpv :=
  let y := mul32 a (recip b)
  match a, b with
  | .fin na ma, .fin nb mb =>
    if mb = 0 then y
    else if ma = 0 then .fin (na != nb) 0
    else
      let q : Nat := ma * 2 ^ 320 / mb
      match y with
      | .fin _ m =>
        if ((m : Int) - (q : Int)).natAbs ≤ 2 * ulpAt q then y
        else pickUlp 6 2 (BitVec.ofNat 32 (bits32 a)) (BitVec.ofNat 32 (bits32 b)) (na != nb) q
      | _ => pickUlp 6 2 (BitVec.ofNat 32 (bits32 a)) (BitVec.ofNat 32 (bits32 b)) (na != nb) q
  | _, _ => y

end Sys2Proof.Machine
end

