-- ==== Sys2Proof/Machine/Ve.lean ====
section
/-!
DEFINITION. The vector engine: EW, CVT, RED, TRN, SMX and WARP (R85 to R88, R117 to R127, R149). An instruction reads
its sources whole before it writes.
-/
namespace Sys2Proof.Machine

/-- All runs of a tensor as values. -/
def Desc.vals (d : Desc) (s : State) (k : Nat) : List (List Val) := (List.range d.runs).map (fun i => d.runVals s k i)

/-- The run of a broadcast operand x for run i of d (R86): an extent of 1 stands for every index. -/
def broadcastRun (x d : Desc) (i : Nat) : Nat :=
  let i1 := i % d.dim1
  let i2 := i / d.dim1 % d.dim2
  let i3 := i / d.dim1 / d.dim2
  (if x.dim1 = 1 then 0 else i1) + x.dim1 * ((if x.dim2 = 1 then 0 else i2) + x.dim2 * (if x.dim3 = 1 then 0 else i3))

/-- Element (run i, place j) of a broadcast operand whose runs are vs. -/
def broadcastAt (x d : Desc) (vs : List (List Val)) (i j : Nat) : Val :=
  (((vs[broadcastRun x d i]?).getD [])[if x.dim0 = 1 then 0 else j]?).getD (.i 0)

/-- A floating input rounded to FP32 (R124); an integer input widened. -/
def veIn (v : Val) : Val :=
  match v with
  | .f x => .f x.to32
  | .i x => .i x

/-- An integer result modulo 2^32 (R124). -/
def wrap32 (i : Int) : Val := .i (signed 32 (i % (2 ^ 32)).toNat)

/-- EW on two or three values. exact says that D is FP32, where the operation itself rounds under RND. -/
def ewValue (op : Nat) (exact : Bool) (a b d : Val) : Val :=
  match a, b, d with
  | .f x, _, _ =>
    let y := b.num
    let r := match op with
      | 0 => Fpv.add x y
      | 1 => Fpv.sub x y
      | 2 => Fpv.mul x y
      | 3 => Fpv.max x y
      | 4 => Fpv.min x y
      | 5 => Fpv.add (Fpv.mul x y) d.num
      | 6 => x.neg
      | 7 => x.abs
      | 8 => x.relu
      | _ => x
    .f (if exact then r else r.to32)
  | .i x, _, _ =>
    let y := match b with
      | .i z => z
      | .f _ => 0
    let z := match d with
      | .i z => z
      | .f _ => 0
    match op with
    | 0 => wrap32 (x + y)
    | 1 => wrap32 (x - y)
    | 2 => wrap32 (x * y)
    | 3 => .i (max x y)
    | 4 => .i (min x y)
    | 5 => wrap32 (x * y + z)
    | 6 => wrap32 (-x)
    | 7 => wrap32 (if x < 0 then -x else x)
    | 8 => .i (if x < 0 then 0 else x)
    | _ => .i x

/-- Store D's runs under the VE's lane. -/
def veStore (s : State) (k : Nat) (d : Desc) (rnd : Nat) (sat : Bool) (runs : List (List Val)) : Res :=
  let st := storeRuns d rnd sat 0 (s.core k).laneVe runs
  unitWrites (s.updCore k (fun c => { c with laneVe := st.2 })) k st.1

/-- D's runs from a function of run and place. -/
def veRuns (d : Desc) (f : Nat → Nat → Val) : List (List Val) :=
  (List.range d.runs).map (fun i => (List.range d.dim0).map (fun j => f i j))

/-- The value of s[SS] under BSRC (R85). -/
def bsrcVal (isInt : Bool) (v : W64) : Val := if isInt then .i (signed 32 v.toNat) else .f (num32 (v.toNat % 2 ^ 32))

def vOp (op : Op) : Nat := wbits op.w 27 22
def vRnd (op : Op) : Nat := wbits op.w 21 20
def vSat (op : Op) : Bool := wbits op.w 19 19 == 1

/-- EW as it starts. ta, tb and td hold A, B and D. -/
def ewStart (s : State) (k : Nat) (op : Op) : Res :=
  let d := descOf op.td
  let a := descOf op.ta
  let b := descOf op.tb
  let o := vOp op
  let bsrc := wbits op.w 18 18 == 1
  let usesB := decide (o ≤ 5) && !bsrc
  if d.void || a.void || (usesB && b.void) then { s := s }
  else
    (unitReads s k (a.areas true ++ (if usesB then b.areas true else []) ++ (if o = 5 then d.areas true else []))).andThen (fun s =>
      let av := a.vals s k
      let bv := if usesB then b.vals s k else []
      let dv := if o = 5 then d.vals s k else []
      let sc := bsrcVal (!a.isFloat) op.va
      veStore s k d (vRnd op) (vSat op) (veRuns d (fun i j =>
        ewValue o (d.fmt == 0) (veIn (broadcastAt a d av i j))
          (if usesB then veIn (broadcastAt b d bv i j) else sc)
          (veIn ((((dv[i]?).getD [])[j]?).getD (.i 0))))))

/-- CVT takes the exact decoded value (R124). -/
def cvtStart (s : State) (k : Nat) (op : Op) : Res :=
  let d := descOf op.td
  let a := descOf op.ta
  if d.void || a.void then { s := s }
  else
    (unitReads s k (a.areas true)).andThen (fun s =>
      let av := a.vals s k
      veStore s k d (vRnd op) (vSat op) (veRuns d (fun i j => broadcastAt a d av i j)))

/-! ## RED (R87) -/

/-- One level of pairwise reduction. -/
def pairLevel (f : Val → Val → Val) : List Val → List Val
  | a :: b :: t => f a b :: pairLevel f t
  | l => l

/-- Pairwise reduction, level by level. -/
def pairReduce (f : Val → Val → Val) : Nat → List Val → Val
  | 0, l => l.headD (.i 0)
  | n + 1, l => match l with
    | [x] => x
    | _ => pairReduce f n (pairLevel f l)

/-- Blocks of 32. -/
def blocks32 : Nat → List Val → List (List Val)
  | 0, _ => []
  | n + 1, l => l.take 32 :: blocks32 n (l.drop 32)

def addVal (a b : Val) : Val :=
  match a, b with
  | .f x, .f y => .f (add32 x y)
  | .i x, .i y => wrap32 (x + y)
  | x, _ => x

/-- SUM in the fixed order. -/
def redSum (l : List Val) : Val :=
  pairReduce addVal 16 ((blocks32 (ceilDiv l.length 32) l).map (pairReduce addVal 16))

def maxVal (a b : Val) : Val :=
  match a, b with
  | .f x, .f y => .f (Fpv.max x y)
  | .i x, .i y => .i (max x y)
  | x, _ => x

def minVal (a b : Val) : Val :=
  match a, b with
  | .f x, .f y => .f (Fpv.min x y)
  | .i x, .i y => .i (min x y)
  | x, _ => x

/-- x ranks above y for ARGMAX: a NaN above every number. -/
def ranksAbove (x y : Val) : Bool :=
  match x, y with
  | .f a, .f b => if b.isNan then false else if a.isNan then true else Fpv.lt b a
  | .i a, .i b => decide (b < a)
  | _, _ => false

/-- The lowest index of the largest element. -/
def argmax (l : List Val) : Nat :=
  (l.zipIdx.foldl (fun (acc : Option (Val × Nat)) x => match acc with
    | none => some x
    | some y => if ranksAbove x.1 y.1 then some x else some y) none).map (·.2) |>.getD 0

def redValue (op : Nat) (l : List Val) : Val :=
  match op with
  | 0 => redSum l
  | 1 => (l.drop 1).foldl maxVal (l.headD (.i 0))
  | 2 => (l.drop 1).foldl minVal (l.headD (.i 0))
  | _ => .i (argmax l)

def redStart (s : State) (k : Nat) (op : Op) : Res :=
  let d := descOf op.td
  let a := descOf op.ta
  if d.void || a.void then { s := s }
  else
    (unitReads s k (a.areas true)).andThen (fun s =>
      let av := a.vals s k
      veStore s k d 0 false (veRuns d (fun i _ => redValue (vOp op) (((av[i]?).getD []).map veIn))))

/-! ## TRN and SMX (R125, R126) -/

/-- TRN of one value. On integers the spec states no result: a free value (log entry 20). -/
def trnValue (fn : Nat) (v : Val) : Val :=
  match v with
  | .f x => .f (trnFn fn x)
  | .i x => .i (Config.intTrn fn (word32 x) 0).toInt
where
  /-- The INT32 word of an integer. -/
  word32 (i : Int) : W32 := BitVec.ofInt 32 i

def trnStart (s : State) (k : Nat) (op : Op) : Res :=
  let d := descOf op.td
  let a := descOf op.ta
  if d.void || a.void then { s := s }
  else
    (unitReads s k (a.areas true)).andThen (fun s =>
      let av := a.vals s k
      veStore s k d (vRnd op) (vSat op) (veRuns d (fun i j => trnValue (vOp op) (veIn (broadcastAt a d av i j)))))

/-- SMX of two values: 0 EXPSUB, 1 DIVROW. -/
def smxValue (op : Nat) (a b : Val) : Val :=
  match a, b with
  | .f x, .f y => .f (if op = 0 then expSub x y else divRow x y)
  | .i x, .i y => .i (Config.intTrn (5 + op) (BitVec.ofInt 32 x) (BitVec.ofInt 32 y)).toInt
  | x, _ => x

def smxStart (s : State) (k : Nat) (op : Op) : Res :=
  let d := descOf op.td
  let a := descOf op.ta
  let b := descOf op.tb
  if d.void || a.void || b.void then { s := s }
  else
    (unitReads s k (a.areas true ++ b.areas true)).andThen (fun s =>
      let av := a.vals s k
      let bv := b.vals s k
      veStore s k d (vRnd op) (vSat op) (veRuns d (fun i j =>
        smxValue (vOp op) (veIn (broadcastAt a d av i j)) (veIn (broadcastAt b d bv i j)))))

/-! ## WARP (R88, R127) -/

/-- The floor of a coordinate below 2^23 in magnitude, and its fraction. -/
def floorFrac (x : Fpv) : Int × Fpv :=
  let f := x.toInt / (unit1 : Nat)
  (f, .fin false (x.toInt - f * (unit1 : Nat)).toNat)

/-- 2^23 or more in magnitude. -/
def largeCoord (x : Fpv) : Bool :=
  match x with
  | .fin _ m => decide (2 ^ 343 ≤ m)
  | _ => true

/-- w(t) of R127 for t ≥ 0. -/
def cubicWeight (t : Fpv) : Fpv :=
  let c := fun (a b : Nat) => Fpv.fin false (a * unit1 / b)
  if Fpv.lt (c 1 1) t then
    (if Fpv.lt t (c 2 1) then add32 (mul32 (sub32 (mul32 (add32 (mul32 (c 1 2).neg t) (c 5 2)) t) (c 4 1)) t) (c 2 1)
    else .fin false 0)
  else add32 (mul32 (mul32 (sub32 (mul32 (c 3 2) t) (c 5 2)) t) t) (c 1 1)

/-- The taps of one axis: offsets from the floor and weights. -/
def axisTaps (bicubic : Bool) (fr : Fpv) : List (Int × Fpv) :=
  let one := Fpv.fin false unit1
  if bicubic then
    [(-1, cubicWeight (add32 one fr)), (0, cubicWeight fr), (1, cubicWeight (sub32 one fr).abs),
     (2, cubicWeight (sub32 (.fin false (2 * unit1)) fr).abs)]
  else [(0, sub32 one fr), (1, fr)]

/-- A tap's index on one axis of n elements: none when it lies outside. -/
def tapIndex (n : Nat) (i : Int) : Option Nat := if 0 ≤ i ∧ i < n then some i.toNat else none

/-- One output channel at coordinates (x, y): src i j is the source element of column i, row j. -/
def warpPoint (bicubic zeroEdge : Bool) (w h : Nat) (x y : Fpv) (src : Nat → Nat → Fpv) : Fpv :=
  if x.isNan || y.isNan then .nan
  else
    let far := largeCoord x || largeCoord y
    let part := fun (c : Fpv) => match c with
      | .fin _ _ => floorFrac c
      | .inf n => ((if n then -(2 ^ 60) else 2 ^ 60), num32 (Config.infFraction (BitVec.ofNat 32 (bits32 c))).toNat)
      | .nan => (0, .nan)
    let px := part x
    let py := part y
    let tx := axisTaps bicubic px.2
    let ty := axisTaps bicubic py.2
    let clampIdx := fun (n : Nat) (i : Int) => (max 0 (min ((n : Int) - 1) i)).toNat
    ty.foldl (fun acc b => tx.foldl (fun acc a =>
      let i := px.1 + a.1
      let j := py.1 + b.1
      let outside := far || (tapIndex w i).isNone || (tapIndex h j).isNone
      let v := if outside && zeroEdge then .fin false 0 else src (clampIdx w i) (clampIdx h j)
      fma32 (mul32 a.2 b.2) v acc) acc) (.fin false 0)

/-- WARP as it starts. ta is the image, tb the coordinates. -/
def warpStart (s : State) (k : Nat) (op : Op) : Res :=
  let d := descOf op.td
  let a := descOf op.ta
  let b := descOf op.tb
  if d.void || a.void || b.void then { s := s }
  else
    (unitReads s k (a.areas true ++ b.areas true)).andThen (fun s =>
      let av := a.vals s k
      let bv := b.vals s k
      let coord := fun (i j : Nat) => ((((bv[i]?).getD [])[j]?).getD (.i 0)).num
      veStore s k d (vRnd op) (vSat op) (veRuns d (fun i c =>
        Val.f (warpPoint (vOp op == 1) (wbits op.w 17 16 == 1) a.dim1 a.dim2 (coord i 0) (coord i 1)
          (fun x y => (((((av[y * a.dim1 + x]?).getD [])[c]?).getD (.i 0)).num).to32)))))

end Sys2Proof.Machine
end

