-- ==== Sys2Proof/Machine/Start.lean ====
section
/-!
DEFINITION. Starting instructions from the unit queues (R62, R95, R99) and completing those that work within the core
(R66, R67).
-/
namespace Sys2Proof.Machine

/-- The effect of an instruction as its unit starts it. -/
def startOp (s : State) (k : Nat) (op : Op) : Res :=
  match coreFn (wCls op.w) (wFn op.w) with
  | some .mma => mmaStart s k op
  | some .mst => mstStart s k op
  | some .mld => mldStart s k op
  | some .mzero => mzeroStart s k op
  | some .ew => ewStart s k op
  | some .cvt => cvtStart s k op
  | some .red => redStart s k op
  | some .trn => trnStart s k op
  | some .smx => smxStart s k op
  | some .warp => warpStart s k op
  | some .copy => copyStart s k op
  | some .rcopy => rcopyStart s k op
  | some .gather => gsStart s k op false
  | some .scatter => gsStart s k op true
  | some .send => sendStart s k op false
  | some .recv => recvStart s k op
  | some .voidMark => sendStart s k op true
  | some .route => routeStart s k op
  | some .signal => signalStart s k op
  | some .wait => syStart s k op 1 0
  | some .arm => syStart s k op 2 (op.vb.toNat % 2 ^ 32)
  | some .barrier => syStart s k op 3 1
  | some .strokewait => strokewaitStart s k op
  | _ => { s := s }

/-- A unit may start the instruction at the head of its queue. -/
def canStart (c : Core) (u : CoreUnit) (op : Op) : Bool :=
  match u with
  | .seq => false
  | .me => c.meRun.isEmpty
  | .ve => c.veRun.isEmpty
  | .mv => true
  | .sy =>
    if wFn op.w = 1 || wFn op.w = 3 then
      decide ((c.syRun.filter (fun r => wFn r.op.w == 1 || wFn r.op.w == 3)).length < 8)
    else if wFn op.w = 0 && c.paired then c.earlierDone op.seq
    else true

/-- The sequencer and the engines of a core work: it runs, its region's clock runs, the region is in no idle depth and
no catch point holds back its resumption (R251). -/
def State.coreActive (s : State) (k : Nat) : Bool :=
  (s.core k).mode == .running && (s.region (coreRegion k)).clock == .running && (s.region (coreRegion k)).depth == 0
  && !(s.region (coreRegion k)).waking && (s.core k).catches.all (fun c => c.seq.isSome)

/-- Start an operation that has left its queue. -/
def startNow (s : State) (k : Nat) (u : CoreUnit) (op : Op) : State :=
  let s1 := s.updCore k (fun c => c.setRuns u (c.runs u ++ [{ op := op }]))
  let r := startOp s1 k op
  if r.cause = 0 then r.s else unitFault r.s k u op r.cause r.addr

/-- The instruction at the head of a unit's queue, when it may start. -/
def State.ready (s : State) (k : Nat) (u : CoreUnit) : Option Op :=
  match (s.core k).queue u with
  | [] => none
  | op :: _ => if s.coreActive k && canStart (s.core k) u op then some op else none

/-- It leaves the queue and starts. -/
def startHead (s : State) (k : Nat) (u : CoreUnit) (op : Op) : State :=
  let s1 := startNow (s.updCore k (fun c => c.setQueue u ((c.queue u).drop 1))) k u op
  if u = .mv && (s.core k).partner then takeGift (takeGift s1 k op.seq) k op.seq else s1

/-- Of the instructions that may start the oldest by issue does. When it faults and another that starts with it would, MORE is set
(R101). -/
def startOldest (s : State) (k : Nat) : State :=
  let all := [CoreUnit.me, .ve, .mv, .sy].filterMap (fun u => (s.ready k u).map (fun o => (u, o)))
  match sortBy (fun x y => decide (x.2.seq ≤ y.2.seq)) all with
  | [] => s
  | x :: rest =>
    let t := startHead s k x.1 x.2
    if (t.core k).fault.valid && rest.any (fun y => ((startHead s k y.1 y.2).core k).fault.valid) then
      t.updCore k (fun c => { c with fault := { c.fault with more := true } })
    else t

/-- Start what may start, up to the sizes of the queues, and send the SIGNALs of RCOPYs that waited. -/
def advance (s : State) (k : Nat) : State :=
  tryNotes (s.each (List.range 64) (fun s _ => startOldest s k)) k

/-- Both cores of a pair may go on. -/
def advancePair (s : State) (k : Nat) : State :=
  let s1 := advance s k
  if (s.core k).paired then (match s.pairOf k with
    | some j => advance s1 j
    | none => s1)
  else s1

end Sys2Proof.Machine
end

