-- ==== Sys2Proof/Machine/Responses.lean ====
section
/-!
DEFINITION. Packets of class RSP at their destination (R214 to R216, R221), stream messages (R93), the completion of
instructions (R66, R67), response timeouts (R221) and the pair comparator's timeout (R137).
-/
namespace Sys2Proof.Machine

/-! ## Answers to a core's requests -/

def Core.findReq (c : Core) (tag : Nat) : Option Req := c.reqs.find? (fun q => q.tag == tag)

/-- A request leaves its tracking entry and its window; held requests may follow (R221). -/
def takeReq (s : State) (k tag : Nat) : State :=
  pumpHeld (s.updCore k (fun c => { c with reqs := c.reqs.filter (fun q => q.tag != tag) })) k

/-- A response after its timeout is discarded and counted (R221). -/
def lateResponse (s : State) (k : Nat) : State :=
  s.updFab (s.partOfCore k) (fun f => { f with late := sat 32 (f.late + 1) })

/-- The fault that an error ends an instruction with (R216). -/
def failReq (s : State) (k : Nat) (q : Req) (cause : Nat) : State :=
  let u : CoreUnit := if q.kind == .sync then .sy else .mv
  match (s.core k).findRun u q.seq with
  | some r => unitFault s k u r.op cause q.addr
  | none => s

/-- The cause that a STATUS other than 0 records (R216). -/
def statusCause (st : Nat) : Nat := if st = 2 then 0x0C else 0x0A

/-- An acknowledgement of a request of a core: the next write of a dispatch, the completion of a SYNC operation, or one
response fewer to wait for; an error is a fault, but for a dispatch to a fenced unit (R162). -/
def answerReq (s : State) (k : Nat) (q : Req) (st : Nat) : State :=
  if st = 0 then
    match q.kind with
    | .sync => finish s k .sy q.seq false
    | .rowWrite _ _ => routeAll (routeNext s k q) k q.seq
    | .tagWrite _ _ => routeAll (routeNext s k q) k q.seq
    | _ => settle s k q.seq
  else if st = 3 then
    match q.kind with
    | .asksGrant t _ => routeAll (routeRefused s k q.seq t q.off) k q.seq
    | .rowWrite _ _ => routeAll (routeLost s k q) k q.seq
    | .tagWrite _ _ => routeAll (routeLost s k q) k q.seq
    | _ => failReq s k q 0x0A
  else failReq s k q (statusCause st)

/-- ACK at a core. -/
def coreAck (s : State) (k : Nat) (p : Packet) : State :=
  match (s.core k).findReq p.tag with
  | none => lateResponse s k
  | some q => advancePair (answerReq (takeReq s k p.tag) k q (p.aux % 16)) k

/-- The bytes of a read land in the core and its partner (R135). -/
def readLands (s : State) (k : Nat) (p : Packet) : Res :=
  let cores := k :: (if (s.core k).paired then (s.pairOf k).toList else [])
  ({ s := s } : Res).eachOf cores (fun s j => unitWrite s j p.addr p.readBytes)

/-- RDATA at a core; a faulted one still takes the reads that it had started (R102). -/
def coreRdata (s : State) (k : Nat) (p : Packet) : State :=
  match (s.core k).findReq p.tag with
  | none => lateResponse s k
  | some q =>
    let s1 := takeReq s k p.tag
    if q.kind == .stage then
      advancePair (stageDone (settle (s1.setRun k q.seq (fun r => { r with got := r.got ++ [(q.off, p.readBytes)] })) k q.seq) k q.seq) k
    else if (s.core k).fault.valid then settle (readLands s1 k p).s k q.seq
    else
      let r := readLands s1 k p
      advancePair (if r.cause = 0 then settle r.s k q.seq else failReq r.s k { q with addr := r.addr } r.cause) k

/-- A WAIT or BARRIER completes in one core: at a catch point when it was held at its home (R250, R251). -/
def releaseRun (s : State) (k seq : Nat) (held : Bool) : State :=
  match (s.core k).findRun .sy seq with
  | none => if (s.core k).partner then s.updCore k (fun c => { c with mirror := c.mirror ++ [(seq, false)] }) else s
  | some _ => if held then catchAt (s.setSyRun k seq (fun r => { r with done := true })) k (some seq) else retireOne s k .sy seq false

/-- The WAITs and BARRIERs that a core holds on an object. -/
def Core.waitsOn (c : Core) (obj : Nat) : List Run :=
  c.syRun.filter (fun r => (wFn r.op.w == 1 || wFn r.op.w == 3) && r.key == obj && !r.done)

/-- Of the WAITs and BARRIERs on an object, those that the next RELEASE answers. -/
def Core.freedFirst (c : Core) (obj : Nat) : List Run :=
  let l := (c.waitsOn obj).filter (fun r => r.freed != 0)
  l.filter (fun r => l.all (fun q => decide (r.freed ≤ q.freed)))

/-- RELEASE at a core (R243): every WAIT and BARRIER it answers completes, or faults with the STATUS carried. -/
def coreRelease (s : State) (k obj st : Nat) : State :=
  let runs := (s.core k).freedFirst obj
  let s1 := s.updCore k (fun c => { c with reqs := c.reqs.filter (fun q => !(runs.any (fun r => r.op.seq == q.seq))) })
  if st = 0 then
    let cores := k :: (if (s.core k).paired then (s.pairOf k).toList else [])
    advancePair (runs.foldl (fun s r => cores.foldl (fun s j => releaseRun s j r.op.seq r.heldAtHome) s) s1) k
  else match runs.head? with
    | some r => unitFault s1 k .sy r.op (statusCause st) 0
    | none => s1

/-- GRANT at a core (R156, R158): the row follows, or the refusal is handled; a faulted core cancels its grant (R162). -/
def coreGrant (s : State) (k : Nat) (p : Packet) : State :=
  match (s.core k).findReq p.tag with
  | none => lateResponse s k
  | some q =>
    let s1 := takeReq s k p.tag
    match q.kind with
    | .asksGrant t c =>
      let slot := natLE (p.payload.take 2)
      let half := natLE (slice p.payload 2 1)
      let win := natLE (slice p.payload 3 2)
      if p.aux % 4 = 0 then
        if (s.core k).fault.valid then
          let g := (s.lcidSeen k, slot, half, t, c, win)
          s1.each (s1.admits.map (·.1)) (fun s u => if (s.admUnit u).grants.contains g && (s.admUnit u).table == p.addr then cancelGrant s u g else s)
        else advancePair (routeAll (routeGranted s1 k q.seq t c q.off slot half win) k q.seq) k
      else if (s.core k).fault.valid then s1
      else advancePair (routeAll (routeRefused s1 k q.seq t q.off) k q.seq) k
    | _ => s1

/-- CREDIT at a core (R93): one more credit of the stream in the core and its partner, and a waiting SEND goes. -/
def coreCredit (s : State) (k sid : Nat) : State :=
  if (s.core k).fault.valid then s
  else
    let cores := k :: (if (s.core k).paired then (s.pairOf k).toList else [])
    advancePair (cores.foldl (fun s j => pumpStream (s.updCore j (fun c => { c with credits := Tab.upd 0 c.credits sid (· + 1) })) j sid) s) k

/-- An acknowledgement at a router's agent: of a window record, after which the unit adds C − g to the arrival object
(R157). -/
def agentAck (s : State) (p : Packet) : State :=
  match (s.admits.find? (fun (u, a) => !a.closing.isEmpty && s.unitNode u == some p.loc && p.tag == agentTag + 64 + u % 64)).map (·.1) with
  | none => s
  | some u =>
    let a := s.admUnit u
    let s1 := s.updAdmit u (fun x => { x with closing := x.closing.drop 1 })
    match a.closing, s.unitNode u with
    | (obj, n) :: _, some me =>
      (match s.objNode obj with
      | some home => if n = 0 || p.aux % 16 != 0 then s1 else s1.send (syncPacket 1 a.part agentTag obj 0 n 0 me home)
      | none => s1)
    | _, _ => s1

/-- A response for a bezel die that is still due returns to it (R452, R453). -/
def bezReply (s : State) (n tag st : Nat) (data : List Byte) : State :=
  if (s.bezel n).pend.contains tag then (s.updBezel n (fun b => { b with pend := b.pend.erase tag })).emit (.bezel n tag st data) else s

/-! ## The rows -/

/-- A response of a core's request is taken when its router ejects; others go to agents, hubs, ports and bezels (R214). -/
def takeResponse (s : State) (i : Nat) (p : Packet) (toCore : State → Nat → State) (toAgent : State → State) (st : Nat)
    (data : List Byte) : State :=
  match p.loc with
  | .router _ _ =>
    (match s.coreHere p with
    | none => s
    | some k =>
      if agentTag ≤ p.tag then (if s.routerRuns k then toAgent (s.takePacket i) else s)
      else if s.ejects k then toCore (s.takePacket i) k else s)
  | .edge _ sub =>
    let s1 := s.takePacket i
    match nodePort p.loc with
    | some f => portReply s1 f p.tag st
    | none => match nodeHub p.loc with
      | some h => if sub = 1 then bezReply s1 h p.tag st data else hubReply s1 h p st data
      | none => s1

/-- ACK (R216). -/
def execAck (i : Nat) (s : State) : Host.Outcome State Fault Refusal :=
  .next (match s.arrived i [2] [1] with
    | some p => takeResponse s i p (fun s k => coreAck s k p) (fun s => agentAck s p) (p.aux % 16) []
    | none => s)

/-- RDATA (R215). -/
def execRdata (i : Nat) (s : State) : Host.Outcome State Fault Refusal :=
  .next (match s.arrived i [2] [0] with
    | some p => takeResponse s i p (fun s k => coreRdata s k p) id 0 p.readBytes
    | none => s)

/-- RELEASE (R243). -/
def execRelease (i : Nat) (s : State) : Host.Outcome State Fault Refusal :=
  .next (match s.arrived i [2] [2] with
    | some p => takeResponse s i p (fun s k => coreRelease s k p.addr (p.aux % 16)) id (p.aux % 16) []
    | none => s)

/-- GRANT (R158). -/
def execGrant (i : Nat) (s : State) : Host.Outcome State Fault Refusal :=
  .next (match s.arrived i [2] [3] with
    | some p => takeResponse s i p (fun s k => coreGrant s k p) id 0 []
    | none => s)

/-- CREDIT (R93); at a fabric port it leaves as an SCREDIT frame (R419). -/
def execCredit (i : Nat) (s : State) : Host.Outcome State Fault Refusal :=
  .next (match s.arrived i [2] [4] with
    | some p => (match nodePort p.loc with
      | some f => portCredit (s.takePacket i) f (p.addr % 4096)
      | none => takeResponse s i p (fun s k => coreCredit s k (p.addr % 4096)) id 0 [])
    | none => s)

/-- ADATA (R280). -/
def execAdata (i : Nat) (s : State) : Host.Outcome State Fault Refusal :=
  .next (match s.arrived i [2] [5] with
    | some p => takeResponse s i p (fun s k => coreAck s k p) id (p.aux % 16) p.payload
    | none => s)

/-! ## Stream messages -/

/-- A packet of a message at a core: it joins the oldest RECV of the stream, which completes at the last. A faulted core
accepts and discards (R102). Every packet is acknowledged. -/
def coreMessage (s : State) (k : Nat) (p : Packet) : State :=
  let s1 := s.send (p.ack (if (s.core k).lcid.isNone || (s.region (coreRegion k)).assign.isNone then 1 else 0))
  let sid := p.addr % 4096
  if (s.core k).fault.valid then s1
  else match (s.core k).postedRecv sid with
    | none => s1
    | some r =>
      let bytes := r.bytes ++ p.msgBytes
      if p.ctrl && p.aux.testBit 7 then advancePair (deliverMessage s1 k r true []) k
      else if p.aux.testBit 6 then
        advancePair (deliverMessage (s1.setRun k r.op.seq (fun r => { r with bytes := [] })) k r false bytes) k
      else s1.setRun k r.op.seq (fun r => { r with bytes := bytes })

/-- MSG_RECEIVE (R93). -/
def execMsgReceive (i : Nat) (s : State) : Host.Outcome State Fault Refusal :=
  .next (match s.arrived i [0, 1] [6] with
    | some p => (match s.coreHere p with
      | some k => if s.ejects k then coreMessage (s.takePacket i) k p else s
      | none => s)
    | none => s)

/-! ## Completions and timeouts -/

/-- INSTR_COMPLETE (R66, R67): the running instruction of the ME or VE, or a mover instruction that stays within the
core; the others complete with their last response. -/
def execInstrComplete (k : PCore) (u : CoreUnit) (i : Nat) (s : State) : Host.Outcome State Fault Refusal :=
  .next (if s.routerRuns k then
      match ((s.core k).runs u)[i]? with
      | some r =>
        if u = .me || u = .ve || (u = .mv && r.alone && r.done) then advance (retireOne s k u r.op.seq false) k else s
      | none => s
    else s)

/-- A request is that of a WAIT or BARRIER, which its home answers at the release, however late that is (R242). -/
def Core.waitReq (c : Core) (q : Req) : Bool :=
  q.kind == .sync && (match c.findRun .sy q.seq with
    | some r => wFn r.op.w == 1 || wFn r.op.w == 3
    | none => false)

/-- RESPONSE_TIMEOUT (R221): 10 ms after a request was injected. -/
def execResponseTimeout (k : PCore) (tag : W16) (s : State) : Host.Outcome State Fault Refusal :=
  .next (match (s.core k).findReq tag.toNat with
    | none => s
    | some q =>
      if (s.core k).waitReq q || s.now < q.born + 10000000 then s
      else
        let s1 := takeReq (s.updFab (s.partOfCore k) (fun f => { f with timeout := sat 32 (f.timeout + 1) })) k tag.toNat
        if (s.core k).fault.valid then settle s1 k q.seq
        else advancePair (failReq s1 k q (if 1 ≤ q.win && q.win ≤ 1536 then 0x0C else 0x0A)) k)

/-- PAIR_SUBMISSION_TIMEOUT (R137): one digest of the pair is missing 100 µs after the other. -/
def execPairSubmissionTimeout (k : PCore) (s : State) : Host.Outcome State Fault Refusal :=
  .next (match s.pairOf k with
    | none => s
    | some j =>
      let sent := fun (c : Core) => c.submitted.map (·.2) <|> c.noteSub.map (·.2.2)
      let late := fun (x : Option Nat) => match x with
        | some t => decide (t + 100000 ≤ s.now)
        | none => false
      let a := sent (s.core k)
      let b := sent (s.core j)
      if !(s.core k).partner && ((late a && b.isNone) || (late b && a.isNone)) then pairMismatch s k j else s)

end Sys2Proof.Machine
end

