-- ==== Sys2Proof/Machine/Home.lean ====
section
/-!
DEFINITION. Sync homes (R239 to R249), admission units (R152 to R162) and catch points (R250 to R252).
-/
namespace Sys2Proof.Machine

/-! ## Releases (R242, R243) -/

/-- A RELEASE to an LCID. One that answers held requests carries TAG 0: the object keeps one bit per LCID. -/
def releasePacket (part tag obj status : Nat) (src dst : Node) : Packet :=
  (({ cls := 2, opc := 2, part := part, tag := tag, addr := obj, aux := status, payload := zeros 16, loc := src } : Packet).setSrc src).setDest dst

/-- A half whose FREE object releases is free (R153). -/
def freeHalves (s : State) (o : Nat) : State :=
  s.each ((s.admits.filter (fun x => x.2.valid && (x.2.expert.free0 == o || x.2.expert.free1 == o))).map (·.1)) (fun s u =>
    s.updAdmit u (fun a => { a with free0 := a.free0 || a.expert.free0 == o, free1 := a.free1 || a.expert.free1 == o }))

/-- The home answers an LCID with one RELEASE on an object: it is for the WAITs and BARRIERs of the core that pick names. -/
def freeRuns (s : State) (o l : Nat) (pick : Run → Bool) : State :=
  match s.coreOf l with
  | none => s
  | some k => s.updCore k (fun c =>
      let n := ((c.waitsOn o).map (·.freed)).foldl max 0 + 1
      { c with syRun := c.syRun.map (fun r =>
          if (wFn r.op.w == 1 || wFn r.op.w == 3) && r.key == o && !r.done && r.freed == 0 && pick r then { r with freed := n } else r) })

/-- The WAIT or BARRIER of an LCID that its home takes next: the first that is neither held nor answered. -/
def State.nextTaken (s : State) (o l : Nat) : Option Nat :=
  (s.coreOf l).bind (fun k => (((s.core k).waitsOn o).find? (fun r => !r.heldAtHome && r.freed == 0)).map (·.op.seq))

/-- The request just taken is answered at once, with a STATUS. -/
def answerTaken (s : State) (p : Packet) (o l st : Nat) : State :=
  let n := s.nextTaken o l
  (freeRuns s o l (fun r => n == some r.op.seq)).send (p.reply 2 o st (zeros 16) true)

/-- An object releases: sticky, or with a reset of its counter; every waiter gets its RELEASE, in ascending order. -/
def homeRelease (s : State) (o : Nat) (sticky : Bool) : State :=
  let x := s.sync o
  let s1 := s.updSync o (fun x => { x with
    released := sticky, counter := if sticky then x.counter else x.counter - x.target
    releases := (x.releases + 1) % 65536, waiters := [] })
  freeHalves (s1.each x.waiters (fun s l => match s.objNode o, s.lcidNode l with
    | some h, some n => (freeRuns s o l (·.heldAtHome)).send (releasePacket ((s.partOfDie (objDie o)).getD 0) 0 o 0 h n)
    | _, _ => s)) o

/-- A waiter of an object faults with the recorded cause (R246). -/
def waiterFault (s : State) (o l cause : Nat) : State :=
  match s.coreOf l with
  | none => s
  | some k => match ((s.core k).waitsOn o).head? with
    | some r => unitFault s k .sy r.op cause 0
    | none => coreFault s k cause 4 false 0 0 0

/-- An addition to the counter, which saturates (R242). -/
def countUp (x : SyncObj) (n : Nat) : SyncObj := { x with counter := min (x.counter + n) 0xFFFFFFFF }

/-- An unreleased object has reached its target (R242). -/
def SyncObj.reached (x : SyncObj) : Bool := !x.released && x.target != 0 && decide (x.target ≤ x.counter)

/-- SIGNAL N at the home. -/
def homeSignalOp (s : State) (o n : Nat) : State :=
  let s1 := s.updSync o (fun x => countUp x n)
  if (s1.sync o).reached then homeRelease s1 o true else s1

/-- ARM T at the home. -/
def homeArmOp (s : State) (o t : Nat) : State :=
  let s1 := s.updSync o (fun x => { x with target := t, counter := 0, released := false })
  if t = 0 then homeRelease s1 o true else s1

/-- The LCID's bit is set; the WAIT or BARRIER just taken is held at the home. -/
def homeHold (s : State) (o l : Nat) : State :=
  let n := s.nextTaken o l
  let s1 := s.updSync o (fun x => { x with waiters := x.waiters.add l })
  match s.coreOf l with
  | some k =>
    let cores := k :: (if (s.core k).paired then (s.pairOf k).toList else [])
    s1.each cores (fun s j => s.updCore j (fun c => { c with syRun := c.syRun.map (fun r =>
      if n == some r.op.seq then { r with heldAtHome := true } else r) }))
  | none => s1

/-- A request for an answer by RELEASE (R242, R244, R246): a faulted object faults the core; a released one answers at
once; else the core is held. -/
def homeWaitOp (s : State) (p : Packet) (o l : Nat) : State :=
  let x := s.sync o
  if x.faulted then waiterFault s o l x.cause
  else if x.released then answerTaken s p o l 0
  else homeHold s o l

def homeBarrierOp (s : State) (p : Packet) (o l : Nat) : State :=
  let x := s.sync o
  if x.faulted then waiterFault s o l x.cause
  else if x.run then answerTaken s p o l 1
  else
    let s1 := homeWaitOp (s.updSync o (fun x => countUp x 1)) p o l
    if (s1.sync o).reached then homeRelease s1 o false else s1

/-! ## The rows of the home agent -/

/-- A SYNC packet of a kind at its home, whose router works. -/
def State.syncHere (s : State) (i kind : Nat) : Option Packet :=
  match s.arrived i [0, 1] [4] with
  | some p => if p.aux % 4 = kind && s.objNode p.addr == some p.loc && ((s.coreHere p).map s.routerRuns).getD false then some p else none
  | none => none

/-- HOME_SIGNAL (R242); a RUN object answers with STATUS 1 (R244). -/
def execHomeSignal (i : Nat) (s : State) : Host.Outcome State Fault Refusal :=
  .next (match s.syncHere i 0 with
    | some p =>
      let s1 := s.takePacket i
      if (s.sync p.addr).run then s1.send (p.ack 1) else (homeSignalOp s1 p.addr (p.syncValue % 65536)).send (p.ack 0)
    | none => s)

/-- HOME_WAIT (R242). -/
def execHomeWait (i : Nat) (s : State) : Host.Outcome State Fault Refusal :=
  .next (match s.syncHere i 1 with
    | some p => homeWaitOp (s.takePacket i) p p.addr p.syncLcid
    | none => s)

/-- HOME_ARM (R242); a RUN object answers with STATUS 1 (R244). -/
def execHomeArm (i : Nat) (s : State) : Host.Outcome State Fault Refusal :=
  .next (match s.syncHere i 2 with
    | some p =>
      let s1 := s.takePacket i
      if (s.sync p.addr).run then s1.send (p.ack 1) else (homeArmOp s1 p.addr p.syncValue).send (p.ack 0)
    | none => s)

/-- HOME_BARRIER (R242). -/
def execHomeBarrier (i : Nat) (s : State) : Host.Outcome State Fault Refusal :=
  .next (match s.syncHere i 3 with
    | some p => homeBarrierOp (s.takePacket i) p p.addr p.syncLcid
    | none => s)

/-- The report that a signaller of an object has faulted or is absent (R246): the first report's cause stays, and every
waiter faults with it. -/
def homeFault (s : State) (o cause : Nat) : State :=
  let x := s.sync o
  let c := if x.faulted then x.cause else cause
  (s.updSync o (fun x => { x with faulted := true, cause := c, waiters := [] })).each x.waiters (fun s l => waiterFault s o l c)

/-- An LCID has faulted, or its core failed or is fenced; or it is left absent. -/
def State.lcidLost (s : State) (l : Nat) (absent : Bool) : Bool :=
  let r := (s.physRegion (lcidRegion l)).getD 624
  match s.coreOf l with
  | some k => !absent && ((s.core k).fault.valid || (s.region r).loading == some l)
  | none => if absent then !(s.region r).fenced else (s.region r).fenced

/-- The home agent of an object has taken the cox's report, which is input 8 of its arbiter (R241, R488). -/
def homeTakesReport (s : State) (o : Nat) : State :=
  match s.objNode o with
  | some n => s.updArb (arbKey n 8) (fun a => { a with ptr := 0 })
  | none => s

/-- HOME_FAULT_REPORT (R246). -/
def execHomeFaultReport (o : ObjId) (l : Lcid) (absent : Bool) (s : State) : Host.Outcome State Fault Refusal :=
  .next (if (s.sync o).signallers.has l && s.lcidLost l absent then homeFault (homeTakesReport s o) o (if absent then 0x12 else 0x11) else s)

/-! ## Admission (R153 to R160) -/

/-- The answer of an admission unit (R215). -/
def grantPacket (p : Packet) (a : Admit) (reason slot t c : Nat) : Packet :=
  p.reply 3 a.table reason
    (bytesLE 2 slot ++ bytesLE 1 (a.windowNo % 2) ++ bytesLE 2 (a.windowNo % 65536) ++ bytesLE 2 t ++ bytesLE 1 c ++ zeros 8) true

/-- The counts of a refusal (R160). -/
def Admit.refuse (a : Admit) (last : Bool) : Admit :=
  let b := if a.open_ then a else { a with busy := sat 32 (a.busy + 1) }
  match a.policy with
  | 2 => { b with bounce := sat 32 (b.bounce + 1) }
  | 0 => { b with drop := sat 32 (b.drop + 1) }
  | _ => if last then { b with drop := sat 32 (b.drop + 1) } else { b with pass := sat 32 (b.pass + 1) }

/-- A unit takes a request: slot g when g < C in a window whose half is its own, else FULL or BUSY (R155). A grant to
a sender that is gone is cancelled at once (R162). -/
def admitTake (s : State) (u : Nat) (p : Packet) : State :=
  let a := s.admUnit u
  let l := natLE (p.payload.take 2)
  let t := natLE (slice p.payload 2 2)
  let c := natLE (slice p.payload 4 1)
  let last := (natLE (slice p.payload 5 1)) % 2 == 1
  if a.open_ && decide (a.granted < a.expert.capacity) then
    let g := (l, a.granted, a.windowNo % 2, t, c, a.windowNo % 65536)
    let s1 := s.updAdmit u (fun a => { a with granted := a.granted + 1, admitted := sat 32 (a.admitted + 1), grants := a.grants ++ [g] })
    let s2 := s1.send (grantPacket p a 0 a.granted t c)
    if (s.coreOf l).isNone then cancelGrant s2 u g else s2
  else (s.updAdmit u (fun a => a.refuse last)).send (grantPacket p a (if a.open_ then 1 else 2) 0 t c)

/-- The unit that a request is for: that of its table and expert in its partition, homed at this router. -/
def State.admitUnit (s : State) (p : Packet) : Option Nat :=
  (s.unitOf p.part (p.addr % 64) (natLE (Sys2Proof.Machine.slice p.payload 6 1))).bind (fun u => if s.unitNode u == some p.loc then some u else none)

/-- ADMIT_REQUEST (R155). -/
def execAdmitRequest (i : Nat) (s : State) : Host.Outcome State Fault Refusal :=
  .next (match s.arrived i [0] [5] with
    | some p => (match s.admitUnit p with
      | some u => if ((s.coreHere p).map s.routerRuns).getD false then admitTake (s.takePacket i) u p else s
      | none => s)
    | none => s)

/-! ## Catch points -/

/-- CATCH_POINT (R251, R252): the first catch point of the core that is due. -/
def execCatchPoint (k : PCore) (s : State) : Host.Outcome State Fault Refusal :=
  .next (match (s.core k).catches.find? (fun c => decide (c.due ≤ s.now)) with
    | none => s
    | some c =>
      if !s.routerRuns k then s
      else
        let s1 := s.updCore k (fun x => { x with catches := x.catches.erase c, quarterUntil := s.now + 256 })
        advance (match c.seq with
          | some n => retireOne s1 k .sy n false
          | none => s1) k)

/-- CATCH_END (R252). -/
def execCatchEnd (k : PCore) (s : State) : Host.Outcome State Fault Refusal :=
  .next (if (s.core k).quarterUntil != 0 && decide ((s.core k).quarterUntil ≤ s.now) then
      s.updCore k (fun c => { c with quarterUntil := 0 })
    else s)

end Sys2Proof.Machine
end

