-- ==== Sys2Proof/Machine/Inbound.lean ====
section
/-!
DEFINITION. Reads and writes that arrive at a router for its core's SRAM (R76, R135, R266 to R268) or for a control-space
block (R248, R458).
-/
namespace Sys2Proof.Machine

/-- The physical core that serves the SRAM window or control block of an LCID for the fabric: none where the LCID has no
core, and for a partner (R35, R135). -/
def State.servedCore (s : State) (l : Nat) : Option Nat :=
  match s.coreOf l with
  | some k => if (s.core k).partner || (s.region (coreRegion k)).assign.isNone then none else some k
  | none => none

/-- An inbound write of bytes to the SRAM of a core (R267, R268): the state, and whether a word stayed poisoned. -/
def inboundWrite (s : State) (k off : Nat) (bytes : List Byte) : State × Bool :=
  let s1 := s.each (writeEnds off bytes.length) (fun s r => sramRead s k r.1 r.2)
  (checkLines (sramWrite s1 k off bytes) k, s.partialBad k off bytes.length)

/-- A request to write SRAM: refused in the program region (R104); delivered to both cores of a pair (R135). -/
def writeSram (s : State) (p : Packet) (l off : Nat) (bytes : List Byte) : State :=
  match s.servedCore l with
  | none => s.send (p.ack 1)
  | some k =>
    if (s.core k).inProgram off bytes.length || sramSize < off + bytes.length then s.send (p.ack 1)
    else
      let w := inboundWrite s k off bytes
      let s1 := match (if (s.core k).paired then s.pairOf k else none) with
        | some j => (inboundWrite w.1 j off bytes).1
        | none => w.1
      s1.send (p.ack (if w.2 then 2 else 0))

/-- A request to read SRAM: one ACK with STATUS 2 on an uncorrectable word (R268). -/
def readSram (s : State) (p : Packet) (l off n : Nat) : State :=
  match s.servedCore l with
  | none => s.send (p.ack 1)
  | some k =>
    if sramSize < off + n then s.send (p.ack 1)
    else
      let s1 := sramTouch s k off n
      if s.sramBad k off n then s1.send (p.ack 2) else s1.send (p.rdata p.readOff (s.sramBytes k off n))

/-- The word a control-space address reads as for the fabric. -/
def State.controlWord (s : State) (a : Nat) : Option Nat :=
  match targetOf a with
  | .coxReg d off => (s.blockSite d).map (fun st => s.coxWord d st off)
  | .coreReg l off => (s.servedCore l).map (fun k => (s.core k).word off)
  | .sync o off => some ((s.sync o).word off)
  | _ => none

/-- A request to halt a core (R105, R467). -/
def haltRequest (s : State) (k : Nat) : State := coreFault s k 0x15 0 false 0 (s.core k).pc 0

/-- A write of one control-space word: HALT_REQ and SYNC_HOST act, every other field of these blocks is read-only. -/
def writeControl (s : State) (a v : Nat) : Option State :=
  match targetOf a with
  | .coxReg d _ => (s.blockSite d).map (fun _ => s)
  | .coreReg l off => (s.servedCore l).map (fun k => if off = 0 && v % 2 = 1 then haltRequest s k else s)
  | .sync o off => some (if off = 0xC && v % 65536 != 0 && !(s.sync o).run then homeSignalOp s o (v % 65536) else s)
  | _ => none

/-- A request stands at the router of the unit its address names: SRAM requests are served while the core is awake,
others while the router's clock runs. -/
def State.atTarget (s : State) (p : Packet) : Bool :=
  match s.coreHere p with
  | none => false
  | some k => match targetOf p.addr with
    | .sram _ _ => s.ejects k
    | _ => s.routerRuns k

/-- INBOUND_RD (R268). -/
def execInboundRd (i : Nat) (s : State) : Host.Outcome State Fault Refusal :=
  .next (match s.arrived i [0, 1] [0] with
    | some p =>
      if !s.atTarget p then s
      else
        let s1 := s.takePacket i
        match targetOf p.addr with
        | .sram l off => readSram s1 p l off p.readLen
        | _ => match s1.controlWord p.addr with
          | some v => if p.readLen = 4 && p.addr % 4 = 0 then s1.send (p.rdata p.readOff (bytesLE 4 v)) else s1.send (p.ack 1)
          | none => s1.send (p.ack 1)
    | none => s)

/-- A write packet at its target. -/
def inboundWriteAt (s : State) (i : Nat) (p : Packet) : State :=
  if !s.atTarget p then s
  else
    let s1 := s.takePacket i
    match targetOf p.addr with
    | .sram l off => writeSram s1 p l off p.writeBytes
    | _ => if p.writeBytes.length = 4 && p.addr % 4 = 0 then (match writeControl s1 p.addr (natLE p.writeBytes) with
        | some s2 => s2.send (p.ack 0)
        | none => s1.send (p.ack 1)) else s1.send (p.ack 1)

/-- INBOUND_WR (R267). -/
def execInboundWr (i : Nat) (s : State) : Host.Outcome State Fault Refusal :=
  .next (match s.arrived i [0, 1] [1] with
    | some p => inboundWriteAt s i p
    | none => s)

/-- INBOUND_WRS (R267). -/
def execInboundWrs (i : Nat) (s : State) : Host.Outcome State Fault Refusal :=
  .next (match s.arrived i [0, 1] [2] with
    | some p => inboundWriteAt s i p
    | none => s)

end Sys2Proof.Machine
end

