-- ==== Sys2Proof/Machine/CmdOps.lean ====
section
/-!
DEFINITION. The command fetcher (R397 to R406): the forms of the records, fetch strokes, the commands that wait for a
stroke, and the ends that a replacement or an ordered stop gives to commands.
-/
namespace Sys2Proof.Machine

def Active.opc (a : Active) : Nat := recByte a.rec_ 0

/-! ## Forms (R400, R401) -/

def zeroFrom (r : List Byte) (i n : Nat) : Bool := (slice r i n).all (fun b => b == 0)

/-- The layout in force holds a tree. -/
def State.holdsTree (s : State) (p ty n : Nat) : Bool :=
  (((s.layoutOf p).map (·.trees)).getD []).any (fun t => t.ty == ty && t.tree == n)

/-- The operands of a record are in range and its unused bytes 0. -/
def State.operandsOk (s : State) (p : Nat) (r : List Byte) : Bool :=
  match recByte r 0 with
  | 0 => zeroFrom r 16 48
  | 1 => recNat r 32 4 != 0 && zeroFrom r 36 28
  | 2 => recNat r 32 4 != 0 && zeroFrom r 36 28
  | 3 => decide (recNat r 16 4 < 18432) && recNat r 20 2 != 0 && zeroFrom r 22 42
  | 4 => decide (recNat r 16 4 < 18432) && zeroFrom r 20 44
  | 5 =>
    zeroFrom r 20 4 && zeroFrom r 30 2 && zeroFrom r 36 28 &&
      (if recByte r 16 = 0 then decide (recByte r 17 < 16) && zeroFrom r 18 2 && zeroFrom r 32 4
       else recByte r 16 == 1 && decide (recByte r 17 < 2) && s.holdsTree p (recByte r 17) (recNat r 18 2) && recNat r 32 4 != 0)
  | 6 => zeroFrom r 16 8 && zeroFrom r 30 34
  | _ => false

/-- STATUS of a record's form: 0, 4 FORMAT or 5 VERSION. -/
def State.formOf (s : State) (p : Nat) (r : List Byte) : Nat :=
  if recByte r 1 ≠ 1 then 5
  else if 4 ≤ recByte r 2 || 48 ≤ recByte r 3 || !zeroFrom r 4 4 || !s.operandsOk p r then 4
  else 0

def isOrder (r : List Byte) : Bool := (recByte r 2).testBit 1
def isCopy (r : List Byte) : Bool := recByte r 0 == 1 || recByte r 0 == 2

/-! ## Starts (R402) -/

/-- The record at the head of the fetched list may start: ORDER waits for every earlier command, and a copy for a place
among 16. -/
def State.cmdReady (s : State) (p : Nat) : Option (Nat × List Byte) :=
  let c := (s.hub p).cmd
  match c.fetched with
  | [] => none
  | (i, r) :: _ =>
    if c.state = 2 || (isOrder r && !c.active.isEmpty) || (isCopy r && decide (16 ≤ (c.active.filter (fun a => isCopy a.rec_)).length)) then none
    else some (i, r)

/-- Move the head of the fetched list among the active commands. -/
def popCmd (s : State) (p aux : Nat) : State :=
  s.updCmd p (fun c => match c.fetched with
    | [] => c
    | (i, r) :: rest => { c with fetched := rest, active := c.active ++ [{ index := i, rec_ := r, aux := aux }] })

/-- Records that are not of a known form end with FORMAT or VERSION as their turn comes. -/
def settleCmds (s : State) (p : Nat) : State :=
  s.each (List.range 256) (fun s _ => match s.cmdReady p with
    | some (i, r) => if s.formOf p r = 0 then s else complete (popCmd s p 0) p i (s.formOf p r) 0
    | none => s)

/-- A command ends, and those behind it may follow. -/
def endCmd (s : State) (p index status detail : Nat) : State := settleCmds (complete s p index status detail) p

/-- The head of the fetched list when it may start and has opcode opc. -/
def State.headCmd (s : State) (p opc : Nat) : Option (Nat × List Byte) :=
  match s.cmdReady p with
  | some (i, r) => if recByte r 0 = opc && s.formOf p r = 0 then some (i, r) else none
  | none => none

/-! ## Ends from outside (R405) -/

/-- DETAIL of a command that ends ABORTED. -/
def State.abortDetail (s : State) (a : Active) : Nat :=
  if a.opc = 4 then (s.sync (recNat a.rec_ 16 4)).releases
  else if a.opc = 5 ∨ a.opc = 6 then recNat a.rec_ 24 6 else 0

/-- Every command whose opcode the test takes ends ABORTED, whether it has started or waits at its place. -/
def abortCommands (s : State) (p : Nat) (f : Nat → Bool) : State :=
  let s1 := s.updCmd p (fun c => { c with
    active := c.active ++ (c.fetched.filter (fun x => f (recByte x.2 0))).map (fun x => { index := x.1, rec_ := x.2 })
    fetched := c.fetched.filter (fun x => !f (recByte x.2 0)) })
  s1.each (((s1.hub p).cmd.active).filter (fun a => f a.opc)) (fun s a => complete s p a.index 8 (s.abortDetail a))

/-- Free places of the completion ring by the CQ_HEAD last read. -/
def CmdPort.room (c : CmdPort) : Nat := (c.cqHead + 2 ^ c.cqLog - c.cqTail - 1) % 2 ^ c.cqLog

/-! ## Fetch strokes (R399) -/

/-- The fetcher begins a fetch: it reads the ring header. A fetch in progress takes the stroke's place. -/
def beginFetch (s : State) (p : Nat) : State :=
  let c := (s.hub p).cmd
  if c.fetch ≠ 0 then setCmdRc s p 29
  else (s.updCmd p (fun c => { c with fetch := 1 })).emit (.hostRead p c.ring 8)

/-- WAITs that see a release at a fetch stroke end (R400). -/
def checkWaits (s : State) (p : Nat) : State :=
  s.each (((s.hub p).cmd.active).filter (fun a => a.opc == 4)) (fun s a =>
    let o := s.sync (recNat a.rec_ 16 4)
    if o.faulted then endCmd s p a.index 9 o.releases
    else if o.released || o.releases != a.aux then endCmd s p a.index 0 o.releases else s)

/-- A fetch stroke of a partition. -/
def fetchStroke (s : State) (p : Nat) : State :=
  let s1 := s.updCmd p (fun c => { c with everyNow := c.every })
  let s2 := if (s1.hub p).cmd.state = 3 && (s1.hub p).cmd.resume && (s1.hub p).lay.state != .applying then
      s1.updCmd p (fun c => { c with state := 1, resume := false, err := 0 }) else s1
  if (s2.hub p).cmd.state = 1 then checkWaits (beginFetch s2 p) p
  else if (s2.hub p).cmd.state = 3 then checkWaits s2 p else s2

/-- The stroke n reaches a partition's fetcher: messages owed under COALESCE go out, commands on a stroke end, and a
fetch stroke acts (R399, R400, R407). -/
def fetcherStroke (s : State) (p n : Nat) : State :=
  let s1 := s.each ((s.hub p).cmd.owed) (fun s v => msixSend s p v)
  let s2 := s1.updCmd p (fun c => { c with owed := [], coalesceNow := c.coalesce })
  let s3 := s2.each (((s2.hub p).cmd.active).filter (fun a => (a.opc == 5 || a.opc == 6) && decide (recNat a.rec_ 24 6 ≤ n)))
    (fun s a => endCmd s p a.index 0 (recNat a.rec_ 24 6))
  if n % ((s3.hub p).cmd.everyNow + 1) = 0 && decide ((s3.hub p).cmd.startAt ≤ n) then fetchStroke s3 p else s3

/-- The fetcher enters ERROR (R406). -/
def fetchError (s : State) (p cause : Nat) : State :=
  if (s.hub p).cmd.state = 3 then s
  else raiseEvt (s.updCmd p (fun c => { c with state := 3, err := cause, fetch := 0, resume := false })) p 4

end Sys2Proof.Machine
end

