-- ==== Sys2Proof/Machine/Trees.lean ====
section
/-!
DEFINITION. The rows of trees (R253 to R265), the folds of reductions (R163 to R166, R258), and the reports over the cox
rings (R246, R247, R263).
-/
namespace Sys2Proof.Machine

/-! ## Folds -/

/-- The sum of two elements of a tree's format in the fold's arithmetic: BF16 is folded in FP32 (R258). -/
def foldAdd (vfmt : Nat) (a b : Nat) : Nat := if vfmt = 0xC then (a + b) % 2 ^ 32 else bits32 (add32 (num32 a) (num32 b))

/-- An element as the fold holds it, and as it leaves the router. -/
def foldIn (vfmt v : Nat) : Nat := if vfmt = 1 then bits32 (decodeFloat bf16 v) else v
def foldOut (vfmt v : Nat) : Nat := if vfmt = 1 then bf16.encode 0 false 0 (num32 v) else v

def foldWidth (vfmt : Nat) : Nat := if vfmt = 1 then 2 else 4

def elemsOf (w : Nat) (b : List Byte) : List Nat := (List.range (b.length / w)).map (fun i => natLE (slice b (i * w) w))

/-- Fold packets of equal place in the order given, from the first one's values (R258). -/
def foldDense (vfmt : Nat) (l : List (List Byte)) : List Byte :=
  match l.map (fun b => (elemsOf (foldWidth vfmt) b).map (foldIn vfmt)) with
  | [] => []
  | a :: rest => (rest.foldl (fun x y => List.zipWith (foldAdd vfmt) x y) a).flatMap (fun v => bytesLE (foldWidth vfmt) (foldOut vfmt v))

/-- The entries of a sparse list (R163): index and value. -/
def entriesOf (b : List Byte) : List (Nat × Nat) :=
  (List.range (b.length / 8)).map (fun i => (natLE (slice b (8 * i) 4), natLE (slice b (8 * i + 4) 4)))
def entryBytes (l : List (Nat × Nat)) : List Byte := l.flatMap (fun e => bytesLE 4 e.1 ++ bytesLE 4 e.2)

def strictlyUp : List (Nat × Nat) → Bool
  | [] => true
  | [_] => true
  | a :: b :: t => decide (a.1 < b.1) && strictlyUp (b :: t)

/-- The sum of two values of a sparse list; the router's output is rounded once (R164). -/
def sparseAdd (vfmt a b : Nat) : Nat := if vfmt = 1 then foldOut 1 (foldAdd 1 (foldIn 1 (a % 65536)) (foldIn 1 (b % 65536))) else foldAdd vfmt a b

/-- Merge two lists in ascending index order (R164). -/
def mergeSparse (vfmt : Nat) : Nat → List (Nat × Nat) → List (Nat × Nat) → List (Nat × Nat)
  | 0, _, _ => []
  | _, [], b => b
  | _, a, [] => a
  | fuel + 1, a :: as_, b :: bs =>
    if a.1 < b.1 then a :: mergeSparse vfmt fuel as_ (b :: bs)
    else if b.1 < a.1 then b :: mergeSparse vfmt fuel (a :: as_) bs
    else (a.1, sparseAdd vfmt a.2 b.2) :: mergeSparse vfmt fuel as_ bs

/-- Entry a ranks before entry b (R165): NaN first, then the larger value or magnitude, then the lower index. -/
def ranksBefore (vfmt order : Nat) (a b : Nat × Nat) : Bool :=
  if vfmt = 0xC then
    let v := fun (x : Nat) => if order = 1 then ((signed 32 x).natAbs : Int) else signed 32 x
    decide (v b.2 < v a.2) || (v a.2 == v b.2 && decide (a.1 < b.1))
  else
    let v := fun (x : Nat) => let y := num32 (if vfmt = 1 then foldIn 1 (x % 65536) else x); if order = 1 then y.abs else y
    let x := v a.2
    let y := v b.2
    if x.isNan || y.isNan then (x.isNan && !y.isNan) || (x.isNan && y.isNan && decide (a.1 < b.1))
    else Fpv.lt y x || (!Fpv.lt x y && decide (a.1 < b.1))

/-- Keep the k entries that rank first, in index order (R165). -/
def topK (r : TreeRec) (l : List (Nat × Nat)) : List (Nat × Nat) :=
  l.filter (fun e => decide ((l.filter (fun f => ranksBefore r.vfmt r.order f e)).length < r.k))

/-- Merge lists pairwise in order; beyond 4,096 entries the lowest indices stay (R166). The flag says that some went. -/
def mergeAll (vfmt : Nat) (l : List (List (Nat × Nat))) : List (Nat × Nat) × Bool :=
  match l with
  | [] => ([], false)
  | a :: rest => rest.foldl (fun acc b =>
      let m := mergeSparse vfmt (acc.1.length + b.length + 1) acc.1 b
      (m.take 4096, acc.2 || decide (4096 < m.length))) (a, false)

/-! ## The inputs of a collective in progress -/

/-- The members still served by a multicast: latched and not cut off. -/
def Tree.served (t : Tree) (l : Nat) : Bool := t.latchedMembers.contains l && !t.cut.has l
/-- The members whose contribution a reduction still waits for. -/
def Tree.awaited (t : Tree) (l : Nat) : Bool := t.served l && !t.dead.has l

/-- Child ports, and the own member, that satisfy a test of members. -/
def Tree.portsFor (t : Tree) (r : Nat) (f : Nat → Bool) : List (Dir × Nat) := (t.node r).kids.filter (fun k => (t.below 300 k.2).any f)
def Tree.ownFor (t : Tree) (r : Nat) (f : Nat → Bool) : Bool :=
  match (t.node r).member with
  | some l => f l
  | none => false

def State.updNode (s : State) (tk r : Nat) (f : TreeNode → TreeNode) : State :=
  s.updTree tk (fun t => { t with nodes := Tab.insert (f (Tab.get {} t.nodes r)) t.nodes r })

/-- A buffer of a tree at a router frees n flits: the neighbour that had sent them may send again (R255). -/
def freeRoom (s : State) (tk from_ to_ n : Nat) : State :=
  if (s.tree tk).nodes.any (fun x => x.1 == from_) then s.updNode tk from_ (fun x => { x with used := Tab.upd 0 x.used to_ (· - n) }) else s

/-- A packet of a tree that a router takes leaves its buffer there. -/
def leaveBuffer (s : State) (p : Packet) : State :=
  if p.arr == .localPort then s else freeRoom s p.treeKey (p.src0 * 72 + p.src1) p.atRouter p.flits.length

/-- A packet of a tree stands at a router that has given it a port. -/
def State.staged (s : State) (tk r : Nat) : Bool := s.net.any (fun q => q.port.isSome && q.treeKey == tk && q.atRouter == r)

/-! ## The end of a collective -/

/-- The root's run of the collective in progress. -/
def State.rootBusy (s : State) (t : Tree) : Option (Nat × Run) :=
  match t.rec?, s.treeRoot t with
  | some r, some k => ((s.core k).mvRun.find? (fun x => x.key == r.stream && x.done && x.barrier == (r.ty == 0))).map (fun x => (k, x))
  | _, _ => none

/-- Derive a tree anew over its live members, or mark it broken when a router's pool has no room (R254, R263). -/
def rederiveTree (s : State) (tk : Nat) : State :=
  let t := s.tree tk
  match t.rec? with
  | none => s
  | some r =>
    let nodes := deriveNodes s t.part r t.live
    let all := s.trees.map (fun x => if x.1 = tk then { x.2 with nodes := nodes } else x.2)
    let use := poolUse all
    let bind := s.bindUse
    let bad := nodes.any (fun n => decide (8192 < Tab.get 0 use n.1 + Tab.get 0 bind n.1))
    let s1 := s.updTree tk (fun t => { t with
      rederive := false, broken := bad, nodes := nodes.map (fun (i, n) => (i, { n with creds := (Tab.get {} t.nodes i).creds }))
      rootRouter := (s.lcidRouter r.root).getD 0 })
    if bad then setFabRc s1 t.part 29 else s1

/-- 0 for a multicast, 1 for a reduction. -/
def Tree.treeTy (t : Tree) : Nat := (t.rec?.map (·.ty)).getD 1

/-- The collective is over: the next may start, with the credits that its members have given meanwhile. -/
def endCollective (s : State) (tk : Nat) : State :=
  let s1 := s.updTree tk (fun t => { t with running := false, coll := (t.coll + 1) % 65536 })
  let s2 := if (s1.tree tk).rederive then rederiveTree s1 tk else s1
  tryTree (if (s2.tree tk).treeTy = 0 then mergeCredits s2 tk (s2.tree tk).rootRouter else s2) tk

/-- TREE_LAST and TREE_FIRST of the root and its partner (R264). -/
def writeTreeLast (s : State) (k ty tree dropped first : Nat) : State :=
  let cores := k :: (if (s.core k).paired then (s.pairOf k).toList else [])
  s.each cores (fun s j => s.updCore j (fun c => { c with
    treeLast := BitVec.ofNat 32 (treeLastWord ty tree dropped), treeFirst := BitVec.ofNat 32 first }))

/-- A multicast ends when DONE and DROPPED account for every latched member but the root (R256 step 8). -/
def checkMulticast (s : State) (tk : Nat) : State :=
  let t := s.tree tk
  match t.rec? with
  | none => s
  | some r =>
    if r.ty = 0 && t.running && t.latchedMembers.length ≤ t.done + t.dropped + 1 then
      let s1 := match s.rootBusy t with
        | some (k, run) => advancePair (finish (writeTreeLast s k 0 r.tree (t.latchedMembers.length - 1 - t.done) t.lowDrop) k .mv run.op.seq false) k
        | none => s
      endCollective s1 tk
    else s

/-! ## Multicast -/

/-- Members dropped from a multicast go up as one count with their lowest LCID (R263). -/
def dropUp (s : State) (tk r count low : Nat) : State :=
  let t := s.tree tk
  match t.rec?, (t.node r).parent with
  | some rc, some up => s.send (colCtrl t.part rc.tree 0 1 r up (t.upDir r up) 3 t.coll count low)
  | some _, none => checkMulticast (s.updTree tk (fun t => { t with dropped := t.dropped + count, lowDrop := min t.lowDrop low })) tk
  | none, _ => s

/-- Merge DONE counts: when every port served has given its own, one DONE goes up, or is counted at the root. -/
def mergeDone (s : State) (tk r : Nat) : State :=
  let t := s.tree tk
  match t.rec? with
  | none => s
  | some rc =>
    let n := t.node r
    let want := (t.portsFor r t.served).map (·.2) ++ (if t.ownFor r (fun l => t.served l && l != rc.root) then [ownCore] else [])
    if n.dones.isEmpty || !(want.all (fun w => n.dones.any (fun d => d.1 == w))) then s
    else
      let sum := (n.dones.map (·.2)).foldl (· + ·) 0
      let s1 := s.updNode tk r (fun n => { n with dones := [] })
      match n.parent with
      | some up => s1.send (colCtrl t.part rc.tree 0 1 r up (t.upDir r up) 2 t.coll sum 0)
      | none => checkMulticast (s1.updTree tk (fun t => { t with done := t.done + sum })) tk

/-- A multicast packet is copied to the child ports served and, as RESULT, to the own member (R256 step 5). -/
def copyDown (s : State) (tk r : Nat) (p : Packet) : State :=
  let t := s.tree tk
  match t.rec? with
  | none => s
  | some rc =>
    let s1 := s.each (t.portsFor r t.served) (fun s k =>
      s.send { p with src0 := r / 72, src1 := r % 72, loc := routerNode r, arr := .localPort, port := some k })
    if t.ownFor r (fun l => t.served l && l != rc.root) then
      s1.send { p with opc := 2, src0 := r / 72, src1 := r % 72, loc := routerNode r, arr := .localPort }
    else s1

/-! ## Reduction -/

/-- An own contribution is judged as a whole by its router: its size in a dense tree, its order in a sparse one (R163,
R257). A bad one is discarded. -/
def judgeOwn (s : State) (tk r : Nat) : State :=
  let t := s.tree tk
  let n := t.node r
  match t.rec?, n.ins.find? (fun c => c.src == ownCore && (c.last || c.void)) with
  | some rc, some c =>
    if c.void then s
    else
      let bytes := (n.ins.filter (fun c => c.src == ownCore)).flatMap (·.data)
      let drop := fun (s : State) => s.updNode tk r (fun n => { n with ins := n.ins.filter (fun c => c.src != ownCore), finished := n.finished.add ownCore })
      if rc.op = 0 then
        (match s.rootBusy t with
        | some (_, run) => if bytes.length = (descOf run.op.td).bytes then s else drop (s.updTree tk (fun t => { t with sizeBad := true }))
        | none => s)
      else if bytes.length % 8 = 0 && bytes.length ≤ 32768 && strictlyUp (entriesOf bytes) then s
      else drop (s.updTree tk (fun t => { t with malNow := true, malformed := t.malformed + 1 }))
  | _, _ => s

/-- An input's last packet is there. -/
def TreeNode.whole (n : TreeNode) (i : Nat) : Bool := n.ins.any (fun c => c.src == i && (c.last || c.void))

/-- The inputs of a router in the order of R258, that have not ended: those awaited, and those that were whole before their
member was lost (R265). -/
def Tree.inputs (t : Tree) (r : Nat) : List Nat :=
  let n := t.node r
  ((if t.ownFor r t.awaited || n.whole ownCore then [ownCore] else [])
    ++ (n.kids.filter (fun k => (t.below 300 k.2).any t.awaited || n.whole k.2)).map (·.2)).filter (fun i => !(n.finished.has i))

/-- What an input gives for packet j: none when it is still to come. -/
def TreeNode.give (n : TreeNode) (src j : Nat) : Option Contribution :=
  match n.ins.find? (fun c => c.src == src && c.void) with
  | some c => some c
  | none =>
    if src = ownCore && !(n.ins.any (fun c => c.src == ownCore && c.last)) then none
    else n.ins.find? (fun c => c.src == src && c.j == j)

/-- Send the fold of a router on: up, or as RESULT to the root's core. -/
def foldOn (s : State) (tk r : Nat) (ps : Nat → Nat → Dir → List Packet) : State :=
  let t := s.tree tk
  match (t.node r).parent with
  | some up => s.each (ps 1 up (t.upDir r up)) (fun s p => s.send p)
  | none => s.each (ps 2 r .localPort) (fun s p => s.send p)

/-- The buffers of the contributions that a fold uses up are free. -/
def freeFolded (s : State) (tk r : Nat) (l : List Contribution) : State := s.each l (fun s c => freeRoom s tk c.src r c.room)

/-- The router sends nothing more of a collective now: the partition is paused, or its last packet waits for its parent's buffer
(R255). -/
def State.foldHeld (s : State) (tk r : Nat) : Bool :=
  s.paused (s.tree tk).part || (((s.tree tk).node r).parent.isSome && s.staged tk r)

/-- The flags of a sparse result at a router: bits 0 to 2 are OVERFLOW, MALFORMED, CUT (R166). -/
def Tree.flagsNow (t : Tree) : Nat := (if t.ovfNow then 1 else 0) + (if t.malNow then 2 else 0) + (if t.cutNow then 4 else 0)

/-- Fold what is there from every input, packet after packet in a dense tree, whole lists in a sparse one. -/
def foldNode : Nat → State → Nat → Nat → State
  | 0, s, _, _ => s
  | fuel + 1, s, tk, r =>
    let t := s.tree tk
    let n := t.node r
    match t.rec? with
    | none => s
    | some rc =>
      if rc.ty = 0 || !t.running || n.finished.has r || s.foldHeld tk r then s
      else
        let ins := t.inputs r
        let gives := ins.map (fun i => n.give i (if rc.op = 0 then n.nextJ else 0))
        if gives.any (·.isNone) then s
        else
          let got := (gives.filterMap id).filter (fun c => !c.void)
          let none_ := (foldOn ((freeFolded s tk r n.ins).updNode tk r (fun n => { n with finished := n.finished.add r, ins := [] })) tk r
            (fun opc to_ d => [colCtrl t.part rc.tree 1 opc r to_ d 4 t.coll 0 0]))
          if rc.op = 0 then
            if got.isEmpty then (if n.nextJ = 0 || !n.ins.isEmpty || ins.isEmpty then none_ else s)
            else
              let last := got.any (·.last)
              let data := foldDense rc.vfmt (got.map (·.data))
              let count := (got.map (·.count)).foldl (· + ·) 0
              let spent := fun (c : Contribution) => !c.void && c.j == n.nextJ
              let s1 := (freeFolded s tk r (n.ins.filter spent)).updNode tk r (fun m => { m with
                nextJ := m.nextJ + 1, ins := m.ins.filter (fun c => !spent c)
                finished := if last then m.finished.add r else m.finished })
              let s2 := foldOn s1 tk r (fun opc to_ d => [if data.length ≤ 16 && last then
                  colPacket t.part rc.tree 1 opc r to_ d n.nextJ t.coll count 0 true ((data.length - 1) * 8) (data ++ zeros (16 - data.length))
                else colPacket t.part rc.tree 1 opc r to_ d n.nextJ t.coll count 0 false (if last then 64 else 0) data])
              foldNode fuel s2 tk r
          else if !(ins.all n.whole) then s
          else if got.isEmpty then none_
          else
            let lists := got.map (fun c => entriesOf ((n.ins.filter (fun x => x.src == c.src)).flatMap (·.data)))
            let m := mergeAll rc.vfmt lists
            let cutHere := (rc.topk == 2 && decide (2 ≤ lists.length)) || (rc.topk == 1 && n.parent.isNone)
            let kept := if cutHere then topK rc m.1 else m.1
            let lasts := n.ins.filter (fun c => c.last && ins.contains c.src)
            let s1 := s.updTree tk (fun t => { t with ovfNow := t.ovfNow || m.2, cutNow := t.cutNow || decide (kept.length < m.1.length) })
            let any_ := fun (b : Nat) => lasts.any (fun c => c.flags.testBit b)
            let fl := (if m.2 || any_ 0 then 1 else 0) + (if t.malNow || any_ 1 then 2 else 0)
              + (if decide (kept.length < m.1.length) || any_ 2 then 4 else 0)
            let count := (lasts.map (·.count)).foldl (· + ·) 0
            foldOn (s1.updNode tk r (fun n => { n with finished := n.finished.add r, ins := [] })) tk r
              (fun opc to_ d => colData t.part rc.tree 1 opc r to_ d t.coll count fl (entryBytes kept))

/-- The place of a contribution packet in its message: the control form has none, and is the last (R255). -/
def TreeNode.placeOf (n : TreeNode) (p : Packet) : Nat :=
  if p.ctrl then n.nextJ + (n.ins.filter (fun c => c.src == p.colFrom)).length else p.colJ

/-- A contribution packet joins the inputs of its router. In a dense tree it keeps its buffer until it is folded; a sparse merge
takes the entries out as they come. -/
def takeContrib (s : State) (tk r : Nat) (p : Packet) : State :=
  let dense := ((s.tree tk).rec?.map (fun rc => rc.op == 0)).getD false
  let s0 := if dense then s else leaveBuffer s p
  let s1 := s0.updNode tk r (fun n => { n with ins := n.ins ++ [({
    src := p.colFrom, j := n.placeOf p, data := if p.colKind == 4 then [] else p.colBytes, last := p.colKind != 4 && p.colLast
    count := p.colCount, flags := p.colFlags, void := p.colKind == 4, room := if dense then p.flits.length else 0 } : Contribution)] })
  foldNode 2100 (if p.colFrom = ownCore then judgeOwn s1 tk r else s1) tk r

/-! ## Results at cores -/

/-- The runs of a descriptor that a prefix of n bytes fills. -/
def prefixRuns (d : Desc) (bytes : List Byte) : List (Nat × List Byte) :=
  (zipRuns (2 * d.runs + 4) d.runList [(0, bytes.length)]).map (fun x => (x.1, slice bytes x.2.1 x.2.2))

/-- The end of a reduction at its root: the result is written, or the RECV ends void or with STREAM_SIZE (R166, R257). -/
def reduceEnd (s : State) (tk k : Nat) (run : Run) (void : Bool) (bytes : List Byte) (flags count : Nat) : State :=
  let t := s.tree tk
  match t.rec? with
  | none => s
  | some rc =>
    let d := descOf run.op.td
    let full := if rc.op = 0 then bytes else bytesLE 4 (bytes.length / 8) ++ bytesLE 1 flags ++ zeros 11 ++ bytes
    let fits := if rc.op = 0 then decide (bytes.length = d.bytes) else decide (full.length ≤ d.bytes)
    let s1 :=
      if t.sizeBad || (!void && !fits) then unitFault s k .mv run.op 0x0F 0
      else if void then finish (writeTreeLast s k 1 rc.tree (t.latchedMembers.length - count) 0x1FFF) k .mv run.op.seq true
      else
        let cores := k :: (if (s.core k).paired then (s.pairOf k).toList else [])
        let w := ({ s := s } : Res).eachOf cores (fun s j => unitWrites s j (prefixRuns d full))
        if w.cause = 0 then finish (writeTreeLast w.s k 1 rc.tree (t.latchedMembers.length - count) 0x1FFF) k .mv run.op.seq false
        else unitFault w.s k .mv run.op w.cause w.addr
    endCollective (advancePair s1 k) tk

/-- A multicast packet reaches a member core; at the last its RECV completes and its router sends DONE. A core that has
faulted, or that serves the LCID no more, discards the data (R256). -/
def memberTakes (s : State) (tk r k : Nat) (p : Packet) : State :=
  let t := s.tree tk
  match t.rec? with
  | none => s
  | some rc =>
    let last := p.colKind == 4 || p.colLast
    let s1 :=
      if (s.core k).fault.valid || (s.core k).lcid != (t.node r).member then s
      else match (s.core k).postedRecv rc.stream with
        | none => s
        | some run =>
          let bytes := run.bytes ++ (if p.colKind == 4 then [] else p.colBytes)
          if last then advancePair (deliverMessage (s.setRun k run.op.seq (fun r => { r with bytes := [] })) k run (p.colKind == 4) bytes) k
          else s.setRun k run.op.seq (fun r => { r with bytes := bytes })
    if last then s1.send (colCtrl t.part rc.tree 0 1 r r .localPort 2 t.coll 1 0) else s1

/-- The root's core takes a packet of the result. -/
def rootTakes (s : State) (tk : Nat) (p : Packet) : State :=
  match s.rootBusy (s.tree tk) with
  | none => s
  | some (k, run) =>
    let bytes := run.bytes ++ (if p.colKind == 4 then [] else p.colBytes)
    let t := s.tree tk
    -- with every list that came malformed, the result is the empty list (log entry 154)
    if p.colKind == 4 then reduceEnd s tk k run (!t.malNow) [] t.flagsNow 0
    else if p.colLast then reduceEnd s tk k run false bytes (if p.ctrl then t.flagsNow else p.colFlags) p.colCount
    else s.setRun k run.op.seq (fun r => { r with bytes := bytes })

/-! ## The rows -/

/-- A COL packet of a tree at a router whose clock runs: the router and the tree's key. -/
def State.colHere (s : State) (i : Nat) (ty : Nat) (opcs kinds : List Nat) : Option Packet :=
  match s.net[i]? with
  | some p =>
    if p.cls == 3 && p.dkind == 2 && p.treeTy == ty && opcs.contains p.opc && kinds.contains p.colKind && p.port.isNone && s.goesNext i p
      && ((s.coreHere p).map s.routerRuns).getD false && (s.tree p.treeKey).rec?.isSome then some p else none
  | none => none

/-- The root's credit of a reduction at a router (R257 step 2): copied to the child ports and, as RESULT, to the own member. -/
def creditDown (s : State) (tk r : Nat) (p : Packet) : State :=
  let t := s.tree tk
  let q : Packet := { p with src0 := r / 72, src1 := r % 72, loc := routerNode r, arr := .localPort }
  let s1 := s.each (t.portsFor r t.awaited) (fun s k => s.send { q with port := some k })
  if t.ownFor r t.awaited then s1.send { q with opc := 2 } else s1

/-- The credit of a reduction grants its member's SEND (R257 step 2). -/
def grantSend (s : State) (tk k : Nat) : State :=
  match (s.tree tk).rec? with
  | none => s
  | some rc =>
    if (s.core k).fault.valid then s
    else
      let cores := k :: (if (s.core k).paired then (s.pairOf k).toList else [])
      advancePair (s.each cores (fun s j => pumpContrib (s.updCore j (fun c => { c with credits := Tab.upd 0 c.credits rc.stream (· + 1) })) j tk)) k

/-- TREE_CREDIT (R256, R257). -/
def execTreeCredit (i : Nat) (s : State) : Host.Outcome State Fault Refusal :=
  .next (match s.colHere i 0 [1] [1] with
    | some p =>
      let r := p.atRouter
      let s1 := (leaveBuffer (s.takePacket i) p).updNode p.treeKey r (fun n => { n with creds := n.creds ++ [(p.colK, p.colFrom, p.colCount)] })
      tryTree (mergeCredits s1 p.treeKey r) p.treeKey
    | none => match s.colHere i 1 [0] [1] with
      | some p => creditDown (leaveBuffer (s.takePacket i) p) p.treeKey p.atRouter p
      | none => s)

/-- TREE_MCAST (R256); a packet before it that waits for the buffer of a child holds it (R255). -/
def execTreeMcast (i : Nat) (s : State) : Host.Outcome State Fault Refusal :=
  .next (match s.colHere i 0 [0] [0, 4] with
    | some p =>
      if s.paused p.part || s.net.any (fun q => q.port.isSome && q.treeKey == p.treeKey && q.atRouter == p.atRouter && q.opc == 0) then s
      else copyDown (leaveBuffer (s.takePacket i) p) p.treeKey p.atRouter p
    | none => s)

/-- TREE_CONTRIB (R257, R258). -/
def execTreeContrib (i : Nat) (s : State) : Host.Outcome State Fault Refusal :=
  .next (match s.colHere i 1 [1] [0, 4] with
    | some p => takeContrib (s.takePacket i) p.treeKey p.atRouter p
    | none => s)

/-- Inbound data of a collective channel, from a port's gateway to the core of this router (R420). -/
def portResult (s : State) (k : Nat) (p : Packet) : State :=
  if (s.core k).fault.valid then s
  else match (s.core k).postedRecv (p.addr % 4096) with
    | none => s
    | some r =>
      let bytes := r.bytes ++ (if p.ctrl then p.payload.take (p.aux / 8 + 1) else p.payload)
      if p.ctrl && p.aux.testBit 2 then advancePair (deliverMessage s k r true []) k
      else if p.ctrl || p.aux.testBit 6 then advancePair (deliverMessage (s.setRun k r.op.seq (fun r => { r with bytes := [] })) k r false bytes) k
      else s.setRun k r.op.seq (fun r => { r with bytes := bytes })

/-- A RESULT from a port's gateway that stands at its core's router. -/
def State.portResultHere (s : State) (i : Nat) : Option (Packet × Nat) :=
  match s.arrived i [3] [2] with
  | some p => if p.sedge && (nodePort p.src).isSome then (s.coreHere p).map (fun k => (p, k)) else none
  | none => none

/-- TREE_RESULT (R256, R257): its router ejects while the core's region is awake. -/
def execTreeResult (i : Nat) (s : State) : Host.Outcome State Fault Refusal :=
  .next (match s.portResultHere i with
    | some (p, k) => if s.ejects k then portResult (s.takePacket i) k p else s
    | none => match s.colHere i 0 [2] [0, 4] with
    | some p => (match s.coreHere p with
      | some k => if s.ejects k then memberTakes (s.takePacket i) p.treeKey p.atRouter k p else s
      | none => s)
    | none => match s.colHere i 1 [2] [0, 1, 4] with
      | some p => (match s.coreHere p with
        | some k => if !s.ejects k then s
          else if p.colKind == 1 then grantSend (s.takePacket i) p.treeKey k else rootTakes (s.takePacket i) p.treeKey p
        | none => s)
      | none => s)

/-- TREE_DONE (R256). -/
def execTreeDone (i : Nat) (s : State) : Host.Outcome State Fault Refusal :=
  .next (match s.colHere i 0 [1] [2] with
    | some p =>
      mergeDone ((leaveBuffer (s.takePacket i) p).updNode p.treeKey p.atRouter (fun n => { n with dones := n.dones ++ [(p.colFrom, p.colCount)] })) p.treeKey p.atRouter
    | none => s)

/-- TREE_DROPPED (R263). -/
def execTreeDropped (i : Nat) (s : State) : Host.Outcome State Fault Refusal :=
  .next (match s.colHere i 0 [1] [3] with
    | some p =>
      mergeDone (dropUp (leaveBuffer (s.takePacket i) p) p.treeKey p.atRouter p.colCount (natLE (p.payload.take 2))) p.treeKey p.atRouter
    | none => s)

/-! ## Reports over the cox rings -/

/-- A live member that loses its path or its root faults at its RECV or SEND of the collective (R263). -/
def memberFault (s : State) (t : Tree) (l : Nat) : State :=
  match t.rec?, s.coreOf l with
  | some rc, some k => (match (s.core k).mvRun.find? (fun x => x.key == rc.stream && (!x.done || x.barrier)) with
    | some x => unitFault s k .mv x.op 0x11 0
    | none => s)
  | _, _ => s

/-- The router lies in a physical region. -/
def State.inRegion (s : State) (r reg : Nat) : Bool := (s.coreAtRouter (r / 72) (r % 72)).map coreRegion == some reg

/-- Branches that lead into a fenced region are cut at the routers above it: the members not yet served are dropped,
and the live ones among them fault (R263). -/
def cutBranches (s : State) (tk reg : Nat) : State :=
  let t := s.tree tk
  match t.rec? with
  | none => s
  | some rc =>
    if !t.running then s
    else
      let edges := (t.nodes.filter (fun x => !s.inRegion x.1 reg)).flatMap (fun x => (x.2.kids.filter (fun k => s.inRegion k.2 reg)).map (fun k => (x.1, k.2)))
      s.each edges (fun s e =>
        let t := s.tree tk
        let served := (t.node e.1).dones.any (fun d => d.1 == e.2)
        let lost := (t.below 300 e.2).filter t.served
        if lost.isEmpty || served then s
        else
          let s0 := s.setNet (s.net.filter (fun q => !(q.treeKey == tk && q.atRouter == e.1 && q.port.map (·.2) == some e.2)))
          let s1 := s0.updTree tk (fun t => { t with cut := lost.foldl NSet.add t.cut })
          let s2 := (lost.filter (fun l => !t.dead.has l)).foldl (fun s l => memberFault s t l) s1
          if rc.ty = 0 then mergeDone (dropUp s2 tk e.1 lost.length (lost.foldl min 0x1FFF)) tk e.1 else s2)

/-- The root is gone during a collective: every live member's pending RECV or SEND faults (R263). -/
def rootGone (s : State) (tk : Nat) : State :=
  let t := s.tree tk
  match t.rec? with
  | none => s
  | some rc =>
    if t.running && t.dead.has rc.root then
      endCollective ((t.live.filter (· != rc.root)).foldl (fun s l => memberFault s t l) s) tk
    else s

/-- A report reaches the routers of a tree: the LCIDs are not live; branches are cut; what waited for them goes on. -/
def treeReport (s : State) (tk : Nat) (rep : RingReport) : State :=
  let s1 := s.updTree tk (fun t => { t with dead := (rep.lcids.filter (fun l => t.members.contains l)).foldl NSet.add t.dead })
  let s2 := match rep.region with
    | some reg => cutBranches s1 tk reg
    | none => s1
  let s3 := rootGone s2 tk
  let rs := (s3.tree tk).nodes.map (·.1)
  tryTree (s3.each rs (fun s r => foldNode 2100 (mergeCredits s tk r) tk r)) tk

/-- An object's home region is fenced (R247): its waiters fault, and the object exists no more. -/
def homeGone (s : State) (o : Nat) : State :=
  let x := s.sync o
  (s.updSync o (fun _ => {})).each x.waiters (fun s l => waiterFault s o l 0x11)

/-- A report reaches sync homes, tree routers and admission units (R246, R247, R263, R162). -/
def takeReport (s : State) (rep : RingReport) : State :=
  let objs := s.syncs.map (·.1)
  let s1 := s.each (objs.filter (fun o => rep.lcids.any (fun l => (s.sync o).signallers.has l)))
    (fun s o => homeFault (homeTakesReport s o) o (if rep.absent then 0x12 else 0x11))
  let s2 := match rep.region with
    | some reg => s1.each (objs.filter (fun o => s.objRegion o == some reg)) (fun s o => homeGone s o)
    | none => s1
  let s3 := s2.each ((s2.trees.filter (fun x => x.2.part == rep.part)).map (·.1)) (fun s tk => treeReport s tk rep)
  s3.each rep.lcids (fun s l => cancelGrants s l)

/-- COX_FENCE_REPORT (R263). -/
def execCoxFenceReport (i : Nat) (s : State) : Host.Outcome State Fault Refusal :=
  .next (match s.rings[i]? with
    | some rep => takeReport (s.setRings (s.rings.eraseIdx i)) rep
    | none => s)

end Sys2Proof.Machine
end

