-- ==== Sys2Proof/Machine/Fabric.lean ====
section
/-!
DEFINITION. The rows of routers, die-to-die links, taps and route changes (R204 to R211, R219 to R226, R235).
-/
namespace Sys2Proof.Machine

/-! ## Counters -/

def countFence (s : State) (p : Nat) : State := s.updFab p (fun f => { f with fence := sat 32 (f.fence + 1) })
def countTtl (s : State) (p : Nat) : State := s.updFab p (fun f => { f with ttl := sat 32 (f.ttl + 1) })
def countNoroute (s : State) (p : Nat) : State := setFabRc (s.updFab p (fun f => { f with noroute := sat 32 (f.noroute + 1) })) p 29

def dropAtInput (s : State) (p : Packet) (ttl : Bool) : State :=
  match s.inputKey p with
  | none => s
  | some e => s.updLink e (fun l => if ttl then { l with ttlDrops := sat 16 (l.ttlDrops + 1) } else { l with partialDrops := sat 16 (l.partialDrops + 1) })

/-! ## ROUTER_FORWARD -/

/-- R204: an edge field admits a packet for a stack, port or hub of the partition that the packet names; before a LOAD,
for a stack of the stream that its port has staged (R276). -/
def State.edgeAdmits (s : State) (p : Packet) (n : Node) : Bool :=
  match nodeSlice n with
  | some sl => s.partOfStack (sl / 32) == some p.part
    || ((s.layoutOf p.part).isNone && (s.partOfStack (sl / 32)).isNone && (s.hub p.part).interleave.contains (sl / 32))
  | none => match nodePort n with
    | some f => s.partOfPort f == some p.part
    | none => nodeHub n == some p.part

/-- A packet that goes no further: a request gets an ACK with the STATUS, a response is discarded and counted, a COL packet
discarded (R222, R226, R235). -/
def stopPacket (s : State) (i : Nat) (p : Packet) (status : Nat) : State :=
  let s1 := s.takePacket i
  let s2 := if status = 5 then countFence s1 p.part else if status = 4 then countNoroute s1 p.part else s1
  if p.cls = 2 then dropAtInput s2 p false else if p.cls = 3 then s2 else s2.send (p.ack status)

/-- Opcodes that R215 lists. -/
def listedOpc (cls opc : Nat) : Bool :=
  match cls with
  | 0 => decide (opc ≤ 6)
  | 1 => decide (opc ≤ 4)
  | 2 => decide (opc ≤ 5)
  | _ => decide (opc ≤ 2)

/-- A packet of a tree takes its room in the buffer of the neighbour it leaves for; its router may fold on (R255). -/
def takeRoom (s : State) (p : Packet) : State :=
  match p.port with
  | none => s
  | some (_, to_) =>
    let tk := p.treeKey
    let r := p.atRouter
    if (s.tree tk).nodes.any (fun x => x.1 == r) then
      foldNode 2100 (s.updNode tk r (fun n => { n with used := Tab.upd 0 n.used to_ (· + p.flits.length) })) tk r
    else s

/-- One hop of packet i, which has its output: it arrives at the next node, or its flits go to the link end. -/
def hop (s : State) (i : Nat) (p : Packet) : State :=
  let q : Packet := match p.loc with
    | .router _ _ => { p with ttl := p.ttl - 1 }
    | .edge _ _ => p
  let s1 := s.takePacket i
  let s2 := match s.nextHop p with
    | .move n arr esc =>
      let edge := match n with
        | .edge _ _ => true
        | .router _ _ => false
      if edge && !s.edgeAdmits p n then (let s' := countFence s1 p.part; if p.cls = 2 then dropAtInput s' p false else s'.send (q.ack 5))
      else arrive s1 { q with loc := n, arr := arr, esc := esc, port := none }
    | .cross key _ _ _ esc =>
      let z : Packet := { q with esc := esc, port := none }
      s1.updLink key (fun l => { l with sendQ := l.sendQ ++ z.flits.map (fun f => (z.vc, f)) })
    | _ => s
  takeRoom s2 p

/-- What a router does with the packet at the head of a queue: a reserved opcode and a TTL at its end are discarded (R215, R226);
a packet with no way on is answered or discarded (R222); else its output grants one of the packets that ask for it (R219). -/
def forward (s : State) (i : Nat) (p : Packet) : State :=
  match p.loc with
  | .edge _ _ => (match s.nextHop p with
    | .stop st => stopPacket s i p st
    | .hold => s
    | _ => hop s i p)
  | .router _ _ =>
    if !listedOpc p.cls p.opc || p.dkind = 3 then countTtl (s.takePacket i) p.part
    else if p.dest == some p.loc || (p.dkind == 2 && p.port.isNone) then s
    else if p.ttl ≤ 1 then countTtl (dropAtInput (s.takePacket i) p true) p.part
    else match s.nextHop p with
      | .hold => s
      | .stop st => if p.dkind = 2 then s.takePacket i else stopPacket s i { p with ttl := p.ttl - 1 } st
      | _ => match (s.wants p).bind (fun o => s.outGrant p.loc o) with
        | some (j, _) => (match s.net[j]? with
          | some q => if q.ttl ≤ 1 then countTtl (dropAtInput (s.takePacket j) q true) q.part else hop s j q
          | none => s)
        | none => s

/-- ROUTER_FORWARD (R219, R223): the output that packet i asks for, at the head of its queue, grants one packet a hop. -/
def execRouterForward (i : Nat) (s : State) : Host.Outcome State Fault Refusal :=
  .next (match s.net[i]? with
    | some p =>
      let runs := match p.loc with
        | .router _ _ => ((s.coreHere p).map s.routerRuns).getD false
        | .edge _ _ => p.dest != some p.loc
      if headOfLine s.net i && runs then forward s i p else s
    | none => s)

/-! ## Die-to-die links (R57, R206, R207) -/

/-- Make a group of what waits while fewer than 16 are kept (R207). -/
def LinkEnd.form (l : LinkEnd) : LinkEnd :=
  if l.sendQ.isEmpty || 16 ≤ l.retry.length then l
  else
    let fl := (l.sendQ.take 4).map (·.2)
    { l with sendQ := l.sendQ.drop 4, nextSeq := (l.nextSeq + 1) % 256, retry := l.retry ++ [(l.nextSeq, 2 ^ fl.length - 1, fl)] }

/-- The next frame of a link end: a group kept since a NAK, a new group, or a frame with no flit, which repeats the SEQ of the
last group; with its ACK, XOFF and NAK. A group sent again counts (R235). -/
def LinkEnd.nextFrame (l : LinkEnd) : LinkEnd × LinkFrame :=
  let base : LinkFrame := { seq := (l.nextSeq + 255) % 256, ack := (l.expect + 255) % 256, xoff := l.offOut.toNat, mask := 0, nak := l.nakSent, slots := [] }
  let l1 := if l.sendAt < l.retry.length then l else l.form
  match l1.retry[l1.sendAt]? with
  | none => (l1, base)
  | some g =>
    let again := decide (l1.sendAt < l1.sent)
    ({ l1 with
      sendAt := l1.sendAt + 1, sent := max l1.sent (l1.sendAt + 1)
      replays := if again then sat 32 (l1.replays + 1) else l1.replays
      replayRun := if again && l1.sendAt = 0 then l1.replayRun + 1 else l1.replayRun },
     { base with seq := g.1, mask := g.2.1, slots := g.2.2 })

/-- Hold at 10 entries or more, release at 4 or fewer (R57). -/
def holdBit (n : Nat) (was : Bool) : Bool := if 10 ≤ n then true else if n ≤ 4 then false else was

/-- The region of a link end's router runs, and its clock is stretched (R55). -/
def State.endRuns (s : State) (key : Nat) : Bool := s.routerRuns (linkCore key)
def State.endStretched (s : State) (key : Nat) : Bool := (s.region (coreRegion (linkCore key))).droop == .stretched

/-- Whole packets leave the flits received; they stand in the router from now on. R206 gives a flit no virtual channel, so that
the packets of a link follow one another (log entry 153). -/
def assemble (s : State) (key : Nat) (place : Nat × Nat × Dir) : List Flit → State
  | [] => s
  | f :: rest =>
    let held := (s.link key).rx ++ [f]
    let s1 :=
      if held.length = headFlits (held.headD 0) then
        (s.updLink key (fun l => { l with rx := [] })).place (packetOf held (.router place.1 place.2.1) place.2.2)
      else s.updLink key (fun l => { l with rx := held })
    assemble s1 key place rest

/-- The ACK, XOFF and NAK of a frame at the sender's end (R206, R207). -/
def takeAck (l : LinkEnd) (fr : LinkFrame) : LinkEnd :=
  let gone := ((l.retry.take l.sent).takeWhile (fun g => decide ((fr.ack + 256 - g.1) % 256 < 128))).length
  { l with
    retry := l.retry.drop gone, sent := l.sent - gone, sendAt := if fr.nak then 0 else l.sendAt - gone
    offIn := BitVec.ofNat 8 fr.xoff, replayRun := if gone = 0 then l.replayRun else 0 }

/-- A link end reads a frame: one whose CRC fails is discarded and counted; ACK and XOFF act; a group is accepted when its SEQ is
the next one, else NAK (R207). -/
def readFrame (s : State) (key : Nat) (place : Nat × Nat × Dir) (b : List Byte) : State :=
  let fr := parseFrame b
  if !fr.2 then
    s.updLink key (fun l => { l with
      crcFail := sat 32 (l.crcFail + 1), nakSent := true, crcTimes := l.crcTimes.filter (fun t => decide (s.now < t + 1000000)) ++ [s.now] })
  else
    let s1 := s.updLink key (fun l => takeAck l fr.1)
    if fr.1.mask = 0 then s1
    else if fr.1.seq = (s1.link key).expect then
      let s2 := assemble (s1.updLink key (fun l => { l with expect := (l.expect + 1) % 256, nakSent := false })) key place fr.1.slots
      updOff s2 { cls := 0, opc := 0, loc := .router place.1 place.2.1, arr := place.2.2 }
    else s1.updLink key (fun l => { l with nakSent := true })

/-- The partner of a link end writes its next frame into the end's receive FIFO, unless it is held or its region is stopped; a
stretched end writes in every second turn (R57). -/
def writeFrame (s : State) (key j : Nat) (noise : List Byte) : State :=
  let l := s.link key
  if !s.endRuns j || !s.endRuns key || l.hold || (s.endStretched j && !l.turn) then s
  else
    let f := (s.link j).nextFrame
    (s.updLink j (fun _ => f.1)).updLink key (fun l => { l with
      fifo := l.fifo ++ [disturb f.2.bytes noise], hold := holdBit (l.fifo.length + 1) l.hold })

/-- A link end reads its receive FIFO: nothing from an empty one; one frame in every second turn while its clock is stretched,
else all there is (R57). -/
def readFifo (s : State) (key : Nat) (place : Nat × Nat × Dir) : State :=
  let l := s.link key
  if !s.endRuns key || (s.endStretched key && !l.turn) then s
  else
    let n := if s.endStretched key then 1 else l.fifo.length
    (s.updLink key (fun l => { l with fifo := l.fifo.drop n, hold := holdBit (l.fifo.length - n) l.hold })).each (l.fifo.take n)
      (fun s b => readFrame s key place b)

/-- LINK_FRAME_RECEIVE (R57, R206, R207): the frame time of one frame to a link end. -/
def execLinkFrameReceive (site : SiteId) (e : Fin 24) (noise : List Byte) (s : State) : Host.Outcome State Fault Refusal :=
  .next (
    let key := site.val * 32 + e.val
    match s.linkPlace site e, s.linkPartner site e with
    | some place, some j =>
      if !(s.link key).up || !(s.link j).up then s
      else (readFifo (writeFrame s key j noise) key place).updLink key (fun l => { l with turn := !l.turn })
    | _, _ => s)

/-- Record of a link event: EVENT 0x05 with die × 32 + e (R378). -/
def linkRecord (s : State) (site e action : Nat) : State :=
  coxRecord s site (siteRec s site 0x05 action ((s.dieOfSite site).getD 0 * 32 + e) 0)

def changeOf (s : State) (site : Nat) : State :=
  match s.partOfSite site with
  | some p => routeChange s p
  | none => s

/-- LINK_RETRAIN_START (R208): its trigger holds at this end; both ends of a link retrain. -/
def execLinkRetrainStart (site : SiteId) (e : Fin 32) (cause : RetrainCause) (s : State) : Host.Outcome State Fault Refusal :=
  .next (
    let key := site.val * 32 + e.val
    let l := s.link key
    let trigger := match cause with
      | .replays => decide (8 ≤ l.replayRun)
      | .crc => decide (256 < (l.crcTimes.filter (fun t => decide (s.now < t + 1000000))).length)
      | .clock => true
      | _ => false
    if l.up && trigger && e.val < 28 then
      let go := fun (l : LinkEnd) => { l with state := 3, retrains := sat 16 (l.retrains + 1), replayRun := 0, crcTimes := [] }
      let s1 := s.updLink key go
      if e.val < 24 then (match s.linkPartner site e with
        | some j => s1.updLink j go
        | none => s1)
      else s1
    else s)

/-- The width that a retrain finds (R208): state, groups in use, spares in use. -/
def retrainWidth (f : List Nat) : Nat × Nat × Nat :=
  let good := (List.range 4).filter (fun g => decide (f.getD g 0 ≤ 1))
  let mask := fun (l : List Nat) => l.foldl (fun a g => a + 2 ^ g) 0
  let spared := fun (l : List Nat) => mask (l.filter (fun g => f.getD g 0 == 1))
  if good.length = 4 then (1, 15, spared good)
  else if 2 ≤ good.length then (2, mask (good.take 2), spared (good.take 2))
  else (4, 0, 0)

/-- A disabled link end: a packet cut by it is discarded at the receiver (R235). -/
def LinkEnd.disable (l : LinkEnd) : LinkEnd := { l.cut with state := 4, groups := 0, spared := 0 }

/-- Both ends of a link are disabled; whole packets not yet delivered are at their routers again. -/
def disableLink (s : State) (key : Nat) : State :=
  match s.linkPartner (key / 32) (key % 32) with
  | some j => ((takeBack (takeBack s key j) j key).updLink key LinkEnd.disable).updLink j LinkEnd.disable
  | none => s.updLink key LinkEnd.disable

/-- The die-edge links of a site that are live: up or in a retrain, to a die that is not fenced. -/
def State.liveLinks (s : State) (site : Nat) : Nat :=
  ((List.range 24).filter (fun e => let l := s.link (site * 32 + e)
    (l.up || l.state == 3) && (match s.linkPartner site e with
      | some j => !(s.cox (j / 32)).fenced
      | none => false))).length

/-- A die left with fewer than 2 live die-edge links is fenced (R209). -/
def checkLinks (s : State) (site : Nat) : State :=
  if (s.dieOfSite site).isSome && !(s.cox site).fenced && decide (s.liveLinks site < 2) then fenceDie s site 0x03 else s

/-- A region's tap leaves service (R211). -/
def tapLost (s : State) (r : Nat) : State :=
  let site := r / 4
  let s1 := (s.updRegion r (fun x => { x with tapOut := true })).updLink (site * 32 + 28 + r % 4) (fun l => { l with state := 4 })
  if (s1.tapOf site (r % 4)).isNone then fenceDie s1 site 0x03
  else changeOf (linkRecord s1 site (28 + r % 4) 6) site

/-- LINK_RETRAIN_DONE (R208, R235). -/
def execLinkRetrainDone (site : SiteId) (e : Fin 32) (f0 f1 f2 f3 : Nat) (s : State) : Host.Outcome State Fault Refusal :=
  .next (
    let key := site.val * 32 + e.val
    if (s.link key).state ≠ 3 then s
    else if e.val < 24 then
      let w := retrainWidth [f0, f1, f2, f3]
      let ends := key :: (s.linkPartner site e).toList
      let s1 := if w.1 = 4 then disableLink s key
        else s.each ends (fun s j => s.updLink j (fun l => { l with state := w.1, groups := w.2.1, spared := w.2.2 }))
      if w.1 = 1 then s1
      else if w.1 = 2 then linkRecord s1 site e 0
      else ends.foldl (fun s j => checkLinks s (j / 32)) (changeOf (linkRecord s1 site e 6) site)
    else if f0 = 0 then s.updLink key (fun l => { l with state := 1 })
    else if 28 ≤ e.val then tapLost s (site.val * 4 + (e.val - 28))
    else changeOf (linkRecord (s.updLink key (fun l => { l with state := 4 })) site e 6) site)

/-- TAP_OUT_OF_SERVICE (R211). -/
def execTapOutOfService (r : PRegion) (s : State) : Host.Outcome State Fault Refusal :=
  .next (if s.regionLive r && !(s.region r).tapOut && (s.link (r.val / 4 * 32 + 28 + r.val % 4)).up then tapLost s r else s)

/-! ## Route changes (R225) -/

def State.partLinks (s : State) (p : Nat) : List Nat := (s.partSites p).flatMap (fun site => (List.range 24).map (fun e => site * 32 + e))

/-- The partition holds no packet, in the fabric, on a link or in a slice's queue. -/
def State.drainedNow (s : State) (p : Nat) : Bool :=
  s.net.all (fun q => q.part != p) && s.slices.all (fun e => e.2.queue.all (fun q => q.1.part != p))
  && (s.partLinks p).all (fun e => let l := s.link e; l.sendQ.isEmpty && l.retry.isEmpty && l.rx.isEmpty)

/-- A link holds nothing: its two ends number their groups alike. -/
def emptyLink (s : State) (key : Nat) : State :=
  let seq := match s.linkPartner (key / 32) (key % 32) with
    | some j => (s.link j).nextSeq
    | none => 0
  s.updLink key (fun l => { l with
    sendQ := [], retry := [], rx := [], fifo := [], hold := false, sendAt := 0, sent := 0, expect := seq, nakSent := false
    replayRun := 0, offIn := 0, offOut := 0 })

/-- Step 3: the fabric manager works from the live mesh. Dies short of links are fenced; the map and the tables are those of the
mesh that is left; the trees are derived anew, or at the end of the collective in progress (R263). -/
def recompute (s : State) (p : Nat) : State :=
  let s1 := loadMap (s.each (s.partSites p) (fun s site => checkLinks s site)) p
  let s2 := s1.each ((s1.trees.filter (fun t => t.2.part == p && t.2.rec?.isSome)).map (·.1)) (fun s tk =>
    if (s.tree tk).running then s.updTree tk (fun t => { t with rederive := true }) else rederiveTree s tk)
  s2.updFab p (fun f => { f with drained := true })

/-- The slices' queues lose the requests of a partition. -/
def dropQueued (s : State) (p : Nat) : State :=
  s.each (s.slices.map (·.1)) (fun s x => s.updSlice x (fun y => { y with queue := y.queue.filter (fun q => q.1.part != p) }))

/-- A partition's fabric, its links and its slices' queues hold nothing (R225 step 2, R197, R333). -/
def clearFabric (s : State) (p : Nat) : State :=
  let s1 := dropQueued (s.setNet (s.net.filter (fun q => q.part != p))) p
  (s1.setOffs (s1.offs.filter (fun x => s1.net.any (fun q => q.inKey == x.1)))).each (s1.partLinks p) emptyLink

/-- A drain that ends by discard (R225 step 2). -/
def discardAll (s : State) (p : Nat) : State := setFabRc (clearFabric s p) p 30

/-- ROUTE_DRAIN_DONE (R225). -/
def execRouteDrainDone (p : PartId) (s : State) : Host.Outcome State Fault Refusal :=
  .next (if s.paused p && !(s.hub p).fab.drained && s.drainedNow p then recompute s p else s)

/-- ROUTE_DRAIN_TIMEOUT (R225): 1 ms after detection. -/
def execRouteDrainTimeout (p : PartId) (s : State) : Host.Outcome State Fault Refusal :=
  .next (if s.paused p && !(s.hub p).fab.drained && decide ((s.hub p).fab.pausedAt + 1000000 ≤ s.now) then
      recompute (discardAll s p) p else s)

/-- Send what the pause has held back. -/
def resumeCore (s : State) (k : Nat) : State :=
  let s1 := pumpHeld s k
  ((s1.core k).mvRun.filter (fun r => r.barrier && !r.done)).foldl (fun s r => match s.streamTree (s.partOfCore k) r.key with
    | some tk => pumpContrib s k tk
    | none => pumpStream s k r.key) s1

/-- Step 4: the tables are in place, injection resumes, and the regions fenced since go dark (R367 step 5). -/
def tablesInPlace (s : State) (p : Nat) : State :=
  let s0 := s.updFab p (fun f => { f with paused := false, drained := false, waiting := [] })
  let s1 := s0.each (s.hub p).fab.waiting (fun s q => s.place q)
  s1.each ((s1.partRegions p).filter (fun r => (s1.region r).fenced)) (fun s r =>
    s.updRegion r (fun x => { x with pstate := if x.pstate = 4 then 4 else 0, vset := 0 }))

/-- ROUTE_TABLES_LOADED (R225 step 4). -/
def execRouteTablesLoaded (p : PartId) (s : State) : Host.Outcome State Fault Refusal :=
  .next (if s.paused p && (s.hub p).fab.drained then
      let s2 := tablesInPlace s p
      let s3 := s2.each ((s2.partSites p).flatMap siteCores) (fun s k => if (s.core k).lcid.isSome then resumeCore s k else s)
      s3.each ((s3.trees.filter (fun t => t.2.part == p.val)).map (·.1)) (fun s tk =>
        tryTree (s.each ((s.tree tk).nodes.map (·.1)) (fun s r => foldNode 2100 s tk r)) tk)
    else s)

end Sys2Proof.Machine
end

