-- ==== Sys2Proof/Machine/Hbm.lean ====
section
/-!
DEFINITION. HBM3 slices and stacks (R271 to R289), the SRAM scrubber (R269) and the partition log (R379, R381).
-/
namespace Sys2Proof.Machine

/-! ## Bytes of a slice -/

def State.hbmBytes (s : State) (sl byte len : Nat) : List Byte := Tab.getList 0 s.hbm (hbmKey s sl byte) len

/-- The slice byte that a window address of a partition names at this moment. -/
def State.sliceByte (s : State) (p a : Nat) : Option (Nat × Nat) := hbmLocate (s.hub p).interleave a

/-- The words of a run within one unit of a slice, by key div 8. -/
def hbmWords (s : State) (sl byte len : Nat) : List Nat := runWords (hbmKey s sl byte) len

/-- What decoding finds: the words of the window that a command reports, as keys of State. -/
def foundWords (s : State) (p sl : Nat) (l : List Nat) (lo hi : Nat) : List Nat :=
  (l.filter (fun a => decide (lo ≤ a) && decide (a < hi))).filterMap (fun a => (s.sliceByte p a).bind (fun x =>
    if x.1 = sl then some (hbmKey s sl x.2 / 8) else none))

/-! ## Stack failure (R285) -/

/-- A stack fails: its queued requests are answered with STATUS 2, copies stop, and it is listed. code is
HBM_STAT.CAUSE, defect the CAUSE of the entry. -/
def failStack (s : State) (st code defect : Nat) : State :=
  if (s.stack st).state = 4 then s
  else
    let s1 := s.updStack st (fun x => { x with state := 4, cause := code, retraining := [] })
    let s2 := s1.each ((List.range 32).map (fun c => st * 32 + c)) (fun s sl =>
      (s.updSlice sl (fun x => { x with queue := [], retiring := [] })).each ((s.slice sl).queue) (fun s q => s.send (q.1.ack 2)))
    let s3 := appendDefect s2 { kind := 0x07, cause := defect, unit := st, stroke := s.stroke.count }
    match s.partOfStack st with
    | some p => hubRecord s3 (partRec s3 p 0x08 7 st defect)
    | none => s3

/-! ## Errors and retirement (R284) -/

/-- An uncorrectable error counts; 64 within 1 s fail the stack (R285). -/
def countUe (s : State) (st n : Nat) : State :=
  let times := ((s.stack st).ueTimes.filter (fun t => decide (s.now < t + 1000000000))) ++ List.replicate n s.now
  let s1 := s.updStack st (fun x => { x with ue := sat 16 (x.ue + n), ueTimes := times })
  if 64 ≤ times.length then failStack s1 st 3 0x0D else s1

/-- A unit is to be retired: the next unit of the pool takes it, and the field list names it; with an empty pool the
stack is degraded. -/
def retire (s : State) (sl unit cause : Nat) : State :=
  let x := s.slice sl
  if x.retiring.any (fun r => r.1 == unit) then s
  else if x.pool = 0 then
    let s1 := s.updStack (sl / 32) (fun y => { y with degraded := true })
    match s.partOfStack (sl / 32) with
    | some p => hubRecord s1 (partRec s1 p 0x07 0 (sl / 32) cause)
    | none => s1
  else
    let s1 := s.updSlice sl (fun y => { y with pool := y.pool - 1, retiring := y.retiring ++ [(unit, sliceUnits + (256 - x.pool))] })
    appendDefect (s1.updStack (sl / 32) (fun y => { y with listed := y.listed.add (sl * 2 ^ 18 + unit) }))
      { kind := 0x06, cause := cause, unit := sl * 2 ^ 18 + unit, stroke := s.stroke.count }

/-- A corrected error is tallied against its unit, for the 1,024 units of a field last begun; the eighth retires it. -/
def tally (s : State) (sl unit : Nat) : State :=
  let f := stackField (sl / 32)
  let key := sl * 2 ^ 18 + unit
  let l := Tab.get [] s.tallies f
  let n := ((l.find? (fun x => x.1 == key)).map (·.2)).getD 0 + 1
  let l' := if l.any (fun x => x.1 == key) then l.map (fun x => if x.1 = key then (key, n) else x)
    else (if 1024 ≤ l.length then l.drop 1 else l) ++ [(key, n)]
  let s1 := (s.updStack (sl / 32) (fun x => { x with ce := sat 32 (x.ce + 1) })).setTallies (Tab.put [] s.tallies f l')
  if n = 8 then retire s1 sl unit 0x0A else s1

/-- Words that decoding has just found uncorrectable: they stay so, and their unit is retired. -/
def freshUe (s : State) (sl unit : Nat) (ws : List Nat) : State :=
  let new := ws.filter (fun w => !s.hbmBad w)
  if new.isEmpty then s else retire (s.setHbmUe (new.foldl NSet.add s.hbmUe)) sl unit 0x09

/-- The channel of a slice takes its work: the stack is ready or retrains another channel (R283). -/
def State.sliceWorks (s : State) (sl : Nat) : Bool :=
  let st := s.stack (sl / 32)
  (st.state == 2 || st.state == 3) && !(st.retraining.has (sl % 32 / 2))

/-- The request at the head of a slice's queue that may be performed: its unit is not being copied. -/
def State.sliceHead (s : State) (sl : Nat) (opcs : List Nat) : Option (Packet × Nat) :=
  match (s.slice sl).queue with
  | [] => none
  | (p, byte) :: _ =>
    if s.sliceWorks sl && opcs.contains p.opc && !((s.slice sl).retiring.any (fun r => r.1 == byte / 4096)) then some (p, byte) else none

/-- The stack finds a parity error in a command or its write data, and the command is repeated (R271): the time counts towards
retraining the channel (R283). -/
def noteParity (s : State) (sl : Nat) (parity : Bool) : State :=
  if parity then s.updStack (sl / 32) (fun x => { x with
    parityTimes := Tab.upd [] x.parityTimes (sl % 32 / 2) (fun l => l.filter (fun t => decide (s.now < t + 1000000)) ++ [s.now]) })
  else s

/-- The number of a request's source among the inputs of a slice queue's arbiter (R488). -/
def State.sliceInput (s : State) (p : Packet) : Nat :=
  if p.sedge then 576 + p.src0
  else ((s.coreAtRouter p.src0 p.src1).bind (fun k =>
    (s.tapOf (coreSite k) (quadOf (k % 36))).bind (fun t => s.logicalRegion (coreSite k * 4 + t)))).getD 0

/-- Which request at the edge node of slice sl goes next, FWD before REQ and then by the pointer, and the pointer past it (R278). -/
def State.sliceGrant (s : State) (sl : Nat) : Option (Nat × Nat) :=
  let heads := (s.heads (sliceNode sl)).filter (fun x => x.2.cls < 2 && x.2.opc < 7)
  let first := if heads.any (fun x => x.2.cls == 1) then heads.filter (fun x => x.2.cls == 1) else heads
  rotate 640 (s.slice sl).ptr (first.map (fun x => (x.1, s.sliceInput x.2)))

def popSlice (s : State) (sl : Nat) : State := s.updSlice sl (fun x => { x with queue := x.queue.drop 1 })

/-! ## The rows of slices -/

/-- SLICE_ENQUEUE (R278): the request that goes next at an edge unit moves into the queue; a stack that is failed or absent
answers. -/
def execSliceEnqueue (i : Nat) (s : State) : Host.Outcome State Fault Refusal :=
  .next (match s.arrived i [0, 1] [0, 1, 2, 3, 4, 5, 6] with
    | none => s
    | some p => match nodeSlice p.loc with
      | none => s
      | some sl =>
        let st := s.stack (sl / 32)
        match s.sliceGrant sl with
        | none => s
        | some (j, ptr) =>
          let s1 := (s.takePacket i).updSlice sl (fun x => { x with ptr := ptr })
          if j ≠ i then s
          else if st.state = 4 then s1.send (p.ack 2)
          else match (if st.state < 2 || 4 ≤ p.opc then none else s.sliceByte p.part p.addr) with
            | none => s1.send (p.ack 1)
            | some (x, byte) =>
              if x ≠ sl then s1.send (p.ack 1)
              else if 64 ≤ (s.slice sl).queue.length then s
              else s1.updSlice sl (fun y => { y with queue := y.queue ++ [(p, byte)] }))

/-- A read of a slice decodes whole lines (R279, R284): errors are corrected and tallied, a unit with a new uncorrectable
word is retired. The words that decoding cannot give. -/
def readFinds (s : State) (part sl byte addr len : Nat) (ce ue : List Nat) : State × List Nat :=
  let lo := addr / 64 * 64
  let hi := roundUp (addr + len) 64
  let fixed := foundWords s part sl ce lo hi
  let found := foundWords s part sl ue lo hi
  let lines := hbmWords s sl (byte / 64 * 64) (hi - lo)
  let bad := lines.filter (fun w => s.hbmBad w || found.contains w)
  let s1 := s.each (fixed.filter (fun w => !bad.contains w)) (fun s _ => tally s sl (byte / 4096))
  let s2 := freshUe s1 sl (byte / 4096) found
  (s2.setHbmCe (s2.hbmCe.filter (fun w => !lines.contains w)), bad)

/-- The read of a partial write or of an atomic finds words with a single-bit error, which are corrected and tallied, or
uncorrectable (R268, R279, R284). -/
def partialFinds (s : State) (part sl byte addr len : Nat) (whole : Bool) (ce ue : List Nat) : State :=
  let key := hbmKey s sl byte
  let cut := (hbmWords s sl byte len).filter (fun w => whole || decide (w * 8 < key) || decide (key + len < w * 8 + 8))
  let found := fun (l : List Nat) => (foundWords s part sl l (addr / 8 * 8) (addr + len)).filter cut.contains
  let bad := found ue
  let s1 := s.each ((found ce).filter (fun w => !bad.contains w && !s.hbmBad w)) (fun s _ => tally s sl (byte / 4096))
  let s2 := freshUe s1 sl (byte / 4096) bad
  s2.setHbmCe (s2.hbmCe.filter (fun w => !cut.contains w))

/-- SLICE_READ (R279): ce and ue are the window addresses of the words that decoding finds faulty in the lines read. -/
def execSliceRead (sl : SliceId) (ce : List Nat) (errs : SliceErrors) (s : State) : Host.Outcome State Fault Refusal :=
  .next (match s.sliceHead sl [0] with
    | none => s
    | some (p, byte) =>
      let r := readFinds (noteParity (popSlice s sl) sl errs.parity) p.part sl byte p.addr p.readLen ce errs.ue
      if r.2.isEmpty then r.1.send ((({ p with loc := sliceNode sl } : Packet)).rdata p.readOff (s.hbmBytes sl byte p.readLen))
      else countUe (r.1.send (p.ack 2)) (sl.val / 32) r.2.length)

/-- Write bytes to a slice (R267, R268, R279): the state, and the words that stay uncorrectable. -/
def hbmWrite (s : State) (sl byte : Nat) (bytes : List Byte) : State × List Nat :=
  let key := hbmKey s sl byte
  let ws := runWords key bytes.length
  let part := ws.filter (fun w => decide (w * 8 < key) || decide (key + bytes.length < w * 8 + 8))
  let bad := part.filter s.hbmBad
  let cells := bytes.zipIdx.filter (fun (_, i) => !bad.contains ((key + i) / 8))
  let whole := ws.filter (fun w => !part.contains w)
  (healWords (s.setHbm (cells.foldl (fun m (b, i) => Tab.put 0 m (key + i) b) s.hbm)) whole, bad)

/-- SLICE_WRITE (R279): ce and ue are the window addresses of words found faulty by the read of a partial write. -/
def execSliceWrite (sl : SliceId) (finds : SliceFinds) (s : State) : Host.Outcome State Fault Refusal :=
  .next (match s.sliceHead sl [1, 2] with
    | none => s
    | some (p, byte) =>
      let bytes := p.writeBytes
      let w := hbmWrite (partialFinds (noteParity (popSlice s sl) sl finds.parity) p.part sl byte p.addr bytes.length false finds.ce finds.ue) sl byte bytes
      if w.2.isEmpty then w.1.send (p.ack 0)
      else
        let lines := (w.2.map (· / 8)).dedup.length
        countUe ((w.1.updStack (sl.val / 32) (fun x => { x with poisoned := sat 16 (x.poisoned + lines) })).send (p.ack 2)) (sl.val / 32) w.2.length)

/-- The new word of an atomic, none for a reserved operation (R280). -/
def atomResult (op old a b : Nat) : Option Nat :=
  let lo := old % 2 ^ 32
  let hi := old / 2 ^ 32
  let a32 := a % 2 ^ 32
  let b32 := b % 2 ^ 32
  match op with
  | 0 => some ((old + a) % 2 ^ 64)
  | 1 => some a
  | 2 => some (if old = a then b else old)
  | 3 => some (hi * 2 ^ 32 + (lo + a32) % 2 ^ 32)
  | 4 => some ((hi + a32) % 2 ^ 32 * 2 ^ 32 + lo)
  | 5 => some (hi * 2 ^ 32 + a32)
  | 6 => some (a32 * 2 ^ 32 + lo)
  | 7 => some (hi * 2 ^ 32 + (if lo = a32 then b32 else lo))
  | 8 => some ((if hi = a32 then b32 else hi) * 2 ^ 32 + lo)
  | _ => none

/-- ADATA (R215). -/
def adata (p : Packet) (status old : Nat) : Packet := p.reply 5 p.addr status (bytesLE 8 old ++ zeros 8) true

/-- SLICE_ATOM (R280). -/
def execSliceAtom (sl : SliceId) (finds : SliceFinds) (s : State) : Host.Outcome State Fault Refusal :=
  .next (match s.sliceHead sl [3] with
    | none => s
    | some (p, byte) =>
      let b8 := byte / 8 * 8
      let a8 := p.addr / 8 * 8
      let s1 := partialFinds (noteParity (popSlice s sl) sl finds.parity) p.part sl b8 a8 8 true finds.ce finds.ue
      let old := natLE (s.hbmBytes sl b8 8)
      if s1.hbmBad (hbmKey s sl b8 / 8) then countUe (s1.send (adata p 2 0)) (sl.val / 32) 1
      else match atomResult (p.aux % 16) old (natLE (p.payload.take 8)) (natLE (slice p.payload 8 8)) with
        | some v => (hbmWrite s1 sl b8 (bytesLE 8 v)).1.send (adata p 0 old)
        | none => s1.send (adata p 1 old))

/-- RETIRE_COPY_DONE (R284 steps 2 and 3): the unit's bytes, corrected, and its uncorrectable words, poisoned, stand in
the new unit, to which the unit is redirected. -/
def execRetireCopyDone (sl : SliceId) (s : State) : Host.Outcome State Fault Refusal :=
  .next (match (s.slice sl).retiring with
    | [] => s
    | (u, n) :: rest =>
      if !(s.sliceWorks sl) then s
      else
        let old := hbmKey s sl (u * 4096)
        let new := sl.val * sliceBytes + n * 4096
        let bytes := Tab.getList 0 s.hbm old 4096
        let ue := (List.range 512).filter (fun w => s.hbmBad (old / 8 + w))
        let lines := (ue.map (· / 8)).dedup.length
        let s1 := (s.setHbm (Tab.putList 0 s.hbm new bytes)).setHbmUe (ue.foldl (fun t w => t.add (new / 8 + w)) s.hbmUe)
        let s2 := (s1.updSlice sl (fun x => { x with retiring := rest, redirect := Tab.insert n x.redirect u })).updStack (sl.val / 32)
          (fun x => { x with newRet := sat 16 (x.newRet + 1), poisoned := sat 16 (x.poisoned + lines) })
        match s.partOfStack (sl.val / 32) with
        | some p => hubRecord s2 (partRec s2 p 0x07 0 (sl.val / 32) 0)
        | none => s2)

/-! ## Channels and stacks -/

/-- HBM_RETRAIN_START (R283): 32 parity errors within 1 ms, 15 °C since the channel last trained, or its margin alarm, which is
the channel's own finding. -/
def execHbmRetrainStart (st : StackId) (ch : Fin 16) (cause : RetrainCause) (s : State) : Host.Outcome State Fault Refusal :=
  .next (
    let x := s.stack st
    let trained := Tab.get 0 x.trainTemp ch
    let trigger := match cause with
      | .parity => decide (32 ≤ ((Tab.get [] x.parityTimes ch).filter (fun t => decide (s.now < t + 1000000))).length)
      | .margin => true
      | .temperature => trained != 0 && (decide (trained + 14 ≤ x.temp) || decide (x.temp + 16 ≤ trained))
      | _ => false
    if (x.state = 2 || x.state = 3) && !(x.retraining.has ch) && trigger then
      s.updStack st (fun x => { x with state := 3, retraining := x.retraining.add ch, retrains := sat 16 (x.retrains + 1) })
    else s)

/-- HBM_RETRAIN_DONE (R283, R285): repaired is the number of the stack's lanes under repair. -/
def execHbmRetrainDone (st : StackId) (ch : Fin 16) (ok : Bool) (repaired : Nat) (s : State) : Host.Outcome State Fault Refusal :=
  .next (if !((s.stack st).retraining.has ch) then s
    else if ok then s.updStack st (fun x =>
      let left := x.retraining.del ch
      { x with
        retraining := left, state := if left.isEmpty then 2 else 3, repaired := sat 8 repaired
        parityTimes := Tab.put [] x.parityTimes ch [], trainTemp := Tab.put 0 x.trainTemp ch (x.temp + 1) })
    else failStack s st 1 0x0B)

/-- HBM_TEMP_READ (R271, R282, R483): the readout in °C. A channel whose training no readout preceded takes the first (log entry
155). -/
def execHbmTempRead (st : StackId) (t : Nat) (s : State) : Host.Outcome State Fault Refusal :=
  .next (if (s.stack st).state = 0 then s
    else s.updStack st (fun x => { x with
      temp := sat 8 t, doubleRefresh := decide (85 < t)
      trainTemp := (List.range 16).foldl (fun l c => if Tab.get 0 l c = 0 then Tab.put 0 l c (sat 8 t + 1) else l) x.trainTemp
      hotSince := if 100 ≤ t then some (x.hotSince.getD s.now) else none }))

/-- STACK_OVERTEMP (R483). -/
def execStackOvertemp (st : StackId) (s : State) : Host.Outcome State Fault Refusal :=
  .next (match (s.stack st).hotSince with
    | some t => if t + 1000000000 ≤ s.now && ((s.stack st).state = 2 || (s.stack st).state = 3) then failStack s st 5 0x0E else s
    | none => s)

/-- ECS_READ (R271): n errors that the stack's own check and scrub reports. -/
def execEcsRead (st : StackId) (n : Nat) (s : State) : Host.Outcome State Fault Refusal :=
  .next (if (s.stack st).state = 0 || (s.stack st).state = 4 then s else s.updStack st (fun x => { x with ce := sat 32 (x.ce + n) }))

/-- HBM_REFRESH (R282). -/
def execHbmRefresh (sl : SliceId) (s : State) : Host.Outcome State Fault Refusal :=
  .next (let st := s.stack (sl.val / 32)
    if st.state = 0 || st.state = 4 || st.selfRefresh then s else s.updSlice sl (fun x => { x with refreshed := x.refreshed + 1 }))

/-- HBM_ZERO_DONE (R277): every trained stack holds zeros with valid check bits. -/
def execHbmZeroDone (s : State) : Host.Outcome State Fault Refusal :=
  .next (
    let zeroed := s.part.stackList.filter (fun st => (s.stack st).state == 1)
    let mine := fun (key : Nat) => zeroed.contains (key / sliceBytes / 32)
    let s1 := ((s.setHbm (s.hbm.filter (fun c => !mine c.1))).setHbmUe (s.hbmUe.filter (fun w => !mine (w * 8)))).setHbmCe
      (s.hbmCe.filter (fun w => !mine (w * 8)))
    (s1.each zeroed (fun s st => s.updStack st (fun x => { x with state := 2, selfRefresh := true }))).each (List.range 4) (fun s p =>
      s.updHub p (fun h => { h with lostUnits := [], healed := [] })))

/-! ## The scrubber (R269) -/

/-- SCRUB_READ: ce and ue are the offsets of words of the core's SRAM that have come to hold a single-bit or an uncorrectable
error. Those of the line read are found; the others stay until a read meets them (R268). pass says that the line completes a
pass of the region. -/
def execScrubRead (k : PCore) (line : Fin 32768) (ce ue : List Nat) (pass : Bool) (s : State) : Host.Outcome State Fault Refusal :=
  .next (
    let r := coreRegion k
    if (s.region r).clock != .running then s
    else
      let all := fun (l : List Nat) => (l.filter (· < sramSize)).map (fun o => sramKey k o / 8)
      let s1 := (s.setSramUe ((all ue).foldl NSet.add s.sramUe)).setSramCe
        (((all ce).filter (fun w => !(all ue).contains w)).foldl NSet.add s.sramCe)
      let fixed := (wordsIn s1.sramCe (sramKey k (line.val * 64)) 64).length
      let s2 := sramRead s1 k (line.val * 64) 64
      checkLines (s2.updRegion r (fun x => { x with
        fixed := sat 16 (x.fixed + fixed), passes := if pass then sat 16 (x.passes + 1) else x.passes })) k)

/-! ## The partition log (R379, R381, R407) -/

/-- FAULT_RECORD_APPEND: the first report that the hub has still to take; a full log loses it. -/
def execFaultRecordAppend (h : HubId) (s : State) : Host.Outcome State Fault Refusal :=
  .next (match (s.hub h).inbox with
    | [] => s
    | rec :: rest =>
      let s1 := s.updHub h (fun x => { x with inbox := rest })
      if (s.hub h).pending = 256 then s1.updHub h (fun x => { x with lost := sat 16 (x.lost + 1) })
      else
        let s2 := s1.updHub h (fun x => { x with
          log := Tab.insert rec x.log x.logWr, logWr := (x.logWr + 1) % 256, pending := x.pending + 1 })
        if (s.hub h).pending = 0 then raiseEvt s2 h 0 else s2)

end Sys2Proof.Machine
end

