-- ==== Sys2Proof/Machine/Sequencer.lean ====
section
/-!
DEFINITION. The sequencer (R64 to R66, R70 to R77): fetch, the checks at issue, stalls, and the instructions of the
sequencer class.
-/
namespace Sys2Proof.Machine

/-- The word at the PC of a core. -/
def State.word (s : State) (k : Nat) : W64 :=
  BitVec.ofNat 64 (natLE (s.sramBytes k ((s.core k).base + 8 * (s.core k).pc) 8))

/-- A fault found as an instruction issues. DESIGN CHOICE (log entry 148): UNIT is the unit of the word's class. -/
def issueFault (s : State) (k cause addr : Nat) : State :=
  let w := s.word k
  coreFault s k cause (if wCls w ≤ 4 then wCls w else 0) (wTkv w) (wTkt w) (s.core k).pc addr

/-- Go on at an instruction index; one outside the region is PC_RANGE (R76). -/
def goTo (s : State) (k : Nat) (target : Int) : State :=
  if 0 ≤ target ∧ target < (s.core k).length then s.updCore k (fun c => { c with pc := target.toNat })
  else issueFault s k 0x02 0

/-- Go on at the next instruction. -/
def goNext (s : State) (k : Nat) : State := goTo s k ((s.core k).pc + 1)

/-- The governing predicate lets a word execute (R73). -/
def Core.executes (c : Core) (w : W64) : Bool := xor (c.pred (wPred w)) (wPneg w)

/-- Issue stalls (R65, R66, R75, R93). -/
def stalls (c : Core) (f : CoreFn) (w : W64) : Bool :=
  (wTkv w && decide (63 ≤ c.ticket (wTkt w)))
  || (descRegs f w).any (fun t => c.tpend.contains t)
  || (match f with
    | .twait => (List.range 16).any (fun i => w.toNat.testBit i && c.ticket i != 0)
    | .halt => (List.range 16).any (fun i => c.ticket i != 0) || !(c.meq ++ c.veq ++ c.mvq ++ c.syq).isEmpty
    | .send => decide (16 ≤ (c.mvRun.filter (fun r => r.barrier && !r.done)).length)
    | .voidMark => decide (16 ≤ (c.mvRun.filter (fun r => r.barrier && !r.done)).length)
    | .recv => decide (32 ≤ (c.mvRun.filter (fun r => wFn r.op.w == 5 && !r.done)).length)
    | _ => false)
  || (wCls w != 0 && decide (queueSize (unitOfClass (wCls w)) ≤ (c.queue (unitOfClass (wCls w))).length))

/-! ## Operands read at issue (R71) -/

/-- The operation of a word with its operands. -/
def opOf (c : Core) (f : CoreFn) (w : W64) : Op :=
  let t := fun (hi lo : Nat) => c.treg (wbits w hi lo)
  let r := fun (hi lo : Nat) => c.sreg (wbits w hi lo)
  let o : Op := { w := w, pc := c.pc, seq := c.seq }
  match f with
  | .mma => { o with ta := t 42 39, tb := t 38 35 }
  | .mst => { o with td := t 42 39 }
  | .mld => { o with ta := t 42 39 }
  | .ew => { o with td := t 44 41, ta := t 40 37, tb := t 36 33, va := r 32 28 }
  | .cvt => { o with td := t 44 41, ta := t 40 37 }
  | .red => { o with td := t 44 41, ta := t 40 37 }
  | .trn => { o with td := t 44 41, ta := t 40 37 }
  | .smx => { o with td := t 44 41, ta := t 40 37, tb := t 36 33 }
  | .warp => { o with td := t 44 41, ta := t 40 37, tb := t 36 33 }
  | .copy => { o with td := t 44 41, ta := t 40 37 }
  | .rcopy => { o with td := t 44 41, ta := t 40 37, va := r 36 32, vb := r 30 26 }
  | .gather => { o with td := t 44 41, ta := t 40 37, tb := t 36 33 }
  | .scatter => { o with td := t 44 41, ta := t 40 37, tb := t 36 33 }
  | .send => { o with ta := t 44 41 }
  | .recv => { o with td := t 44 41 }
  | .route => { o with ta := t 44 41, tb := t 40 37, td := t 36 33 }
  | .signal => { o with va := r 44 40 }
  | .wait => { o with va := r 44 40 }
  | .arm => { o with va := r 44 40, vb := r 23 19 }
  | .barrier => { o with va := r 44 40 }
  | .strokewait => { o with va := r 44 40 }
  | _ => o

/-- The checks of R70 at issue: the cause, 0 for none. -/
def issueCause (s : State) (k : Nat) (f : CoreFn) (o : Op) : Nat :=
  let d := descOf o.td
  let a := descOf o.ta
  let b := descOf o.tb
  match f with
  | .mma => mmaCause (bitmapKept s k b) a b
  | .mst => mstCause d
  | .mld => mldCause a
  | .ew => ewCause d a (if decide (wbits o.w 27 22 ≤ 5) && wbits o.w 18 18 == 0 then some b else none)
  | .cvt => cvtCause d a
  | .red => redCause (wbits o.w 27 22) d a
  | .trn => trnCause d a
  | .smx => smxCause d a b
  | .warp => warpCause d a b
  | .copy => copyCause d a
  | .rcopy => rcopyCause d a
  | .gather => gsCause d a b d
  | .scatter => gsCause d a b a
  | .send => streamCause a
  | .recv => streamCause d
  | .route => routeCause a b d (((s.routeTable (s.partOfCore k) (wbits o.w 32 27)).map (·.fanout)).getD 0)
  | _ => 0

/-! ## Issue -/

/-- Queue an operation on its unit and start what may start; its ticket rises (R66). -/
def enqueueOp (s : State) (k : Nat) (o : Op) : State :=
  let u := unitOfClass (wCls o.w)
  advance (s.updCore k (fun c => (c.setQueue u (c.queue u ++ [o])).ticketUp o.w)) k

/-- Issue to an engine, the mover or the sync unit. -/
def issueUnit (s : State) (k : Nat) (f : CoreFn) (ups : List (Nat × Nat × W32)) : State :=
  let c := s.core k
  let o := { opOf c f (s.word k) with upset := ups }
  let bad := issueCause s k f o
  if bad != 0 then issueFault s k bad 0
  else
    let s1 := s.updCore k (fun c => { c with seq := c.seq + 1, tpend := if f = .recv then NSet.add c.tpend (wbits o.w 44 41) else c.tpend })
    goNext (enqueueOp s1 k o) k

/-- STROKEWAIT completes at issue when its target has been reached (R97). -/
def issueStrokewait (s : State) (k : Nat) : State :=
  let c := s.core k
  let w := s.word k
  let count := (s.region (coreRegion k)).count
  let target := if wbits w 39 39 = 1 then count + wbits w 31 0 else (c.sreg (wbits w 44 40)).toNat % 2 ^ 48
  let s1 := s.updCore k (fun c => { c with seq := c.seq + 1 })
  if target ≤ count then goNext s1 k
  else
    let o := { opOf c .strokewait w with va := BitVec.ofNat 64 target }
    goNext (enqueueOp s1 k o) k

/-- A sequencer-class result and the next instruction. -/
def seqNext (s : State) (k : Nat) (f : Core → Core) : State := goNext (s.updCore k (fun c => f { c with seq := c.seq + 1 })) k

/-- The address of a sequencer access with its checks: range before alignment (R70, R76). -/
def seqAccess (c : Core) (w : W64) (size : Nat) : Nat × Nat :=
  let a := (c.sreg (wbits w 39 35) + BitVec.ofNat 64 (wbits w 20 0)).toNat
  (a, if sramSize < a + size then 0x05 else if a % size != 0 then 0x06 else 0)

/-- A sequencer load of size bytes. -/
def seqLoad (s : State) (k size : Nat) (put : Core → Nat → Core) : State :=
  let (a, bad) := seqAccess (s.core k) (s.word k) size
  if bad != 0 then issueFault s k bad (a % 2 ^ 48)
  else
    let r := unitReads s k [(a, size)]
    if r.cause != 0 then issueFault r.s k r.cause a
    else seqNext r.s k (fun c => put c (natLE (s.sramBytes k a size)))

/-- A sequencer store. -/
def seqStore (s : State) (k size v : Nat) : State :=
  let (a, bad) := seqAccess (s.core k) (s.word k) size
  if bad != 0 then issueFault s k bad (a % 2 ^ 48)
  else
    let r := unitWrite s k a (bytesLE size v)
    if r.cause != 0 then issueFault r.s k r.cause a else seqNext r.s k id

/-! ## Special values (R77) -/

/-- The LCIDs of the worker and primary cores of a crew, ascending. -/
def State.crewLcids (s : State) (p c : Nat) : List Nat :=
  let rs := (((s.layoutOf p).map (·.regions)).getD []).filter (fun r => r.crew == c && r.role != 2)
  (List.range 576).flatMap (fun rid => if rs.any (fun r => r.region == rid) then (List.range 8).map (fun i => rid * 8 + i) else [])

/-- Tickets lo to lo + 7, 6 bits each. -/
def ticketWord (c : Core) (lo : Nat) : Nat := (List.range 8).foldl (fun a i => a + c.ticket (lo + i) % 64 * 64 ^ i) 0

def srdValue (s : State) (k sel : Nat) : W64 :=
  let c := s.core k
  let l := s.lcidSeen k
  let asg := (s.region (coreRegion k)).assign
  let p := (asg.map (·.part)).getD 0
  let crew := (asg.map (·.crew)).getD 0
  match sel with
  | 0 => BitVec.ofNat 64 l
  | 1 => BitVec.ofNat 64 ((s.logicalRegion (coreRegion k)).getD 0)
  | 2 => BitVec.ofNat 64 (l % 8)
  | 3 => BitVec.ofNat 64 crew
  | 4 => BitVec.ofNat 64 ((s.crewLcids p crew).idxOf l)
  | 5 => BitVec.ofNat 64 (s.crewLcids p crew).length
  | 6 => BitVec.ofNat 64 ((s.region (coreRegion k)).count % 2 ^ 48)
  | 7 => Config.regionCycles s.fv
  | 8 => BitVec.ofNat 64 (s.region (coreRegion k)).op
  | 9 => BitVec.ofNat 64 (ticketWord c 0)
  | 10 => BitVec.ofNat 64 (ticketWord c 8)
  | 11 => BitVec.ofNat 64 p
  | 12 => if c.spare then 1 else 0
  | _ => if c.paired then 1 else 0

/-! ## The instructions of the class (R75) -/

/-- The second operand of a comparison or an ALU operation: a register or a sign-extended immediate. -/
def immOr (c : Core) (w : W64) (imm : Bool) (bits_ r : Nat) : W64 := if imm then sext bits_ (wbits w (bits_ - 1) 0) else c.sreg r

def doPset (c : Core) (w : W64) : Core :=
  let b := immOr c w (wbits w 28 28 == 1) 16 (wbits w 36 32)
  c.setPred (wbits w 44 42) (condValue (wbits w 31 29) (c.sreg (wbits w 41 37)) b (wbits w 15 0) (descOf (c.treg (wbits w 40 37))).void)

def doAlu (c : Core) (w : W64) : Core :=
  c.setSreg (wbits w 44 40) (aluValue (wbits w 29 26) (c.sreg (wbits w 39 35)) (immOr c w (wbits w 25 25 == 1) 24 (wbits w 34 30)))

def doMovi (c : Core) (w : W64) : Core :=
  let d := wbits w 44 40
  c.setSreg d (moviValue (c.sreg d) (wbits w 39 38) (wbits w 37 37 == 1) (wbits w 15 0))

def doTdset (c : Core) (w : W64) : Core :=
  let d := wbits w 44 41
  c.setTreg d (tdsetValue (c.treg d) (wbits w 34 31) (wbits w 30 30 == 1) (c.sreg (wbits w 39 35)))

/-- The effect of an executing word of function f that does not stall. -/
def issueFn (s : State) (k : Nat) (f : CoreFn) (ups : List (Nat × Nat × W32)) : State :=
  let w := s.word k
  let c := s.core k
  match f with
  | .nop => seqNext s k id
  | .halt => s.updCore k (fun c => { c with mode := .halted, pc := c.pc + 1, seq := c.seq + 1 })
  | .br => goTo (s.updCore k (fun c => { c with seq := c.seq + 1 })) k (c.pc + signed 20 (wbits w 19 0))
  | .brr => goTo (s.updCore k (fun c => { c with seq := c.seq + 1 })) k ((c.sreg (wbits w 44 40)).toNat % 2 ^ 18)
  | .twait => seqNext s k id
  | .pset => seqNext s k (fun c => doPset c w)
  | .alu => seqNext s k (fun c => doAlu c w)
  | .movi => seqNext s k (fun c => doMovi c w)
  | .sld => seqLoad s k 8 (fun c v => c.setSreg (wbits w 44 40) (BitVec.ofNat 64 v))
  | .sst => seqStore s k 8 (c.sreg (wbits w 44 40)).toNat
  | .tdld => seqLoad s k 32 (fun c v => c.setTreg (wbits w 44 41) (BitVec.ofNat 256 v))
  | .tdst => seqStore s k 32 (c.treg (wbits w 44 41)).toNat
  | .tdset => seqNext s k (fun c => doTdset c w)
  | .srd =>
    let v := srdValue s k (wbits w 15 0)
    seqNext (if wbits w 15 0 = 7 then s.draw else s) k (fun c => c.setSreg (wbits w 44 40) v)
  | .strokewait => issueStrokewait s k
  | f => issueUnit s k f ups

/-- The sequencer fetches the word at the PC: a read of 8 B of the core's SRAM (R72). -/
def fetchWord (s : State) (k : Nat) : Res := unitReads s k [((s.core k).base + 8 * (s.core k).pc, 8)]

/-- The sequencer of core k issues its next instruction, when that is one of function f (log entry 9). A word that is
no instruction faults whichever row asks. ups is what the engine gets wrong in an MMA. -/
def issueAs (s : State) (k : Nat) (f : CoreFn) (ups : List (Nat × Nat × W32) := []) : State :=
  if !s.coreActive k then s
  else
    let c := s.core k
    let rd := fetchWord s k
    if rd.cause != 0 then coreFault rd.s k rd.cause 0 false 0 c.pc rd.addr
    else match decodeWord (s.word k) with
      | none => issueFault rd.s k 0x01 0
      | some g =>
        if g != f then s
        else if !c.executes (s.word k) then seqNext rd.s k id
        else if stalls c f (s.word k) then s
        else issueFn rd.s k f ups

end Sys2Proof.Machine
end

