-- ==== Sys2Proof/Machine/PowerOps.lean ====
section
/-!
DEFINITION. What power, caps and cooling share: operating points (R313), bubble ratios (R316 to R320), the grouping of
regions and sites (R295), idle depths (R325, R326), ordered stops (R333, R370), and the loss of stage A (R341).
-/
namespace Sys2Proof.Machine

/-! ## Operating points -/

/-- VSET of an operating point (R313). -/
def vsetOf (op : Nat) : Nat := [80, 70, 60, 50, 36, 26, 18, 10].getD op 50
/-- The rail of a VSET code in mV (R310). -/
def railMv (vset : Nat) : Nat := 500 + 5 * vset

/-! ## Groups (R295) -/

/-- A site's eFuse closes. -/
def closeFuse (s : State) (site : Nat) : State :=
  (s.updPower (fun p => { p with efuses := p.efuses.add site })).updGroup (siteGroup site) (fun g =>
    { g with sites := putBits g.sites (siteBit site) (siteBit site) 1 })

/-- Fence the die of a site and open its eFuse, which may have closed since the die was fenced. -/
def cutDie (s : State) (site detail : Nat) : State := openFuse (fenceDie s site detail) site

/-! ## Ratios (R317, R319) -/

/-- R319 with P against L as a fraction P / L = p / l: rounded up and clamped to 95. -/
def ratioRule (b p l : Nat) : Nat :=
  if l < p then min 95 (100 - (100 - b) * l / p)
  else if 95 * l ≤ 100 * p then b else b - 5

/-- R320: P exceeds L by more than 5 %. -/
def fastOver (p l : Nat) : Bool := decide (105 * l < 100 * p)

/-- A layout in force follows its peers (R173). -/
def State.follows (s : State) (p : Nat) : Bool := ((s.layoutOf p).map (·.part.follow)).getD false

/-- The largest local ratio of a crew's regions. -/
def State.crewLocal (s : State) (p c : Nat) : Nat := (s.crewRegions p c).foldl (fun a r => max a (s.region r).localR) 0

/-- The crew's ratio with the code of its largest component, the first in the order of R317 among equals. -/
def State.crewRatio (s : State) (p c : Nat) : Nat × Nat :=
  let h := s.hub p
  [(s.power.panelR, 1), (h.partR, 2), (if s.follows p then h.followR else 0, 3), ((s.crew p c).thermalR, 4), (s.crewLocal p c, 5)].foldl
    (fun (a : Nat × Nat) x => if a.1 < x.1 then x else a) (0, 0)

/-- A partition has stopped in order, or is stopping. -/
def State.partStopped (s : State) (p : Nat) : Bool := (s.hub p).stopped || (s.hub p).stopping.isSome
/-- The panel has stopped in order. -/
def State.panelStopped (s : State) : Bool := s.cool.stopAt.isSome

/-- The ratio in force of a region, with its source: the crew's, or its own ramp bubbles where these are larger (R306). -/
def setRatio (s : State) (r : Nat) : State :=
  let q := match (s.region r).assign with
    | some a => s.crewRatio a.part a.crew
    | none => (0, 0)
  s.updRegion r (fun x => if x.source = 7 then x
    else if x.ramping && decide (q.1 < x.rampR) then { x with ratio := x.rampR, source := 6 } else { x with ratio := q.1, source := q.2 })

/-- Every region of a crew runs at the crew's ratio. -/
def applyRatio (s : State) (p c : Nat) : State := s.each (s.crewRegions p c) setRatio

/-- The crews of a partition. -/
def State.partCrews (s : State) (p : Nat) : List Nat := (((s.layoutOf p).map (·.crews)).getD []).map (·.crew)

def applyPart (s : State) (p : Nat) : State := s.each (s.partCrews p) (fun s c => applyRatio s p c)
def applyPanel (s : State) : State := s.each (List.range 4) applyPart

/-- A region's current limit [10 mA] (R314). -/
def Region.limit (r : Region) : Nat := if r.pathCap then 2000 else if r.phaseFail != 0 then 3500 else 4000

/-- A ramp begins: bubbles hold its slope to 1 A/µs. Which ratio that takes the spec does not state: a free value. -/
def startRamp (s : State) (r : Nat) : State :=
  setRatio (s.draw.updRegion r (fun x => { x with pstate := 2, ramping := true, rampR := Config.rampRatio s.fv % 96 })) r

/-! ## Idle depths (R325, R326) -/

/-- An instruction of the SY or MV that waits for something outside, of R326. -/
def Run.stalled (r : Run) : Bool :=
  r.heldAtHome || (wCls r.op.w == 4 && wFn r.op.w == 4) || (wCls r.op.w == 3 && wFn r.op.w == 5 && r.bytes.isEmpty && !r.done)

/-- The sequencer's next instruction cannot issue. -/
def State.seqStalled (s : State) (k : Nat) : Bool :=
  match decodeWord (s.word k) with
  | some f => (s.core k).executes (s.word k) && stalls (s.core k) f (s.word k)
  | none => false

/-- A core is idle for R326: nothing runs in it but what waits for something outside, and a running core's sequencer is
stalled on that. -/
def State.coreQuiet (s : State) (k : Nat) : Bool :=
  let c := s.core k
  let runs := c.mvRun ++ c.syRun
  c.meRun.isEmpty && c.veRun.isEmpty && runs.all Run.stalled && c.catches.isEmpty
  && (c.mode != .running || (c.meq.isEmpty && c.veq.isEmpty && c.mvq.isEmpty && c.syq.isEmpty && !runs.isEmpty && s.seqStalled k))

/-- The region is idle (R326, R203): its cores are quiet and hold no response outstanding, but for those of the WAITs and BARRIERs
held at their homes. -/
def State.regionQuiet (s : State) (r : Nat) : Bool :=
  (regionCores r).all (fun k => s.coreQuiet k && (s.core k).reqs.all (fun q => (s.core k).waitReq q) && (s.core k).held.isEmpty)
  && (s.region r).clock == .running && !(s.region r).fenced && (s.region r).loading.isNone

/-- A packet for a core of a region waits in its router (R203). -/
def State.packetWaits (s : State) (r : Nat) : Bool :=
  s.net.any (fun p => (s.coreHere p).map coreRegion == some r && !p.forAgent
    && (p.dest == some p.loc || (p.dkind == 2 && p.port.isNone)))

/-- A STROKEWAIT of the region approaches its target, by as many strokes as the wake takes. -/
def State.strokeNear (s : State) (r : Nat) (period : Nat) : Bool :=
  let x := s.region r
  let ns := if x.depth = 3 then 120000 else if x.depth = 2 then 8000 else 100
  (regionCores r).any (fun k => (s.core k).syRun.any (fun q =>
    wFn q.op.w == 4 && decide (q.key ≤ x.count + 2 + ceilDiv ns (max 1 period))))

/-! ## Sessions (R445) -/

/-- A security record for every hub, with HOST_EVT bit 7 (R455). -/
def secRecord (s : State) (event unit : Nat) : State := raiseAll (hubRecord s (panelRec s event 0 unit 0)) 7

/-- The open session ends. -/
def closeSession (s : State) : State :=
  match s.sec.session with
  | none => s
  | some x => secRecord (s.updSec (fun y => { y with session := none })) 0x1A x.scope

/-! ## Ordered stops (R333, R370) -/

/-- The rail of a region rises to a point's setpoint while its clock runs (R58 step 1). -/
def raiseRail (s : State) (r op : Nat) : State :=
  s.updRegion r (fun x => if x.clock == .running && x.vset != 0 then { x with vset := max x.vset (vsetOf op) } else x)

/-- A change of operating point that starts at once, the rail first raised where it has still to be, or after the one in
progress (R58, R333). -/
def changeNow (s : State) (r op : Nat) : State :=
  (raiseRail s r op).updRegion r (fun x =>
    if x.clock == .running then { x with clock := .stopped, chg := some op }
    else if x.clock == .stopped then { x with chgNext := some op } else x)

/-- Step 2 for one region: OP7 at ratio 90. -/
def stopRegion (s : State) (r : Nat) : State :=
  changeNow (s.updRegion r (fun x => { x with ratio := 90, source := 7, ramping := false, waking := false, startDue := false, wakeReq := false })) r 7

/-- Issue stops in a core with no fault recorded; what waits is abandoned (R333 step 4, R195 step 4). Transfers already
in the fabric run on. -/
def stopIssue (s : State) (k : Nat) : State :=
  s.updCore k (fun c => { c with
    mode := if c.mode == .running then .idle else c.mode
    meq := [], veq := [], mvq := [], syq := [], meRun := [], veRun := [], syRun := [], catches := [], submitted := none })

/-- The ports of a partition that stops quit and stay down (R430). -/
def stopPorts (s : State) (p : Nat) : State :=
  s.each ((List.range 16).filter (fun f => (s.fport f).part == some p)) (fun s f =>
    match (s.fport f).state with
    | 1 => portClose s f 7 0
    | 3 => portClose (sendPlain s f 0x06 (bytesLE 1 0) false) f 7 0
    | 4 => portQuit s f 0
    | 5 => portQuit s f 0
    | _ => s)

/-- Steps 2 to 4 of R333 for one partition. -/
def stopPartition (s : State) (p : Nat) : State :=
  if s.partStopped p then s
  else
    let regions := s.partRegions p
    let s1 := s.each (s.partSites p) (fun s site => s.updCox site (fun c => { c with events := [], transit := [] }))
    let s2 := s1.each (regions.filter (fun r => s1.regionLive r)) stopRegion
    let s3 := abortCommands (stopPorts s2 p) p (fun _ => true)
    let s4 := s3.updCmd p (fun c => { c with state := 0, fetch := 0, resume := false })
    let s5 := s4.updLay p (fun l => { l with
      state := if l.state == .applying then .empty else if l.state == .replacePending then .staged else l.state
      loading := false, pendingStart := false, quietSince := none })
    let s6 := s5.each (regions.flatMap regionCores) stopIssue
    let s7 := s6.updPower (fun q => { q with
      queue := q.queue.filter (fun x => !regions.contains x.region), granted := q.granted.filter (fun x => !regions.contains x.region) })
    s7.updHub p (fun h => { h with stopping := some s.now })

/-- The first apply of a port is abandoned: no partition is formed, and the port has no stream (R487, R390). -/
def abandonApply (s : State) (p : Nat) : State :=
  if (s.layoutOf p).isSome || (s.hub p).lay.state != .applying then s
  else
    raiseEvt ((s.updLay p (fun l => { l with state := .empty, staged := none, loading := false })).updHub p (fun h =>
      { h with interleave := [] })) p 2

/-- The ordered stop of the panel (R333), by its cause of STOP_STAT. -/
def orderedStop (s0 : State) (cause : Nat) : State :=
  if s0.panelStopped then s0
  else
    let s := closeSession s0
    let s1 := s.updCool (fun c => { c with stopCause := cause, stopStroke := s.stroke.count % 65536, stopAt := some s.now, drained := false })
    let s2 := s1.updPower (fun p => { p with noGrants := true, queue := [], granted := [] })
    let s3 := s2.each (List.range 4) (fun s p => if (s.layoutOf p).isSome then stopPartition s p else abandonApply s p)
    let s4 := s3.updBring (fun b => { b with
      stopped := true, verdict := if b.running = 0 then b.verdict else 6, waveLeft := [], waveNow := [] })
    let s5 := if cause = 5 then setPwrRc s4 29 else s4
    raiseAll (hubRecord s5 (panelRec s5 0x0D 9 0 0)) 3

/-- A region is switched off. -/
def regionOff (s : State) (r : Nat) : State :=
  (s.updRegion r (fun x => { x with
    clock := .off, pstate := if x.pstate = 4 then 4 else 0, vset := 0, depth := 0, waking := false, chg := none, chgNext := none
    ramping := false, rampR := 0, finalCur := 0, grantAt := none, startDue := false, wakeReq := false, idleSince := none })).each (regionCores r)
      (fun s k => s.updCore k (fun c => { c with mode := if c.mode == .faulted then .faulted else .idle, mvRun := [], syRun := [], reqs := [], held := [], catches := [] }))

/-- Regions are to go off, in waves in ascending order (R333, R345, R351). -/
def switchOff (s : State) (rs : List Nat) : State :=
  s.updBring (fun b => { b with offLeft := (List.range 624).filter (fun r => b.offLeft.contains r || rs.contains r) })

/-- Step 5 for one partition: its fabric is quiet or discarded, its regions are to go off, its stacks enter self refresh. -/
def stopEnds (s : State) (p : Nat) : State :=
  let s1 := if s.drainedNow p then s else discardAll s p
  let s2 := switchOff s1 (s1.partRegions p)
  let s3 := s2.each (s2.partStacks p) (fun s st => s.updStack st (fun x => { x with selfRefresh := true }))
  s3.updHub p (fun h => { h with stopping := none, stopped := true, fab := { h.fab with waiting := [] } })

/-- Stop the partition of a hub or port, or abandon its first apply, with EVENT 0x0E in the logs of the other hubs, or of every hub that stands (R370,
R387). -/
def stopReported (s : State) (p : Nat) : State :=
  if (s.layoutOf p).isNone then abandonApply s p
  else if s.partStopped p then s
  else
    let s1 := stopPartition s p
    let note := partRec s1 p 0x0E 8 0 0
    s1.each ((List.range 4).filter (fun h => (s1.hub h).live)) (fun s h => s.updHub h (fun x => { x with inbox := x.inbox ++ [note] }))

/-! ## Loss of stage A (R341) -/

/-- What the carrier's store and the supervisor keep without stage A. A slot whose writing was cut reads as no image: it
has no sections (R359, R443). -/
def Security.retained (x : Security) (recov : Option Image) : Security :=
  { owned := x.owned, ownerKey := x.ownerKey, idCert := x.idCert, policy := x.policy, floor := x.floor, calStored := x.calStored
    restorePend := x.restorePend, updatePend := x.updatePend, 
    slotImage := match (x.writing <|> recov) with
      | some i => some { i with sections := [] }
      | none => x.slotImage }

/-- Stage A is removed: every volatile state is lost (R341, R14). hold says that the supervisor holds it off with FAULT_N. -/
def removeStageA (s : State) (hold : Bool) : State :=
  { State.reset with
    now := s.now, fv := s.fv, part := s.part
    supply := { s.supply with stageA := false, pg := false, booted := false, faultN := s.supply.faultN || hold }
    defects := s.defects, sec := s.sec.retained (if s.bring.recovState = 3 then s.bring.recovImage else none)
    cool := { s.cool with stopCause := 0, stopStroke := 0, stopAt := none, drained := false }
    out := s.out, pending := s.pending }

end Sys2Proof.Machine
end

