-- ==== Sys2Proof/Machine/SecOps.lean ====
section
/-!
DEFINITION. What bring-up and the security commands share: images, sessions, the hallmark report, the admission of bezel
dies, the boot of the hubs and RESTART (R340, R345, R440 to R445, R450).
-/
namespace Sys2Proof.Machine

/-- The 16 bytes of a defect-list entry (R353). -/
def Defect.bytes (d : Defect) : List Byte :=
  let b := bytesLE 1 d.kind ++ bytesLE 1 d.cause ++ bytesLE 1 d.detail ++ [0] ++ bytesLE 4 d.unit ++ bytesLE 6 d.stroke
  b ++ bytesLE 2 (crc16 b)

/-! ## Images (R442) -/

/-- The version of the image the panel leaves the factory with. -/
def factoryVersion : Nat := 0x010000

/-- Why an image fails, as RECOV_STAT codes it: 1 signature, 2 section digest, 3 below the floor, 4 unreadable. -/
def imageCause (floor : Nat) (i : Image) : Nat :=
  if i.sections.length ≠ 3 then 4
  else if !Config.vendorRoots.contains (digest64 i.rootKey) || !Config.mldsaVerify i.rootKey i.manifest i.sig then 1
  else if i.sections.any (fun x => digest64 x.content != x.listed) then 2
  else if i.version.toNat < floor then 3 else 0

/-- Why the stored image fails. -/
def State.slotCause (s : State) : Nat :=
  match s.sec.slotImage with
  | none => if factoryVersion < s.sec.floor then 3 else 0
  | some i => imageCause s.sec.floor i

def State.slotVersion (s : State) : Nat := (s.sec.slotImage.map (·.version.toNat)).getD factoryVersion
def State.slotDigest (s : State) : List Byte := digest64 ((s.sec.slotImage.map (·.manifest)).getD Config.factoryManifest)

/-- SEC_NONCE takes a fresh random value (R438). -/
def freshNonce (s : State) : State := s.draw.updSec (fun x => { x with nonce := Config.randomBytes s.fv 32 })

/-! ## The policy record (R439) -/

def padTo (n : Nat) (b : List Byte) : List Byte := (b ++ List.replicate n 0).take n

def Policy.flags (p : Policy) : Nat := p.signedLayout.toNat + 2 * p.vendorAccess.toNat + 4 * p.ownerUpdate.toNat

/-- The 1,344 bytes of the policy in force. -/
def policyBytes (p : Policy) (floor : Nat) : List Byte :=
  bytesLE 4 p.flags ++ bytesLE 4 floor ++ bytesLE 1 p.roots.length ++ bytesLE 1 p.bezMask ++ List.replicate 54 0
  ++ padTo 1024 (p.roots.flatMap (padTo 64)) ++ padTo 256 (p.bezels.flatMap (padTo 64))

/-- A policy record and its FLOOR, none when its form is wrong. -/
def readPolicy (b : List Byte) : Option (Policy × Nat) :=
  let flags := recNat b 0 4
  let n := recByte b 8
  let mask := recByte b 9
  if b.length = 1344 && decide (flags < 8) && decide (recNat b 4 4 < 2 ^ 24) && decide (n ≤ 16) && decide (mask < 16)
      && (slice b 10 54).all (fun x => x == 0) then
    some ({ signedLayout := flags.testBit 0, vendorAccess := flags.testBit 1, ownerUpdate := flags.testBit 2
            roots := (List.range n).map (fun i => slice b (64 + 64 * i) 64), bezMask := mask
            bezels := (List.range 4).map (fun i => slice b (1088 + 64 * i) 64) }, recNat b 4 4)
  else none

/-- The bytes of a user calibration block (R447). -/
def calBytes (l : List (Nat × Nat × Int)) : List Byte :=
  l.flatMap (fun e => bytesLE 1 e.1 ++ [0] ++ bytesLE 2 e.2.1 ++ bytesLE 4 (e.2.2 % 2 ^ 32).toNat)

/-! ## The hallmark report (R440, R441) -/

/-- A record: type, 0, length, value, zeros to a multiple of 8 B. -/
def reportRecord (type : Nat) (value : List Byte) : List Byte :=
  let r := bytesLE 1 type ++ [0] ++ bytesLE 2 value.length ++ value
  padTo (roundUp r.length 8) r

/-- The words of the inventory fuses (R361). -/
def Part.fuseWords (pt : Part) : List Nat :=
  let mask := fun (n : Nat) (f : Nat → Bool) => (List.range n).foldl (fun a i => if f i then a + 2 ^ i else a) 0
  let st := mask 48 pt.stackPresent
  [pt.code * 2 ^ 28 + mask 4 pt.hostPresent * 2 ^ 24 + mask 12 pt.colPresent * 2 ^ 12, mask 16 pt.fportPresent * 2 ^ 16, st % 2 ^ 32, st / 2 ^ 32]

/-- What the DIES record says of a site: verified, MISMATCH, absent, or fenced by an entry. -/
def State.dieMark (s : State) (site : Nat) : Nat :=
  if !s.part.siteList.contains site then 2 else if (s.cox site).mismatch then 1 else if s.defects.listsSite site then 3 else 0

/-- Two-bit marks, four to a byte. -/
def packMarks (f : Nat → Nat) (n : Nat) : List Byte :=
  (List.range (ceilDiv n 4)).map (fun i => BitVec.ofNat 8 (f (4 * i) + 4 * f (4 * i + 1) + 16 * f (4 * i + 2) + 64 * f (4 * i + 3)))

/-- The records of the report, in ascending TYPE. -/
def State.reportRecords (s : State) : List Byte :=
  let x := s.sec
  let owner := if x.owned then digest64 x.ownerKey else List.replicate 64 0
  let applied := (List.range 4).filterMap (fun p => (s.layoutOf p).map (fun l => (p, l)))
  reportRecord 1 (bytesLE 1 s.part.code ++ padTo 32 Config.panelSerial ++ identityDigest ++ bytesLE 1 x.owned.toNat ++ owner)
  ++ reportRecord 2 (bytesLE 4 x.runVersion ++ padTo 64 x.runDigest ++ bytesLE 4 s.slotVersion ++ s.slotDigest)
  ++ reportRecord 3 (s.part.fuseWords.flatMap (bytesLE 4) ++ padTo 64 (Config.vendorRoots.headD []))
  ++ reportRecord 4 (digest64 (s.defects.factory.flatMap Defect.bytes) ++ digest64 (s.defects.fieldInForce.flatMap Defect.bytes)
      ++ bytesLE 4 s.defects.field.length ++ bytesLE 4 s.defects.dropped)
  ++ reportRecord 5 (digest64 Config.factoryCal ++ (if x.userCal.isEmpty then List.replicate 64 0 else digest64 (calBytes x.userCal))
      ++ bytesLE 1 x.restorePend.toNat)
  ++ reportRecord 6 (digest64 (policyBytes x.policy x.floor) ++ bytesLE 4 x.floor)
  ++ reportRecord 7 (applied.flatMap (fun e => bytesLE 1 e.1 ++ bytesLE 8 e.2.streamId ++ padTo 64 e.2.digest ++ bytesLE 1 e.2.signed.toNat))
  ++ reportRecord 8 (packMarks s.dieMark 156 ++ digest64 ((List.range 156).flatMap (fun st => padTo 32 (Config.dieSerial st))))
  ++ reportRecord 9 ((List.range 4).flatMap (fun n =>
      bytesLE 1 (s.bezel n).state ++ padTo 64 (s.bezel n).keyDigest ++ padTo 64 (s.bezel n).measure))
  ++ reportRecord 0x0A ((List.range 48).flatMap (fun st => if s.part.stackPresent st then Config.stackDevice st else []))
  ++ reportRecord 0x0B ((List.range 16).flatMap (fun f => padTo 6 (Config.portMac f)))
  ++ reportRecord 0x0C (match x.session with
      | some y => bytesLE 1 1 ++ bytesLE 4 y.scope ++ bytesLE 1 y.signer ++ bytesLE 4 x.opened
      | none => bytesLE 1 0 ++ bytesLE 4 0 ++ bytesLE 1 0 ++ bytesLE 4 x.opened)

/-- The whole report for a host nonce; its signature takes a draw. -/
def State.hallmarkReport (s : State) (nonce : List Byte) : List Byte :=
  let recs := s.reportRecords
  let head := bytesLE 4 0x524D484B ++ bytesLE 1 1 ++ [0, 0, 0] ++ bytesLE 4 (64 + recs.length) ++ bytesLE 6 s.stroke.count ++ [0, 0]
    ++ padTo 32 nonce ++ List.replicate 12 0
  let body := head ++ recs
  body ++ padTo 3309 (Config.panelSign s.fv body) ++ Config.identityChain.take certSize

/-! ## Admission of a bezel die (R450) -/

/-- The hub powers the site, trains the link and judges the die's answer to a fresh nonce. -/
def admitBezel (s : State) (n : Nat) (a : BezelAnswer) : State :=
  if !(s.hub n).live || !a.present then s.updBezel n (fun b => { b with state := 0, cause := 0, width32 := false, pend := [], winAt := [] })
  else
    let nonce := Config.randomBytes s.fv 32
    let leaf := chainLeaf a.chain
    let key := digest64 leaf
    let kindOk := ((chainOf a.chain).head?.map (·.kind)).getD 0 == 7
    let good := chainAnchors a.chain s.ownerKeys s.sec.policy.roots && kindOk && a.measure.length == 64
      && Config.mldsaVerify leaf (nonce ++ a.measure) a.sig
    let listed := s.sec.owned && s.sec.bezInForce.bezMask.testBit n && s.sec.bezInForce.bezels.getD n [] == key
    let r : Nat × Nat := if !a.trained then (1, 3) else if !s.sec.owned then (1, 2) else if !good then (1, 1) else if !listed then (1, 2) else (2, 0)
    secRecord (s.draw.updBezel n (fun b => { b with
      state := r.1, cause := r.2, width32 := a.trained && a.width32, pend := [], winAt := []
      keyDigest := if a.trained then key else [], measure := if a.trained then a.measure else [] })) 0x1C n

/-! ## Boot (R340, R359) -/

/-- The hubs boot: the image in the slot is verified, both lists read and the ports opened; a hub whose hallmark fails
does not start (R435), and an image that fails brings recovery mode. -/
def bootHubs (s : State) (ok : Nat → Bool) : State :=
  let cause := s.slotCause
  let s1 := s.each (List.range 4) (fun s h => s.updHub h (fun x => { x with live := ok h, linkUp := ok h }))
  let s2 := s1.updBring (fun b => { b with recovery := decide (cause ≠ 0), recovStored := cause, recovState := 0, recovImage := none })
  let s3 := s2.updSupply (fun u => { u with booted := true })
  let s4 := s3.updPower (fun p => { p with aux := (List.range 4).foldl (fun t h => Tab.upd {} t h (fun (x : Rail) => { x with state := 1 })) p.aux })
  freshNonce (s4.updSec (fun x => { x with runVersion := s.slotVersion, runDigest := s.slotDigest, updatePend := false }))

/-! ## RESTART (R345) -/

/-- Regions, eFuses and groups go off; every register reads its reset value but those with a retained source; stage A,
the hubs and management stay on. -/
def restartPanel (s0 : State) : State :=
  let s := closeSession s0
  let on := (s.regions.filter (fun x => x.2.pstate != 0 || x.2.vset != 0 || x.2.clock != .off)).map (·.1)
  { State.reset with
    now := s.now, fv := s.fv, part := s.part, supply := s.supply
    hubs := (List.range 4).foldl (fun t h => Tab.upd {} t h (fun x => { x with live := (s.hub h).live, linkUp := (s.hub h).linkUp })) []
    bring := { running := 15, since := s.now, count := s.bring.count, offLeft := (List.range 624).filter on.contains
               recovStored := s.bring.recovStored, recovAttempts := s.bring.recovAttempts }
    defects := { s.defects with full := false }
    regions := on.foldl (fun t r => Tab.upd {} t r (fun _ => { pstate := (s.region r).pstate, op := (s.region r).op, vset := (s.region r).vset })) []
    power := { vin := s.power.vin, iin := s.power.iin, efuses := s.power.efuses, groups := s.power.groups, rails := s.power.rails
               inputMw := s.power.inputMw, peak := s.power.peak, aux := s.power.aux }
    cool := { leak := s.cool.leak, leakAt := s.cool.leakAt }
    sec := { s.sec with session := none, opened := 0, userCal := [], report := [], bezInForce := {} }
    out := s.out, pending := s.pending }

end Sys2Proof.Machine
end

