-- ==== Sys2Proof/Machine/StrokeOps.lean ====
section
/-!
DEFINITION. The stroke master (R36 to R43): measuring, windows, free stroke, slew and hand-over; and the posting of
events at a stroke (R48, R49).
-/
namespace Sys2Proof.Machine

/-! ## Periods -/

def meanOf (l : List Nat) : Nat := l.sum / max 1 l.length
/-- A list cut to its newest 16 places. -/
def last16 (l : List Nat) : List Nat := l.drop (l.length - 16)

/-- A period is established (R38). -/
def Stroke.established (k : Stroke) : Bool := k.intervals.length == 16
/-- The period in force in ns: fixed interval, measured period, or the default (R40, R61). -/
def Stroke.period (k : Stroke) : Nat :=
  if k.free then k.interval else if k.established then meanOf k.intervals else k.dflt * 10
/-- The hub that counts strokes: hub 0, and hub 2 once it has taken over (R38, R39). -/
def State.masterHub (s : State) : Nat := if s.stroke.master2 then 2 else 0
/-- The master stands, and strokes are counted or measured. -/
def State.counts (s : State) : Bool := s.stroke.running && (s.hub s.masterHub).live

/-! ## Counting -/

/-- A stroke is counted or synthesised at a time: the count advances, hub 2's standby count with it, and a marker with
count[15:0] goes into the rings whose driving hubs stand (R39, R43, R44). -/
def countStroke (s : State) (t : Nat) : State :=
  let n := s.stroke.count + 1
  let rings := (List.range 4).filter (fun q => (s.hub q).live)
  (s.updStroke (fun k => { k with
    count := n, standby := n, lastAt := some t, ringLast := rings.foldl (fun m q => Tab.put 0 m q n) k.ringLast })).emit (.marker (n % 65536))

/-- The time by which the next stroke is missing (R38): the end of its window, or 10 ms after the last; never before HUB
completion. -/
def Stroke.windowEnd (k : Stroke) : Nat :=
  match k.lastAt with
  | some t => if k.established then max k.startAt (t + meanOf k.intervals + meanOf k.intervals / 8) else max t k.startAt + 10000000
  | none => k.startAt + 10000000

/-- A missing edge: the stroke is synthesised at the end of the window and free stroke begins (R38, R40). -/
def missStroke (s : State) : State :=
  let t := s.stroke.windowEnd
  let fixed := if s.stroke.established then meanOf s.stroke.intervals else s.stroke.dflt * 10
  let s1 := countStroke s t
  let s2 := s1.updStroke (fun k => { k with
    free := true, slew := false, handover := false, entries := sat 16 (k.entries + 1), interval := fixed, nextAt := t + fixed, lastExt := none, extIvls := [] })
  raiseAll (setStrokeRc s2 23) 5

/-- The synthesised instant of the present interval (R40, R41): under SLEW it is lengthened by the lesser of 1/8 of the
interval and the offset to the next predicted external edge; within 1 % of that edge it is withheld for the hand-over. -/
def planStroke (k : Stroke) : Stroke :=
  let base := (k.lastAt.getD k.startAt) + k.interval
  match k.slew, k.lastExt with
  | true, some e =>
    let p := max 1 (meanOf k.extIvls)
    let m := max 1 (ceilDiv (base - e) p)
    let edge := e + m * p
    let next := base + min (k.interval / 8) (edge - base)
    { k with nextAt := next, handover := decide ((edge - next) * 100 ≤ p) }
  | _, _ => { k with nextAt := base, handover := false }

/-- R41 step 1: an interval between external edges is good after the one before it. -/
def goodInterval (iv : Nat) (prev : Option Nat) : Bool :=
  decide (2000 ≤ iv) && decide (iv ≤ 10000000) && (match prev with
    | none => true
    | some q => decide ((iv - q) * 100 ≤ q) && decide ((q - iv) * 100 ≤ q))

/-- The slew is interrupted (R42), with the flag that applies. -/
def interruptSlew (s : State) (flag : Option Nat) : State :=
  let s1 := s.updStroke (fun k => { k with slew := false, handover := false, lastExt := none, extIvls := [] })
  match flag with
  | some b => setStrokeRc s1 b
  | none => s1

/-- The next external edge is the hand-over edge. -/
def Stroke.handoverNext (k : Stroke) : Bool :=
  k.handover && (match k.lastExt with
    | some e =>
      let p := meanOf k.extIvls
      decide ((e + p - k.nextAt) * 2 ≤ p) && decide ((k.nextAt - (e + p)) * 2 ≤ p)
    | none => false)

/-- Under SLEW: when the external edge to come is missing (R41 step 4, R42). -/
def Stroke.edgeDue (k : Stroke) : Nat :=
  let p := meanOf k.extIvls
  if k.handoverNext then k.nextAt + p / 100 else (k.lastExt.getD 0) + p + p / 8

/-- The external edge is missing: at a hand-over the stroke is synthesised at once. -/
def missEdge (s : State) : State :=
  let k := s.stroke
  if k.handoverNext then
    (interruptSlew (countStroke s k.edgeDue) (some 23)).updStroke planStroke
  else interruptSlew s (some 23)

/-- The return to external strokes (R41 steps 3 and 5). -/
def returnStroke (s : State) (t : Nat) : State :=
  let k := s.stroke
  let ivs := last16 (k.extIvls ++ [t - k.lastExt.getD t])
  let s1 := (countStroke s t).updStroke (fun k => { k with free := false, slew := false, handover := false, intervals := ivs, lastExt := none, extIvls := [] })
  raiseAll s1 5

/-- An external edge while the slew runs (R41, R42). DESIGN CHOICE (log entry 146): an edge inside the span of the hand-over
whose interval leaves ±1 % of the one before it interrupts the slew. -/
def slewEdge (s : State) (t : Nat) : State :=
  let k := s.stroke
  let p := meanOf k.extIvls
  let e := k.lastExt.getD t
  if t < e + p - p / 8 then interruptSlew s (some 22)
  else if k.handoverNext && decide (t < k.nextAt - p / 100) then interruptSlew s (some 22)
  else if !goodInterval (t - e) k.extIvls.getLast? then interruptSlew s none
  else if k.handoverNext then returnStroke s t
  else s.updStroke (fun k => { k with lastExt := some t, extIvls := last16 (k.extIvls ++ [t - e]) })

/-- An external edge in free stroke before SLEW (R41 step 1): the sixteenth consecutive good edge sets SLEW. -/
def watchEdge (s : State) (t : Nat) : State :=
  let k := s.stroke
  let ivs := match k.lastExt with
    | none => []
    | some e =>
      if goodInterval (t - e) k.extIvls.getLast? then last16 (k.extIvls ++ [t - e])
      else if goodInterval (t - e) none then [t - e] else []
  let s1 := s.updStroke (fun k => { k with lastExt := some t, extIvls := ivs })
  if 15 ≤ ivs.length then s1.updStroke (fun k => planStroke { k with slew := true }) else s1

/-- An edge is counted by the rules of R38: before HUB completes it only measures. -/
def takeEdge (s : State) (t : Nat) : State :=
  let s1 := s.updStroke (fun k => { k with intervals := match k.lastAt with
    | some e => last16 (k.intervals ++ [t - e])
    | none => k.intervals })
  if s.stroke.running then countStroke s1 t else s1.updStroke (fun k => { k with lastAt := some t })

/-- A qualified edge at the master that rose at time t. What was due before it comes first. Before HUB completes no stroke is
synthesised, and an edge after its window is not counted (R38 step 3). -/
def masterEdge (s0 : State) (t : Nat) : State :=
  let s := s0.updStroke (fun k => { k with judged := some t, beside := k.beside.filter (fun u => decide (t + 400 ≤ u)) })
  let k := s.stroke
  let s1 := if k.free && k.slew && decide (k.edgeDue < t) then missEdge s
    else if !k.free && k.running && decide (k.windowEnd < t) then missStroke s else s
  let k1 := s1.stroke
  if k1.free then (if k1.slew then slewEdge s1 t else watchEdge s1 t)
  else match k1.lastAt with
    | none => takeEdge s1 t
    | some e =>
      let p := meanOf k1.intervals
      if k1.established && decide (t < e + p - p / 8) then setStrokeRc s1 22
      else if k1.established && !k1.running && decide (e + p + p / 8 < t) then s1
      else if !k1.established && decide (t < e + 2000) then setStrokeRc s1 22
      else takeEdge s1 t

/-- A hub other than the master qualifies an edge. Hub 2 keeps those that hub 0 has not judged: two rises less than 400 ns
apart, the shortest high and low of an edge, are one edge (R36, R39). -/
def standbyEdge (s : State) (h t : Nat) : State :=
  if h = 2 && s.masterHub != 2 && (match s.stroke.judged with
    | some u => decide (u + 400 ≤ t)
    | none => true) then s.updStroke (fun k => { k with beside := k.beside ++ [t] })
  else s

/-- Hub 2 takes the stroke over: it goes on from the standby count, and judges the edges that hub 0 did not (R39). -/
def takeMaster (s : State) : State :=
  let edges := s.stroke.beside
  (s.updStroke (fun k => { k with master2 := true, takeover := true, count := k.standby, beside := [] })).each edges masterEdge

/-- A rise that may still qualify, at or before time t, holds back the judgement that an edge is missing. -/
def State.edgeOpen (s : State) (t : Nat) : Bool :=
  match Tab.get none s.stroke.quals s.masterHub with
  | some r => decide (r ≤ t)
  | none => false

/-! ## The rows of the stroke input -/

/-- STROKE_EDGE (R36). -/
def execStrokeEdge (h : HubId) (low : Nat) (s : State) : Host.Outcome State Fault Refusal :=
  .next (if (s.hub h).live && (s.stroke.qualifying || s.stroke.running) then
      let s1 := if (Tab.get none s.stroke.quals h).isSome || decide (low < 200) then setStrokeRc s 21 else s
      s1.updStroke (fun k => { k with quals := Tab.put none k.quals h (if 200 ≤ low then some s.now else none) })
    else s)

/-- STROKE_QUALIFIED (R36, R38): the end of a pulse, or 200 ns of it. -/
def execStrokeQualified (h : HubId) (high : Nat) (s : State) : Host.Outcome State Fault Refusal :=
  .next (match Tab.get none s.stroke.quals h with
    | none => s
    | some t =>
      let s1 := s.updStroke (fun k => { k with quals := Tab.put none k.quals h none })
      if high < 200 then setStrokeRc s1 21
      else if s.now < t + 200 then s
      else if s.masterHub ≠ h then standbyEdge s1 h t
      else if h.val = 2 && (match s.stroke.judged with
        | some u => decide (t < u + 400)
        | none => false) then s1
      else masterEdge s1 t)

/-- STROKE_WINDOW_END (R38). -/
def execStrokeWindowEnd (s : State) : Host.Outcome State Fault Refusal :=
  .next (if s.counts && !s.stroke.free && decide (s.stroke.windowEnd ≤ s.now) && !s.edgeOpen s.stroke.windowEnd then missStroke s else s)

/-- SYNTHESISED_STROKE (R40, R41). -/
def execSynthesisedStroke (s : State) : Host.Outcome State Fault Refusal :=
  .next (if s.counts && s.stroke.free && !s.stroke.handover && decide (s.stroke.nextAt ≤ s.now) then
      (countStroke s s.stroke.nextAt).updStroke planStroke
    else s)

/-- HANDOVER_SPAN_END (R41 step 4, R42). -/
def execHandoverSpanEnd (s : State) : Host.Outcome State Fault Refusal :=
  .next (if s.counts && s.stroke.free && s.stroke.slew && decide (s.stroke.edgeDue ≤ s.now) && !s.edgeOpen s.stroke.edgeDue then
      missEdge s
    else s)

/-- Events that every running region of a die has passed leave the cox's table. -/
def pruneEvents (s : State) (site : Nat) : State :=
  s.updCox site (fun c => { c with events := c.events.filter (fun e =>
    let due := (siteRegions site).filter (fun r => (s.region r).clock == .running || (s.region r).clock == .stopped)
    if due.isEmpty then decide (c.count < e.stroke) else due.any (fun r => decide ((s.region r).acted < e.stroke))) })

/-- STROKE_MARKER (R44, R46): a marker that the master sent into the ring, of a stroke that the cox has not taken. -/
def execStrokeMarker (site : SiteId) (ring : Fin 4) (cnt : W16) (s : State) : Host.Outcome State Fault Refusal :=
  .next (
    let c := (s.cox site).count
    let m := cnt.toNat
    let n := if c % 65536 ≤ m then c - c % 65536 + m else c - c % 65536 + 65536 + m
    if !(s.cox site).live || !(s.hub ring).live || decide (n ≤ c) || decide (Tab.get 0 s.stroke.ringLast ring.val < n) then s
    else
      let s1 := pruneEvents (s.updCox site (fun x => { x with count := n })) site
      if n = c + 1 then s1 else coxRecord s1 site (siteRec s1 site 0x0F 0 0 0))

/-! ## Events at a stroke (R48, R49) -/

/-- The sites of a tree's members. -/
def State.treeSites (s : State) (p ty n : Nat) : List Nat :=
  let ls := ((s.trees.filter (fun t => t.2.part == p && (match t.2.rec? with
    | some r => r.ty == ty && r.tree == n
    | none => false))).head?.map (·.2.members)).getD []
  (s.partSites p).filter (fun site => ls.any (fun l => s.siteOfDie (lcidDie l) == some site))

/-- The sites whose coxes hold an event (R48). -/
def State.scopeSites (s : State) (p : Nat) (ev : EventKind) : List Nat :=
  let crew := fun (c : Nat) => (s.partSites p).filter (fun site => (s.crewRegions p c).any (fun r => r / 4 == site))
  let sites := match ev with
    | .telemetry => s.part.siteList
    | .cap .thermal c _ => crew c
    | .cap .localRatio c _ => crew c
    | .cap _ _ _ => s.partSites p
    | .freq c _ => crew c
    | .crewStart c => crew c
    | .window ty n _ => s.treeSites p ty.val n.val
    | _ => s.partSites p
  sites.filter (fun site => (s.cox site).live)

/-- The lead of R49: two strokes, and 20 µs at the period in force. -/
def State.leadOk (s : State) (n : Nat) : Bool :=
  let k := s.stroke
  decide (k.count + 2 ≤ n) && decide (s.now + 20000 ≤ k.lastAt.getD k.startAt + (n - k.count) * k.period)

/-- The first stroke that meets the lead. -/
def State.firstLead (s : State) : Nat :=
  let k := s.stroke
  k.count + max 2 (ceilDiv (s.now + 20000 - k.lastAt.getD k.startAt) (max 1 k.period))

/-- Put an event on its way to the coxes of its scope, with the number of its posting (R52). -/
def distribute (s : State) (p : Nat) (ev : EventKind) (n : Nat) : State :=
  let e : PendEvent := { part := p, stroke := n, ev := ev, posted := s.postNo }
  (s.each (s.scopeSites p ev) (fun s site => s.updCox site (fun c => { c with transit := c.transit ++ [e] }))).setPostNo (s.postNo + 1)

/-- A cox of the scope has no free entry. -/
def State.scopeFull (s : State) (p : Nat) (ev : EventKind) : Bool :=
  (s.scopeSites p ev).any (fun site => decide (32 ≤ (s.cox site).events.length + (s.cox site).transit.length))

/-- Post an event: refused everywhere or held everywhere in its scope (R49). -/
def postEvent (s : State) (p : Nat) (ev : EventKind) (n : Nat) : State :=
  if !s.leadOk n then s.setPosted .stale
  else if s.scopeFull p ev then s.setPosted .full
  else (distribute s p ev n).setPosted .ok

/-- EVENT_POST (R49). -/
def execEventPost (p : PartId) (ev : EventKind) (n : W48) (s : State) : Host.Outcome State Fault Refusal :=
  .next (if (s.layoutOf p).isSome && !s.partStopped p && s.stroke.running then postEvent s p ev n.toNat else s.setPosted .none)

/-- COX_EVENT_RECEIVE (R49, R50, R58): the oldest event on its way enters the cox's table. A higher operating point
raises the voltage of the regions concerned whose clocks run; a stopped one's rises when it resumes. An event whose stroke has passed will act at the next boundary. -/
def execCoxEventReceive (site : SiteId) (s : State) : Host.Outcome State Fault Refusal :=
  .next (match (s.cox site).transit with
    | [] => s
    | e :: rest =>
      let c := s.cox site
      let e' := if e.stroke ≤ c.count then { e with stroke := c.count + 1, late := true } else e
      let s1 := s.updCox site (fun c => { c with transit := rest, events := c.events ++ [e'] })
      match e.ev with
      | .freq crew op => s1.each ((s1.crewRegions e.part crew).filter (fun r => r / 4 == site.val)) (fun s r =>
          raiseRail s r op.val)
      | _ => s1)

/-! ## Clock events of a region -/

/-- REF_LOST (R54): the clock stops, the region is fenced; no defect entry. -/
def execRefLost (r : PRegion) (s : State) : Host.Outcome State Fault Refusal :=
  .next (if (s.region r).clock == .running || (s.region r).clock == .stopped then
      (setStrokeRc (fenceRegion s r 0) 19).updRegion r (fun x => { x with clock := .lost, chg := none })
    else s)

/-- DROOP_DETECT (R55). -/
def execDroopDetect (r : PRegion) (s : State) : Host.Outcome State Fault Refusal :=
  .next (if (s.region r).clock == .running then s.updRegion r (fun x => { x with droop := .stretched }) else s)

/-- DROOP_CLEAR (R55): the period comes back over 8 region cycles, and then is unstretched. -/
def execDroopClear (r : PRegion) (s : State) : Host.Outcome State Fault Refusal :=
  .next (s.updRegion r (fun x => { x with droop := match x.droop with
    | .stretched => .recovering
    | _ => .none }))

end Sys2Proof.Machine
end

