-- ==== Sys2Proof/Machine/HubPage.lean ====
section
/-!
DEFINITION. The words of the hub register page (R459) as a host port reads them, and the writes of registers that have no
command of their own (R13, R15, R393).
-/
namespace Sys2Proof.Machine

/-! ## Words -/

def LayState.code : LayState → Nat
  | .empty => 0
  | .fetching => 1
  | .staged => 2
  | .rejected => 3
  | .replacePending => 4
  | .applying => 5

/-- VER registers and HUB_ID (R408, R460). -/
def State.idWord (s : State) (p off : Nat) : Nat :=
  match off with
  | 0x000 => 0x01000000 + (s.hub p).minor
  | 0x004 => 0x01000000
  | 0x008 => 0x01010000
  | 0x00C => fabricMin * 2 ^ 24 + fabricMax * 2 ^ 16
  | 0x010 =>
    let live := (List.range 4).foldl (fun a h => if (s.hub h).live then a + 2 ^ h else a) 0
    (match s.layoutOf p with
      | some l => 2 ^ 31 + l.part.lastCol * 2 ^ 20 + l.part.firstCol * 2 ^ 16
      | none => 0) + live * 16 + p
  | _ => 0

/-- INV_COUNT (R361): counts of powered and fenced silicon, from INVENTORY on. -/
def State.invCount (s : State) : Nat :=
  if s.bring.done < 4 then 0
  else
    let sites := s.part.siteList
    let fenced := sites.filter (fun st => (s.cox st).fenced)
    let live := sites.filter (fun st => s.power.efuses.has st && !(s.cox st).fenced)
    let regions := (sites.flatMap siteRegions).filter (fun r => (s.region r).fenced)
    let stk := s.part.stackList.filter (fun st => (s.stack st).state != 4)
    live.length * 2 ^ 24 + fenced.length * 2 ^ 16 + regions.length * 2 ^ 6 + stk.length

/-- The entry that DEFECT_SEL names (R361). -/
def State.selectedEntry (s : State) (p : Nat) : List Byte :=
  let sel := (s.hub p).defSel.toNat
  let l := if sel.testBit 31 then s.defects.field else s.defects.factory
  (l[sel % 65536]?.map Defect.bytes).getD []

/-- Bring-up, inventory and recovery registers (R360, R361). -/
def State.bringWord (s : State) (p off : Nat) : Nat :=
  let b := s.bring
  let h := s.hub p
  match off with
  | 0x104 => b.done * 2 ^ 28 + b.running * 2 ^ 24 + flag b.failed 23 + flag b.stopped 22 + flag b.recovery 21 + flag (b.ready.has p) (16 + p)
      + b.count
  | 0x108 => b.errCode * 2 ^ 24 + b.errStep * 2 ^ 20 + b.errPort * 2 ^ 18 + b.errDetail
  | 0x10C => s.part.fuseWords.getD 0 0
  | 0x110 => s.part.fuseWords.getD 1 0
  | 0x114 => s.part.fuseWords.getD 2 0
  | 0x118 => s.part.fuseWords.getD 3 0
  | 0x11C => s.invCount
  | 0x120 => s.defects.factory.length
  | 0x124 => flag s.defects.full 31 + flag s.defects.clearPend 30 + s.defects.bad * 2 ^ 17 + s.defects.field.length
  | 0x128 => h.defSel.toNat
  | 0x12C => natLE (Sys2Proof.Machine.slice (s.selectedEntry p) 0 4)
  | 0x130 => natLE (Sys2Proof.Machine.slice (s.selectedEntry p) 4 4)
  | 0x134 => natLE (Sys2Proof.Machine.slice (s.selectedEntry p) 8 4)
  | 0x138 => natLE (Sys2Proof.Machine.slice (s.selectedEntry p) 12 4)
  | 0x140 => flag (b.recovStored == 0) 31 + s.sec.runVersion
  | 0x144 => b.resent * 2 ^ 16 + b.digestFailed
  | 0x148 => b.coresFailed * 2 ^ 19 + b.linksHalf * 2 ^ 9 + b.linksOff
  | 0x180 => h.recovAddr % 2 ^ 32
  | 0x184 => h.recovAddr / 2 ^ 32
  | 0x188 => h.recovLen
  | 0x190 => b.recovState * 2 ^ 29 + b.recovStored * 2 ^ 16 + b.recovSupplied * 2 ^ 8 + b.recovAttempts
  | _ => 0

/-- Layout and fabric registers (R190, R237). -/
def State.layWord (s : State) (p off : Nat) : Nat :=
  let h := s.hub p
  let y := h.lay
  match off with
  | 0x200 => y.addr % 2 ^ 32
  | 0x204 => y.addr / 2 ^ 32
  | 0x208 => y.len
  | 0x210 => y.state.code * 2 ^ 29 + flag y.layout?.isSome 28 + h.layRc.toNat + flag y.signed 26 + y.gen * 2 ^ 16 + y.applyCount
  | 0x214 => y.errPass * 2 ^ 16 + y.errSection * 2 ^ 8 + y.errCode
  | 0x218 => y.errRec
  | 0x220 => ((y.layout?.map (·.streamId)).getD 0) % 2 ^ 32
  | 0x224 => ((y.layout?.map (·.streamId)).getD 0) / 2 ^ 32
  | 0x228 => y.repl % 2 ^ 32
  | 0x22C => y.repl / 2 ^ 32
  | 0x300 => h.fab.window
  | 0x304 => flag h.fab.paused 31 + h.fabRc.toNat + h.fab.changes
  | 0x308 => sat 32 h.fab.fence
  | 0x30C => sat 32 h.fab.noroute
  | 0x310 => sat 32 h.fab.ttl
  | 0x314 => sat 32 h.fab.timeout
  | 0x318 => sat 32 h.fab.late
  | _ => 0

/-- Command, BAR2 and event registers (R408). -/
def State.cmdWord (s : State) (p off : Nat) : Nat :=
  let h := s.hub p
  let c := h.cmd
  match off with
  | 0x400 => c.ring % 2 ^ 32
  | 0x404 => c.ring / 2 ^ 32
  | 0x408 => c.sq % 2 ^ 32
  | 0x40C => c.sq / 2 ^ 32
  | 0x410 => c.cq % 2 ^ 32
  | 0x414 => c.cq / 2 ^ 32
  | 0x418 => c.sqLog * 2 ^ 27 + c.cqLog * 2 ^ 22 + flag c.coalesce 21 + c.every * 2 ^ 8 + c.batch
  | 0x420 => c.state * 2 ^ 30 + h.cmdRc.toNat + c.active.length * 2 ^ 16 + c.sqHead % 2 ^ c.sqLog
  | 0x424 => sat 16 c.lost * 2 ^ 16 + c.cqTail
  | 0x428 => c.err * 2 ^ 24
  | 0x430 => h.bar2 % 2 ^ 32
  | 0x434 => h.bar2 / 2 ^ 32
  | 0x440 => h.evt.toNat
  | 0x444 => h.err.toNat
  | 0x448 => h.errAddr % 2 ^ 32
  | 0x44C => flag h.errBar2 31 + h.errAddr / 2 ^ 32
  | 0x450 => h.alias_.toNat
  | _ => 0

/-- Stroke registers with a copy of the RC bits (R60, R61). -/
def State.strokeWord (s : State) (rc : W32) (off : Nat) : Nat :=
  let k := s.stroke
  match off with
  | 0x600 => flag k.free 31 + flag k.slew 30 + flag k.master2 29 + rc.toNat + k.entries
  | 0x604 => k.period / 10
  | 0x608 => k.dflt
  | 0x610 => k.count % 2 ^ 32
  | 0x614 => k.count / 2 ^ 32
  | 0x618 => k.base % 2 ^ 32
  | 0x61C => k.base / 2 ^ 32
  | _ => 0

/-- A stack record of a port (R290). -/
def State.stackWord (s : State) (p st w : Nat) : Nat :=
  if s.partOfStack st ≠ some p then 0
  else
    let x := s.stack st
    let pools := (List.range 32).map (fun i => (s.slice (st * 32 + i)).pool)
    match w with
    | 0 => x.state * 2 ^ 29 + flag x.degraded 28 + flag ((s.hub p).interleave.contains st) 27 + x.cause * 2 ^ 24 + pools.foldl min 256
    | 1 => sat 32 x.ce
    | 2 => sat 16 x.poisoned * 2 ^ 16 + sat 16 x.ue
    | 3 => sat 16 x.listed.length * 2 ^ 16 + sat 16 x.newRet
    | 4 => sat 8 x.repaired * 2 ^ 24 + sat 8 x.temp * 2 ^ 16 + sat 16 x.retrains
    | _ => 0

/-- Power registers with a copy of the RC bits (R295, R311). -/
def State.powerWord (s : State) (rc : W32) (off : Nat) : Nat :=
  let w := s.power
  if off < 0x2100 then
    match off with
    | 0x2000 => sat 16 w.vin * 2 ^ 16 + sat 16 w.iin
    | 0x2004 => flag w.limited 31 + flag w.peak 30 + rc.toNat + w.converters * 2 ^ 20 + w.failed
    | 0x2008 => sat 16 w.queue.length * 2 ^ 16 + (match w.queue with
      | [] => 0x3FF
      | q :: _ => (s.logicalRegion q.region).getD q.region)
    | 0x2010 => w.reenResult * 2 ^ 30 + w.reenKind * 2 ^ 28 + w.reenId
    | _ => 0
  else if off < 0x2370 then
    let g := (off - 0x2100) / 0x10
    let x := s.group g
    let here := (groupSites g).any s.part.siteList.contains
    match off % 0x10 with
    | 0 => if here then x.state * 2 ^ 30 + x.cause * 2 ^ 28 + x.sites else 3 * 2 ^ 30
    | 4 => sat 16 x.peak * 2 ^ 16 + sat 16 x.mean
    | 8 => sat 16 x.headroom * 2 ^ 16 + sat 16 x.used
    | _ => 0
  else if off < 0x2400 then 0
  else if off < 0x2580 then
    let st := (off - 0x2400) / 8
    let x : Rail := Tab.get {} w.rails st
    if off % 8 = 0 then (if s.part.stackPresent st then x.state else 3) * 2 ^ 30 else sat 16 x.peak * 2 ^ 16 + sat 16 x.mean
  else if off < 0x2600 then 0
  else if off < 0x2630 then
    let x : Rail := Tab.get {} w.aux ((off - 0x2600) / 8)
    if off % 8 = 0 then x.state * 2 ^ 30 else sat 16 x.peak * 2 ^ 16 + sat 16 x.mean
  else 0

/-- A signed reading in 16 bits. -/
def half (i : Int) : Nat := (i % 65536).toNat

/-- Power cap and coolant registers with a copy of the RC bits (R339). -/
def State.coolWord (s : State) (p : Nat) (rc : W32) (off : Nat) : Nat :=
  let c := s.cool
  let h := s.hub p
  match off with
  | 0x2800 => h.pcap
  | 0x2804 => sat 16 (h.partMw / 1000) * 2 ^ 16 + h.partR * 2 ^ 9
  | 0x2808 => rc.toNat + flag c.leak 30 + flag c.alert80 29 + flag c.alert60 28 + flag c.inletHigh 27
  | 0x280C => sat 16 c.flow * 2 ^ 16 + sat 16 c.dp
  | 0x2810 => half c.outlet * 2 ^ 16 + half c.inlet
  | 0x2814 => c.stopCause * 2 ^ 29 + c.stopStroke
  | _ => 0

/-- Partition log (R381). -/
def State.logWord (s : State) (p off : Nat) : Nat :=
  let h := s.hub p
  if off < 0x3000 then
    match off with
    | 0x2900 => h.logWr
    | 0x2904 => h.logRd
    | 0x2908 => sat 16 h.lost * 2 ^ 16 + h.pending
    | _ => 0
  else recordWord (logAt h.log ((off - 0x3000) / 0x10)) (off % 0x10 / 4)

/-- A port record of a fabric port (R429). -/
def FPort.word (f : FPort) (w : Nat) : Nat :=
  match w with
  | 0x00 => f.state * 2 ^ 29 + flag f.width4 28 + (if f.linkUp then f.version else 0) * 2 ^ 20 + f.cause * 2 ^ 16 + sat 16 f.ups
  | 0x04 => flag f.enable 31 + flag f.winIrq 30
  | 0x0C => f.rateReq * 2 ^ 8 + f.rateCol
  | 0x10 => natLE (f.peer.take 4)
  | 0x14 => natLE (slice f.peer 4 4)
  | 0x18 => sat 32 f.malf
  | 0x1C => sat 16 f.tagFails * 2 ^ 16 + sat 16 f.hsFails
  | 0x20 => sat 16 f.replays * 2 ^ 16 + sat 16 f.retrains
  | 0x24 => sat 32 f.stale
  | _ => 0

/-- The words of a window (R429). -/
def Window.word (x : Window) (w : Nat) : Nat :=
  match w with
  | 0 => flag x.enable 31 + x.base
  | 4 => x.log2
  | 8 => x.wr % 2 ^ 32
  | _ => x.rd % 2 ^ 32

/-- Port and window records: live at the hub of the port's partition. -/
def State.portWord (s : State) (p off : Nat) : Nat :=
  let f := off % 0x1000 / 0x100
  let x : FPort := if (s.fport f).part == some p then s.fport f else {}
  if off < 0x5000 then x.word (off % 0x100) else (x.window (off % 0x100 / 0x10)).word (off % 0x10)

/-- The bezel site of hub n, live when the site belongs to the hub's partition (R363, R456). -/
def State.bezelOf (s : State) (p n : Nat) : Bool := p == n && ((s.layoutOf p).map (·.part.bezel)).getD false

/-- Bezel records and windows (R456). -/
def State.bezWord (s : State) (p off : Nat) : Nat :=
  let n := (off - 0x6400) / 0x200
  let b : Bezel := if s.bezelOf p n then s.bezel n else {}
  let o := (off - 0x6400) % 0x200
  if o < 0x100 then
    match o with
    | 0x0 => b.state * 2 ^ 29 + b.cause * 2 ^ 26 + flag b.width32 25
    | 0x4 => b.out * 2 ^ 24 + b.rate * 2 ^ 16
    | 0xC => sat 16 b.violW * 2 ^ 16 + sat 16 b.violF
    | _ => 0
  else
    let w : BezWindow := Tab.get {} b.windows ((o - 0x100) / 0x10)
    match o % 0x10 with
    | 0x0 => w.base % 2 ^ 32
    | 0x4 => w.base / 2 ^ 32
    | 0x8 => flag w.valid 31 + w.rwa * 2 ^ 28 + w.log2
    | _ => 0

/-- Security registers (R456). -/
def State.secWord (s : State) (p off : Nat) : Nat :=
  let x := s.sec
  let c := (s.hub p).sec
  if 0x6010 ≤ off ∧ off < 0x6030 then natLE (Sys2Proof.Machine.slice x.nonce (off - 0x6010) 4)
  else match off with
  | 0x6000 => flag x.owned 31 + flag x.session.isSome 30 + ((x.session.map (·.scope)).getD 0) % 16 * 2 ^ 26 + flag x.restorePend 25
      + flag (!x.userCal.isEmpty) 24 + x.policy.flags * 2 ^ 21 + flag x.updatePend 20
  | 0x6030 => c.addr % 2 ^ 32
  | 0x6034 => c.addr / 2 ^ 32
  | 0x6038 => c.len
  | 0x6040 => c.state * 2 ^ 29 + c.code * 2 ^ 16 + c.result * 2 ^ 8 + c.detail
  | 0x6044 => x.floor
  | 0x6048 => if x.owned then natLE ((digest64 x.ownerKey).take 4) else 0
  | 0x604C => if x.owned then natLE (Sys2Proof.Machine.slice (digest64 x.ownerKey) 4 4) else 0
  | 0x6050 => natLE (identityDigest.take 4)
  | 0x6054 => natLE (Sys2Proof.Machine.slice identityDigest 4 4)
  | _ => 0

/-- The MSI-X table and pending-bit array (R462). -/
def Hub.msixWord (h : Hub) (off : Nat) : Nat :=
  if off < 0x8400 then
    let e : MsixEntry := Tab.get {} h.msix ((off - 0x8000) / 0x10)
    match off % 0x10 with
    | 0x0 => e.addrLo.toNat
    | 0x4 => e.addrHi.toNat
    | 0x8 => e.data.toNat
    | _ => e.ctrl.toNat
  else if off = 0x9000 ∨ off = 0x9004 then
    (List.range 32).foldl (fun a i => if h.msixPend.has ((off - 0x9000) * 8 + i) then a + 2 ^ i else a) 0
  else 0

/-- A copy of the RC bits of the panel's registers, as one reader sees them. -/
structure RcView where
  stroke : W32
  power  : W32
  cool   : W32
  deriving DecidableEq, Repr

/-- A word of the hub register page at port p (R459); reserved offsets read 0. -/
def State.pageWord (s : State) (p off : Nat) (rc : RcView) : Nat :=
  if off < 0x100 then s.idWord p off
  else if off < 0x200 then s.bringWord p off
  else if off < 0x400 then s.layWord p off
  else if off < 0x500 then s.cmdWord p off
  else if off < 0x530 then colMapWord s.part ((off - 0x500) / 4) (s.colMap ((off - 0x500) / 4))
  else if off < 0x1000 then s.strokeWord rc.stroke off
  else if off < 0x1600 then s.stackWord p ((off - 0x1000) / 0x20) (off % 0x20 / 4)
  else if off < 0x2000 then 0
  else if off < 0x2800 then s.powerWord rc.power off
  else if off < 0x2900 then s.coolWord p rc.cool off
  else if off < 0x4000 then s.logWord p off
  else if off < 0x6000 then s.portWord p off
  else if off < 0x6400 then s.secWord p off
  else if off < 0x6C00 then s.bezWord p off
  else if off < 0x8000 then 0
  else (s.hub p).msixWord off

/-- The word that port p reads. -/
def State.hubWord (s : State) (p off : Nat) : Nat :=
  s.pageWord p off { stroke := (s.hub p).strokeRc, power := (s.hub p).pwrRc, cool := (s.hub p).coolRc }

/-- Offsets whose registers have panel scope (R459). -/
def panelScope (off : Nat) : Bool :=
  decide (off < 0x010) || (decide (0x100 ≤ off) && decide (off < 0x128)) || (decide (0x140 ≤ off) && decide (off < 0x14C)) || off == 0x190
  || (decide (0x500 ≤ off) && decide (off < 0x530)) || (decide (0x600 ≤ off) && decide (off < 0x620) && off != 0x60C)
  || (decide (0x2000 ≤ off) && decide (off < 0x2014)) || (decide (0x2100 ≤ off) && decide (off < 0x2370))
  || (decide (0x2400 ≤ off) && decide (off < 0x2580)) || (decide (0x2600 ≤ off) && decide (off < 0x2630))
  || (decide (0x2808 ≤ off) && decide (off < 0x2818)) || off == 0x6000 || (decide (0x6010 ≤ off) && decide (off < 0x6030))
  || (decide (0x6044 ≤ off) && decide (off < 0x6058))

/-! ## RC bits (R13, R394, R395) -/

/-- Clear RC bits of the reading port's copy of a register. -/
def clearRc (s : State) (p off : Nat) (mask : W32) : State :=
  s.updHub p (fun h => match off with
    | 0x210 => { h with layRc := h.layRc &&& ~~~mask }
    | 0x304 => { h with fabRc := h.fabRc &&& ~~~mask }
    | 0x420 => { h with cmdRc := h.cmdRc &&& ~~~mask }
    | 0x440 => { h with evt := h.evt &&& ~~~(mask.setWidth 8) }
    | 0x444 => { h with err := h.err &&& ~~~mask }
    | 0x600 => { h with strokeRc := h.strokeRc &&& ~~~mask }
    | 0x2004 => { h with pwrRc := h.pwrRc &&& ~~~mask }
    | 0x2808 => { h with coolRc := h.coolRc &&& ~~~mask }
    | _ => h)

/-! ## Writes (R13, R15, R393) -/

/-- The LO half of a pair goes to the port's shadow. -/
def shadowLo (s : State) (p off v : Nat) : State :=
  s.updHub p (fun h => { h with shadows := Tab.put 0 h.shadows off (BitVec.ofNat 32 v) })

/-- The pair a HI write commits: its value with the port's shadow LO at the given offset. -/
def State.committed (s : State) (p lo hi : Nat) : Nat := hi * 2 ^ 32 + (Tab.get 0 (s.hub p).shadows lo).toNat

/-- Layout registers: ignored while a stream is fetched, pending or applied (R190). -/
def State.layOpen (s : State) (p : Nat) : Bool :=
  let y := (s.hub p).lay.state
  !(y == .fetching || y == .replacePending || y == .applying)

/-- RECOV and layout registers. -/
def writeLay (s : State) (p off v : Nat) : State :=
  match off with
  | 0x180 => shadowLo s p off v
  | 0x184 => s.updHub p (fun h => { h with recovAddr := s.committed p 0x180 v })
  | 0x188 => s.updHub p (fun h => { h with recovLen := v % 2 ^ 27 })
  | 0x200 => if s.layOpen p then shadowLo s p off v else s
  | 0x204 => if s.layOpen p then s.updLay p (fun y => { y with addr := s.committed p 0x200 v }) else s
  | 0x208 => if s.layOpen p then s.updLay p (fun y => { y with len := v % 2 ^ 29 }) else s
  | 0x228 => if s.layOpen p then shadowLo s p off v else s
  | 0x22C => if s.layOpen p then s.updLay p (fun y => { y with repl := s.committed p 0x228 (v % 2 ^ 16) }) else s
  | 0x300 => if 1 ≤ v % 32 ∧ v % 32 ≤ 16 then s.updFab p (fun f => { f with window := v % 32 }) else s
  | _ => s

/-- A logarithm field takes its listed values only (R15). -/
def listed (lo hi v old : Nat) : Nat := if lo ≤ v ∧ v ≤ hi then v else old

/-- Command ring registers, locked at READY (R398, R408), and ALIAS_SEL. -/
def writeCmd (s : State) (p off v : Nat) : State :=
  let locked := (s.hub p).cmd.locked
  match off with
  | 0x400 => if locked then s else shadowLo s p off v
  | 0x404 => if locked then s else s.updCmd p (fun c => { c with ring := s.committed p 0x400 v })
  | 0x408 => if locked then s else shadowLo s p off v
  | 0x40C => if locked then s else s.updCmd p (fun c => { c with sq := s.committed p 0x408 v })
  | 0x410 => if locked then s else shadowLo s p off v
  | 0x414 => if locked then s else s.updCmd p (fun c => { c with cq := s.committed p 0x410 v })
  | 0x418 => s.updCmd p (fun c => { c with
      sqLog := if locked then c.sqLog else listed 4 16 (v / 2 ^ 27) c.sqLog
      cqLog := if locked then c.cqLog else listed 4 16 (v / 2 ^ 22 % 32) c.cqLog
      coalesce := v.testBit 21, every := v / 2 ^ 8 % 256, batch := v % 256 })
  | 0x430 => shadowLo s p off v
  | 0x450 =>
    let i := v % 2 ^ 13
    if (if v.testBit 31 then i < 288 else i < 144) then
      s.updHub p (fun h => { h with alias_ := BitVec.ofNat 32 ((if v.testBit 31 then 2 ^ 31 else 0) + i) }) else s
  | _ => s

/-- Stroke registers (R61), PCAP (R339) and the partition log's read index (R381). -/
def writePanel (s : State) (p off v : Nat) : State :=
  match off with
  | 0x128 => s.updHub p (fun h => { h with defSel := BitVec.ofNat 32 ((if v.testBit 31 then 2 ^ 31 else 0) + v % 65536) })
  | 0x608 => if 200 ≤ v % 2 ^ 20 ∧ v % 2 ^ 20 ≤ 1000000 then s.updStroke (fun k => { k with dflt := v % 2 ^ 20 }) else s
  | 0x618 => if s.stroke.baseLocked then s else shadowLo s p off v
  | 0x61C => if s.stroke.baseLocked then s else s.updStroke (fun k => { k with base := s.committed p 0x618 (v % 2 ^ 16) })
  | 0x2800 =>
    let c := v % 2 ^ 15
    if c = 0 ∨ (500 ≤ c ∧ c ≤ 20000) then s.updHub p (fun h => { h with pcap := c }) else s
  | 0x2904 => s.updHub p (fun h =>
      let r := v % 256
      { h with logRd := r, pending := if h.pending = 256 ∧ r = h.logRd then 256 else (h.logWr + 256 - r) % 256 })
  | _ => s

/-- PORT_CFG, PORT_RATE, WIN_BASE and WIN_SIZE (R412, R422, R429): the host of the port's partition writes them. -/
def writePort (s : State) (p off v : Nat) : State :=
  let f := off % 0x1000 / 0x100
  if (s.fport f).part ≠ some p then s
  else if off < 0x5000 then
    match off % 0x100 with
    | 0x04 =>
      let s1 := s.updFport f (fun x => { x with enable := v.testBit 31, winIrq := v.testBit 30 })
      let st := (s.fport f).state
      if v.testBit 31 || st == 0 || st == 2 || st == 6 || st == 7 then s1
      else if st == 4 || st == 5 then portQuit s1 f 10 else portClose s1 f 7 10
    | 0x0C => s.updFport f (fun x => { x with
        rateReq := listed 1 100 (v / 256 % 256) x.rateReq, rateCol := listed 1 100 (v % 256) x.rateCol })
    | _ => s
  else
    let w := off % 0x100 / 0x10
    let x := (s.fport f).window w
    match off % 0x10 with
    | 0x0 =>
      let base := v % 2 ^ 29
      if !v.testBit 31 then s.updWindow f w (fun y => { y with enable := false, base := if y.enable then y.base else base })
      else if x.enable || base * 4096 % x.size ≠ 0 then s
      else advertise (s.updWindow f w (fun y => { y with
        enable := true, base := base, wr := 0, rd := 0, tail := 0, recs := [], seqNo := 0, credit := 0 })) f w
    | 0x4 => if x.enable then s else s.updWindow f w (fun y => { y with log2 := listed 12 31 (v % 32) y.log2 })
    | _ => s

/-- A bezel window lies within what R451 allows it. -/
def State.bezAllowed (s : State) (p base log2 : Nat) : Bool :=
  let last := base + 2 ^ log2 - 1
  let mine := fun (d : Nat) => s.partOfDie d == some p
  decide (base % 2 ^ log2 = 0) && (match targetOf base, targetOf last with
    | .hbm _, .hbm _ => true
    | .sram l _, .sram m _ => mine (lcidDie l) && mine (lcidDie m)
    | .sram l _, .reserved => mine (lcidDie l) && decide ((last - 0x100000000000) / 0x400000 < 4608) && mine (lcidDie ((last - 0x100000000000) / 0x400000))
    | .sync o _, .sync q _ => mine (objDie o) && mine (objDie q)
    | _, _ => false)

/-- BEZ_CFG and the bezel windows (R451, R456). -/
def writeBez (s : State) (p off v : Nat) : State :=
  let n := (off - 0x6400) / 0x200
  let o := (off - 0x6400) % 0x200
  if !s.bezelOf p n then s
  else if o < 0x100 then
    if o = 4 then s.updBezel n (fun b => { b with out := v / 2 ^ 24 % 256, rate := listed 1 112 (v / 2 ^ 16 % 256) b.rate }) else s
  else
    let w := (o - 0x100) / 0x10
    let x : BezWindow := Tab.get {} (s.bezel n).windows w
    let put := fun (y : BezWindow) =>
      if (s.bezel n).state = 3 || (y.valid && !s.bezAllowed p y.base y.log2) then s
      else s.updBezel n (fun b => { b with windows := Tab.put {} b.windows w y })
    match o % 0x10 with
    | 0x0 => shadowLo s p off (v / 4096 * 4096)
    | 0x4 => put { x with base := s.committed p (off - 4) (v % 2 ^ 16) }
    | 0x8 => put { x with valid := v.testBit 31, rwa := v / 2 ^ 28 % 8, log2 := listed 12 40 (v % 64) x.log2 }
    | _ => s

/-- SEC_CMD registers (R437, R456): GO starts the fetch of a command. -/
def writeSec (s : State) (p off v : Nat) : State :=
  match off with
  | 0x6030 => shadowLo s p off v
  | 0x6034 => s.updSecPort p (fun c => { c with addr := s.committed p 0x6030 v })
  | 0x6038 => s.updSecPort p (fun c => { c with len := v % 2 ^ 27 })
  | 0x603C =>
    let c := (s.hub p).sec
    if v % 2 = 1 && !(decide (1 ≤ c.state) && decide (c.state ≤ 3)) then
      (s.updSecPort p (fun c => { c with state := 1 })).emit (.hostRead p c.addr c.len) else s
  | _ => s

/-- The MSI-X table (R462): a vector with its pending bit set is sent when it is unmasked. -/
def writeMsix (s : State) (p off v : Nat) : State :=
  if 0x8400 ≤ off then s
  else
    let n := (off - 0x8000) / 0x10
    let d := BitVec.ofNat 32 v
    let s1 := s.updHub p (fun h => { h with msix := Tab.upd {} h.msix n (fun (e : MsixEntry) => match off % 0x10 with
      | 0x0 => { e with addrLo := d &&& 0xFFFFFFFC }
      | 0x4 => { e with addrHi := d }
      | 0x8 => { e with data := d }
      | _ => { e with ctrl := d &&& 1 }) })
    let e : MsixEntry := Tab.get {} (s1.hub p).msix n
    if e.ctrl &&& 1 = 0 && (s1.hub p).msixPend.has n then
      msixSend (s1.updHub p (fun h => { h with msixPend := h.msixPend.del n })) p n else s1

/-- A whole-word write of a register with no command of its own (R13). -/
def writeReg (s : State) (p off v : Nat) : State :=
  if off = 0 then (if v % 256 = 0 then s.updHub p (fun h => { h with minor := 0 }) else s)
  else if off = 0x128 then writePanel s p off v
  else if off < 0x400 then writeLay s p off v
  else if off < 0x500 then writeCmd s p off v
  else if off < 0x4000 then writePanel s p off v
  else if off < 0x6000 then writePort s p off v
  else if off < 0x6400 then writeSec s p off v
  else if off < 0x6C00 then writeBez s p off v
  else if off < 0x8000 then s
  else writeMsix s p off v

end Sys2Proof.Machine
end

