-- ==== Sys2Proof/Machine/Bezel.lean ====
section
/-!
DEFINITION. The commands of the bezels (R449 to R453): the host's control, the filter on a bezel die's packets, and the loss of
the link.
-/
namespace Sys2Proof.Machine

/-- Port p controls the bezel site of its hub while its partition has it. -/
def State.bezControl (s : State) (p : Nat) : Bool :=
  s.supply.booted && !s.bring.recovery && s.part.hostPresent p && (s.hub p).live && (s.hub p).linkUp && s.bezelOf p p

/-- BEZ_ENABLE (R450): opens an admitted site. -/
def execBezEnable (p : PortId) (s : State) : Host.Outcome State Fault Refusal :=
  .next (if s.bezControl p && (s.bezel p).state = 2 then s.updBezel p (fun b => { b with state := 3 }) else s)

/-- BEZ_DISABLE (R456): an enabled site is admitted again. -/
def execBezDisable (p : PortId) (s : State) : Host.Outcome State Fault Refusal :=
  .next (if s.bezControl p && (s.bezel p).state = 3 then s.updBezel p (fun b => { b with state := 2 }) else s)

/-- BEZ_REARM (R453, R456): R450 is repeated after refusal, quarantine or down. -/
def execBezRearm (p : PortId) (ans : BezelAnswer) (s : State) : Host.Outcome State Fault Refusal :=
  .next (
    let st := (s.bezel p).state
    if s.bezControl p && (st = 1 || st = 4 || st = 5) then admitBezel s p ans else s)

/-- Quarantine (R453): responses still due are discarded. -/
def bezQuarantine (s : State) (n cause : Nat) : State :=
  secRecord (s.updBezel n (fun b => { b with state := 4, cause := cause, pend := [] })) 0x1E n

/-- The window that covers an access and gives the permission asked: R is 4, W 2, A 1. -/
def Bezel.allows (b : Bezel) (a n perm : Nat) : Bool :=
  (b.windows.map (·.2)).any (fun w => w.valid && decide (w.base ≤ a) && decide (a + n ≤ w.base + 2 ^ w.log2) && w.rwa / perm % 2 == 1)

/-- The bytes a request of a bezel die concerns. -/
def bezLen (r : BezelReq) : Nat :=
  match r.opc.toNat with
  | 0 => natLE (r.payload.take 2) % 512 + 1
  | 1 => r.payload.length
  | 2 => r.aux.toNat % 16 + 1
  | _ => 8

/-- R452: RD and WRS need R or W, WR needs W, ATOM needs A and a window in HBM; a sync object's SYNC_HOST is written, its other
words are read (R451). -/
def bezPermitted (b : Bezel) (r : BezelReq) : Bool :=
  let a := r.addr.toNat
  let n := bezLen r
  let whole := match targetOf a with
    | .sync _ off => a % 4 == 0 && n == 4 && (r.opc.toNat == 0 || (off == 12 && r.opc.toNat == 2))
    | .hbm _ => true
    | .sram _ _ => r.opc.toNat != 3
    | _ => false
  whole && (match r.opc.toNat with
    | 1 => b.allows a n 2
    | 3 => b.allows (a / 8 * 8) 8 1 && (match targetOf a with
      | .hbm _ => true
      | _ => false)
    | _ => b.allows a n 4 || b.allows a n 2)

/-- The node that serves a window address of the partition. -/
def State.bezNode (s : State) (p a : Nat) : Option Node :=
  match targetOf a with
  | .hbm x => (hbmLocate (s.hub p).interleave x).map (fun l => sliceNode l.1)
  | .sram l _ => s.lcidNode l
  | .sync o _ => s.objNode o
  | _ => none

/-- A packet breaks a rule of R452 that its header alone decides. -/
def bezFilters (r : BezelReq) : Bool := r.cls != 0 || decide (4 ≤ r.opc.toNat) || !r.clean || (r.opc.toNat == 1 && (r.payload.isEmpty || decide (512 < r.payload.length)))

/-- A packet that passes is injected in class REQ; a write of SYNC_HOST goes in class FWD. -/
def bezInject (s : State) (n : Nat) (r : BezelReq) (dst : Node) : State :=
  let sync := match targetOf r.addr.toNat with
    | .sync _ _ => r.opc.toNat == 2
    | _ => false
  let pk : Packet := { cls := if sync then 1 else 0, opc := r.opc.toNat, ctrl := r.opc.toNat != 1, part := n, tag := r.tag.toNat
                       addr := r.addr.toNat, aux := r.aux.toNat, payload := if r.opc = 1 then r.payload else padTo 16 r.payload, loc := bezelNode n }
  (s.updBezel n (fun b => { b with pend := b.pend ++ [r.tag.toNat] })).send ((pk.setSrc (bezelNode n)).setDest dst)

/-- BEZEL_PACKET (R452, R453). -/
def execBezelPacket (n : Fin 4) (r : BezelReq) (s : State) : Host.Outcome State Fault Refusal :=
  .next (
    let b := s.bezel n
    if b.state ≠ 3 || !s.bezelOf n n then s
    else if 64 < r.against then bezQuarantine s n 6
    else if bezFilters r then
      bezQuarantine (secRecord (s.updBezel n (fun b => { b with violF := sat 16 (b.violF + 1) })) 0x1D n) n 4
    else if !bezPermitted b r then
      let at_ := recentTimes b.winAt s.now 1000000
      let s1 := (s.updBezel n (fun b => { b with violW := sat 16 (b.violW + 1), winAt := at_ })).emit (.bezel n r.tag.toNat 1 [])
      if 16 ≤ at_.length then bezQuarantine s1 n 5 else s1
    else match s.bezNode n r.addr.toNat with
      | some dst => if b.pend.length < b.out + 1 then bezInject s n r dst else s
      | none => s.emit (.bezel n r.tag.toNat 1 []))

/-- BEZEL_LINK_LOST (R453): retraining failed after 1 ms. -/
def execBezelLinkLost (n : Fin 4) (s : State) : Host.Outcome State Fault Refusal :=
  .next (
    let st := (s.bezel n).state
    if st = 2 || st = 3 then secRecord (s.updBezel n (fun b => { b with state := 5, cause := 3, pend := [] })) 0x1C n else s)

end Sys2Proof.Machine
end

