-- ==== Sys2Proof/Machine/LayoutParse.lean ====
section
/-!
DEFINITION. Reading a layout stream (R167 to R186) and its checks at staging in the order of R188. A check names the
first record that fails: lowest section, then lowest index.
-/
namespace Sys2Proof.Machine

/-- An error of R188: code, section, record. -/
structure LErr where
  code : Nat
  sect : Nat
  recno : Nat
  deriving DecidableEq, Repr

/-- The record number of header, directory, trailer and padding. -/
def noRecord : Nat := 0xFFFFFFFF

/-- A directory entry (R170). -/
structure DirEntry where
  ty : Nat
  sflags : Nat
  rsize : Nat
  count : Nat
  off : Nat
  len : Nat
  deriving DecidableEq, Repr

/-- RSIZE by section type (R172). -/
def sectionSize (t : Nat) : Option Nat := if t = 0 then none else [64, 32, 8, 24, 32, 8, 16, 32, 48, 8, 16, 16, 2, 1][t - 1]?

/-- n bytes of a byte string from byte i, as a number. -/
def u (b : List Byte) (i n : Nat) : Nat := natLE (slice b i n)

def directory (b : List Byte) : List DirEntry :=
  (List.range (min (u b 12 2) ((b.length - 64) / 16))).map (fun i =>
    let o := 64 + 16 * i
    { ty := u b o 1, sflags := u b (o + 1) 1, rsize := u b (o + 2) 2, count := u b (o + 4) 4, off := u b (o + 8) 4, len := u b (o + 12) 4 })

/-- The records of a section. -/
def sectionRecs (b : List Byte) (d : List DirEntry) (t : Nat) : List (List Byte) :=
  match d.find? (fun e => e.ty == t), sectionSize t with
  | some e, some n => (List.range e.count).map (fun i => slice b (e.off + i * n) n)
  | _, _ => []

/-! ## Records -/

def partOf (r : List Byte) : PartRec :=
  { partition := u r 0 1, firstCol := u r 1 1, lastCol := u r 2 1, bezel := (u r 3 1).testBit 0, follow := (u r 3 1).testBit 1
    stackMask := u r 4 6, portMask := u r 10 2, powerCap := u r 12 4 }
def crewRecOf (r : List Byte) : CrewRec := { crew := u r 0 1, groups := u r 1 1, active := u r 2 1, rot := u r 4 4, seed := u r 8 8 }
def regionRecOf (r : List Byte) : RegionRec :=
  { region := u r 0 2, crew := u r 2 1, skew := u r 3 1 % 16, role := u r 3 1 / 16 % 4, pair := u r 4 2, group := u r 6 1 }
def programOf (r : List Byte) : ProgramRec :=
  { target := u r 0 2, all := (u r 2 1).testBit 0, image := u r 4 4, length := u r 8 4, base := u r 12 4, entry := u r 16 4 }
def placementOf (r : List Byte) : PlacementRec :=
  { target := u r 0 2, kind := u r 2 1 % 4, source := u r 2 1 / 4 % 4, offset := u r 4 4, length := u r 8 4, src := u r 16 8, stride := u r 24 8 }
def streamOf (r : List Byte) : StreamRec := { srcLcid := u r 0 2, srcId := u r 2 2, dstLcid := u r 4 2, dstId := u r 6 2 }
def syncRecOf (r : List Byte) : SyncRec :=
  { obj := u r 0 2, crew := u r 2 1, kind := u r 3 1, target := u r 4 4, listAt := u r 8 4, listN := u r 12 2, group := u r 14 1 }
def treeRecOf (r : List Byte) : TreeRec :=
  { tree := u r 0 2, ty := u r 2 1, op := u r 3 1, vfmt := u r 4 1, topk := u r 5 1, order := u r 6 1, k := u r 8 2, root := u r 10 2
    listAt := u r 12 4, listN := u r 16 2, maxBytes := u r 20 4 }
def expertOf (r : List Byte) : ExpertRec :=
  { expert := u r 2 1, crew := u r 3 1, capacity := u r 4 2, slots := u r 6 2, listAt := u r 8 4, intakeN := u r 12 1, rowBase := u r 16 4
    tagBase := u r 20 4, recBase := u r 24 4, arrive0 := u r 28 2, arrive1 := u r 30 2, free0 := u r 32 2, free1 := u r 34 2 }
def phaseRecOf (r : List Byte) : PhaseRec := { phase := u r 0 1, crew := u r 1 1, op := u r 2 1, wakeNs := u r 4 4 }
def planOf (r : List Byte) : PlanRec := { kind := u r 0 1, arg8 := u r 1 1, arg16 := u r 2 2, offset := u r 4 4, period := u r 8 4, length := u r 12 4 }
def checkRecOf (r : List Byte) : CheckRec :=
  { crew := u r 0 1, force := (u r 1 1).testBit 0, halt := (u r 1 1).testBit 1, n := u r 2 1, b := u r 3 1, w := u r 4 4 + 1 }

/-- The tables of a ROUTE section (R183): each header with the expert records behind it. -/
def routesOf (l : List (List Byte)) : List RouteTable :=
  l.foldl (fun ts r =>
    if u r 0 1 = 0 then
      ts ++ [({ table := u r 1 1, policy := u r 2 1, fanout := u r 3 1, expertsN := u r 4 2, window := u r 6 2, seedRow := u r 8 4, experts := [] } : RouteTable)]
    else match ts.getLast? with
      | some t => ts.dropLast ++ [({ t with experts := t.experts ++ [expertOf r] } : RouteTable)]
      | none => ts) []

/-- The layout that a stream's bytes state. -/
def readLayout (b : List Byte) : Layout :=
  let d := directory b
  let sec := sectionRecs b d
  { minor := u b 5 1, signed := (u b 6 1).testBit 0, streamId := u b 24 8, digest := slice b (u b 8 4) 64
    part := partOf ((sec 1).headD []), crews := (sec 2).map crewRecOf, regions := (sec 3).map regionRecOf, programs := (sec 4).map programOf
    placements := (sec 5).map placementOf, streams := (sec 6).map streamOf, syncs := (sec 7).map syncRecOf, trees := (sec 8).map treeRecOf
    routes := routesOf (sec 9), phases := (sec 10).map phaseRecOf, plan := (sec 11).map planOf, checks := (sec 12).map checkRecOf
    lcids := (sec 13).map natLE
    data := match d.find? (fun e => e.ty == 14) with
      | some e => slice b e.off e.len
      | none => [] }

/-! ## Crews and cores of a layout -/

/-- The region records of a crew in ascending region ID. -/
def Layout.crewRegs (l : Layout) (c : Nat) : List RegionRec := sortBy (fun a b => decide (a.region ≤ b.region)) (l.regions.filter (fun r => r.crew == c))

/-- The LCIDs of a crew in the order of SRD 0x0004: ascending, without partner cores. -/
def Layout.crewLcids (l : Layout) (c : Nat) : List Nat :=
  ((l.crewRegs c).filter (fun r => r.role != 2)).flatMap (fun r => (List.range 8).map (fun i => r.region * 8 + i))

def Layout.hasCrew (l : Layout) (c : Nat) : Bool := l.crews.any (fun r => r.crew == c)

/-- An LCID is a core of an assigned region and no partner core (R187). -/
def Layout.owns (l : Layout) (lc : Nat) : Bool := l.regions.any (fun r => r.region == lc / 8 && r.role != 2)

def Layout.lists (l : Layout) (i n : Nat) : List Nat := slice l.lcids i n

/-- The LCIDs of a placement or program record. -/
def Layout.targets (l : Layout) (crewWide : Bool) (target : Nat) : List Nat := if crewWide then l.crewLcids target else [target]

/-- Every LCID that a record names, with its section and record (R187), in order. -/
def Layout.refs (l : Layout) : List (Nat × Nat × Nat) :=
  (l.programs.zipIdx.flatMap (fun (r, i) => if r.all then [] else [(4, i, r.target)]))
  ++ (l.placements.zipIdx.flatMap (fun (r, i) => if r.kind = 0 then [(5, i, r.target)] else []))
  ++ (l.streams.zipIdx.flatMap (fun (r, i) => ([r.srcLcid, r.dstLcid].filter (fun x => decide (x < 0xF000))).map (fun x => (6, i, x))))
  ++ (l.syncs.zipIdx.flatMap (fun (r, i) => (l.lists r.listAt r.listN).map (fun x => (7, i, x))))
  ++ (l.trees.zipIdx.flatMap (fun (r, i) => (r.root :: l.lists r.listAt r.listN).map (fun x => (8, i, x))))

/-- The expert records with their indices in the ROUTE section and their tables. -/
def Layout.expertIdx (l : Layout) : List (Nat × RouteTable × ExpertRec) :=
  (l.routes.foldl (fun (a : Nat × List (Nat × RouteTable × ExpertRec)) t =>
    (a.1 + 1 + t.experts.length, a.2 ++ t.experts.zipIdx.map (fun (e, i) => (a.1 + 1 + i, t, e)))) (0, [])).2
def Layout.tableIdx (l : Layout) : List (Nat × RouteTable) :=
  (l.routes.foldl (fun (a : Nat × List (Nat × RouteTable)) t => (a.1 + 1 + t.experts.length, a.2 ++ [(a.1, t)])) (0, [])).2

def Layout.allRefs (l : Layout) : List (Nat × Nat × Nat) :=
  l.refs ++ l.expertIdx.flatMap (fun (i, _, e) => (l.lists e.listAt e.intakeN).map (fun x => (9, i, x)))

/-- The fabric ports that STREAM records name (R418): record, port, channel, core. -/
def Layout.portRefs (l : Layout) : List (Nat × Nat × Nat × Nat) :=
  l.streams.zipIdx.flatMap (fun (r, i) =>
    (if 0xF000 ≤ r.srcLcid then [(i, r.srcLcid - 0xF000, r.srcId, r.dstLcid)] else [])
    ++ (if 0xF000 ≤ r.dstLcid then [(i, r.dstLcid - 0xF000, r.dstId, r.srcLcid)] else []))

/-! ## Checks -/

/-- Fail with a code at the first place that breaks it. -/
def failAt (code : Nat) (l : List (Nat × Nat)) : Option LErr := l.head?.map (fun x => ⟨code, x.1, x.2⟩)
def failHead (code : Nat) (bad : Bool) : Option LErr := if bad then some ⟨code, 0, noRecord⟩ else none

/-- The records of a list that break a test, as places of a section. -/
def badRecs {α : Type} (sect : Nat) (l : List α) (bad : α → Bool) : List (Nat × Nat) :=
  (l.zipIdx.filter (fun x => bad x.1)).map (fun x => (sect, x.2))

/-- The records of a list that repeat the key of an earlier one. -/
def repeated {α : Type} (sect : Nat) (l : List α) (key : α → Nat × Nat) : List (Nat × Nat) :=
  (l.zipIdx.filter (fun x => (l.take x.2).any (fun y => key y == key x.1))).map (fun x => (sect, x.2))

/-- Places in ascending order of section and record. -/
def ordered (l : List (Nat × Nat)) : List (Nat × Nat) := sortBy (fun a b => decide (a.1 < b.1) || (a.1 == b.1 && decide (a.2 ≤ b.2))) l

/-- SECTION_FORM (R170, R172). -/
def formBad (b : List Byte) (d : List DirEntry) : Bool :=
  let n := u b 12 2
  let body := u b 8 4
  let dend := 64 + 16 * n
  let known := fun (e : DirEntry) => (sectionSize e.ty).isSome
  body % 64 != 0 || decide (body < dend) || decide (d.length < n)
  || (d.zip (d.drop 1)).any (fun x => decide (x.2.ty ≤ x.1.ty))
  || d.any (fun e => (known e && sectionSize e.ty != some e.rsize) || e.len != e.count * e.rsize || e.off % 64 != 0 || decide (body < e.off + e.len)
      || decide (e.off < dend))
  || d.zipIdx.any (fun x => (d.drop (x.2 + 1)).any (fun y => decide (x.1.off < y.off + y.len) && decide (y.off < x.1.off + x.1.len)))
  || [1, 2, 3].any (fun t => !d.any (fun e => e.ty == t && e.count != 0))
  || d.any (fun e => e.ty == 1 && e.count != 1)

/-- The bytes of a record that have to be 0, as (first, length), and bits, as (byte, mask) (R172). -/
def reservedOf (t : Nat) (r : List Byte) : List (Nat × Nat) × List (Nat × Nat) :=
  match t with
  | 1 => ([(16, 48)], [(3, 0xFC)])
  | 2 => ([(3, 1), (16, 16)], [])
  | 3 => ([(7, 1)], [(3, 0xC0)])
  | 4 => ([(3, 1), (20, 4)] ++ (if (u r 2 1).testBit 0 then [(1, 1)] else []), [(2, 0xFE)])
  | 5 => ([(3, 1), (12, 4)] ++ (if u r 2 1 % 4 = 1 ∨ u r 2 1 % 4 = 2 then [(1, 1)] else []), [(2, 0xF0)])
  | 7 => ([(15, 1)], [])
  | 8 => ([(7, 1), (18, 2), (24, 8)], [])
  | 9 => (if u r 0 1 = 0 then [(12, 36)] else [(13, 3), (36, 12)], [])
  | 10 => ([(3, 1)], [])
  | 12 => ([(8, 8)], [(1, 0xFC)])
  | _ => ([], [])

def recordReserved (t : Nat) (r : List Byte) : Bool :=
  (reservedOf t r).1.any (fun x => !zeroFrom r x.1 x.2) || (reservedOf t r).2.any (fun x => (u r x.1 1) &&& x.2 != 0)

/-- The byte lies in no body of the directory. -/
def padding (d : List DirEntry) (dend i : Nat) : Bool := decide (dend ≤ i) && d.all (fun e => !(decide (e.off ≤ i) && decide (i < e.off + e.len)))

/-- RESERVED: header, directory, padding, then records. -/
def reservedBad (b : List Byte) (d : List DirEntry) : List (Nat × Nat) :=
  let body := u b 8 4
  let dend := 64 + 16 * d.length
  (if (u b 6 1) &&& 0xFE != 0 || !zeroFrom b 14 2 || !zeroFrom b 32 32 || d.any (fun e => e.sflags &&& 0xFE != 0)
      || ((b.take body).zipIdx).any (fun x => x.1 != 0 && padding d dend x.2) then [(0, noRecord)] else [])
  ++ (List.range 12).flatMap (fun t => badRecs (t + 1) (sectionRecs b d (t + 1)) (recordReserved (t + 1)))

/-- RANGE (R168, R172 to R186): fields outside their stated range, and LIST and DATA ranges. -/
def rangeBad (b : List Byte) (l : Layout) : List (Nat × Nat) :=
  let inList := fun (at_ n : Nat) => decide (at_ + n ≤ l.lcids.length)
  let p := l.part
  (if 3 < u b 7 1 || 16 < u b 12 2 then [(0, noRecord)] else [])
  ++ badRecs 1 [p] (fun p => p.partition != u b 7 1 || decide (11 < p.lastCol) || decide (p.lastCol < p.firstCol) || p.stackMask == 0
      || !(p.powerCap == 0 || (decide (500 ≤ p.powerCap) && decide (p.powerCap ≤ 20000))))
  ++ badRecs 2 l.crews (fun r => r.groups == 0 || decide (64 < r.groups) || r.active == 0 || decide (r.groups < r.active))
  ++ badRecs 3 l.regions (fun r => decide (576 ≤ r.region) || r.role == 3 || (if r.role = 0 then r.pair != 0xFFFF else decide (576 ≤ r.pair)))
  ++ badRecs 4 l.programs (fun r => (!r.all && decide (4608 ≤ r.target)) || r.image % 64 != 0 || r.length == 0 || decide (262144 < r.length)
      || r.base % 64 != 0 || decide (r.length ≤ r.entry) || decide (l.data.length < r.image + 8 * r.length))
  ++ badRecs 5 l.placements (fun r =>
      let n := (l.targets (r.kind != 0) r.target).length
      r.kind == 3 || r.source == 3 || r.offset % 64 != 0 || r.length % 64 != 0 || r.src % 64 != 0 || (r.kind == 0 && decide (4608 ≤ r.target))
      || (r.kind != 2 && r.stride != 0) || (r.source == 0 && n != 0 && decide (l.data.length < r.src + (n - 1) * r.stride + r.length)))
  ++ badRecs 6 l.streams (fun r =>
      let ok := fun (x : Nat) => decide (x < 4608) || (decide (0xF000 ≤ x) && decide (x ≤ 0xF00F))
      !ok r.srcLcid || !ok r.dstLcid || decide (4095 < r.srcId) || decide (4095 < r.dstId))
  ++ badRecs 7 l.syncs (fun r => decide (18432 ≤ r.obj) || decide (1 < r.kind) || (r.kind == 1 && r.target != 0) || (r.kind == 0 && r.group != 0)
      || !inList r.listAt r.listN)
  ++ badRecs 8 l.trees (fun r => decide (1023 < r.tree) || decide (1 < r.ty) || decide (1 < r.op) || !([0, 1, 12].contains r.vfmt) || decide (2 < r.topk)
      || decide (1 < r.order) || decide (1024 < r.k) || decide (4608 ≤ r.root) || !inList r.listAt r.listN || decide (r.listN < 2)
      || decide (4608 < r.listN) || decide (r.maxBytes < 64) || decide (1048576 < r.maxBytes))
  ++ ordered (badRecs 9 (sectionRecs b (directory b) 9) (fun r => decide (1 < u r 0 1))
    ++ (l.tableIdx.filter (fun (_, t) =>
      decide (63 < t.table) || decide (2 < t.policy) || t.fanout == 0 || decide (8 < t.fanout) || t.expertsN == 0 || decide (256 < t.expertsN)
      || t.window == 0 || decide (256 < t.window) || t.seedRow == 0 || decide (65536 < t.seedRow))).map (fun x => (9, x.1))
    ++ (l.expertIdx.filter (fun (_, _, e) => e.intakeN == 0 || decide (16 < e.intakeN) || e.slots == 0 || !inList e.listAt e.intakeN)).map (fun x => (9, x.1)))
  ++ badRecs 10 l.phases (fun r => decide (15 < r.phase) || decide (7 < r.op))
  ++ badRecs 11 l.plan (fun r =>
      if r.kind = 0 then decide (15 < r.arg8) || r.arg16 != 0 || r.length != 0
      else if r.kind = 1 then decide (1 < r.arg8) || decide (1023 < r.arg16) || r.length == 0 || decide (r.period < r.length)
      else r.kind != 2 || r.arg8 != 0 || decide (255 < r.arg16) || r.period != 0 || r.length != 0)
  ++ badRecs 12 l.checks (fun r => r.n == 0 || r.b == 0)
  ++ badRecs 13 l.lcids (fun x => decide (4608 ≤ x))

/-- ABSENT (R7, R418). -/
def absentBad (pt : Part) (b : List Byte) (l : Layout) : List (Nat × Nat) :=
  let p := l.part
  let col := fun (d : Nat) => pt.colPresent (d / 12)
  ordered ((if pt.hostPresent (u b 7 1) then [] else [(0, noRecord)])
  ++ (if (List.range 12).any (fun c => decide (p.firstCol ≤ c) && decide (c ≤ p.lastCol) && !pt.colPresent c)
      || (List.range 48).any (fun st => p.stackMask.testBit st && !pt.stackPresent st)
      || (List.range 16).any (fun f => p.portMask.testBit f && !pt.fportPresent f) then [(1, 0)] else [])
  ++ badRecs 3 l.regions (fun r => !col (r.region / 4) || (r.role != 0 && !col (r.pair / 4)))
  ++ (l.allRefs.filter (fun x => !col (lcidDie x.2.2))).map (fun x => (x.1, x.2.1))
  ++ (l.portRefs.filter (fun x => !pt.fportPresent x.2.1)).map (fun x => (6, x.1))
  ++ badRecs 7 l.syncs (fun r => !col (objDie r.obj))
  ++ (l.expertIdx.filter (fun (_, _, e) => [e.arrive0, e.arrive1, e.free0, e.free1].any (fun o => !col (objDie o)))).map (fun x => (9, x.1))
  ++ badRecs 13 l.lcids (fun x => !col (lcidDie x)))

/-- The die lies in the partition's columns. -/
def Layout.dieIn (l : Layout) (d : Nat) : Bool := decide (l.part.firstCol ≤ d / 12) && decide (d / 12 ≤ l.part.lastCol)

/-- OWNERSHIP (R187, R188, R418). -/
def ownershipBad (port : Nat) (b : List Byte) (l : Layout) : List (Nat × Nat) :=
  ordered ((if u b 7 1 = port then [] else [(0, noRecord)])
  ++ (l.allRefs.filter (fun x => !l.owns x.2.2 || !l.dieIn (lcidDie x.2.2))).map (fun x => (x.1, x.2.1))
  ++ (l.portRefs.filter (fun x => !l.part.portMask.testBit x.2.1)).map (fun x => (6, x.1)))

/-- CREW_RULE (R187). -/
def crewBad (l : Layout) : List (Nat × Nat) :=
  let runs := fun (c g : Nat) => (l.syncs.filter (fun y => y.kind == 1 && y.crew == c && y.group == g)).length
  let need := fun (c : Nat) => !l.hasCrew c
  ordered (repeated 2 l.crews (fun r => (r.crew, 0))
  ++ badRecs 2 l.crews (fun r =>
      let regs := l.crewRegs r.crew
      let size := fun (g : Nat) => (regs.filter (fun x => x.group == g)).length
      regs.isEmpty || (List.range r.groups).any (fun g => size g != size 0)
      || (if r.active < r.groups then r.rot == 0 || (List.range r.groups).any (fun g => runs r.crew g != 1) else r.rot != 0))
  ++ repeated 3 l.regions (fun r => (r.region, 0))
  ++ badRecs 3 l.regions (fun r => need r.crew || !l.dieIn (r.region / 4)
      || (match l.crews.find? (fun c => c.crew == r.crew) with
        | some c => decide (c.groups ≤ r.group)
        | none => false)
      || (r.role != 0 && !l.regions.any (fun q => q.region == r.pair && q.pair == r.region && q.role + r.role == 3 && q.crew == r.crew && q.group == r.group)))
  ++ badRecs 4 l.programs (fun r => r.all && need (r.target % 256))
  ++ badRecs 5 l.placements (fun r => r.kind != 0 && need (r.target % 256))
  ++ badRecs 7 l.syncs (fun r => need r.crew)
  ++ (l.expertIdx.filter (fun x => need x.2.2.crew)).map (fun x => (9, x.1))
  ++ badRecs 10 l.phases (fun r => need r.crew)
  ++ badRecs 12 l.checks (fun r => need r.crew))

/-- PROGRAM (R176, R187). -/
def programBad (l : Layout) : List (Nat × Nat) :=
  (l.programs.zipIdx.filter (fun (r, i) =>
    let ts := l.targets r.all r.target
    decide (0x200000 < r.base + 8 * r.length)
    || (l.programs.take i).any (fun q => (l.targets q.all q.target).any (fun x => ts.contains x)))).map (fun x => (4, x.2))

/-- The program regions of a core by the records of a layout. -/
def Layout.programOfCore (l : Layout) (lc : Nat) : Option ProgramRec := l.programs.find? (fun r => (l.targets r.all r.target).contains lc)

/-- The backed capacity of the stacks of a mask (R272). -/
def backedBytes (n : Nat) : Nat := n * 32 * sliceUnits * 4096

/-- PLACEMENT (R177, R187), against a capacity of HBM. -/
def placementBad (l : Layout) (cap : Nat) (sramToo : Bool) : List (Nat × Nat) :=
  (l.placements.zipIdx.filter (fun (r, i) =>
    let ts := l.targets (r.kind != 0) r.target
    let hit := fun (o n : Nat) => decide (r.offset < o + n) && decide (o < r.offset + r.length) && r.length != 0 && n != 0
    (r.source == 1 && !ts.isEmpty && decide (cap < r.src + (ts.length - 1) * r.stride + r.length))
    || (sramToo && (decide (0x200000 < r.offset + r.length)
      || ts.any (fun lc => match l.programOfCore lc with
        | some p => hit p.base (8 * p.length)
        | none => false)
      || (l.placements.take i).any (fun q => hit q.offset q.length && (l.targets (q.kind != 0) q.target).any (fun x => ts.contains x)))))).map (fun x => (5, x.2))

/-- STREAM (R179, R418). -/
def streamBad (l : Layout) : List (Nat × Nat) :=
  ordered (repeated 6 l.streams (fun r => (r.srcLcid, r.srcId)) ++ repeated 6 l.streams (fun r => (r.dstLcid, r.dstId))
  ++ badRecs 6 l.streams (fun r => (decide (0xF000 ≤ r.srcLcid) && decide (3072 ≤ r.srcId)) || (decide (0xF000 ≤ r.dstLcid) && decide (3072 ≤ r.dstId))))

/-- SYNC (R180, R188). -/
def syncBad (l : Layout) : List (Nat × Nat) :=
  ordered (repeated 7 l.syncs (fun r => (r.obj, 0))
  ++ badRecs 7 l.syncs (fun r => !l.dieIn (objDie r.obj) || (r.kind == 1 && !(l.crews.any (fun c => c.crew == r.crew && decide (c.active < c.groups) && decide (r.group < c.groups)))))
  ++ repeated 7 (l.syncs.map (fun r => if r.kind = 1 then (r.crew + 1, r.group) else (0, r.obj))) (fun x => x))

/-- TREE (R182, R188, R253). -/
def treeBad (l : Layout) : List (Nat × Nat) :=
  ordered (badRecs 6 l.streams (fun r => l.trees.any (fun t =>
      let ms := l.lists t.listAt t.listN
      (ms.contains r.srcLcid && r.srcId == t.stream) || (ms.contains r.dstLcid && r.dstId == t.stream)))
  ++ repeated 8 l.trees (fun r => (r.ty, r.tree))
  ++ badRecs 8 l.trees (fun r =>
      let ms := l.lists r.listAt r.listN
      !ms.contains r.root || !decide ms.Nodup
      || (if r.ty = 0 then r.op != 0 || r.vfmt != 0 || r.topk != 0 || r.order != 0 || r.k != 0
          else (if r.topk = 0 then r.k != 0 || r.order != 0 else r.k == 0 || r.op == 0))))

/-- The areas of an expert in an intake core (R183). -/
def ExpertRec.areas (e : ExpertRec) (t : RouteTable) : List (Nat × Nat) :=
  [(e.rowBase, 2 * e.slots * roundUp t.seedRow 64), (e.tagBase, 2 * e.slots * 16), (e.recBase, 32)]

def meet (a b : Nat × Nat) : Bool := decide (a.1 < b.1 + b.2) && decide (b.1 < a.1 + a.2)

/-- ROUTE (R152, R183). -/
def routeBad (b : List Byte) (d : List DirEntry) (l : Layout) : List (Nat × Nat) :=
  let recs := sectionRecs b d 9
  let lead := if recs.isEmpty || u (recs.headD []) 0 1 = 0 then [] else [(9, 0)]
  let tables := (l.tableIdx.filter (fun (i, t) =>
    t.experts.length != t.expertsN
    || l.tableIdx.any (fun (j, q) => decide (j < i) && q.table == t.table))).map (fun x => (9, x.1))
  let plain := fun (o c : Nat) => l.syncs.any (fun y => y.obj == o && y.kind == 0 && y.crew == c)
  let experts := (l.expertIdx.filter (fun (i, t, e) =>
    let ms := l.lists e.listAt e.intakeN
    let as := e.areas t
    u (recs.getD i []) 1 1 != t.table || decide (e.intakeN * e.slots < e.capacity)
    || as.any (fun a => a.1 % 64 != 0 || decide (0x200000 < a.1 + a.2))
    || as.zipIdx.any (fun (a, j) => (as.drop (j + 1)).any (fun c => meet a c))
    || !decide ms.Nodup || ms.any (fun m => !(l.crewLcids e.crew).contains m)
    || [e.arrive0, e.arrive1, e.free0, e.free1].any (fun o => !plain o e.crew) || !decide ([e.arrive0, e.arrive1, e.free0, e.free1].Nodup)
    || ms.any (fun m => match l.programOfCore m with
      | some p => as.any (fun a => meet a (p.base, 8 * p.length))
      | none => false)
    || l.expertIdx.any (fun (j, t', e') => decide (j < i) && ((t'.table == t.table && decide (e.expert ≤ e'.expert))
      || ((l.lists e'.listAt e'.intakeN).any (fun m => ms.contains m) && as.any (fun a => (e'.areas t').any (fun c => meet a c))))))).map (fun x => (9, x.1))
  ordered (lead ++ tables ++ experts)

/-- Two series of strokes meet: first stroke and period, 0 for once (R185). -/
def seriesMeet (o p o' p' : Nat) : Bool :=
  if p = 0 ∧ p' = 0 then o == o'
  else if p = 0 then decide (o' ≤ o) && (o - o') % p' == 0
  else if p' = 0 then decide (o ≤ o') && (o' - o) % p == 0
  else o % Nat.gcd p p' == o' % Nat.gcd p p'

/-- Two series of windows of one tree overlap. -/
def windowsMeet (a b : PlanRec) : Bool :=
  let g := Nat.gcd a.period b.period
  let r := (b.offset + g * (a.offset / g + 1) - a.offset) % g
  decide (r < a.length) || decide (g - r < b.length)

/-- PLAN (R184, R185). -/
def planBad (l : Layout) : List (Nat × Nat) :=
  ordered (repeated 10 l.phases (fun r => (r.phase, r.crew))
  ++ (l.plan.zipIdx.filter (fun (r, i) => (l.plan.take i).any (fun q =>
      (r.kind == 0 && q.kind == 0 && seriesMeet q.offset q.period r.offset r.period)
      || (r.kind == 1 && q.kind == 1 && q.arg8 == r.arg8 && q.arg16 == r.arg16 && windowsMeet q r)
      || (r.kind == 2 && q.kind == 2 && q.arg16 == r.arg16)))).map (fun x => (11, x.2))
  ++ badRecs 11 l.plan (fun r => (r.kind == 1 && !l.trees.any (fun t => t.ty == r.arg8 && t.tree == r.arg16)) || (r.kind == 2 && !l.hasCrew r.arg16)))

/-- CAPACITY at staging (R187, R418). -/
def capacityBad (l : Layout) : List (Nat × Nat) :=
  let home := fun (e : ExpertRec) => lcidDie ((l.lists e.listAt e.intakeN).headD 0)
  let ends := fun (f n : Nat) => (((l.portRefs.filter (fun x => x.2.1 == f && decide (x.1 ≤ n))).map (fun x => x.2.2.2)).eraseDups).length
  ordered ((l.portRefs.filter (fun x => decide (256 < ends x.2.1 x.1))).map (fun x => (6, x.1))
  ++ (l.tableIdx.zipIdx.filter (fun x => decide (64 ≤ x.2))).map (fun x => (9, x.1.1))
  ++ (l.expertIdx.filter (fun (i, _, e) => decide (64 ≤ (l.expertIdx.filter (fun (j, _, q) => decide (j < i) && home q == home e)).length))).map (fun x => (9, x.1)))

/-- REPLACE_MISMATCH (R188, R194). -/
def mismatch (old new : PartRec) : Bool := { old with follow := new.follow, powerCap := new.powerCap } != new

/-- The signature of a stream passes: the owner's, or none where the policy asks for none (R171, R436, R439). -/
def State.signatureOk (s : State) (b : List Byte) : Bool :=
  let body := u b 8 4
  if (u b 6 1).testBit 0 then s.sec.owned && Config.mldsaVerify s.sec.ownerKey (b.take (body + 64)) (b.drop (body + 64))
  else !(s.sec.owned && s.sec.policy.signedLayout)

/-- The first check that fails. -/
def firstErr : List (Unit → Option LErr) → Option LErr
  | [] => none
  | f :: l => match f () with
    | some e => some e
    | none => firstErr l

/-- The checks of header, directory and trailer (R188, codes 1 to 7). -/
def State.formCheck (s : State) (len : Nat) (b : List Byte) : Option LErr :=
  let body := u b 8 4
  let d := directory b
  firstErr [
    fun _ => failHead 0x01 (u b 0 4 != 0x454C524D),
    fun _ => failHead 0x02 (u b 4 1 != 1 || (u b 5 1 != 0 && d.any (fun e => (sectionSize e.ty).isNone && e.sflags % 2 == 0))),
    fun _ => failHead 0x03 (decide (2 ^ 28 < len) || len != body + 64 + (if (u b 6 1).testBit 0 then 3309 else 0) || b.length != len),
    fun _ => failHead 0x04 (shake256 64 (b.take body) != Sys2Proof.Machine.slice b body 64),
    fun _ => failHead 0x05 (!s.signatureOk b),
    fun _ => failHead 0x06 (d.any (fun e => (sectionSize e.ty).isNone && e.sflags % 2 == 0)),
    fun _ => failHead 0x07 (formBad b d)]

/-- The checks of the records that depend on the stream and the fuses (R188, codes 8 to 0x15). -/
def recordCheck (pt : Part) (port : Nat) (b : List Byte) : Option LErr :=
  let d := directory b
  let l := readLayout b
  firstErr [
    fun _ => failAt 0x08 (reservedBad b d),
    fun _ => failAt 0x09 (rangeBad b l),
    fun _ => failAt 0x0A (absentBad pt b l),
    fun _ => failAt 0x0B (ownershipBad port b l),
    fun _ => failAt 0x0C (crewBad l),
    fun _ => failAt 0x0D (programBad l),
    fun _ => failAt 0x0E (placementBad l (backedBytes ((List.range 48).filter (fun i => l.part.stackMask.testBit i)).length) true),
    fun _ => failAt 0x0F (streamBad l),
    fun _ => failAt 0x10 (syncBad l),
    fun _ => failAt 0x11 (treeBad l),
    fun _ => failAt 0x12 (routeBad b d l),
    fun _ => failAt 0x13 (planBad l),
    fun _ => failAt 0x14 (repeated 12 l.checks (fun r => (r.crew, 0))),
    fun _ => failAt 0x15 (capacityBad l)]

/-- The checks of staging at a host port, in the order of R188. len is LAYOUT_LEN. -/
def State.stageCheck (s : State) (port len : Nat) (b : List Byte) : Option LErr :=
  firstErr [
    fun _ => s.formCheck len b,
    fun _ => recordCheck s.part port b,
    fun _ => match s.layoutOf port with
      | some old => failAt 0x18 (badRecs 1 [partOf ((sectionRecs b (directory b) 1).headD [])] (fun p => mismatch old.part p))
      | none => none]

end Sys2Proof.Machine
end

