-- ==== Sys2Proof/Machine/LayoutApply.lean ====
section
/-!
DEFINITION. Applying a layout: column maps and the core mapping (R23 to R31), the check at apply (R188, R192), selectors
(R22), loads (R176 to R178, R118), bindings (R180 to R183), the interleave and its move (R274, R287), replacement (R195 to
R198); and the rows of chapter 06.
-/
namespace Sys2Proof.Machine

/-! ## Cores of a region (R28) -/

/-- The good cores of a region, ascending in r. -/
def State.goodCores (s : State) (r : Nat) : List Nat :=
  (regionCores r).filter (fun k => let c := s.core k; !c.bad && !c.failed && c.tested)

/-- A core as a load leaves it: what outlives a layout stays. -/
def Core.fresh (c : Core) : Core :=
  { lcid := c.lcid, spare := c.spare, bad := c.bad, failed := c.failed, tested := c.tested, eng := c.eng, badLines := c.badLines
    pairFails := c.pairFails, arb := c.arb }

/-- Map the LCIDs of a region at start-up: a region with fewer than 8 good cores is fenced. -/
def mapRegion (s : State) (r : Nat) : State :=
  match s.logicalRegion r with
  | none => s
  | some rid =>
    let good := s.goodCores r
    let s1 := s.each (regionCores r) (fun s k => s.updCore k (fun c => { c.fresh with lcid := none, spare := false }))
    let s2 := if good.length < 8 then (fenceRegion s1 r 0).updRegion r (fun x => { x with midRun := false }) else s1
    if (s2.region r).fenced then s2
    else s2.each (good.take 8).zipIdx (fun s x =>
      (s.updCore x.1 (fun c => { c with lcid := some (rid * 8 + x.2) })).setCoreOf (rid * 8 + x.2) (some x.1))

/-! ## Selectors and stations (R22, R210, R347) -/

/-- The bundle that joins two sites, named from its south or east end (R21, R353). -/
def bundleOf (a b : Nat) : Nat :=
  if siteCol a = siteCol b then (if siteRow b = siteRow a + 1 then 0 else 1)
  else if siteRow a = siteRow b then 2 else if siteRow b < siteRow a then 3 else 4

/-- The width that the start test found for a link on a bundle: state, groups and spares in use. -/
def State.linkWidth (s : State) (unit bundle : Nat) : Nat × Nat × Nat :=
  match s.bring.trained.find? (fun x => x.1 == unit && x.2.1 == bundle) with
  | some x => retrainWidth x.2.2
  | none => (1, 15, 0)

/-- An entry of kind LINK in force disables the unit. -/
def State.linkListed (s : State) (unit : Nat) : Bool :=
  s.defects.inForce.any (fun e => e.kind == 5 && e.unit == unit && e.detail.testBit 4)

/-- The die of a station works: it is live, in partition p. -/
def State.stationDie (s : State) (p d : Nat) : Bool :=
  match s.siteOfDie d with
  | some st => !(s.cox st).fenced && s.partOfCol (d / 12) == some p
  | none => false

/-- A station of logical die d has a channel in a dimension and direction: another working station lies that way. -/
def State.stationFar (s : State) (p d : Nat) (isX plus : Bool) : Bool :=
  let here := if isX then d / 12 else d % 12
  [0, 4, 8].contains here && [0, 4, 8].any (fun o =>
    (if plus then decide (here < o) else decide (o < here)) && s.stationDie p (if isX then o * 12 + d % 12 else d / 12 * 12 + o))

/-- Set the selectors, gates, stations and taps of one site of a partition. -/
def setLinks (s : State) (p site : Nat) : State :=
  let edge := s.each (List.range 24) (fun t e =>
    t.updLink (site * 32 + e) (fun _ => match s.linkPartner site e with
      | some j =>
        if s.partOfSite (j / 32) == some p && !(s.cox (j / 32)).fenced then
          let low := 6 ≤ e && e < 18
          let unit := if low then site * 32 + e else j
          let bundle := bundleOf (unit / 32) (if low then j / 32 else site)
          let w := s.linkWidth unit bundle
          { state := w.1, groups := w.2.1, spared := w.2.2, bundle := bundle }
        else {}
      | none => {}))
  let stations := edge.each [(24, true, true), (25, true, false), (26, false, true), (27, false, false)] (fun t x =>
    let on := match s.dieOfSite site with
      | some d => s.stationFar p d x.2.1 x.2.2
      | none => false
    t.updLink (site * 32 + x.1) (fun _ => { state := if !on then 0 else if s.linkListed (site * 32 + x.1) || s.bring.noChannel.has (site * 32 + x.1) then 4 else 1 }))
  stations.each (List.range 4) (fun t q =>
    t.updLink (site * 32 + 28 + q) (fun _ => { state := if (s.region (site * 4 + q)).fenced then 0 else if (s.region (site * 4 + q)).tapOut then 4 else 1 }))

/-! ## The layout takes its place -/

/-- Every region of the partition stands where the REGION records put it; others are unassigned. -/
def assignRegions (s : State) (p : Nat) (l : Layout) : State :=
  s.each (s.partRegions p) (fun s r => s.updRegion r (fun x => { x with
    assign := (s.logicalRegion r).bind (fun rid => (l.regions.find? (fun g => g.region == rid)).map (fun g =>
      { part := p, region := rid, crew := g.crew, skew := g.skew, role := g.role, pair := g.pair, group := g.group })) }))

/-- At start-up a layout takes its columns: cores are mapped, links set. -/
def occupy (s : State) (p : Nat) (l : Layout) : State :=
  let s1 := s.updLay p (fun y => { y with layout? := some l })
  let s2 := s1.each (s1.partRegions p) mapRegion
  let s3 := s2.each (s2.partSites p) (fun s site => setLinks s p site)
  loadMap (assignRegions s3 p l) p

/-- The members of a tree, ascending. -/
def Layout.members (l : Layout) (r : TreeRec) : List Nat := sortBy (fun a b => decide (a ≤ b)) (l.lists r.listAt r.listN)

/-- A tree over the members that carry a core (R254). -/
def makeTree (s : State) (p : Nat) (l : Layout) (r : TreeRec) : Tree :=
  let ms := l.members r
  let dead := ms.filter (fun m => (s.coreOf m).isNone)
  { rec? := some r, part := p, members := ms, dead := dead, rootRouter := (s.lcidRouter r.root).getD 0
    nodes := deriveNodes s p r (ms.filter (fun m => !dead.contains m))
    gated := l.plan.any (fun w => w.kind == 1 && w.arg8 == r.ty && w.arg16 == r.tree) }

/-- The unit of an expert: die × 64 + its place among those homed on the die, in ascending table and expert (R152, R160). -/
def Layout.units (l : Layout) : List (Nat × RouteTable × ExpertRec) :=
  let home := fun (e : ExpertRec) => lcidDie ((l.lists e.listAt e.intakeN).headD 0)
  let xs := sortBy (fun x y => decide (x.1.table < y.1.table) || (x.1.table == y.1.table && decide (x.2.expert ≤ y.2.expert))) (l.expertIdx.map (fun x => x.2))
  xs.zipIdx.map (fun (x, i) => (home x.2 * 64 + ((xs.take i).filter (fun y => home y.2 == home x.2)).length, x.1, x.2))

/-! ## The check at apply (R188, R192) -/

/-- The stacks of a mask that have not failed, ascending (R274). -/
def State.liveStacks (s : State) (mask : Nat) : List Nat := (List.range 48).filter (fun st => mask.testBit st && (s.stack st).state != 4)

/-- Records beyond a count that others have begun. -/
def beyond {α : Type} (sect start limit : Nat) (l : List α) : List (Nat × Nat) := if start + l.length ≤ limit then [] else [(sect, limit - start)]

/-- The first tree whose reservations exceed 4,096 flits at a router. -/
def poolBreach (use : Tab Nat) : Nat → List Tree → Option Nat
  | _, [] => none
  | i, t :: rest =>
    let u := (poolUse [t]).foldl (fun u x => Tab.upd 0 u x.1 (· + x.2)) use
    if (poolUse [t]).any (fun x => decide (4096 < Tab.get 0 u x.1)) then some i else poolBreach u (i + 1) rest

/-- The first binding of the same kind. -/
def bindBreach (s : State) (p : Nat) (use : Tab Nat) : Nat → List StreamRec → Option Nat
  | _, [] => none
  | i, r :: rest =>
    let rs := s.bindRouters p r
    let u := reserveAt use rs
    if rs.any (fun x => decide (4096 < Tab.get 0 u x)) then some i else bindBreach s p u (i + 1) rest

/-- CAPACITY: crews and trees after those of the other layouts counted, and the COL pools. t is the panel with the layout
in its place. -/
def capacityAt (s t : State) (p : Nat) (l : Layout) (others : List Layout) : List (Nat × Nat) :=
  let crews := (others.map (fun o => o.crews.length)).sum
  let trees := fun (ty : Nat) => (others.map (fun o => (o.trees.filter (fun r => r.ty == ty)).length)).sum
  let treeBad := (l.trees.zipIdx.filter (fun (r, i) =>
    decide (1024 ≤ trees r.ty + ((l.trees.take i).filter (fun q => q.ty == r.ty)).length))).map (fun x => (8, x.2))
  let use := l.streams.foldl (fun u r => reserveAt u (t.bindRouters p r)) []
  (if (s.liveStacks l.part.stackMask).isEmpty then [(1, 0)] else [])
  ++ beyond 2 crews 256 l.crews
  ++ ((bindBreach t p [] 0 l.streams).toList.map (fun i => (6, i)))
  ++ ordered (treeBad ++ (poolBreach use 0 (l.trees.map (makeTree t p l))).toList.map (fun i => (8, i)))

/-- HOLE: a die, region or LCID without its silicon is named (R25, R28, R373). -/
def holeBad (t : State) (l : Layout) : List (Nat × Nat) :=
  let deadDie := fun (d : Nat) => match t.siteOfDie d with
    | some st => (t.cox st).fenced
    | none => true
  ordered (badRecs 3 l.regions (fun r => deadDie (r.region / 4) || ((t.physRegion r.region).map (fun x => (t.region x).fenced)).getD true)
  ++ (l.allRefs.filter (fun x => (t.coreOf x.2.2).isNone)).map (fun x => (x.1, x.2.1))
  ++ badRecs 7 l.syncs (fun r => deadDie (objDie r.obj)))

/-- Two PARTITION records claim one column, stack, port or bezel site. -/
def claimSame (a b : PartRec) : Bool :=
  (decide (a.firstCol ≤ b.lastCol) && decide (b.firstCol ≤ a.lastCol)) || a.stackMask &&& b.stackMask != 0 || a.portMask &&& b.portMask != 0

/-- The check at apply. others are the layouts counted before this one, rivals the PARTITION records that may claim the
same resource. -/
def State.applyCheck (s t : State) (p : Nat) (l : Layout) (others : List Layout) (rivals : List PartRec) : Option LErr :=
  firstErr [
    fun _ => failAt 0x0E (placementBad l (backedBytes (s.liveStacks l.part.stackMask).length) false),
    fun _ => failAt 0x15 (capacityAt s t p l others),
    fun _ => failAt 0x16 (holeBad t l),
    fun _ => failAt 0x17 (if rivals.any (claimSame l.part) then [(1, 0)] else [])]

/-- A failed check in the registers (R190). -/
def LayPort.fail (y : LayPort) (pass : Nat) (e : LErr) : LayPort := { y with errPass := pass, errSection := e.sect, errCode := e.code, errRec := e.recno }

/-! ## Loading cores (R118, R176 to R178) -/

/-- A run of addresses cut at the multiples of 64: each piece lies in one line, and so in one unit of one slice. -/
def linePieces (a len : Nat) : List (Nat × Nat) :=
  if len = 0 then []
  else (List.range ((a + len - 1) / 64 + 1 - a / 64)).map (fun i =>
    let lo := max a ((a / 64 + i) * 64)
    (lo, min (a + len) ((a / 64 + i) * 64 + 64) - lo))

/-- A run of the partition's HBM window: its bytes, and the first piece that is poisoned, uncorrectable or of a stack that
has failed (R287, R289). -/
def State.hbmRun (s : State) (p a len : Nat) : List Byte × Option Nat :=
  (linePieces a len).foldl (fun (acc : List Byte × Option Nat) x => match hbmLocate (s.hub p).interleave x.1 with
    | some (sl, byte) =>
      let bad := (s.stack (sl / 32)).state == 4 || (runWords (hbmKey s sl byte) x.2).any s.hbmBad
      (acc.1 ++ Tab.getList 0 s.hbm (hbmKey s sl byte) x.2, if bad && acc.2.isNone then some x.1 else acc.2)
    | none => (acc.1 ++ zeros x.2, acc.2)) ([], none)

/-- The seeds of the lanes: R118. -/
def laneSeed (seed lcid : Nat) : W64 := BitVec.ofNat 64 seed ^^^ BitVec.ofNat 64 (lcid * 0x9E3779B97F4A7C15)
def laneStart (m : W64) : W64 := if m = 0 then 1 else m

/-- SRAM of a core reads zero everywhere. -/
def clearSram (s : State) (k : Nat) : State :=
  let mine := fun (key : Nat) => key / 0x200000 == k
  ((s.setSram (s.sram.filter (fun c => !mine c.1))).setSramUe (s.sramUe.filter (fun w => !mine (w * 8)))).setSramCe
    (s.sramCe.filter (fun w => !mine (w * 8)))

/-- Load a core that works under the records of an LCID. clear says that bytes no record covers read 0. A placement that
meets a poisoned line leaves the core halted (R287). -/
def loadCore (s : State) (p : Nat) (l : Layout) (k lead : Nat) (clear : Bool) : State :=
  let prog := l.programOfCore lead
  let s1 := if clear then clearSram s k else s
  let s2 := match prog with
    | some g => sramWrite s1 k g.base (slice l.data g.image (8 * g.length))
    | none => s1
  let load := l.placements.foldl (fun (acc : State × Option Nat) r =>
    let ts := l.targets (r.kind != 0) r.target
    if !ts.contains lead then acc
    else
      let at_ := r.src + ts.idxOf lead * r.stride
      let b : List Byte × Option Nat := match r.source with
        | 0 => (slice l.data at_ r.length, none)
        | 1 => s.hbmRun p at_ r.length
        | _ => (zeros r.length, none)
      (sramWrite acc.1 k r.offset b.1, acc.2.or b.2)) (s2, none)
  let asg := (s.region (coreRegion k)).assign
  let seed := ((asg.bind (fun a => l.crews.find? (fun c => c.crew == a.crew))).map (·.seed)).getD 0
  let role := (asg.map (·.role)).getD 0
  let m := laneSeed seed lead
  let s3 := load.1.updCore k (fun c => { c.fresh with
    paired := role != 0, partner := role == 2, programmed := prog.isSome
    base := (prog.map (·.base)).getD 0, length := (prog.map (·.length)).getD 0, entry := (prog.map (·.entry)).getD 0
    pc := (prog.map (·.entry)).getD 0, laneMe := laneStart m, laneVe := laneStart (m ^^^ 0xD1B54A32D192ED03) })
  match load.2 with
  | some a => coreFault s3 k 0x0C 0 false 0 0 a
  | none => s3

/-- The LCID whose records a core follows: a partner's primary (R178). -/
def State.leadOf (s : State) (k : Nat) : Option Nat :=
  match (s.core k).lcid, (s.region (coreRegion k)).assign with
  | some lc, some a => some (if a.role = 2 then a.pair * 8 + lc % 8 else lc)
  | _, _ => none

/-- The runs of the HBM window that the placements of the cores under the LCIDs given read. -/
def Layout.readRuns (l : Layout) (leads : List Nat) : List (Nat × Nat) :=
  l.placements.flatMap (fun r =>
    if r.source != 1 then []
    else ((l.targets (r.kind != 0) r.target).zipIdx.filter (fun x => leads.contains x.1)).map (fun x => (r.src + x.2 * r.stride, r.length)))

/-- The reads of those placements decode whole lines (R279, R284): ce and ue are the window addresses of the words found
faulty; words known to be faulty are met again. -/
def placementReads (s : State) (p : Nat) (runs : List (Nat × Nat)) (ce ue : List Nat) : State :=
  let known := (s.hbmUe ++ s.hbmCe).filterMap (fun w => match s.windowWord w with
    | some (q, v) => if q = p then some (v * 8) else none
    | none => none)
  let lines := ((ce ++ ue ++ known).map (fun a => a / 64 * 64)).foldl NSet.add []
  s.each (lines.filter (fun a => runs.any (fun r => decide (r.1 < a + 64) && decide (a < r.1 + r.2)))) (fun s a =>
    match hbmLocate (s.hub p).interleave a with
    | none => s
    | some (sl, byte) =>
      let r := readFinds s p sl byte a 64 ce ue
      if r.2.isEmpty then r.1 else countUe r.1 (sl / 32) r.2.length)

/-- Load every core of the assigned regions; the cores of the others hold no state. -/
def loadCores (s : State) (p : Nat) (l : Layout) (clear : Bool) : State :=
  s.each ((s.partRegions p).flatMap regionCores) (fun s k => match s.leadOf k with
    | some lead => loadCore s p l k lead clear
    | none => if (s.region (coreRegion k)).assign.isSome then s else clearSram (s.updCore k Core.fresh) k)

/-! ## Bindings (R180 to R183) -/

/-- Group g of a crew is active at its start (R181). -/
def Layout.groupActive (l : Layout) (crew g : Nat) : Bool :=
  match l.crews.find? (fun c => c.crew == crew) with
  | some c => decide (g < c.active)
  | none => true

/-- A SYNC record's object (R240, R244); one without a record is released, with target 0. -/
def bindSync (l : Layout) (p : Nat) (s : State) (r : SyncRec) : State :=
  s.updSync r.obj (fun _ => {
    target := r.target, bound := true, run := r.kind == 1, group := r.group, crew := r.crew, part := p
    released := if r.kind = 1 then l.groupActive r.crew r.group else r.target == 0
    signallers := (if r.listN = 0 then l.crewLcids r.crew else l.lists r.listAt r.listN).foldl NSet.add [] })

def bindUnit (l : Layout) (p : Nat) (s : State) (x : Nat × RouteTable × ExpertRec) : State :=
  s.updAdmit x.1 (fun _ => {
    valid := true, part := p, table := x.2.1.table, policy := x.2.1.policy, window := x.2.1.window, expert := x.2.2
    intake := l.lists x.2.2.listAt x.2.2.intakeN, seedRow := x.2.1.seedRow })

/-- Nothing of an earlier layout of the partition is left of objects, trees and admission units (R195 step 6). -/
def unbind (s : State) (p : Nat) : State :=
  let mine := fun (d : Nat) => s.partOfDie d == some p
  { s with
    syncs := s.syncs.filter (fun x => !mine (objDie x.1)), trees := s.trees.filter (fun x => x.2.part != p)
    admits := s.admits.filter (fun x => x.2.part != p) }

/-- Step 4 of R192: loads, bindings, generators, and the crews before their starts. -/
def loadLayout (s : State) (p : Nat) (l : Layout) (clear : Bool) (ce ue : List Nat) : State :=
  let s0 := placementReads (unbind (loadMap s p) p) p (l.readRuns (((s.partRegions p).flatMap regionCores).filterMap s.leadOf)) ce ue
  let s1 := loadCores s0 p l clear
  let free := s1.each (s1.partSites p) (fun s site => s.each (List.range 128) (fun s n =>
    s.updSync (((s.dieOfSite site).getD 0) * 128 + n) (fun _ => { released := true, part := p })))
  let s2 := l.syncs.foldl (bindSync l p) free
  let s3 := l.trees.foldl (fun s r => s.updTree (treeKey p r.ty r.tree) (fun _ => makeTree s p l r)) s2
  let s4 := l.units.foldl (bindUnit l p) s3
  let s5 := s4.each ((s4.crews.filter (fun c => c.1 / 256 == p)).map (·.1)) (fun s c => s.updCrew p (c % 256) (fun _ => {}))
  s5.each (s5.partRegions p) (fun s r => setRatio (s.updRegion r (fun x => { x with
    op := 3, pref := 3, chg := none, chgNext := none, vset := if x.vset = 0 then 0 else vsetOf 3, localR := 0, startDue := false, wakeReq := false
    depth := 0, waking := false, idleSince := none, clock := if x.clock == .stopped then .running else x.clock })) r)

/-- Step 5 and 6 of R192, and the registers: the stroke A is the first that meets the lead. -/
def finishApply (s : State) (p : Nat) (l : Layout) : State :=
  s.updHub p (fun h => { h with
    phase := 0, trig := s.stroke.count
    fab := { h.fab with winUsed := h.fab.window }
    lay := { h.lay with
      layout? := some l, signed := l.signed, startStroke := s.firstLead, applyCount := sat 16 (h.lay.applyCount + 1), loading := false } })

/-! ## The interleave (R274, R287) -/

/-- Where a key's byte stands after a move, none when its unit is discarded. -/
def State.movedKey (s : State) (old new : List Nat) (key : Nat) : Option Nat :=
  (s.unitOfKey old key).bind (fun u => (hbmLocate new (u * 4096)).map (fun l => hbmKey s l.1 l.2 + key % sliceBytes % 4096))

/-- The partition's contents move into the new interleave. -/
def moveHbm (s : State) (p : Nat) : State :=
  let old := (s.hub p).interleave
  let new := (s.hub p).moveTo
  let mine := fun (key : Nat) => old.contains (key / sliceBytes / 32) && (key % sliceBytes / 4096 < sliceUnits + 256 : Bool)
  let readable := fun (key : Nat) => (s.stack (key / sliceBytes / 32)).state != 4
  let moveWords := fun (ws : NSet) => (ws.filter (fun w => !mine (w * 8))
    ++ (ws.filter (fun w => mine (w * 8) && readable (w * 8))).filterMap (fun w => (s.movedKey old new (w * 8)).map (· / 8))).foldl NSet.add []
  let gone := (old.filter (fun st => (s.stack st).state == 4)).map old.idxOf
  let n := 32 * old.length
  let moved := (s.hbm.filter (fun c => mine c.1 && readable c.1)).foldl (fun t c => match s.movedKey old new c.1 with
    | some k => Tab.put 0 t k c.2
    | none => t) (s.hbm.filter (fun c => !mine c.1))
  let s1 := s.updHub p (fun h => { h with
    interleave := new, moveTo := [], moving := false
    lostUnits := if gone.isEmpty then h.lostUnits else h.lostUnits ++ [(n, gone)]
    healed := h.healed.filter (fun w => !gone.contains (w / 512 % n / 32)) })
  let s2 := ((s1.setHbm moved).setHbmUe (moveWords s.hbmUe)).setHbmCe (moveWords s.hbmCe)
  -- units of a failed stack, written as poisoned lines: more than HBM_UE counts, in every stack that takes one
  let d := Nat.gcd old.length new.length
  s2.each new.zipIdx (fun s x => if gone.any (fun g => g % d == x.2 % d) then s.updStack x.1 (fun y => { y with poisoned := 65535 }) else s)

/-- Set the interleave of an apply: with fewer stacks than the one in force, the contents move first. -/
def setInterleave (s : State) (p : Nat) (new : List Nat) : State :=
  s.updHub p (fun h =>
    if !h.interleave.isEmpty && decide (new.length < h.interleave.length) then { h with moving := true, moveTo := new }
    else { h with interleave := new })

/-! ## Fabric ports at an apply (R411, R412, R421) -/

/-- The physical layer trained: eight lanes, or four of lanes 0 to 3 or 4 to 7. -/
def FPort.trained (f : FPort) : Bool := f.lanes.toNat % 16 == 15 || f.lanes.toNat / 16 == 15

/-- A port of an applied PARTITION record starts its handshake. -/
def joinPort (p : Nat) (s : State) (f : Nat) : State :=
  portNotice (s.updFport f (fun x => { x with part := some p, state := if x.trained then 1 else 2 })) f

/-- Every port of the partition announces the generation (R421). -/
def announceGen (s : State) (p : Nat) : State :=
  s.each (List.range 16) (fun s f =>
    if (s.fport f).part == some p && (s.fport f).state == 4 then
      announce (s.updFport f (fun x => { x with scIn := [] })) f (s.hub p).lay.gen
    else s)

/-! ## LOAD (R192, R351) -/

/-- Column maps for every present column that no applied partition holds: what is fenced there now is fenced at
configuration (R35). -/
def mapColumns (s : State) : State :=
  let free := (List.range 12).filter (fun c => s.part.colPresent c && (s.partOfCol c).isNone)
  let s1 := s.each free (fun s c => s.updColMap c (fun _ => colMapOf (s.fencedRows c)))
  s1.each ((s1.regions.filter (fun x => x.2.midRun && free.contains (siteCol (x.1 / 4)))).map (·.1)) (fun s r =>
    s.updRegion r (fun x => { x with midRun := false }))

/-- The ports whose streams a LOAD takes, in ascending order. -/
def State.loadPorts (s : State) : List Nat :=
  s.ports.filter (fun p => (s.hub p).live && (s.hub p).lay.state == .staged && (s.hub p).lay.staged.isSome && (s.layoutOf p).isNone)

/-- The streams of the other ports that are in force or accepted and being applied (R192). -/
def State.acceptedBut (s : State) (p : Nat) : List Layout :=
  (List.range 4).filterMap (fun q =>
    if q = p then none else if (s.hub q).lay.state == .applying then (s.hub q).lay.staged <|> s.layoutOf q else s.layoutOf q)

/-- Judge the stream of one port: accepted it is APPLYING, and the cap register returns to 0 (R323), else REJECTED. The panel of the check holds the streams
accepted before. -/
def judgeStream (rivals : List (Nat × PartRec)) (s : State) (p : Nat) : State :=
  match (s.hub p).lay.staged with
  | none => s
  | some l =>
    let t := occupy s p l
    let s1 := match s.applyCheck t p l (s.acceptedBut p) ((rivals.filter (fun r => r.1 != p)).map (·.2)) with
      | some e => (s.updLay p (fun y => { y.fail 1 e with state := .rejected, staged := none })).updHub p (fun h => { h with interleave := [] })
      | none => setInterleave ((s.updLay p (fun y => { y with state := .applying })).updHub p (fun h => { h with pcap := 0 })) p (s.liveStacks l.part.stackMask)
    raiseEvt s1 p 2

/-- The regions of accepted columns that are off are powered before the load (R351). -/
def State.loadWaves (s : State) : List Nat :=
  (List.range 624).filter (fun r => (s.region r).pstate == 0 && (s.region r).clock == .off && !(s.region r).fenced && s.power.efuses.has (r / 4)
    && (List.range 4).any (fun p => (s.hub p).lay.state == .applying && (match (s.hub p).lay.staged with
      | some l => decide (l.part.firstCol ≤ siteCol (r / 4)) && decide (siteCol (r / 4) ≤ l.part.lastCol)
      | none => false)))

/-- LOAD begins: maps, checks, interleaves, power. -/
def beginLoad (s : State) : State :=
  let s1 := mapColumns s
  let rivals := (List.range 4).filterMap (fun q =>
    if s1.loadPorts.contains q then (s1.hub q).lay.staged.map (fun l => (q, l.part)) else (s1.layoutOf q).map (fun l => (q, l.part)))
  let s2 := s1.each s1.loadPorts (judgeStream rivals)
  s2.updBring (fun b => { b with waveLeft := s2.loadWaves, waveNow := [] })

/-- The addresses of one partition. -/
def ofPart (p : Nat) (l : List (PartId × Nat)) : List Nat := (l.filter (fun x => x.1.val == p)).map (·.2)

/-- A partition is formed; ce and ue are what its placements find, by partition. -/
def formPartition (ce ue : List (PartId × Nat)) (s : State) (p : Nat) : State :=
  match (s.hub p).lay.state, (s.hub p).lay.staged with
  | .applying, some l =>
    let s1 := finishApply (loadLayout (occupy s p l) p l true (ofPart p ce) (ofPart p ue)) p l
    let s2 := s1.updLay p (fun y => { y with state := .empty, staged := none, gen := (y.gen + 1) % 256 })
    let s3 := (s2.updHub p (fun h => { h with capNow := h.pcap })).each (s2.partStacks p) (fun s st => s.updStack st (fun x => { x with selfRefresh := false }))
    let s4 := ((List.range 16).filter l.part.portMask.testBit).foldl (joinPort p) s3
    raiseEvt s4 p 2
  | _, _ => s

/-- LOAD ends: the partitions stand, and regions outside them are to go off. -/
def endLoad (ce ue : List (PartId × Nat)) (s : State) : State :=
  let s1 := s.each (List.range 4) (formPartition ce ue)
  switchOff (s1.updBring (fun b => { b with offLeft := [] })) ((List.range 624).filter (fun r =>
    ((s1.partOfSite (r / 4)).isNone || (s1.dieOfSite (r / 4)).isNone) && !((s1.region r).clock == .off && (s1.region r).vset == 0)))

/-! ## Replacement (R195 to R198) -/

/-- The events of a partition that an apply or a stop of its layout cancels. -/
def EventKind.ofLayout : EventKind → Bool
  | .cap .panel _ _ => false
  | .cap .partition _ _ => false
  | .cap .follow _ _ => false
  | .telemetry => false
  | .fetch => false
  | _ => true

def cancelEvents (s : State) (p : Nat) (f : EventKind → Bool) : State :=
  let keep := fun (e : PendEvent) => !(e.part == p && f e.ev)
  s.each (List.range 156) (fun s site => s.updCox site (fun c => { c with events := c.events.filter keep, transit := c.transit.filter keep }))

/-- Step 3: the replacement's stroke has come. On success step 4 begins at once. -/
def startReplacement (s : State) (p : Nat) : State :=
  match (s.hub p).lay.state, (s.hub p).lay.staged with
  | .replacePending, some l =>
    let others := s.acceptedBut p
    let t := assignRegions (s.updLay p (fun y => { y with layout? := some l })) p l
    let s1 := match s.applyCheck t p l others (others.map (·.part)) with
      | some e => setLayRc (s.updLay p (fun y => { y.fail 2 e with state := .staged })) p 25
      | none =>
        let a := (s.updLay p (fun y => { y with state := .applying, gen := (y.gen + 1) % 256, quietSince := some s.now, loading := false, pendingStart := false })).updHub p (fun h => { h with pcap := 0 })
        let b := a.each ((a.partRegions p).flatMap regionCores) stopIssue
        let c := abortCommands b p (fun o => o == 4 || o == 5 || o == 6)
        let d := if (c.hub p).cmd.state ≠ 1 then c else raiseEvt (c.updCmd p (fun x => { x with state := 2, fetch := 0 })) p 4
        announceGen d p
    raiseEvt s1 p 2
  | _, _ => s

/-- A mover's instruction that waits for a partner has no transfer under way: it is abandoned (R195 step 5). -/
def Run.waitsOnly (r : Run) : Bool := [4, 5, 6].contains (wFn r.op.w)

/-- No packet of the partition is in a buffer and no transfer outstanding (R195 step 5). -/
def State.partQuiet (s : State) (p : Nat) : Bool :=
  s.drainedNow p && ((s.partRegions p).flatMap regionCores).all (fun k =>
    let c := s.core k
    (c.reqs.filter (fun q => q.kind != .sync)).isEmpty && c.held.isEmpty && c.mvRun.all Run.waitsOnly)

/-- Step 6. -/
def resetPartition (s : State) (p : Nat) : State :=
  match (s.hub p).lay.staged with
  | none => s
  | some l =>
    let s1 := cancelEvents s p EventKind.ofLayout
    let s2 := s1.each ((s1.partRegions p).flatMap regionCores) (fun s k => s.updCore k Core.fresh)
    let s3 := (setInterleave (unbind s2 p) p (s2.liveStacks l.part.stackMask)).updFab p (fun f => { f with waiting := [] })
    s3.updLay p (fun y => { y with loading := true, quietSince := none })

/-- The new layout is in force at stroke A (step 8). -/
def newLayoutStarts (s : State) (p : Nat) : State :=
  if (s.hub p).lay.pendingStart then
    raiseEvt (((s.updHub p (fun h => { h with capNow := h.pcap })).updLay p (fun y => { y with state := .empty, pendingStart := false })).updCmd p (fun c => if c.state = 2 then { c with state := 1 } else c)) p 2
  else s

/-! ## The rows -/

/-- Writes of host port p to its own registers act: the hub has booted and is not in recovery. -/
def State.portLive (s : State) (p : Nat) : Bool :=
  s.part.hostPresent p && (s.hub p).live && s.supply.booted && !s.bring.recovery && (s.hub p).linkUp

/-- LAYOUT_STAGE (R188 BUSY, R191). -/
def execLayoutStage (p : PortId) (s : State) : Host.Outcome State Fault Refusal :=
  .next (
    let y := (s.hub p).lay
    if !s.portLive p then s
    else if y.state == .replacePending || y.state == .applying || decide (s.bring.done < 4) then
      s.updLay p (fun y => y.fail 0 ⟨0x19, 0, noRecord⟩)
    else if y.state == .fetching then s
    else
      let s0 := s.updLay p (fun y => { y.fail 0 ⟨0, 0, 0⟩ with state := .fetching, staged := none })
      let s1 := if (s.layoutOf p).isNone then s0.updHub p (fun h => { h with interleave := [] }) else s0
      raiseEvt (s1.emit (.hostRead p y.addr y.len)) p 2)

/-- LAYOUT_FETCH_DONE (R188, R191, R276). -/
def execLayoutFetchDone (p : PortId) (bytes : Option (List Byte)) (s : State) : Host.Outcome State Fault Refusal :=
  .next (if (s.hub p).lay.state != .fetching then s
    else
      let judged : LErr ⊕ Layout := match bytes with
        | none => .inl ⟨3, 0, noRecord⟩
        | some b => match s.stageCheck p (s.hub p).lay.len b with
          | some e => .inl e
          | none => .inr (readLayout b)
      let s1 := match judged with
        | .inl e => s.updLay p (fun y => { y.fail 0 e with state := .rejected })
        | .inr l =>
          let s2 := s.updLay p (fun y => { y with state := .staged, staged := some l })
          if (s.layoutOf p).isNone then s2.updHub p (fun h => { h with interleave := s.liveStacks l.part.stackMask }) else s2
      raiseEvt s1 p 2)

/-- LAYOUT_DISCARD (R190). -/
def execLayoutDiscard (p : PortId) (s : State) : Host.Outcome State Fault Refusal :=
  .next (if s.portLive p && (s.hub p).lay.state == .staged then
      let s1 := s.updLay p (fun y => { y with state := .empty, staged := none })
      raiseEvt (if (s.layoutOf p).isNone then s1.updHub p (fun h => { h with interleave := [] }) else s1) p 2
    else s)

/-- LAYOUT_REPLACE (R194): refused without the lead of R49 or where a cox has no entry. -/
def execLayoutReplace (p : PortId) (s : State) : Host.Outcome State Fault Refusal :=
  .next (if s.portLive p && (s.hub p).lay.state == .staged && (s.layoutOf p).isSome && !s.partStopped p then
      let s1 := postEvent s p .replacement (s.hub p).lay.repl
      let s2 := if s1.posted = .ok then s1.updLay p (fun y => { y with state := .replacePending }) else setLayRc s p 25
      raiseEvt (s2.setPosted s.posted) p 2
    else s)

/-- LAYOUT_CANCEL (R196). -/
def execLayoutCancel (p : PortId) (s : State) : Host.Outcome State Fault Refusal :=
  .next (if s.portLive p && (s.hub p).lay.state == .replacePending then
      raiseEvt ((cancelEvents s p (fun e => e == .replacement)).updLay p (fun y => { y with state := .staged })) p 2
    else s)

/-- Step 4 has been taken and step 6 not. -/
def State.quieting (s : State) (p : Nat) : Bool :=
  (s.hub p).lay.state == .applying && (s.layoutOf p).isSome && (s.hub p).lay.quietSince.isSome && !(s.hub p).lay.loading

/-- REPLACE_QUIET (R195 steps 5 and 6). -/
def execReplaceQuiet (p : PartId) (s : State) : Host.Outcome State Fault Refusal :=
  .next (if s.quieting p && s.partQuiet p then resetPartition s p else s)

/-- REPLACE_DRAIN_TIMEOUT (R197): 1 ms after step 4. -/
def execReplaceDrainTimeout (p : PartId) (s : State) : Host.Outcome State Fault Refusal :=
  .next (
    let late := match (s.hub p).lay.quietSince with
      | some t => decide (t + 1000000 ≤ s.now)
      | none => false
    if s.quieting p && late && !s.partQuiet p then
      raiseEvt (resetPartition (setLayRc (clearFabric s p) p 27) p) p 2
    else s)

/-- REPLACE_LOAD_DONE (R195 step 7): the layout is loaded, and the stroke A is chosen; ce and ue are the window addresses
of the words that the placements' reads find faulty. -/
def execReplaceLoadDone (p : PartId) (ce ue : List Nat) (s : State) : Host.Outcome State Fault Refusal :=
  .next (match (s.hub p).lay.staged with
    | none => s
    | some l =>
      if (s.hub p).lay.state == .applying && (s.hub p).lay.loading && !(s.hub p).moving && (s.layoutOf p).isSome then
        -- a route change that began meanwhile ends here: its tables are in place before stroke A (R236)
        let s0 := if s.paused p then tablesInPlace (recompute s p) p else s
        let s1 := assignRegions (s0.updLay p (fun y => { y with layout? := some l })) p l
        let s2 := finishApply (loadLayout s1 p l false ce ue) p l
        let s3 := s2.each (s2.partRegions p) (fun s r => s.updRegion r (fun x => { x with loading := none }))
        s3.updLay p (fun y => { y with staged := none, pendingStart := true })
      else s)

/-- SPARE_LOAD_DONE (R199, R372 step 4): the spare holds the initial contents of the layout in force, read as in
REPLACE_LOAD_DONE. -/
def execSpareLoadDone (r : PRegion) (ce ue : List Nat) (s : State) : Host.Outcome State Fault Refusal :=
  .next (match (s.region r).loading, (s.partOfSite (r.val / 4)).bind (fun p => (s.layoutOf p).map (fun l => (p, l))) with
    | some lc, some (p, l) =>
      (match s.coreOf lc with
        | some k => match s.leadOf k with
          | some lead => loadCore (placementReads (s.updRegion r (fun x => { x with loading := none })) p (l.readRuns [lead]) ce ue) p l k lead true
          | none => s.updRegion r (fun x => { x with loading := none })
        | none => s.updRegion r (fun x => { x with loading := none }))
    | _, _ => s)

end Sys2Proof.Machine
end

