-- ==== Sys2Proof/Machine/Power.lean ====
section
/-!
DEFINITION. The commands of chapter 10: faults in delivery (R292 to R303), admission of new load (R304 to R308) and the
1 ms records (R309, R320, R323).
-/
namespace Sys2Proof.Machine

/-! ## Stage A (R292 to R294) -/

def bitCount (v n : Nat) : Nat := ((List.range n).filter (fun i => v.testBit i)).length

/-- STAGEA_CONVERTER_FAIL (R292, R293): from the third on the limits scale; with fewer than 12 working the panel stops. -/
def execStageaConverterFail (n : Fin 20) (s : State) : Host.Outcome State Fault Refusal :=
  .next (if s.supply.stageA && !s.power.failed.testBit n then
      let map := s.power.failed + 2 ^ n.val
      let f := bitCount map 20
      let s1 := s.updPower (fun p => { p with failed := map, converters := f, limited := decide (3 ≤ f) })
      let s2 := hubRecord s1 (panelRec s1 0x0B 0 0 0)
      let s3 := if f = 3 then raiseAll s2 3 else s2
      if 9 ≤ f then orderedStop s3 6 else s3
    else s)

/-- INPUT_UNDERVOLTAGE (R294): the input has stayed below 46 V for 1 ms. -/
def execInputUndervoltage (s : State) : Host.Outcome State Fault Refusal :=
  .next (if s.supply.stageA then orderedStop s 5 else s)

/-- INPUT_OVERVOLTAGE (R294): above 62 V every converter turns itself off. -/
def execInputOvervoltage (s : State) : Host.Outcome State Fault Refusal :=
  .next (if s.supply.stageA then removeStageA s false else s)

/-! ## Stage C (R298, R302) -/

/-- A region goes dark for a cause of RPWR_STAT and is fenced, with a field entry where the cause has one. -/
def darken (s : State) (r cause defect : Nat) : State :=
  let s1 := s.updRegion r (fun x => { x with pstate := 4, pcause := cause, vset := 0 })
  let s2 := if defect = 0 then s1 else appendDefect s1 { kind := 3, cause := defect, unit := r, stroke := s.stroke.count }
  (fenceRegion s2 r defect).updPower (fun p => { p with queue := p.queue.filter (fun q => q.region != r), granted := p.granted.filter (fun q => q.region != r) })

/-- The region has its phases on. -/
def State.phased (s : State) (r : Nat) : Bool := (s.region r).vset != 0 && (s.region r).pstate != 4

/-- PHASE_FAIL (R302): the first caps the region at 35 A, the second darkens it. -/
def execPhaseFail (r : PRegion) (n : Fin 8) (s : State) : Host.Outcome State Fault Refusal :=
  .next (if s.phased r && !(s.region r).phaseFail.toNat.testBit n then
      let first := (s.region r).phaseFail == 0
      let s1 := s.updRegion r (fun x => { x with phaseFail := x.phaseFail ||| BitVec.ofNat 8 (2 ^ n.val) })
      if first then coxRecord s1 (r.val / 4) (siteRec s1 (r.val / 4) 0x0B 0 ((s1.logicalRegion r).getD 0) 0) else darken s1 r 1 0x06
    else s)

/-- RAIL_SHORT (R302). -/
def execRailShort (r : PRegion) (s : State) : Host.Outcome State Fault Refusal :=
  .next (if s.phased r then (darken s r 2 0x07).updPower (fun p => { p with shorts := p.shorts ++ [(0, r.val)] }) else s)

/-- RAIL_OVERVOLTAGE (R302). -/
def execRailOvervoltage (r : PRegion) (s : State) : Host.Outcome State Fault Refusal :=
  .next (if s.phased r then darken s r 3 0 else s)

/-- SENSOR_LOSS (R298): the sensors whose present readings are valid; with fewer than 3 the region goes dark. -/
def execSensorLoss (r : PRegion) (valid : BitVec 6) (s : State) : Host.Outcome State Fault Refusal :=
  .next (if s.phased r then
      let s1 := s.updRegion r (fun x => { x with sensors := valid })
      if bitCount (s1.region r).sensors.toNat 6 < 3 then darken s1 r 4 0 else s1
    else s)

/-! ## Stage B (R296, R297, R302) -/

/-- A trip opens a site's eFuse, or another did at this moment: the eFuse opens once, and both causes are recorded (R312). -/
def State.trips (s : State) (site : Nat) : Bool := s.power.efuses.has site || (s.cox site).tripAt == some s.now

/-- The eFuse opens on a trip and the die is fenced. -/
def tripDie (s : State) (site detail : Nat) : State := (cutDie s site detail).updCox site (fun c => { c with tripAt := some s.now })

/-- EFUSE_TRIP (R297): a die-input short. -/
def execEfuseTrip (site : SiteId) (s : State) : Host.Outcome State Fault Refusal :=
  .next (if s.trips site && !s.power.shorts.contains (1, site.val) then
      let s1 := tripDie s site 0x07
      (appendDefect s1 { kind := 4, cause := 7, unit := site.val, stroke := s.stroke.count }).updPower
        (fun p => { p with shorts := p.shorts ++ [(1, site.val)] })
    else s)

/-- GROUP_TRIP (R302): a column group trips and its dies are fenced; waiting requests of the group leave the queue (R312). -/
def execGroupTrip (g : Fin 36) (overcur : Bool) (s : State) : Host.Outcome State Fault Refusal :=
  .next (if (s.group g).state = 1 then
      let sites := groupSites g
      let s1 := s.each (sites.filter (fun st => s.power.efuses.has st)) (fun s site =>
        appendDefect (tripDie s site 0x07) { kind := 4, cause := 7, unit := site, stroke := s.stroke.count })
      (s1.updGroup g (fun x => { x with
          state := 2, cause := if overcur then 2 else 1, tripped := (s.group g).sites, sites := 0 })).updPower (fun p => { p with
        shorts := p.shorts ++ [(2, g.val)]
        queue := p.queue.filter (fun q => siteGroup (q.region / 4) != g.val), granted := p.granted.filter (fun q => siteGroup (q.region / 4) != g.val) })
    else s)

/-- CHANNEL_TRIP (R296, R302): one channel of a spare-row group, or of an HBM rail group, whose stack then fails. -/
def execChannelTrip (n : Fin 60) (s : State) : Host.Outcome State Fault Refusal :=
  .next (
    if n.val < 12 then
      let site := n.val * 13 + 12
      if s.trips site && !s.power.shorts.contains (1, site) then (tripDie s site 0x07).updPower (fun p => { p with shorts := p.shorts ++ [(1, site)] }) else s
    else
      let st := n.val - 12
      if (Tab.get {} s.power.rails st : Rail).state = 1 then
        failStack (s.updPower (fun p => { p with
          rails := Tab.upd {} p.rails st (fun (x : Rail) => { x with state := 2 }), shorts := p.shorts ++ [(3, st)] })) st 2 0x0C
      else s)

/-! ## Hubs and base groups (R39, R302, R370) -/

/-- HUB_LOST (R370): the hub's partition stops; hub 2 begins to take hub 0's roles, and no grant is made until it has
(R312). A loss of hub 0 before HUB completes fails the step (R344). -/
def execHubLost (h : HubId) (s : State) : Host.Outcome State Fault Refusal :=
  .next (if (s.hub h).live && s.supply.stageA then
      let s1 := (s.updHub h (fun x => { x with live := false, linkUp := false })).updPower (fun p => { p with
        aux := Tab.upd {} p.aux h.val (fun (x : Rail) => { x with state := 2 }) })
      let s2 := stopReported s1 h
      if h.val ≠ 0 then s2
      else
        let s3 := (s2.updPower (fun p => { p with noGrants := true })).updStroke (fun k => { k with takeover := true })
        if s3.bring.running = 2 then s3.updBring (fun b => { b with verdict := 3 }) else s3
    else s)

/-- MASTER_TAKEOVER (R39, R312, R315). -/
def execMasterTakeover (s : State) : Host.Outcome State Fault Refusal :=
  .next (if !(s.hub 0).live && (s.hub 2).live && !s.stroke.master2 then
      raiseAll ((takeMaster s).updPower (fun p => { p with noGrants := s.panelStopped, epochs := 0 })) 5
    else s)

/-- BASE_GROUP_FAIL (R302): the other carries the load. When both have failed the panel stops and the supervisor removes
stage A; during SUPPLY the step fails instead (R344). -/
def execBaseGroupFail (b : Fin 2) (s : State) : Host.Outcome State Fault Refusal :=
  .next (if (Tab.get {} s.power.aux (4 + b.val) : Rail).state = 1 then
      let s1 := s.updPower (fun p => { p with aux := Tab.upd {} p.aux (4 + b.val) (fun (x : Rail) => { x with state := 2 }) })
      if (Tab.get {} s1.power.aux (5 - b.val) : Rail).state ≠ 2 then hubRecord s1 (panelRec s1 0x0B 0 0 0)
      else if s1.bring.running = 1 then s1.updBring (fun x => { x with verdict := 2, verdictDetail := 4 + b.val })
      else removeStageA s1 false
    else s)

/-! ## Path resistance (R301) -/

/-- Twice the median of a list: the sum of its two middle values, which of an odd number are one. -/
def median2 (l : List Nat) : Nat :=
  let m := sortBy (fun a b => decide (a ≤ b)) l
  m.getD ((m.length - 1) / 2) 0 + m.getD (m.length / 2) 0

/-- PATH_RESISTANCE_UPDATE (R301). -/
def execPathResistanceUpdate (r : PRegion) (ests : List Nat) (s : State) : Host.Outcome State Fault Refusal :=
  .next (if s.phased r && !(s.region r).fenced then
      let x := s.region r
      let all := x.ests ++ ests
      let kept := all.drop (all.length - 64)
      let base := Config.pathBaseline r x.op
      -- the excess over the baseline and the baseline, both doubled
      let excess := if kept.isEmpty then 0 else median2 kept - 2 * base
      let above := fun (percent : Nat) => decide (2 * base * percent < excess * 100)
      let high := if above 60 then min 100 (x.high + 1) else 0
      let s1 := s.updRegion r (fun x => { x with
        ests := kept, rise := sat 16 (excess * 1000 / (2 * base)), high := high, pathFlag := x.pathFlag || above 25
        pathCap := above 60 || (x.pathCap && above 50) })
      let s2 := if above 25 && !x.pathFlag then
          coxRecord s1 (r.val / 4) (siteRec s1 (r.val / 4) 0x0B 0 ((s1.logicalRegion r).getD 0) 0) else s1
      if high = 100 then darken s2 r 5 0x08 else s2
    else s)

/-! ## Re-enabling (R303) -/

/-- The partition that holds the unit of a PWR_REEN. -/
def State.reenPart (s : State) (kind id : Nat) : Option Nat :=
  match kind with
  | 0 => if id < 576 then s.partOfDie (id / 4) else none
  | 1 => if id < 156 then s.partOfSite id else none
  | 2 => if id < 36 then s.partOfCol (id / 3) else none
  | _ => if id < 48 then s.partOfStack id else none

/-- The unit as the panel's lists of shorts name it: a region by its physical number. -/
def State.reenUnit (s : State) (kind id : Nat) : Nat := if kind = 0 then (s.physRegion id).getD 99999 else id

/-- PWR_REEN (R303, R311, R312): once per unit and bring-up, for a shorted unit of the writing port's partition. -/
def execPwrReen (p : PortId) (data : W32) (s : State) : Host.Outcome State Fault Refusal :=
  .next (
    let kind := data.toNat / 2 ^ 30
    let id := data.toNat % 1024
    let u := s.reenUnit kind id
    if s.reenPart kind id = some p.val ∧ s.power.shorts.contains (kind, u) ∧ ¬ s.power.reenDone.contains (kind, u) then
      s.updPower (fun q => { q with
        reenDone := q.reenDone ++ [(kind, u)], reenRun := q.reenRun ++ [(kind, u, s.now)], reenResult := 1, reenKind := kind, reenId := id })
    else s)

/-- A RESOLVE entry for every field entry of a short that names the unit (R303, R354). -/
def resolveShort (s : State) (kind unit : Nat) : State :=
  let sites := if kind = 2 then groupSites unit else [unit]
  let k := if kind = 0 then 3 else if kind = 3 then 7 else 4
  let res := s.defects.field.filterMap (fun e => if e.kind == 0x0F then some e.unit else none)
  let hits := (s.defects.field.zipIdx.filter (fun (e, i) =>
    e.kind == k && (e.cause == 7 || e.cause == 0x0C) && sites.contains e.unit && !res.contains i)).map (·.2)
  s.each hits (fun s i => appendDefect s { kind := 0x0F, cause := 0, unit := i, stroke := s.stroke.count })

/-- The unit of a passed test is powered; it stays fenced until the next bring-up. A group powers the sites that it fed as it
tripped; an eFuse that has tripped of its own stays open. -/
def repower (s : State) (kind unit : Nat) : State :=
  match kind with
  | 0 => s.updRegion unit (fun x => { x with pstate := 3, vset := vsetOf x.op })
  | 1 => closeFuse s unit
  | 2 => (s.each ((groupSites unit).filter (fun st => (s.group unit).tripped.testBit (siteBit st) && !s.power.shorts.contains (1, st)
      && (siteRegions st).all (fun r => !(s.region r).thFenced))) closeFuse).updGroup unit (fun g => { g with state := 1, cause := 0 })
  | _ => s.updPower (fun p => { p with rails := Tab.upd {} p.rails unit (fun (x : Rail) => { x with state := 1 }) })

/-- REEN_TEST_DONE (R303): the oldest test ends after its 1 ms. -/
def execReenTestDone (short : Bool) (s : State) : Host.Outcome State Fault Refusal :=
  .next (match s.power.reenRun with
    | [] => s
    | (kind, u, t) :: rest =>
      if s.now < t + 1000000 then s
      else
        let newest := s.power.reenKind == kind && s.reenUnit kind s.power.reenId == u
        let s1 := s.updPower (fun p => { p with reenRun := rest, reenResult := if newest then (if short then 3 else 2) else p.reenResult })
        if short then s1 else resolveShort (repower s1 kind u) kind u)

/-! ## Admission (R304 to R308) -/

/-- The number that orders requests of one stroke (R307, R346). -/
def State.queueKey (s : State) (r : Nat) : Nat := (s.logicalRegion r).getD r

/-- Put a request in its place: by stroke, then by region. -/
def enqueue (s : State) (q : PowReq) : List PowReq → List PowReq
  | [] => [q]
  | x :: l =>
    if q.stroke < x.stroke || (q.stroke == x.stroke && decide (s.queueKey q.region < s.queueKey x.region)) then q :: x :: l
    else x :: enqueue s q l

/-- The region may make a request of this kind (R304). -/
def State.mayRequest (s : State) (r : Nat) (kind : ReqKind) : Bool :=
  let x := s.region r
  !x.fenced && s.power.efuses.has (r / 4) && !s.panelStopped
  && !(match s.partOfSite (r / 4) with
    | some p => s.partStopped p
    | none => false)
  && s.power.queue.all (fun q => q.region != r) && s.power.granted.all (fun q => q.region != r)
  && (match kind with
    | .powerOn => x.pstate == 0 && x.clock == .off && s.bring.waveNow.contains r
    | .wake => decide (2 ≤ x.depth) && x.waking && x.grantAt.isNone
    | .crewStart => x.startDue && x.clock == .running && x.depth == 0)

/-- POWER_REQUEST (R308 step 1). -/
def execPowerRequest (r : PRegion) (kind : ReqKind) (final present : Nat) (s : State) : Host.Outcome State Fault Refusal :=
  .next (if s.mayRequest r kind then
      let q : PowReq := { region := r, stroke := s.stroke.count, kind := kind, final := final, present := present }
      (s.updRegion r (fun x => { x with pstate := 1 })).updPower (fun p => { p with queue := enqueue s q p.queue })
    else s)

/-- When a request's ramp starts, in ns after its window start (R305). -/
def State.rampDelay (s : State) (q : PowReq) : Nat :=
  match q.kind with
  | .crewStart => 2000
  | .wake => if (s.region q.region).depth = 3 then 120000 else 8000
  | .powerOn => 4000 + railMv (vsetOf (s.region q.region).op) * 20

/-- The current a ramp adds in each window it runs through, by window after that of the grant [10 mA] (R305): 1 A/µs. -/
def State.rampCharges (s : State) (q : PowReq) : List (Nat × Nat) :=
  let d := q.final - q.present
  let a := s.rampDelay q / 10
  let b := a + d
  ((List.range (b / 1000 + 1)).map (fun i => (i, min b (1000 * i + 1000) - max a (1000 * i)))).filter (fun x => x.2 != 0)

/-- What is charged in a window: of one group, or of the panel. -/
def Power.charged (p : Power) (w : Nat) (g : Option Nat) : Nat :=
  p.charges.foldl (fun a c => if c.1 = w && (match g with
    | some g => c.2.1 == g
    | none => true) then a + c.2.2 else a) 0

/-- A region-output current [10 mA] at the stage-B output [0.1 A] (R304). -/
def State.groupAmps (s : State) (r cur : Nat) : Nat := ceilDiv (cur * railMv (vsetOf (s.region r).op)) 9200

/-- The headroom of a group [0.1 A]: its rating less its present current and the final current of its granted ramps. -/
def State.headroom (s : State) (g : Nat) : Nat :=
  6400 - (s.group g).mean - (((groupSites g).flatMap siteRegions).foldl (fun a r => a + s.groupAmps r (s.region r).finalCur) 0)

/-- The checks of R305 for a request at window w: 0 passes, 1 fails on its group, 2 fails on the panel. -/
def State.admission (s : State) (w : Nat) (q : PowReq) : Nat :=
  let g := siteGroup (q.region / 4)
  let cs := s.rampCharges q
  if s.headroom g < s.groupAmps q.region q.final then 1
  else if cs.any (fun c => decide (8000 < s.power.charged (w + c.1) (some g) + c.2)) then 1
  else if cs.any (fun c => decide (120000 < s.power.charged (w + c.1) none + c.2)) then 2
  else 0

/-- Grant a request and charge its windows. -/
def grantPower (s : State) (w : Nat) (q : PowReq) : State :=
  let g := siteGroup (q.region / 4)
  (s.updPower (fun p => { p with
    queue := p.queue.filter (fun x => x.region != q.region), granted := p.granted ++ [{ q with since := s.now }]
    charges := p.charges ++ (s.rampCharges q).map (fun c => (w + c.1, g, c.2)) })).updRegion q.region (fun x => { x with finalCur := q.final })

/-- The scan of R307: groups that have failed, and whether the panel budget has ended it. -/
def scanQueue (w : Nat) : State → List Nat → List PowReq → State
  | s, _, [] => s
  | s, blocked, q :: l =>
    let g := siteGroup (q.region / 4)
    if blocked.contains g then scanQueue w s blocked l
    else match s.admission w q with
      | 0 => scanQueue w (grantPower s w q) blocked l
      | 1 => scanQueue w s (g :: blocked) l
      | _ => s

/-- The manager works: HUB has started it, a hub runs it, and it makes grants (R312, R315, R333). -/
def State.managed (s : State) : Bool := decide (2 ≤ s.bring.done) && (s.hub s.masterHub).live
def State.grants (s : State) : Bool := s.managed && !s.power.noGrants

/-- POWER_GRANT_WINDOW (R305, R307): the manager scans its queue at the start of a 10 µs window. -/
def execPowerGrantWindow (s : State) : Host.Outcome State Fault Refusal :=
  .next (
    let w := s.now / 10000
    if s.managed && decide (s.power.windowNo < w) then
      let s1 := s.updPower (fun p => { p with windowNo := w, charges := p.charges.filter (fun c => decide (w ≤ c.1)) })
      let room := (List.range 39).map (fun g => (g, s1.headroom g))
      let s2 := if s1.grants then scanQueue w s1 [] s1.power.queue else s1
      s2.each room (fun s x => if (s.group x.1).state = 1 then
        s.updGroup x.1 (fun g => { g with headroom := x.2, used := s.power.charged w (some x.1) / 10 }) else s)
    else s)

/-- A crew starts on a region (R193, R250): its programmed cores run from their entries, at a catch point. -/
def startCores (s : State) (r : Nat) : State :=
  s.each ((regionCores r).filter (fun k => let c := s.core k; c.lcid.isSome && c.programmed && c.mode == .idle)) (fun s k =>
    catchAt (s.updCore k (fun c => { c with mode := .running, pc := c.entry, crewStart := s.now })) k none)

/-- POWER_GRANT (R308 steps 3 and 4): a grant reaches the cox 2 µs after its window start. -/
def execPowerGrant (r : PRegion) (s : State) : Host.Outcome State Fault Refusal :=
  .next (match s.power.granted.find? (fun q => q.region == r.val && decide (q.since + 2000 ≤ s.now)) with
    | none => s
    | some q =>
      let s1 := (s.updPower (fun p => { p with granted := p.granted.filter (fun x => x.region != r.val) })).updRegion r (fun x =>
        { x with grantAt := some q.since })
      match q.kind with
      | .crewStart => startCores (startRamp (s1.updRegion r (fun x => { x with startDue := false })) r) r
      | .wake => s1
      | .powerOn => s1.updRegion r (fun x => { x with pstate := 2, vset := vsetOf x.op, sensors := 0x3F }))

/-- PLL_LOCK (R308 steps 5 and 6): the rail stands at its setpoint, the PLL locks and the clock starts. -/
def execPllLock (r : PRegion) (s : State) : Host.Outcome State Fault Refusal :=
  .next (
    let x := s.region r
    match x.grantAt with
    | some t =>
      if x.pstate = 2 && x.clock == .off && !x.fenced && decide (t + 2000 + railMv x.vset * 20 ≤ s.now) then
        startRamp (s.updRegion r (fun x => { x with clock := .running, count := (s.cox (r.val / 4)).count, acted := (s.cox (r.val / 4)).count })) r
      else s
    | none => s)

/-- RAMP_DONE (R306): the region has its steady current. -/
def execRampDone (r : PRegion) (s : State) : Host.Outcome State Fault Refusal :=
  .next (if (s.region r).pstate = 2 && (s.region r).clock == .running then
      setRatio (s.updRegion r (fun x => { x with pstate := 3, ramping := false, rampR := 0, finalCur := 0, grantAt := none })) r
    else s)

/-! ## Records and fast limits (R309, R319, R320, R323) -/

/-- The required flow [0.01 L/min] at an inlet [0.1 °C] (R331). -/
def requiredFlow (inlet : Int) : Nat := if inlet ≤ 350 then 3200 else 3200 + (min 400 inlet - 350).toNat * 32

/-- The flow is below n tenths of the required flow (R332); flow is in 0.1 L/min. -/
def flowBelow (flow : Nat) (inlet : Int) (n : Nat) : Bool := decide (100 * flow < n * requiredFlow inlet)

/-- The bus-bar limit [mW]: 20 kW scaled under R293 and R332, and held to 400 A below 50 V (R294). -/
def State.busLimit (s : State) : Nat :=
  let f := bitCount s.power.failed 20
  let a := if 3 ≤ f then 20000000 * (20 - f) / 18 else 20000000
  let b := if s.cool.sampled && flowBelow s.cool.flow s.cool.inlet 10 then a * (10 * s.cool.flow) / requiredFlow s.cool.inlet else a
  let c := if s.cool.sampled && decide (400 < s.cool.inlet) then b * (450 - s.cool.inlet).toNat / 50 else b
  if s.power.vin < 5000 && s.power.vin != 0 then min c (s.power.vin * 4000) else c

/-- The partition cap in force [mW], none when neither names one (R323). -/
def State.capOf (s : State) (p : Nat) : Option Nat :=
  let c := if (s.hub p).capNow ≠ 0 then (s.hub p).capNow else ((s.layoutOf p).map (·.part.powerCap)).getD 0
  if c = 0 then none else some (c * 1000)

/-- R320 for the bus bars and the partitions: a component tightens at once. -/
def tightenFast (s : State) : State :=
  let l := s.busLimit
  let s1 := if fastOver s.power.inputMw l then
      applyPanel (s.updPower (fun p => { p with panelR := max p.panelR (ratioRule p.panelR s.power.inputMw l), tightAt := s.postNo })) else s
  s1.each (List.range 4) (fun s p => match s.layoutOf p, s.capOf p with
    | some _, some c =>
      let h := s.hub p
      if fastOver h.partMw c then applyPart (s.updHub p (fun x => { x with partR := max x.partR (ratioRule x.partR h.partMw c), tightAt := s.postNo })) p else s
    | _, _ => s)

/-- Power of a partition at the bus bars [mW] (R323). -/
def partPower (s : State) (t : Telemetry) (p : Nat) : Nat :=
  let sites := t.siteMw.foldl (fun a x => if s.partOfSite x.1.val = some p then a + x.2 else a) 0
  let stacks_ := t.stackMw.foldl (fun a x => if s.partOfStack x.1.val = some p then a + x.2 else a) 0
  (sites + stacks_) * 10000 / 8775

/-- TELEMETRY_MS (R309): the 1 ms records, and what they make the manager do at once. -/
def execTelemetryMs (t : Telemetry) (s : State) : Host.Outcome State Fault Refusal :=
  .next (if s.supply.stageA then
      let s1 := s.updPower (fun p => { p with
        vin := t.vin.toNat, iin := t.iin.toNat, inputMw := t.inputMw, peak := decide (20000000 < t.inputMw)
        rails := t.rails.foldl (fun r x => if x.1 < 48 then Tab.upd {} r x.1 (fun (y : Rail) => { y with mean := x.2.1.toNat, peak := x.2.2.toNat }) else r) p.rails
        aux := t.aux.foldl (fun r x => if x.1 < 6 then Tab.upd {} r x.1 (fun (y : Rail) => { y with mean := x.2.1.toNat, peak := x.2.2.toNat }) else r) p.aux })
      let s2 := s1.each t.regions (fun s x => s.updRegion x.1 (fun r => { r with msMean := x.2.1.toNat, msPeak := x.2.2.toNat }))
      let s3 := s2.each t.regionMw (fun s x => s.updRegion x.1 (fun r => { r with msMw := x.2 }))
      let s4 := s3.each (t.groups.filter (fun x => decide (x.1 < 39))) (fun s x => s.updGroup x.1 (fun g => { g with mean := x.2.1.toNat, peak := x.2.2.toNat }))
      let s5 := s4.each t.stackMw (fun s x => s.updStack x.1 (fun y => { y with mw := x.2 }))
      let s6 := s5.each (List.range 4) (fun s p => s.updHub p (fun h => { h with partMw := if (s.layoutOf p).isSome then partPower s t p else 0 }))
      if s6.managed && !s6.panelStopped then tightenFast s6 else s6
    else s)

end Sys2Proof.Machine
end

