-- ==== Sys2Proof/Machine/BringUp.lean ====
section
/-!
DEFINITION. The commands of chapter 12: power arrival, the nine steps of bring-up, RESTART and recovery (R340 to R362).
-/
namespace Sys2Proof.Machine

/-! ## Power arrival (R340, R476, R480) -/

/-- With SUP_EN asserted, the bulk capacitance charged and the bus bars within 50-60 V the supervisor starts stage A and the
hubs boot (R340, R476). -/
def startStageA (s : State) : State :=
  let u := s.supply
  if u.supEn && u.charged && !u.stageA && decide (5000 ≤ u.vin) && decide (u.vin ≤ 6000) then
    bootHubs (s.updSupply (fun u => { u with stageA := true, pg := true, faultN := false })) (fun h => u.hubOk.getLsbD h)
  else s

/-- POWER_ARRIVAL (R340, R435, R480): the bus-bar voltage, with the enable input asserted. -/
def execPowerArrival (vin : Nat) (hallmarkOk : BitVec 4) (s : State) : Host.Outcome State Fault Refusal :=
  .next (startStageA (s.updSupply (fun u => { u with vin := vin, supEn := true, hubOk := hallmarkOk })))

/-- BULK_CHARGE_DONE (R476). -/
def execBulkChargeDone (s : State) : Host.Outcome State Fault Refusal :=
  .next (startStageA (s.updSupply (fun u => { u with charged := true })))

/-! ## The sequence (R342, R344) -/

/-- A failed step or an ordered stop leaves only RESTART; after COOLANT the host may write WAVES again. -/
def BringUp.blocked (b : BringUp) (n : Nat) : Bool := b.stopped || (b.failed && !(b.verdict == 5 && n == 5))

/-- What the panel does with a write of step n: 0 ignored, 1 taken, 2 refused with ORDER. -/
def State.stepAnswer (s : State) (p n : Nat) : Nat :=
  let b := s.bring
  if n = b.running then 0
  else if n ≤ 7 && decide (n ≤ b.done) then 0
  else if n = 9 && b.ready.has p then 0
  else if b.running ≠ 0 || b.blocked n then 2
  else if n = 8 then (if 7 ≤ b.done then 1 else 2)
  else if n = 9 then (if decide (8 ≤ b.done) && (s.layoutOf p).isSome then 1 else 2)
  else if n = b.done + 1 then 1 else 2

/-- A write of step n by port p: the step runs, with f, or is refused or ignored. -/
def takeStep (s : State) (p n : Nat) (f : State → State) : State :=
  if !s.portLive p then s
  else match s.stepAnswer p n with
    | 0 => s
    | 1 => f (s.updBring (fun b => { b with running := n, failed := false, verdict := 0, verdictDetail := 0, port := p, since := s.now, input := .none }))
    | _ => s.updBring (fun b => { b with errCode := 1, errStep := n, errPort := p, errDetail := 0 })

/-- The running step is to end with a code of BRING_ERR. -/
def failStep (s : State) (code detail : Nat) : State := s.updBring (fun b => { b with verdict := code, verdictDetail := detail })

/-! ## SUPPLY -/

/-- R358 step 3: the entries before the last CLEAR marker go. RESOLVE entries that stay keep naming the entry they named. -/
def dropCleared (d : Defects) : Defects :=
  if !d.clearPend then d
  else
    let marks := (d.field.zipIdx.filter (fun (e, _) => e.kind == 0x0E)).map (·.2)
    let n := marks.getLast?.getD 0
    { d with
      field := (d.field.drop n).map (fun e => if e.kind == 0x0F then { e with unit := if n ≤ e.unit then e.unit - n else 0xFFFFFFFF } else e)
      clearPend := false, dropped := n }

/-- A bring-up begins (R341): the list is cleared where FIELD_CLEAR asked for it, logs and the nonce start afresh, and the
bezel entries of the policy come into force. -/
def beginBringUp (s : State) : State :=
  let s1 := s.updBring (fun b => { b with count := sat 16 (b.count + 1) })
  let s2 := s1.each (List.range 4) (fun s h => s.updHub h (fun x => { x with logWr := 0, logRd := 0, pending := 0, lost := 0, log := [], inbox := [] }))
  freshNonce ((s2.updDefects dropCleared).updSec (fun x => { x with bezInForce := x.policy, opened := 0 }))

/-- Groups are enabled and the eFuses of unlisted sites close; listed dies, regions and cores are out (R357, R28). -/
def powerSites (s : State) : State :=
  let s1 := s.updPower (fun p => { p with
    rails := s.part.stackList.foldl (fun t st => Tab.upd {} t st (fun (x : Rail) => { x with state := 1 })) p.rails
    aux := [4, 5].foldl (fun t h => Tab.upd {} t h (fun (x : Rail) => { x with state := if x.state = 2 then 2 else 1 })) p.aux })
  let s2 := s1.each ((List.range 39).filter (fun g => (groupSites g).any s.part.siteList.contains)) (fun s g => s.updGroup g (fun x => { x with state := 1 }))
  let s3 := s2.each s.part.siteList (fun t site =>
    if s.defects.listsSite site then
      (t.updCox site (fun _ => { fenced := true })).each (siteRegions site) (fun t r => t.updRegion r (fun x => { x with fenced := true }))
    else (closeFuse t site).updCox site (fun _ => { live := true }))
  let s4 := s3.each (s.defects.inForce.filter (fun e => e.kind == 3 && decide (e.unit < 624))) (fun t e => t.updRegion e.unit (fun x => { x with fenced := true }))
  let s5 := s4.each (s.defects.inForce.filter (fun e => e.kind == 1 && decide (e.unit < 5616))) (fun t e => t.updCore e.unit (fun c => { c with bad := true }))
  -- a region that the lists leave with fewer than 8 good cores (R28)
  s5.each ((s5.cores.map (fun e => coreRegion e.1)).dedup) (fun t r =>
    if ((regionCores r).filter (fun k => !(t.core k).bad)).length < 8 then t.updRegion r (fun x => { x with fenced := true }) else t)

/-- SUPPLY (R343, R344). -/
def execSupply (p : PortId) (vin : Nat) (s : State) : Host.Outcome State Fault Refusal :=
  .next (takeStep s p 1 (fun s =>
    let s1 := (beginBringUp s).updSupply (fun u => { u with vin := vin })
    if vin < 5000 || decide (6000 < vin) || decide (8 < s.power.converters) then failStep s1 2 0xFFFF else powerSites s1))

/-- What SUPPLY switched on goes off again when it fails. -/
def unpowerSites (s : State) : State :=
  { s with
    power := { s.power with groups := [], rails := [], efuses := [], aux := s.power.aux.filter (fun e => decide (e.1 < 4) || e.2.state == 2) }
    coxes := [], regions := [], cores := [] }

/-! ## HUB and AUTH -/

/-- HUB (R343, R38): rings, managers and supervision start; the measurement of intervals starts afresh. -/
def execHub (p : PortId) (s : State) : Host.Outcome State Fault Refusal :=
  .next (takeStep s p 2 (fun s =>
    let s1 := s.updStroke (fun k => { k with qualifying := true, intervals := [], lastAt := none, quals := [] })
    if (s.hub 0).live then s1 else failStep s1 3 0))

/-- HUB completes: the count takes STROKE_BASE, which is locked (R43, R61). -/
def hubCompletes (s : State) : State :=
  let n := s.stroke.base
  let s1 := s.updStroke (fun k => { k with running := true, count := n, standby := n, baseLocked := true, startAt := s.now })
  s1.each (List.range 156) (fun s site => if (s.cox site).live then s.updCox site (fun c => { c with count := n }) else s)

/-- The user calibration block stored last comes into force, or is discarded (R447, R448). -/
def calInForce (s : State) : State :=
  s.updSec (fun x => if x.restorePend then { x with calStored := [], userCal := [], restorePend := false } else { x with userCal := x.calStored })

/-- AUTH completes: dies that differ from the table are fenced, the bezels are judged, the report is built. -/
def authCompletes (inp : AuthInput) (s : State) : State :=
  let bad := (inp.mismatched.map (·.val)).filter (fun st => s.part.siteList.contains st && !(s.cox st).fenced && !(s.cox st).mismatch)
  let s1 := s.each bad (fun s site => secRecord ((cutDie s site 0).updCox site (fun c => { c with mismatch := true })) 0x18 site)
  let s2 := s1.each inp.bezels.zipIdx (fun s x => if x.2 < 4 then admitBezel s x.2 x.1 else s)
  let s3 := calInForce s2
  s3.draw.updSec (fun x => { x with report := s3.hallmarkReport [] })

/-- AUTH (R343, R435, R446, R450). -/
def execAuth (p : PortId) (inp : AuthInput) (s : State) : Host.Outcome State Fault Refusal :=
  .next (takeStep s p 3 (fun s =>
    if !inp.factoryListOk || !inp.calibrationOk || !inp.hallmarkOk then failStep s 4 0xFFFF
    else s.updBring (fun b => { b with input := .auth inp })))

/-! ## INVENTORY -/

/-- A listed unit of a slice goes to the next unit of its pool (R357). -/
def redirectListed (s : State) (e : Defect) : State :=
  let sl := e.unit / 2 ^ 18
  let unit := e.unit % 2 ^ 18
  let x := s.slice sl
  let s1 := s.updStack (sl / 32) (fun y => { y with listed := y.listed.add e.unit })
  if x.redirect.any (fun r => r.1 == unit) then s1
  else if x.pool = 0 then s1.updStack (sl / 32) (fun y => { y with degraded := true })
  else s1.updSlice sl (fun y => { y with pool := y.pool - 1, redirect := Tab.insert (sliceUnits + (256 - x.pool)) y.redirect unit })

/-- INVENTORY (R343, R271, R277, R357): unlisted stacks train, with the lanes that training repairs, and are to be zeroed; listed
units are redirected. -/
def execInventory (inp : InventoryInput) (s : State) : Host.Outcome State Fault Refusal :=
  .next (takeStep s inp.port 4 (fun s =>
    let lanes := fun (st : Nat) => ((inp.repaired.find? (fun x => x.1.val == st)).map (·.2)).getD 0
    let s1 := s.each s.part.stackList (fun t st => t.updStack st (fun _ =>
      if s.defects.names 7 st then { state := 4, cause := 4 } else { state := 1, selfRefresh := false, repaired := sat 8 (lanes st) }))
    s1.each (s.defects.inForce.filter (fun e => e.kind == 6 && s.part.stackPresent (e.unit / 2 ^ 18 / 32))) redirectListed))

/-! ## WAVES (R346) -/

/-- A wave of at most 24 regions is requested, each at its idle current at OP3. -/
def nextWave (s : State) : State :=
  let now_ := s.bring.waveLeft.take 24
  let s1 := s.updBring (fun b => { b with waveNow := now_, waveLeft := b.waveLeft.drop 24 })
  s1.each now_ (fun s r =>
    let q : PowReq := { region := r, stroke := s.stroke.count, kind := .powerOn, final := Config.idleCurrent r 3, present := 0 }
    (s.updRegion r (fun x => { x with pstate := 1, op := 3 })).updPower (fun w => { w with queue := enqueue s q w.queue }))

/-- Every region of the present wave reads on or dark. -/
def State.waveSettled (s : State) : Bool :=
  s.bring.waveNow.all (fun r => (s.region r).pstate == 3 || (s.region r).pstate == 4 || (s.region r).fenced)

/-- R344: the coolant at WAVES. -/
def State.coolantBad (s : State) : Bool :=
  flowBelow s.cool.flow s.cool.inlet 8 || decide (s.cool.inlet < 150) || decide (400 < s.cool.inlet) || s.cool.leak

/-- WAVES (R343, R346). -/
def execWaves (p : PortId) (s : State) : Host.Outcome State Fault Refusal :=
  .next (takeStep s p 5 (fun s =>
    if s.coolantBad then failStep s 5 0
    else
      let all := (List.range 624).filter (fun r => s.power.efuses.has (r / 4) && !(s.region r).fenced && (s.region r).pstate == 0)
      nextWave (s.updBring (fun b => { b with waveLeft := all }))))

/-- The next regions to go off, at most 24: one wave in a window of 10 µs (R333). -/
def offWave (s : State) : State :=
  let w := s.now / 10000
  if s.bring.offLeft.isEmpty || s.bring.offWindow == some w then s
  else (s.updBring (fun b => { b with offLeft := b.offLeft.drop 24, offWindow := some w })).each (s.bring.offLeft.take 24) regionOff

/-- POWER_WAVE (R333, R345, R346, R351): the next regions are requested in WAVES and LOAD; outside a step that powers regions, or
after an ordered stop, the next ones go off. -/
def execPowerWave (s : State) : Host.Outcome State Fault Refusal :=
  .next (if (s.bring.running = 5 ∨ s.bring.running = 8) ∧ s.bring.verdict = 0 then
      (if !s.bring.waveLeft.isEmpty ∧ s.waveSettled then nextWave s else s)
    else offWave s)

/-! ## STARTTEST (R347 to R349) -/

/-- The other end of a bundle that starts at a site (R21). -/
def bundleEnd (pt : Part) (site bundle : Nat) : Option Nat :=
  let c := siteCol site
  let r := siteRow site
  let at_ := fun (c r : Nat) => if pt.colPresent c && decide (r < 13) then some (c * 13 + r) else none
  match bundle with
  | 0 => at_ c (r + 1)
  | 1 => at_ c (r + 2)
  | 2 => at_ (c + 1) r
  | 3 => if r = 0 then none else at_ (c + 1) (r - 1)
  | 4 => at_ (c + 1) (r + 1)
  | _ => none

/-- A link of the base layer joins two powered sites: its unit is named from its south or east end. -/
def State.linkTrains (s : State) (unit bundle : Nat) : Bool :=
  let e := unit % 32
  let fits := if bundle < 2 then decide (12 ≤ e) && decide (e < 18) else decide (6 ≤ e) && decide (e < 12)
  fits && s.power.efuses.has (unit / 32) && (match bundleEnd s.part (unit / 32) bundle with
    | some o => s.power.efuses.has o
    | none => false)

/-- What the lists say of a link: its failed groups, and whether it is disabled. -/
def State.linkList (s : State) (unit bundle : Nat) : Nat × Bool :=
  let es := s.defects.inForce.filter (fun e => e.kind == 5 && e.unit == unit && e.detail / 32 == bundle)
  (es.foldl (fun a e => a ||| e.detail % 16) 0, es.any (fun e => e.detail.testBit 4))

/-- The mask of groups with more than one failed lane. -/
def failedGroups (f : List Nat) : Nat := (List.range 4).foldl (fun a g => if f.getD g 0 ≤ 1 then a else a + 2 ^ g) 0

/-- One link that does not train perfectly: its width, its counter and its field entry. -/
def trainLink (found : List Nat) (s : State) (unit bundle : Nat) : State :=
  let l := s.linkList unit bundle
  let f := (List.range 4).map (fun g => if l.2 || l.1.testBit g then max 2 (found.getD g 0) else found.getD g 0)
  let w := retrainWidth f
  let s1 := s.updBring (fun b => { b with
    trained := b.trained ++ [(unit, bundle, f)]
    linksHalf := if w.1 = 2 then sat 10 (b.linksHalf + 1) else b.linksHalf
    linksOff := if w.1 = 4 then sat 9 (b.linksOff + 1) else b.linksOff })
  let detail := bundle * 32 + (if w.1 = 4 then 16 else 0) + failedGroups f
  if w.1 = 1 || l.2 || (w.1 = 2 && failedGroups f == l.1) then s1
  else appendDefect s1 { kind := 5, cause := 3, detail := detail, unit := unit, stroke := s.stroke.count }

/-- The links of the findings and of the lists, each with the lanes the test found failed. -/
def State.testedLinks (s : State) (res : List Finding) : List (Nat × Nat × List Nat) :=
  let found := res.filterMap (fun x => match x with
    | .link site e b f0 f1 f2 f3 => some (site.val * 32 + e.val, b.val, [f0, f1, f2, f3])
    | _ => none)
  let listed := (s.defects.inForce.filter (fun e => e.kind == 5 && decide (e.unit % 32 < 24))).map (fun e => (e.unit, e.detail / 32, [0, 0, 0, 0]))
  (found ++ listed).foldl (fun l x => if l.any (fun y => y.1 == x.1 && y.2.1 == x.2.1) || !s.linkTrains x.1 x.2.1 then l else l ++ [x]) []

/-- A core fails the test (R348, R349), with the cause of its entry. -/
def failCore (s : State) (k cause : Nat) : State :=
  if (s.core k).bad then s
  else
    let s1 := (s.updCore k (fun c => { c with bad := true, tested := false })).updBring (fun b => { b with coresFailed := sat 13 (b.coresFailed + 1) })
    appendDefect s1 { kind := 1, cause := cause, unit := k, stroke := s.stroke.count }

/-- One finding other than of a link. -/
def takeFinding (s : State) (f : Finding) : State :=
  let on := fun (r : Nat) => (s.region r).pstate == 3 && !(s.region r).fenced
  match f with
  | .link .. => s
  | .tap r =>
    if on r.val && !(s.region r).tapOut then
      let unit := r.val / 4 * 32 + 28 + r.val % 4
      appendDefect (s.updRegion r (fun x => { x with tapOut := true })) { kind := 5, cause := 3, detail := 0xE0, unit := unit, stroke := s.stroke.count }
    else s
  | .digestOnce k => if on (coreRegion k) then s.updBring (fun b => { b with resent := sat 16 (b.resent + 1) }) else s
  | .digestTwice k =>
    if on (coreRegion k) && !(s.core k).bad then
      failCore (s.updBring (fun b => { b with resent := sat 16 (b.resent + 1), digestFailed := sat 16 (b.digestFailed + 1) })) k 4
    else s
  | .core k => if on (coreRegion k) then failCore s k 2 else s
  | .router k =>
    if on (coreRegion k) then
      cutDie (appendDefect s { kind := 2, cause := 2, unit := k.val, stroke := s.stroke.count }) (coreSite k) 2
    else s
  | .cox site =>
    if s.power.efuses.has site then cutDie (appendDefect s { kind := 4, cause := 2, unit := site.val, stroke := s.stroke.count }) site 2 else s

/-- Powered regions with fewer than 8 good cores are fenced (R28, R349), and dies with no tap (R347). -/
def judgeRegions (s : State) (rs : List Nat) : State :=
  let s1 := s.each rs (fun s r =>
    if !(s.region r).fenced && (s.region r).pstate == 3 && decide ((s.goodCores r).length < 8) then fenceRegion s r 0 else s)
  s1.each (rs.map (· / 4)).dedup (fun s site =>
    if s.power.efuses.has site && (siteRegions site).all (fun r => (s.region r).tapOut || (s.region r).fenced) then cutDie s site 3 else s)

/-- STARTTEST completes: links and taps are as they trained, cores as they were tested. -/
def testsComplete (res : List Finding) (s : State) : State :=
  let s1 := s.each (s.testedLinks res) (fun t x => trainLink x.2.2 t x.1 x.2.1)
  let s2 := s1.each (s.defects.inForce.filter (fun e => e.kind == 5 && decide (28 ≤ e.unit % 32) && e.detail.testBit 4)) (fun t e =>
    t.updRegion (e.unit / 32 * 4 + e.unit % 4) (fun x => { x with tapOut := true }))
  let s3 := s2.each res takeFinding
  let on := (List.range 624).filter (fun r => (s3.region r).pstate == 3 && !(s3.region r).fenced)
  let s4 := s3.each (on.flatMap regionCores) (fun t k => if (t.core k).bad then t else t.updCore k (fun c => { c with tested := true }))
  judgeRegions s4 on

/-- STARTTEST (R347 to R349). -/
def execStarttest (p : PortId) (res : List Finding) (s : State) : Host.Outcome State Fault Refusal :=
  .next (takeStep s p 6 (fun s => s.updBring (fun b => { b with input := .tests res })))

/-- CORE_TEST_TIMEOUT (R349): no result within 1 s counts as a core failure. -/
def execCoreTestTimeout (k : PCore) (s : State) : Host.Outcome State Fault Refusal :=
  .next (match s.bring.input with
    | .tests res =>
      if s.bring.running = 6 && decide (s.bring.since + 1000000000 ≤ s.now) && (s.region (coreRegion k)).pstate == 3
          && !(s.region (coreRegion k)).fenced && !res.contains (.core k) then
        s.updBring (fun b => { b with input := .tests (res ++ [.core k]) })
      else s
    | _ => s)

/-! ## MESH (R350) -/

/-- Provisional maps of every present column. -/
def provisional (s : State) : State :=
  s.each ((List.range 12).filter s.part.colPresent) (fun s c => s.updColMap c (fun _ => colMapOf (s.fencedRows c)))

/-- The trained die-edge links that a provisional map selects for a site. -/
def State.trainedLinks (s : State) (site : Nat) : Nat :=
  ((List.range 24).filter (fun e => match s.linkPartner site e with
    | some j =>
      let low := 6 ≤ e && e < 18
      let unit := if low then site * 32 + e else j
      !(s.cox (j / 32)).fenced && (s.linkWidth unit (bundleOf (unit / 32) (if low then j / 32 else site))).1 != 4
    | none => false)).length

/-- Fence dies with fewer than 2 such links, until a pass fences none. -/
def meshPasses : Nat → State → State
  | 0, s => s
  | n + 1, s =>
    let t := provisional s
    let bad := (List.range 156).filter (fun site =>
      (t.dieOfSite site).isSome && t.power.efuses.has site && !(t.cox site).fenced && decide (t.trainedLinks site < 2))
    if bad.isEmpty then s else meshPasses n (s.each bad (fun s site => cutDie s site 3))

/-- MESH completes: dies short of links are fenced, the express channels and the fabric ports are as they trained. -/
def meshCompletes (lanes : List Byte) (channels : List (SiteId × Fin 4)) (s : State) : State :=
  let s1 := (meshPasses 157 s).updBring (fun b => { b with noChannel := (channels.map (fun c => c.1.val * 32 + 24 + c.2.val)).foldl NSet.add [] })
  s1.each ((List.range 16).filter s.part.fportPresent) (fun t f => t.updFport f (fun x => { x with lanes := lanes.getD f 0 }))

/-- MESH (R343, R350, R411). -/
def execMesh (p : PortId) (training : MeshTraining) (s : State) : Host.Outcome State Fault Refusal :=
  .next (takeStep s p 7 (fun s => s.updBring (fun b => { b with input := .mesh training.lanes training.channels })))

/-! ## LOAD, READY, RESTART -/

/-- LOAD (R192, R351). -/
def execLoad (p : PortId) (s : State) : Host.Outcome State Fault Refusal :=
  .next (takeStep s p 8 (fun s => let t := beginLoad s; if t.bring.waveLeft.isEmpty then t else nextWave t))

/-- READY (R352): fetching starts at the first stroke that meets the lead of R49. -/
def execReady (p : PortId) (s : State) : Host.Outcome State Fault Refusal :=
  .next (takeStep s p 9 (fun s =>
    (s.updBring (fun b => { b with ready := b.ready.add p })).updCmd p (fun c => { c with state := 1, locked := true, startAt := s.firstLead })))

/-- RESTART (R342, R345): taken at any time but in recovery. -/
def execRestart (p : PortId) (s : State) : Host.Outcome State Fault Refusal :=
  .next (if s.portLive p then (restartPanel s).updBring (fun b => { b with port := p }) else s)

/-! ## A step ends -/

/-- What the running step waits for has come. -/
def State.stepReady (s : State) : Bool :=
  let b := s.bring
  b.running != 0 && ((b.verdict != 0 && b.running != 15) || match b.running with
    | 15 => b.offLeft.isEmpty
    | 4 => s.part.stackList.all (fun st => (s.stack st).state != 1)
    | 5 => b.waveLeft.isEmpty && s.waveSettled
    | 8 => b.waveLeft.isEmpty && s.waveSettled && (List.range 4).all (fun p => !(s.hub p).moving)
    | _ => true)

/-- A failed step leaves what the last completed step left (R344): SUPPLY switches off what it switched on, HUB ends the
qualification, INVENTORY leaves the stacks untrained; what AUTH, STARTTEST and MESH found goes. -/
def undoStep (n : Nat) (s : State) : State :=
  match n with
  | 1 => unpowerSites s
  | 2 => s.updStroke (fun k => { k with qualifying := false, intervals := [], lastAt := none, quals := [] })
  | 4 => { s with stackTab := [], slices := [] }
  | _ => s

/-- What a step does as it completes. -/
def stepCompletes (n : Nat) (ce ue : List (PartId × Nat)) (s : State) : State :=
  match n, s.bring.input with
  | 2, _ => hubCompletes s
  | 3, .auth inp => authCompletes inp s
  | 6, .tests res => testsComplete res s
  | 7, .mesh lanes channels => meshCompletes lanes channels s
  | 8, _ => endLoad ce ue s
  | _, _ => s

/-- RESTART completes with every region off: the eFuses open, the groups go off (R345 steps 2 to 5). -/
def restartCompletes (s : State) : State :=
  { s with
    regions := [], power := { s.power with efuses := [], groups := [], rails := [], aux := s.power.aux.filter (fun e => decide (e.1 < 4)) }
    bring := { s.bring with running := 0, done := 0, verdict := 0, offWindow := none } }

/-- STEP_COMPLETE (R343, R344, R345). ce and ue: for LOAD, the window addresses, by partition, of the words that the
placements' reads find faulty (R279). -/
def execStepComplete (ce ue : List (PartId × Nat)) (s : State) : Host.Outcome State Fault Refusal :=
  .next (if s.stepReady then
      let b := s.bring
      let n := b.running
      raiseAll (
        if n = 15 then restartCompletes s
        else if b.verdict ≠ 0 then
          let s1 := s.updBring (fun b => { b with
            running := 0, failed := true, errCode := b.verdict, errStep := n, errPort := b.port, errDetail := b.verdictDetail
            waveLeft := [], waveNow := [], input := .none })
          undoStep n s1
        else (stepCompletes n ce ue s).updBring (fun b => { b with running := 0, done := n, waveNow := [], input := .none })) 1
    else s)

/-! ## Recovery (R359, R360) -/

/-- RECOVERY_GO (R359). -/
def execRecoveryGo (p : PortId) (s : State) : Host.Outcome State Fault Refusal :=
  .next (if s.bring.recovery && s.supply.booted && s.part.hostPresent p && (s.hub p).live && (s.hub p).linkUp
        && (s.bring.recovState == 0 || s.bring.recovState == 4) then
      (s.updBring (fun b => { b with recovState := 1, recovSupplied := 0, recovAttempts := sat 8 (b.recovAttempts + 1) })).emit
        (.hostRead p (s.hub p).recovAddr (s.hub p).recovLen)
    else s)

/-- RECOVERY_FETCH_DONE (R359, R442): the image is verified, and only then written. -/
def execRecoveryFetchDone (img : Option Image) (s : State) : Host.Outcome State Fault Refusal :=
  .next (if s.bring.recovery && s.bring.recovState == 1 then
      match img with
      | none => s.updBring (fun b => { b with recovState := 4, recovSupplied := 5 })
      | some i =>
        let c := imageCause s.sec.floor i
        if c = 0 then s.updBring (fun b => { b with recovState := 3, recovImage := some i })
        else s.updBring (fun b => { b with recovState := 4, recovSupplied := c })
    else s)

/-- RECOVERY_WRITE_DONE (R359): the slot holds the image and the hubs restart as at power arrival. -/
def execRecoveryWriteDone (s : State) : Host.Outcome State Fault Refusal :=
  .next (match s.bring.recovery && s.bring.recovState == 3, s.bring.recovImage with
    | true, some i => bootHubs (s.updSec (fun x => { x with slotImage := some i })) (fun h => (s.hub h).live)
    | _, _ => s)

end Sys2Proof.Machine
end

