-- ==== Sys2Proof/Machine/CmdRing.lean ====
section
/-!
DEFINITION. The commands of the command ring (R397 to R406): fetches, the seven opcodes, copies and completions. SQ_HEAD is
kept as the count of records taken since READY, so that an active command has a number of its own.
-/
namespace Sys2Proof.Machine

/-! ## Fetching (R399, R406) -/

/-- The fetch ends: SQ_HEAD and STROKE go into the ring header. -/
def endFetch (s : State) (p : Nat) : State :=
  let c := (s.hub p).cmd
  (s.updCmd p (fun c => { c with fetch := 0 })).emit
    (.hostWrite p (c.ring + 8) (bytesLE 4 (c.sqHead % 2 ^ c.sqLog) ++ zeros 4 ++ bytesLE 6 s.stroke.count))

/-- The records a fetch may take (R399, R404). -/
def CmdPort.takes (c : CmdPort) : Nat :=
  if !c.held.isEmpty then 0
  else min (min ((c.sqTail + 2 ^ c.sqLog - c.sqHead % 2 ^ c.sqLog) % 2 ^ c.sqLog) (c.batch + 1)) (256 - (c.active.length + c.fetched.length))

/-- The reads of n records from SQ_HEAD: two when they wrap. -/
def readRecords (s : State) (p n : Nat) : State :=
  let c := (s.hub p).cmd
  let h := c.sqHead % 2 ^ c.sqLog
  let first := min n (2 ^ c.sqLog - h)
  let s1 := s.emit (.hostRead p (c.sq + 64 * h) (64 * first))
  if first < n then s1.emit (.hostRead p c.sq (64 * (n - first))) else s1

/-- CMD_HEADER_READ_DONE (R399, R406). -/
def execCmdHeaderReadDone (p : PortId) (hdr : Option (W32 × W32)) (s : State) : Host.Outcome State Fault Refusal :=
  .next (
    let c := (s.hub p).cmd
    if c.fetch ≠ 1 ∨ c.state ≠ 1 then s
    else match hdr with
      | none => fetchError s p 1
      | some (tail, head) =>
        if 2 ^ c.sqLog ≤ tail.toNat then fetchError s p 3
        else if 2 ^ c.cqLog ≤ head.toNat then fetchError s p 4
        else
          let s1 := s.updCmd p (fun c => { c with sqTail := tail.toNat, cqHead := head.toNat })
          let n := ((s1.hub p).cmd).takes
          if n = 0 then endFetch s1 p else readRecords (s1.updCmd p (fun c => { c with fetch := 2, fetchN := n })) p n)

/-- CMD_RECORDS_READ_DONE (R399, R406): the records join the list in ring order. -/
def execCmdRecordsReadDone (p : PortId) (recs : Option (List (List Byte))) (s : State) : Host.Outcome State Fault Refusal :=
  .next (
    let c := (s.hub p).cmd
    if c.fetch ≠ 2 ∨ c.state ≠ 1 then s
    else match recs with
      | none => fetchError s p 2
      | some l =>
        if l.length ≠ c.fetchN then s
        else
          let s1 := s.updCmd p (fun c => { c with
            sqHead := c.sqHead + l.length, fetched := c.fetched ++ l.zipIdx.map (fun x => (c.sqHead + x.2, x.1)) })
          settleCmds (endFetch s1 p) p)

/-! ## The commands (R400 to R402) -/

/-- The head of the list, when it has opcode opc and may start, starts with f. -/
def startCmd (s0 : State) (p opc : Nat) (f : State → Nat → List Byte → State) : State :=
  let s := settleCmds s0 p
  match s.headCmd p opc with
  | some (i, r) => f s i r
  | none => s

/-- CMD_NOP: completes at start. -/
def execCmdNop (p : PortId) (s : State) : Host.Outcome State Fault Refusal :=
  .next (startCmd s p 0 (fun s i _ => endCmd (popCmd s p 0) p i 0 0))

/-- COPY_IN: the host data is asked for. -/
def execCopyIn (p : PortId) (s : State) : Host.Outcome State Fault Refusal :=
  .next (startCmd s p 1 (fun s _ r => settleCmds ((popCmd s p 0).emit (.hostRead p (recNat r 16 8) (recNat r 32 4))) p))

/-- COPY_OUT. -/
def execCopyOut (p : PortId) (s : State) : Host.Outcome State Fault Refusal :=
  .next (startCmd s p 2 (fun s _ _ => settleCmds (popCmd s p 0) p))

/-- An object of the partition has a home. -/
def State.ownObject (s : State) (p o : Nat) : Bool := (s.objNode o).isSome && s.partOfDie (objDie o) == some p

/-- CMD_SIGNAL: forwarded in class FWD to the home (R248); it ends at the home's ACK. -/
def execCmdSignal (p : PortId) (s : State) : Host.Outcome State Fault Refusal :=
  .next (startCmd s p 3 (fun s i r =>
    let o := recNat r 16 4
    match s.objNode o, s.ownObject p o with
    | some home, true =>
      settleCmds (hubForward (popCmd s p 0) p (syncPacket 1 p 0 o 0 (recNat r 20 2) 0 (hubNode p) home) { tag := 0, kind := 4, size := i, addr := o }) p
    | _, _ => endCmd (popCmd s p 0) p i 1 0))

/-- CMD_WAIT: ends at start on a released or marked object, else at a fetch stroke. -/
def execCmdWait (p : PortId) (s : State) : Host.Outcome State Fault Refusal :=
  .next (startCmd s p 4 (fun s i r =>
    let o := recNat r 16 4
    let x := s.sync o
    let s1 := popCmd s p x.releases
    if !s.ownObject p o then endCmd s1 p i 1 0
    else if x.faulted then endCmd s1 p i 9 x.releases
    else if x.released then endCmd s1 p i 0 x.releases
    else settleCmds s1 p))

/-- CMD_EVENT (R49, R401). -/
def execCmdEvent (p : PortId) (s : State) : Host.Outcome State Fault Refusal :=
  .next (startCmd s p 5 (fun s i r =>
    let n := recNat r 24 6
    let ev : EventKind := if recByte r 16 = 0 then .phase (Fin.ofNat 16 (recByte r 17))
      else .window (Fin.ofNat 2 (recByte r 17)) (Fin.ofNat 1024 (recNat r 18 2)) (recNat r 32 4)
    let s1 := postEvent (popCmd s p 0) p ev n
    match s1.posted with
    | .stale => endCmd s1 p i 6 n
    | .full => endCmd s1 p i 7 n
    | _ => settleCmds s1 p))

/-- CMD_STROKE: a stroke at or before the hub's count ends it at start. -/
def execCmdStroke (p : PortId) (s : State) : Host.Outcome State Fault Refusal :=
  .next (startCmd s p 6 (fun s i r =>
    let n := recNat r 24 6
    let s1 := popCmd s p 0
    if n ≤ s.stroke.count then endCmd s1 p i 0 n else settleCmds s1 p))

/-! ## Copies -/

/-- The pieces of a run of the HBM window, none where an address lies beyond the backed capacity: slice, byte, offset in
the run and length. -/
def State.copyPieces (s : State) (p a n : Nat) : List (Option (Nat × Nat) × Nat × Nat) :=
  (cutRun (n + 1) a 0 n).map (fun x => (s.sliceByte p x.1, x.2.1, x.2.2))

/-- What a copy has come to: state, STATUS and bytes moved. -/
structure CopyRun where
  s      : State
  status : Nat := 0
  moved  : Nat := 0
  out    : List Byte := []

/-- The STATUS that a slice gives a request: 2 for a failed stack, 1 for one that does not serve. -/
def State.sliceStatus (s : State) (sl : Nat) : Nat :=
  let st := (s.stack (sl / 32)).state
  if st = 4 then 2 else if st = 2 ∨ st = 3 then 0 else 1

/-- One piece of a COPY_IN to window address a, as SLICE_WRITE does it. -/
def copyInPiece (p a : Nat) (ce ue : List Nat) (data : List Byte) (r : CopyRun) (x : Option (Nat × Nat) × Nat × Nat) : CopyRun :=
  if r.status ≠ 0 then r
  else match x.1 with
    | none => { r with status := 1 }
    | some (sl, byte) =>
      let st := r.s.sliceStatus sl
      if st ≠ 0 then { r with status := st }
      else
        let w := hbmWrite (partialFinds r.s p sl byte (a + x.2.1) x.2.2 false ce ue) sl byte (slice data x.2.1 x.2.2)
        if w.2.isEmpty then { r with s := w.1, moved := r.moved + x.2.2 }
        else
          let lines := (w.2.map (· / 8)).dedup.length
          { r with s := countUe (w.1.updStack (sl / 32) (fun y => { y with poisoned := sat 16 (y.poisoned + lines) })) (sl / 32) w.2.length, status := 2 }

/-- One piece of a COPY_OUT from window address a, as SLICE_READ does it: the bytes before its first bad 64 B line. -/
def copyOutPiece (p a : Nat) (ce ue : List Nat) (r : CopyRun) (x : Option (Nat × Nat) × Nat × Nat) : CopyRun :=
  if r.status ≠ 0 then r
  else match x.1 with
    | none => { r with status := 1 }
    | some (sl, byte) =>
      let st := r.s.sliceStatus sl
      if st ≠ 0 then { r with status := st }
      else
        let f := readFinds r.s p sl byte (a + x.2.1) x.2.2 ce ue
        let bytes := r.s.hbmBytes sl byte x.2.2
        match f.2.head? with
        | none => { r with s := f.1, moved := r.moved + x.2.2, out := r.out ++ bytes }
        | some w =>
          let good := w * 8 / 64 * 64 - hbmKey r.s sl byte
          { s := countUe f.1 (sl / 32) f.2.length, status := 2, moved := r.moved + good, out := r.out ++ bytes.take good }

/-- No channel that a copy needs is in a retrain, which holds its requests (R283). -/
def State.copyFlows (s : State) (ps : List (Option (Nat × Nat) × Nat × Nat)) : Bool :=
  ps.all (fun x => match x.1 with
    | some (sl, _) => !((s.stack (sl / 32)).retraining.has (sl % 32 / 2))
    | none => true)

/-- COPY_DONE (R402, R403): active copy i has moved its bytes; ce and ue are the window addresses of words that the slices
find faulty. -/
def execCopyDone (p : PortId) (i : Nat) (data : Option (List Byte)) (ce ue : List Nat) (s : State) : Host.Outcome State Fault Refusal :=
  .next (match (((s.hub p).cmd.active).filter (fun a => isCopy a.rec_))[i]? with
    | none => s
    | some a =>
      let n := recNat a.rec_ 32 4
      let base := recNat a.rec_ 24 8
      let ps := s.copyPieces p base n
      match data with
      | none => endCmd s p a.index 3 0
      | some d =>
        if (s.hub p).moving || !s.copyFlows ps then s
        else if a.opc = 1 then
          if d.length ≠ n then s
          else
            let r := ps.foldl (copyInPiece p base ce ue d) { s := s }
            endCmd r.s p a.index r.status r.moved
        else
          let r := ps.foldl (copyOutPiece p base ce ue) { s := s }
          endCmd (if r.out.isEmpty then r.s else r.s.emit (.hostWrite p (recNat a.rec_ 16 8) r.out)) p a.index r.status r.moved)

/-! ## Completions (R403, R404, R406) -/

/-- The 32 bytes of a completion record. -/
def Completion.bytes (c : Completion) (sqLog : Nat) (phase : Bool) : List Byte :=
  bytesLE 2 (c.index % 2 ^ sqLog) ++ bytesLE 1 c.opc ++ bytesLE 1 c.status ++ zeros 4 ++ bytesLE 8 c.user ++ bytesLE 6 c.stroke ++ [0]
    ++ bytesLE 1 phase.toNat ++ bytesLE 8 c.detail

/-- COMPLETION_WRITE: the oldest completion is written when the ring has room; a port that has stopped counts it as lost
when it has none (R405). -/
def execCompletionWrite (p : PortId) (ok : Bool) (s0 : State) : Host.Outcome State Fault Refusal :=
  .next (
    let s := settleCmds s0 p
    let c := (s.hub p).cmd
    match c.held with
    | [] => s
    | x :: rest =>
      if c.room = 0 then
        (if s.partStopped p then s.updCmd p (fun c => { c with held := rest, lost := sat 16 (c.lost + 1) }) else s)
      else if !ok then fetchError s p 5
      else
        let wrap := decide (c.cqTail + 1 = 2 ^ c.cqLog)
        let s1 := (s.updCmd p (fun c => { c with held := rest, cqTail := if wrap then 0 else c.cqTail + 1, phase := c.phase != wrap })).emit
          (.hostWrite p (c.cq + 32 * c.cqTail) (x.bytes c.sqLog c.phase))
        match x.irq with
        | none => s1
        | some v => if c.coalesceNow then s1.updCmd p (fun c => { c with owed := c.owed.add v }) else msixSend s1 p v)

/-- CMD_RESUME (R406): fetching restarts at the next fetch stroke. -/
def execCmdResume (p : PortId) (s : State) : Host.Outcome State Fault Refusal :=
  .next (if (s.hub p).cmd.state = 3 && (s.hub p).live && (s.hub p).linkUp then s.updCmd p (fun c => { c with resume := true, err := 0 }) else s)

end Sys2Proof.Machine
end

