-- ==== Sys2Proof/Machine/HostPort.lean ====
section
/-!
DEFINITION. The commands of a host port: BAR0 and BAR2 accesses (R248, R386 to R396, R458 to R467), the port's link (R387)
and the end of an HBM move (R287).
-/
namespace Sys2Proof.Machine

/-- A host reaches its port: the part has it, its hub has booted and runs, and its link is up. -/
def State.hostUp (s : State) (p : Nat) : Bool :=
  s.supply.booted && s.part.hostPresent p && (s.hub p).live && (s.hub p).linkUp

/-! ## What BAR0 reaches (R388, R389) -/

/-- An offset of BAR0. -/
inductive BarPlace where
  | page (off : Nat)
  | pageAlias (off : Nat)
  | sync (o off : Nat)
  | blockAlias (off : Nat)
  | cox (d off : Nat)
  | core (l off : Nat)
  | reserved
  deriving DecidableEq, Repr

def barPlace (off : Nat) : BarPlace :=
  if off < 0x10000 then .page off
  else if 0x200000 ≤ off ∧ off < 0x400000 then .pageAlias (off - 0x200000)
  else if 0x400000 ≤ off ∧ off < 0x448000 then .sync ((off - 0x400000) / 16) (off % 16)
  else if 0x600000 ≤ off ∧ off < 0x800000 then .blockAlias (off - 0x600000)
  else if 0x1000000 ≤ off ∧ off < 0x1900000 then .cox ((off - 0x1000000) / 0x10000) (off % 0x10000)
  else if 0x2000000 ≤ off ∧ off < 0x3200000 then .core ((off - 0x2000000) / 0x1000) (off % 0x1000)
  else .reserved

/-- The partition of a port serves host accesses to its cores and objects: a layout is in force and no replacement is
between steps 4 and 8 (R198). -/
def State.unitsServed (s : State) (p : Nat) : Bool := (s.layoutOf p).isSome && (s.hub p).lay.state != .applying

/-- An object that port p reaches. -/
def State.reachSync (s : State) (p o : Nat) : Bool :=
  s.unitsServed p && s.partOfDie (objDie o) == some p && ((s.objRegion o).map s.regionLive).getD false
/-- The physical core behind a core-control block that port p reaches. -/
def State.reachCore (s : State) (p l : Nat) : Option Nat :=
  if s.unitsServed p && s.partOfDie (lcidDie l) == some p then
    (s.coreOf l).bind (fun k => if s.regionLive (coreRegion k) then some k else none)
  else none
/-- The site behind a cox block that port p reaches: of its own partition, or of none. -/
def State.reachCox (s : State) (p d : Nat) : Option Nat :=
  (s.blockSite d).bind (fun st =>
    if (s.cox st).live && !(s.cox st).fenced && (s.partOfSite st == some p || (s.partOfSite st).isNone) then some st else none)

/-- The word of a unit outside the hub register page. -/
def State.unitWord (s : State) (p : Nat) (b : BarPlace) : Option Nat :=
  match b with
  | .sync o off => if s.reachSync p o then some ((s.sync o).word off) else none
  | .cox d off => (s.reachCox p d).map (fun st => s.coxWord d st off)
  | .core l off => (s.reachCore p l).map (fun k => (s.core k).word off)
  | _ => none

/-- The offsets that BAR0 presents in recovery mode (R359). -/
def recoveryOffset (off : Nat) : Bool :=
  off == 0x104 || off == 0x180 || off == 0x184 || off == 0x188 || off == 0x18C || off == 0x190

/-- A read that the panel cannot serve. -/
def badRead (s : State) (p bit addr : Nat) : State := (hostError s p bit addr false).emit (.completion p 1 [])
def badWrite (s : State) (p bit addr : Nat) : State := (hostError s p bit addr false).emit (.writeError p 1)
/-- A read completes with a word. -/
def goodRead (s : State) (p v : Nat) : State := s.emit (.completion p 0 (bytesLE 4 v))

/-- RC_READ (R13, R389, R391, R394): a host reads one word of BAR0 outside the alias ranges. -/
def execRcRead (p : PortId) (off : BitVec 26) (s : State) : Host.Outcome State Fault Refusal :=
  .next (
    let o := off.toNat
    if !s.hostUp p then s
    else if s.bring.recovery && !recoveryOffset o then s.emit (.completion p 1 [])
    else if o % 4 ≠ 0 then badRead s p 30 o
    else match barPlace o with
      | .page off => goodRead (clearRc s p off 0xFFFFFFFF) p (s.hubWord p off)
      | .pageAlias _ => s
      | .blockAlias _ => s
      | b => match s.unitWord p b with
        | some v => goodRead s p v
        | none => badRead s p 31 o)

/-- REGISTER_WRITE (R13, R389, R391): registers whose writes are commands of their own stay as they are. -/
def execRegisterWrite (p : PortId) (off : BitVec 26) (data : W32) (s : State) : Host.Outcome State Fault Refusal :=
  .next (
    let o := off.toNat
    if !s.hostUp p then s
    else if s.bring.recovery && !recoveryOffset o then s.emit (.writeError p 1)
    else if o % 4 ≠ 0 then badWrite s p 30 o
    else match barPlace o with
      | .page off => writeReg s p off data.toNat
      | .pageAlias _ => s
      | .blockAlias _ => s
      | b => if (s.unitWord p b).isSome then s else badWrite s p 31 o)

/-- HALT_REQ (R105, R467): a partner's CORE_CTL ignores writes. -/
def execHaltReq (p : PortId) (l : Lcid) (data : W32) (s : State) : Host.Outcome State Fault Refusal :=
  .next (
    let o := 0x2000000 + l.val * 0x1000
    if !s.hostUp p then s
    else if s.bring.recovery then s.emit (.writeError p 1)
    else match s.reachCore p l with
      | none => badWrite s p 31 o
      | some k => if data.toNat.testBit 0 && !(s.core k).partner then haltRequest s k else s)

/-- HOST_SIGNAL (R248): forwarded in class FWD to the object's home. -/
def execHostSignal (p : PortId) (o : ObjId) (data : W32) (s : State) : Host.Outcome State Fault Refusal :=
  .next (
    let at_ := 0x400000 + o.val * 16 + 12
    let n := data.toNat % 65536
    if !s.hostUp p then s
    else if s.bring.recovery then s.emit (.writeError p 1)
    else if !s.reachSync p o then badWrite s p 31 at_
    else if n = 0 then s
    else match s.objNode o with
      | some home => hubForward s p (syncPacket 1 p 0 o 0 n 0 (hubNode p) home) { tag := 0, kind := 3, size := 4, addr := at_ }
      | none => s)

/-! ## BAR2 (R276, R281, R287, R390) -/

/-- The node that serves a panel address for BAR2 of port p. -/
def State.bar2Node (s : State) (p a : Nat) : Option Node :=
  match targetOf a with
  | .hbm x => (s.sliceByte p x).map (fun l => sliceNode l.1)
  | .sram l _ =>
    if (s.hub p).bar2 = 0x100000000000 && s.unitsServed p && s.partOfDie (lcidDie l) == some p then s.lcidNode l else none
  | _ => none

/-- The operation code of R280 for an atomic of 4 or 8 bytes. -/
def atomCode (op : AtomOp) (size a : Nat) : Nat :=
  let hi := a / 4 % 2
  match op with
  | .add => if size = 8 then 0 else 3 + hi
  | .swap => if size = 8 then 1 else 5 + hi
  | .cas => if size = 8 then 2 else 7 + hi

/-- A BAR2 access that reaches no unit. -/
def bar2Refused (s : State) (p kind a : Nat) : State :=
  let s1 := bar2Error s p 1 a
  if kind = 1 then s1.emit (.writeError p 1) else s1.emit (.completion p 1 [])

/-- An atomic goes to its slice, with bit 2 of the address cleared (R281). -/
def serveAtomic (s : State) (p a size : Nat) (data : List Byte) : State :=
  match targetOf a, s.bar2Node p a with
  | .hbm _, some dst =>
    let pk : Packet := { cls := 1, opc := 3, part := p, addr := a / 8 * 8, aux := natLE (data.take 1), payload := data.drop 1, loc := hubNode p }
    hubForward s p ((pk.setSrc (hubNode p)).setDest dst) { tag := 0, kind := 2, size := size, addr := a }
  | _, _ => bar2Refused s p 2 a

/-- Serve a BAR2 access, one packet for each run of R217; each read packet completes on its own. -/
def serveBar2 (s : State) (p kind a len : Nat) (data : List Byte) : State :=
  if kind = 2 then serveAtomic s p a len data
  else s.each (cutRun (len + 1) a 0 len) (fun s x => match s.bar2Node p x.1 with
    | none => bar2Refused s p kind x.1
    | some dst =>
      if kind = 1 then
        hubForward s p (writePacket 1 p 0 x.1 (slice data x.2.1 x.2.2) (hubNode p) dst) { tag := 0, kind := 1, size := x.2.2, addr := x.1 }
      else hubForward s p (readPacket 1 p 0 x.1 x.2.2 0 (hubNode p) dst) { tag := 0, kind := 0, size := x.2.2, addr := x.1 })

/-- A BAR2 access: held at the hub while the partition's contents move. -/
def takeBar2 (s : State) (p kind off len : Nat) (data : Nat → List Byte) : State :=
  let a := (s.hub p).bar2 + off
  if (s.hub p).moving then s.updHub p (fun h => { h with barHeld := h.barHeld ++ [(kind, a, len, data a)] })
  else serveBar2 s p kind a len (data a)

/-- BAR2_READ (R390, R392): any length; a read of no byte completes with none. -/
def execBar2Read (p : PortId) (off : BitVec 36) (len : Nat) (s : State) : Host.Outcome State Fault Refusal :=
  .next (if !s.hostUp p then s else if len = 0 then s.emit (.completion p 0 []) else takeBar2 s p 0 off.toNat len (fun _ => []))

/-- BAR2_WRITE (R390, R392): any length. -/
def execBar2Write (p : PortId) (off : BitVec 36) (data : List Byte) (s : State) : Host.Outcome State Fault Refusal :=
  .next (if s.hostUp p then takeBar2 s p 1 off.toNat data.length (fun _ => data) else s)

/-- BAR2_ATOMIC (R281): one of 128 bits completes with Unsupported Request, and so does one of a size or an alignment that PCIe
does not have. -/
def execBar2Atomic (p : PortId) (off : BitVec 36) (op : AtomOp) (size : Nat) (op0 op1 : W64) (s : State) :
    Host.Outcome State Fault Refusal :=
  .next (
    if !s.hostUp p then s
    else if (size ≠ 4 ∧ size ≠ 8) ∨ off.toNat % size ≠ 0 then s.emit (.completion p 1 [])
    else takeBar2 s p 2 off.toNat size (fun a =>
      bytesLE 1 (atomCode op size a) ++ bytesLE 8 (op0.toNat % 2 ^ (8 * size)) ++ bytesLE 8 (op1.toNat % 2 ^ (8 * size))))

/-- BAR2_BASE_COMMIT (R390, R393): any other value is ignored. -/
def execBar2BaseCommit (p : PortId) (data : W32) (s : State) : Host.Outcome State Fault Refusal :=
  .next (
    let v := s.committed p 0x430 (data.toNat % 2 ^ 16) / 2 ^ 30 * 2 ^ 30
    if s.hostUp p && !s.bring.recovery && (decide (v < 0x020000000000) || v == 0x100000000000) then s.updHub p (fun h => { h with bar2 := v }) else s)

/-- HBM_MOVE_DONE (R287): the contents stand in the new interleave, and the held accesses are served. -/
def execHbmMoveDone (p : PortId) (s : State) : Host.Outcome State Fault Refusal :=
  .next (
    if !(s.hub p).moving then s
    else
      let s1 := (moveHbm s p).updHub p (fun h => { h with barHeld := [] })
      s1.each ((s.hub p).barHeld) (fun s x => serveBar2 s p x.1 x.2.1 x.2.2.1 x.2.2.2))

/-! ## The link (R387) -/

/-- HOST_LINK_DOWN: link-down or hot reset; the partition stops in order and the fetcher reads OFF. -/
def execHostLinkDown (p : PortId) (s : State) : Host.Outcome State Fault Refusal :=
  .next (
    if !s.hostUp p then s
    else
      let s1 := s.updHub p (fun h => { h with linkUp := false, barHeld := [] })
      (stopReported s1 p).updCmd p (fun c => { c with state := 0, fetch := 0 }))

/-- HOST_LINK_RETURN. -/
def execHostLinkReturn (p : PortId) (s : State) : Host.Outcome State Fault Refusal :=
  .next (if s.part.hostPresent p && (s.hub p).live then s.updHub p (fun h => { h with linkUp := true }) else s)

end Sys2Proof.Machine
end

