-- ==== Sys2Proof/Machine/Ports.lean ====
section
/-!
DEFINITION. The commands of the fabric ports (R411 to R430): training, the handshake, frames as they arrive, messages
that leave, timers, and the host's writes of PORT_CTL and WIN_RD.
-/
namespace Sys2Proof.Machine

/-! ## The link layer (R415) -/

/-- A sequence number a at or before b, modulo 2^32. -/
def seqUpTo (a b : Nat) : Bool := decide ((b + 2 ^ 32 - a % 2 ^ 32) % 2 ^ 32 < 2 ^ 31)

/-- Acknowledgement and returned credits of a frame; a NAK replays what is left. -/
def takeReturns (s : State) (f : Nat) (fr : Frame) : State :=
  let s1 := s.updFport f (fun p => { p with
    retryQ := p.retryQ.filter (fun x => !(seqUpTo x.1 fr.hd.ack.toNat))
    credOut := (List.range 4).map (fun c => min (fullCredits.getD c 0) (p.credOut.getD c 0 + (fr.hd.credits.getD c 0).toNat)) })
  let left := (s1.fport f).retryQ
  let s2 := if fr.hd.nak then
      left.foldl (fun s x => putFrame s f x.2 false true) (s1.updFport f (fun p => { p with replays := sat 16 (p.replays + left.length) }))
    else s1
  pumpPort s2 f

/-- Frames of these TYPEs and above are numbered. -/
def isNumbered (fr : Frame) : Bool := decide (0x10 ≤ fr.hd.type.toNat)

/-- What the link layer makes of a protected frame; true when the frame goes on to the firewall. -/
def linkLayer (s : State) (f : Nat) (fr : Frame) : State × Bool :=
  let p := s.fport f
  if p.state ≠ 4 then (s, false)
  else if !fr.fcsOk then (portNak s f, false)
  else
    let s1 := s.updFport f (fun p => { p with lastRx := s.now, grace := p.grace - 1 })
    if !fr.tagOk || !(fr.hd.key == p.keyBit || decide (0 < p.grace)) then (portTagFail s1 f, false)
    else
      let s2 := takeReturns s1 f fr
      if !isNumbered fr then (s2, true)
      else if fr.hd.seq.toNat = p.seqIn then
        (s2.updFport f (fun p => { p with seqIn := (p.seqIn + 1) % 2 ^ 32, nakSent := false }), true)
      else (portNak s2 f, false)

/-! ## The firewall (R424) -/

/-- The class a TYPE has on a channel; unnumbered frames have none, and the field is 0. -/
def frameClass (type chan : Nat) : Nat :=
  match type with
  | 0x10 => if 2048 ≤ chan ∧ chan < 3072 then 3 else 0
  | 0x11 => 2
  | 0x12 => 2
  | 0x13 => 1
  | 0x14 => 1
  | _ => 0

/-- The least version of a TYPE, none for an unknown one; handshake frames have no place on an up link. -/
def typeSince (type : Nat) : Option Nat :=
  match type with
  | 0x06 => some 0x10
  | 0x08 => some 0x10
  | 0x09 => some 0x11
  | 0x10 => some 0x10
  | 0x11 => some 0x10
  | 0x12 => some 0x10
  | 0x13 => some 0x10
  | 0x14 => some 0x12
  | _ => none

/-- A frame breaks a rule that its header alone decides. -/
def FPort.badHeader (p : FPort) (fr : Frame) : Bool :=
  let h := fr.hd
  (match typeSince h.type.toNat with
    | none => true
    | some v => decide (p.version < v))
  || h.rsv || h.version.toNat != p.version || h.cls.toNat != frameClass h.type.toNat (h.channel.toNat % 4096)
  || decide (4096 ≤ h.channel.toNat) || decide (4096 < h.length.toNat) || h.length.toNat != fr.payload.length
  || (isNumbered fr && p.credIn.getD h.cls.toNat 0 == 0)

/-- The firewall: a malformed frame is discarded and counted; another uses a frame credit of its class. -/
def firewall (s : State) (f : Nat) (fr : Frame) : State × Bool :=
  if (s.fport f).badHeader fr then (portMalformed s f, false)
  else if isNumbered fr then
    let c := fr.hd.cls.toNat
    (s.updFport f (fun p => { p with credIn := p.credIn.set c (p.credIn.getD c 0 - 1) }), true)
  else (s, true)

/-- A protected frame of an up link that the command is about: what the link layer and the firewall pass on is taken. -/
def onFrame (s : State) (f : Nat) (fr : Frame) (mine : Bool) (take : State → State) : State :=
  if !mine then s
  else
    let l := linkLayer s f fr
    if !l.2 then l.1
    else
      let w := firewall l.1 f fr
      if w.2 then take w.1 else w.1

def isType (fr : Frame) (t : Nat) : Bool := fr.hd.type.toNat == t

/-- The generation of the partition that holds a port (R421). -/
def State.portGen (s : State) (f : Nat) : Nat := ((s.fport f).part.map (fun p => (s.hub p).lay.gen)).getD 0

/-- A frame of another generation is discarded and counted (R421). -/
def ifFresh (s : State) (f : Nat) (fr : Frame) (take : State → State) : State :=
  if fr.hd.gen.toNat = s.portGen f then take s else s.updFport f (fun p => { p with stale := sat 32 (p.stale + 1) })

/-- The streams of the port's partition. -/
def State.portStreams (s : State) (f : Nat) : List StreamRec := ((s.fport f).part.map s.streamsOf).getD []
/-- The stream that a channel of port f delivers to. -/
def State.channelIn (s : State) (f ch : Nat) : Option StreamRec := (s.portStreams f).find? (fun r => r.srcLcid == 0xF000 + f && r.srcId == ch)
/-- The stream that is sent on a channel of port f. -/
def State.channelOut (s : State) (f ch : Nat) : Option StreamRec := (s.portStreams f).find? (fun r => r.dstLcid == 0xF000 + f && r.dstId == ch)

/-! ## Inbound messages (R419, R420, R422) -/

/-- The RECVs posted on a stream of a core, oldest first. -/
def Core.postedRecvs (c : Core) (sid : Nat) : List Run := c.mvRun.filter (fun r => !r.barrier && wFn r.op.w == 5 && r.key == sid && !r.done)

/-- The messages that the gateway has put into the fabric for a stream and that have not all arrived. -/
def State.messagesAhead (s : State) (f sid : Nat) : Nat :=
  (s.net.filter (fun p => p.sedge && p.src == portNode f && p.addr % 4096 == sid
    && ((p.cls == 1 && p.opc == 6 && p.aux.testBit 6) || (p.cls == 3 && p.opc == 2 && (p.ctrl || p.aux.testBit 6))))).length

/-- MSG_LEN of a FIRST segment against the RECV it is for: a difference is STREAM_SIZE in the core (R419). -/
def recvMismatch (s : State) (f : Nat) (r : StreamRec) (len : Nat) : Option (Nat × Run) :=
  (s.coreOf r.dstLcid).bind (fun k =>
    (((s.core k).postedRecvs r.dstId)[s.messagesAhead f r.dstId]?).bind (fun run =>
      if len = (descOf run.op.td).bytes then none else some (k, run)))

/-- A whole message leaves the gateway for its core: in class FWD, or as RESULT packets of a collective channel. -/
def deliverIn (s : State) (f : Nat) (r : StreamRec) (coll void : Bool) (bytes : List Byte) : State :=
  match s.lcidNode r.dstLcid with
  | none => s
  | some dst =>
    let base : Packet := (({ cls := if coll then 3 else 1, opc := if coll then 2 else 6, part := ((s.fport f).part).getD 0, addr := r.dstId
                             loc := portNode f } : Packet).setSrc (portNode f)).setDest dst
    s.each (if coll then peerPackets base void bytes else messagePackets base void bytes) (fun s q => s.send q)

def State.setAsm (s : State) (f ch : Nat) (a : Assembly) : State :=
  s.updFport f (fun p => { p with asmIn := Tab.put {} p.asmIn ch a })

/-- A segment of a message on a stream or collective channel. -/
def takeSegment (s : State) (f : Nat) (r : StreamRec) (ch : Nat) (fr : Frame) : State :=
  let p := s.fport f
  let a : Assembly := Tab.get {} p.asmIn ch
  let coll := decide (2048 ≤ ch)
  let len := fr.hd.msgLen.toNat
  if fr.hd.first then
    if a.live || Tab.get 0 p.scIn ch = 0 || len < fr.payload.length then portMalformed s f
    else
      let s1 := s.updFport f (fun p => { p with scIn := Tab.upd 0 p.scIn ch (· - 1) })
      if len = 0 && fr.hd.last then deliverIn s1 f r coll true []
      else match recvMismatch s1 f r len with
        | some (k, run) => (unitFault s1 k .mv run.op 0x0F 0).setAsm f ch (if fr.hd.last then {} else { len := len, live := true, drop := true, bytes := fr.payload })
        | none =>
          if fr.hd.last then deliverIn s1 f r coll false fr.payload
          else s1.setAsm f ch { len := len, live := true, bytes := fr.payload }
  else if !a.live || a.len < a.bytes.length + fr.payload.length then portMalformed s f
  else if fr.hd.last then
    let s1 := s.setAsm f ch {}
    if a.drop then s1 else deliverIn s1 f r coll false (a.bytes ++ fr.payload)
  else s.setAsm f ch { a with bytes := a.bytes ++ fr.payload }

/-- A segment of a message into an ingest window (R422). -/
def takeWindow (s : State) (f w : Nat) (fr : Frame) : State :=
  let x := (s.fport f).window w
  let ch := 3072 + w
  let a : Assembly := Tab.get {} (s.fport f).asmIn ch
  let len := fr.hd.msgLen.toNat
  let whole := fun (s : State) (bytes : List Byte) => advertise (ingest (s.setAsm f ch {}) f w bytes) f w
  if !x.enable then portMalformed s f
  else if fr.hd.first then
    if a.live || x.credit < len || len < fr.payload.length then portMalformed s f
    else
      let s1 := s.updWindow f w (fun y => { y with credit := 0 })
      if fr.hd.last then whole s1 fr.payload else s1.setAsm f ch { len := len, live := true, bytes := fr.payload }
  else if !a.live || a.len < a.bytes.length + fr.payload.length then portMalformed s f
  else if fr.hd.last then whole s (a.bytes ++ fr.payload)
  else s.setAsm f ch { a with bytes := a.bytes ++ fr.payload }

/-- DATA (R419 to R422, R424); a frame of an unknown TYPE is taken here too, as malformed. -/
def execData (f : FpId) (fr : Frame) (s : State) : Host.Outcome State Fault Refusal :=
  .next (
    let t := fr.hd.type.toNat
    onFrame s f fr (t == 0x10 || (typeSince t).isNone && decide (5 < t || t = 0)) (fun s =>
      ifFresh s f fr (fun s =>
        let ch := fr.hd.channel.toNat
        if 3088 ≤ ch then portMalformed s f
        else if 3072 ≤ ch then takeWindow s f (ch - 3072) fr
        else match s.channelIn f ch with
          | some r => takeSegment s f r ch fr
          | none => portMalformed s f)))

/-- SCREDIT (R419): a CREDIT for the core bound to the outbound channel. -/
def execScredit (f : FpId) (fr : Frame) (s : State) : Host.Outcome State Fault Refusal :=
  .next (onFrame s f fr (isType fr 0x11) (fun s =>
    ifFresh s f fr (fun s => match s.channelOut f fr.hd.channel.toNat with
      | none => portMalformed s f
      | some r => match s.lcidNode r.srcLcid with
        | none => s
        | some dst => s.send ((({ cls := 2, opc := 4, part := ((s.fport f).part).getD 0, addr := r.srcId, payload := zeros 16
                                  loc := portNode f } : Packet).setSrc (portNode f)).setDest dst))))

/-- WCREDIT (R422): the largest message the partner's window takes. -/
def execWcredit (f : FpId) (fr : Frame) (s : State) : Host.Outcome State Fault Refusal :=
  .next (onFrame s f fr (isType fr 0x12) (fun s =>
    ifFresh s f fr (fun s =>
      let ch := fr.hd.channel.toNat
      if ch < 3072 ∨ 3088 ≤ ch then portMalformed s f
      else s.updFport f (fun p => { p with wcOut := Tab.put 0 p.wcOut ch (natLE (fr.payload.take 4)) }))))

/-- The stream and window credits held for the partner's side are void (R421): those of the cores, those on their way,
and the credits of windows. -/
def voidCredits (s : State) (f : Nat) : State :=
  let outs := (s.portStreams f).filter (fun r => r.dstLcid == 0xF000 + f)
  let s1 := s.each outs (fun s r => match s.coreOf r.srcLcid with
    | none => s
    | some k => s.each (k :: (if (s.core k).paired then (s.pairOf k).toList else [])) (fun s j =>
        s.updCore j (fun c => { c with credits := Tab.put 0 c.credits r.srcId 0 })))
  (s1.updFport f (fun p => { p with wcOut := [] })).setNet
    (s1.net.filter (fun q => !(q.cls == 2 && q.opc == 4 && q.sedge && q.src == portNode f)))

/-- CHRESET (R421). Frames that waited for the first announcement take its generation and leave. -/
def execChreset (f : FpId) (fr : Frame) (s : State) : Host.Outcome State Fault Refusal :=
  .next (onFrame s f fr (isType fr 0x13) (fun s =>
    let g := natLE (fr.payload.take 1)
    let s1 := voidCredits s f
    pumpPort (s1.updFport f (fun p => { p with
      peerGen := g, txq := if p.peerGen = noGen then p.txq.map (fun x => withGen x g) else p.txq })) f))

/-- PUBLISH (R428, R324): a partition without FOLLOW discards it. -/
def execPublish (f : FpId) (fr : Frame) (s : State) : Host.Outcome State Fault Refusal :=
  .next (onFrame s f fr (isType fr 0x14) (fun s => match (s.fport f).part with
    | none => s
    | some p =>
      if !s.follows p then s
      else s.updHub p (fun h => { h with
        published := h.published ++ [(natLE (fr.payload.take 6), min 95 (natLE (slice fr.payload 6 1)), f.val)], silent := Tab.put 0 h.silent f 0 })))

/-- IDLE (R423). -/
def execIdle (f : FpId) (fr : Frame) (s : State) : Host.Outcome State Fault Refusal :=
  .next (onFrame s f fr (isType fr 0x08) id)

/-- QUIT (R423, R427): protected once keys exist. -/
def execQuit (f : FpId) (fr : Frame) (s : State) : Host.Outcome State Fault Refusal :=
  .next (
    if (s.fport f).state = 3 && isType fr 0x06 && fr.fcsOk then portClose s f 7 8
    else onFrame s f fr (isType fr 0x06) (fun s => portGoDown s f 8))

/-! ## The handshake (R416) -/

/-- The lexicographic order of byte strings of one length. -/
def bytesBelow : List Byte → List Byte → Bool
  | [], _ => false
  | _, [] => false
  | a :: l, b :: m => decide (a.toNat < b.toNat) || (a == b && bytesBelow l m)

/-- This end is lo. -/
def FPort.isLo (p : FPort) : Bool := bytesBelow identityDigest (digest64 p.peerKey)

/-- The transcript digest: payloads by step, lo's before hi's. -/
def FPort.transcript (p : FPort) : List Byte :=
  digest64 ((List.range 6).flatMap (fun st =>
    let of_ := fun (mine : Bool) => (p.talk.filter (fun x => x.1 == st && x.2.1 == mine)).flatMap (·.2.2)
    of_ p.isLo ++ of_ (!p.isLo)))

/-- Draw an encapsulation key and send it (step 4). -/
def sendEk (s : State) (f : Nat) : State :=
  sendTalk (s.draw.updFport f (fun p => { p with ekDraw := s.fv, step := 4 })) f 0x03 4 (Config.kemKey s.fv)

/-- FINISH once both ciphertexts are exchanged (step 6). -/
def maybeFinish (s : State) (f : Nat) : State :=
  let p := s.fport f
  if p.step = 4 && p.ssOwn.isSome && p.ssPeer.isSome then
    sendTalk (s.draw.updFport f (fun p => { p with step := 6 })) f 0x05 6 (Config.panelSign s.fv p.transcript)
  else s

/-- PORT_PCS_LOCK (R416 step 1): HELLO with the version range, partition number and part number. -/
def execPortPcsLock (f : FpId) (width4 : Bool) (s : State) : Host.Outcome State Fault Refusal :=
  .next (
    let p := s.fport f
    let part := (p.part).getD 0
    if p.state = 1 && p.enable && !s.partStopped part && (width4 || p.lanes == 0xFF) then
      sendTalk (portNotice (s.updFport f (fun p => { p with state := 3, width4 := width4, step := 1, talk := [] })) f) f 0x01 1
        (bytesLE 1 fabricMin ++ bytesLE 1 fabricMax ++ bytesLE 1 part ++ bytesLE 1 s.part.code)
    else s)

/-- A handshake frame arrives whole: in the state of the handshake, or while keys change under version 1.0. -/
def State.talking (s : State) (f : Nat) (fr : Frame) (type : Nat) : Bool :=
  let p := s.fport f
  isType fr type && fr.fcsOk && (p.state == 3 || (p.state == 4 && p.rekeying && p.version == 0x10))

/-- Send the panel's own chain (step 3). -/
def sendChain (s : State) (f : Nat) : State :=
  sendTalk (s.updFport f (fun p => { p with step := 3, chain := [], ssOwn := none, ssPeer := none })) f 0x02 3 s.sec.idCert

/-- HELLO (R416 step 2). -/
def execHello (f : FpId) (fr : Frame) (s : State) : Host.Outcome State Fault Refusal :=
  .next (
    let p := s.fport f
    if !(s.talking f fr 0x01 && p.state == 3 && p.step == 1) then s
    else
      let low := max fabricMin (natLE (fr.payload.take 1))
      let high := min fabricMax (natLE (slice fr.payload 1 1))
      if high < low then
        portClose (portRecord (sendPlain s f 0x06 (bytesLE 1 3) false) f 0x15) f 7 3
      else sendChain (s.updFport f (fun p => { p with
        version := high, peerPart := natLE (slice fr.payload 2 1), talk := p.talk ++ [(1, false, fr.payload)] })) f)

/-- A CERT that begins a key change under 1.0 at the partner's wish. -/
def joinRekey (s : State) (f : Nat) (fr : Frame) : State :=
  let p := s.fport f
  if p.state = 4 && p.version = 0x10 && isType fr 0x02 && fr.fcsOk && fr.hd.first && (!p.rekeying || p.step != 3) then
    sendChain (s.updFport f (fun p => { p with rekeying := true, talk := [] })) f
  else s

/-- CERT (R416 steps 3 and 4): with the last segment the chain is judged by R434. -/
def execCert (f : FpId) (fr : Frame) (s0 : State) : Host.Outcome State Fault Refusal :=
  .next (
    let s := joinRekey s0 f fr
    let p := s.fport f
    if !(s.talking f fr 0x02 && p.step == 3) then s
    else
      let chain := (if fr.hd.first then [] else p.chain) ++ fr.payload
      if !fr.hd.last then s.updFport f (fun p => { p with chain := chain })
      else if chainAnchors chain s.ownerKeys s.sec.policy.roots then
        let key := chainLeaf chain
        sendEk (s.updFport f (fun p => { p with
          chain := chain, peerKey := key, peer := (digest64 key).take 8, talk := p.talk ++ [(3, false, chain)] })) f
      else portHandshakeFail s f 4)

/-- KEM_EK (R416 step 5). -/
def execKemEk (f : FpId) (fr : Frame) (s : State) : Host.Outcome State Fault Refusal :=
  .next (
    if !(s.talking f fr 0x03 && (s.fport f).step == 4 && (s.fport f).ssPeer.isNone) then s
    else
      let e := Config.kemEncaps s.fv fr.payload
      let s1 := s.draw.updFport f (fun p => { p with ssPeer := some e.2, talk := p.talk ++ [(4, false, fr.payload)] })
      maybeFinish (sendTalk s1 f 0x04 5 e.1) f)

/-- KEM_CT (R416 steps 5 and 6). -/
def execKemCt (f : FpId) (fr : Frame) (s : State) : Host.Outcome State Fault Refusal :=
  .next (
    let p := s.fport f
    if !(s.talking f fr 0x04 && p.step == 4 && p.ssOwn.isNone) then s
    else maybeFinish (s.updFport f (fun q => { q with
      ssOwn := some (Config.kemDecaps p.ekDraw fr.payload), talk := q.talk ++ [(5, false, fr.payload)] })) f)

/-- The keys of R416. -/
def FPort.newKeys (p : FPort) : List Byte :=
  let own := p.ssOwn.getD []
  let peer := p.ssPeer.getD []
  shake256 88 ([0x73, 0x70, 0x70, 0x2D, 0x6B, 0x65, 0x79, 0x73] ++ (if p.isLo then own ++ peer else peer ++ own) ++ p.transcript)

/-- New keys are in force: TXN starts afresh, KEY flips for what leaves, and either KEY is taken for 1,024 frames (R417). -/
def switchKeys (s : State) (f : Nat) (keys : List Byte) : State :=
  pumpPort (portRecord (s.updFport f (fun p => { p with
    keys := keys, keyBit := !p.keyBit, keyAt := s.now, txn := 0, grace := 1024, rekeying := false, step := 7, ssOwn := none, ssPeer := none
    retrains := sat 16 (p.retrains + 1) })) f 0x16) f

/-- The link comes up: IDLE, the generation of R421 and the windows' credits follow. -/
def comeUp (s : State) (f : Nat) : State :=
  let s1 := s.updFport f (fun p => { p with
    state := 4, step := 7, keys := p.newKeys, keyBit := false, keyAt := s.now, txn := 0, grace := 0, rekeying := false
    ups := sat 16 (p.ups + 1), malfUp := 0, peerGen := noGen, lastRx := s.now, lastTx := s.now })
  let s2 := portNotice (portRecord s1 f 0x10) f
  announce (sendPlain s2 f 0x08 [] false) f (s2.portGen f)

/-- FINISH (R416 step 7, R426). -/
def execFinish (f : FpId) (fr : Frame) (s : State) : Host.Outcome State Fault Refusal :=
  .next (
    let p := s.fport f
    if !(s.talking f fr 0x05 && p.step == 6) then s
    else if Config.mldsaVerify p.peerKey p.transcript fr.payload then
      (if p.state = 4 then switchKeys s f p.newKeys else comeUp s f)
    else portHandshakeFail s f 5)

/-! ## Key changes (R417) -/

/-- This end begins a key change: a fresh encapsulation key, or steps 3 to 7 under version 1.0. -/
def startRekey (s : State) (f : Nat) : State :=
  if (s.fport f).version = 0x10 then sendChain (s.updFport f (fun p => { p with rekeying := true, talk := [] })) f
  else sendPlain (s.draw.updFport f (fun p => { p with rekeying := true, ekDraw := s.fv })) f 0x09 (Config.kemKey s.fv) false

/-- The new keys of an exchange of KEY_UPDATE frames. -/
def FPort.nextKeys (p : FPort) (ss : List Byte) : List Byte :=
  shake256 88 ([0x73, 0x70, 0x70, 0x2D, 0x72, 0x65, 0x6B, 0x65, 0x79] ++ p.keys ++ ss)

/-- KEY_UPDATE (R417): a request carries a key of 1,184 B, its answer a ciphertext of 1,088 B. When both ends ask at
once, lo's request stands. -/
def execKeyUpdate (f : FpId) (fr : Frame) (s : State) : Host.Outcome State Fault Refusal :=
  .next (onFrame s f fr (isType fr 0x09) (fun s =>
    let p := s.fport f
    if fr.payload.length = 1184 then
      if p.rekeying && p.isLo then s
      else
        let e := Config.kemEncaps s.fv fr.payload
        switchKeys (sendPlain s.draw f 0x09 e.1 false) f (p.nextKeys e.2)
    else if p.rekeying && fr.payload.length == 1088 then switchKeys s f (p.nextKeys (Config.kemDecaps p.ekDraw fr.payload))
    else s))

/-- REKEY_TIMER (R417). -/
def execRekeyTimer (f : FpId) (s : State) : Host.Outcome State Fault Refusal :=
  .next (
    let p := s.fport f
    if p.state = 4 && !p.rekeying && (decide (p.keyAt + 3600000000000 ≤ s.now) || decide (2 ^ 31 ≤ p.txn)) then startRekey s f else s)

/-- A host port writes PORT_CTL of a port of its partition. -/
def State.mayControl (s : State) (p f : Nat) : Bool :=
  s.part.hostPresent p && (s.hub p).live && (s.hub p).linkUp && (s.fport f).part == some p

/-- PORT_REKEY (R417, R429); during a retrain the change waits for its end (R430). -/
def execPortRekey (p : PortId) (f : FpId) (s : State) : Host.Outcome State Fault Refusal :=
  .next (
    let x := s.fport f
    if !s.mayControl p f || x.rekeying then s
    else if x.state = 4 then startRekey s f
    else if x.state = 5 then s.updFport f (fun x => { x with rekeying := true })
    else s)

/-! ## Retrains and timers (R412, R413, R423) -/

/-- PORT_RETRAIN_START (R413). -/
def execPortRetrainStart (f : FpId) (s : State) : Host.Outcome State Fault Refusal :=
  .next (if (s.fport f).state = 4 then
      portNotice (s.updFport f (fun p => { p with state := 5, retrainAt := s.now, retrains := sat 16 (p.retrains + 1) })) f
    else s)

/-- PORT_RETRAIN_DONE (R413, R427): traffic goes on, at 8 lanes or at 4. -/
def execPortRetrainDone (f : FpId) (lanes : Byte) (s : State) : Host.Outcome State Fault Refusal :=
  .next (
    let p := s.fport f
    let q : FPort := { p with lanes := lanes }
    if p.state = 5 && (q.lanes.toNat % 16 == 15 || q.lanes.toNat / 16 == 15) then
      let w4 := lanes != 0xFF
      let s1 := s.updFport f (fun p => { p with state := 4, lanes := lanes, width4 := w4, lastRx := s.now })
      let s2 := portNotice (if p.width4 = w4 then s1 else portRecord s1 f 0x12) f
      if p.rekeying then startRekey s2 f else pumpPort s2 f
    else s)

/-- PORT_RETRAIN_TIMEOUT (R413): 10 ms. -/
def execPortRetrainTimeout (f : FpId) (s : State) : Host.Outcome State Fault Refusal :=
  .next (if (s.fport f).state = 5 && decide ((s.fport f).retrainAt + 10000000 ≤ s.now) then portGoDown s f 2 else s)

/-- PORT_SILENCE (R423): 1 ms without a frame outside a retrain. -/
def execPortSilence (f : FpId) (s : State) : Host.Outcome State Fault Refusal :=
  .next (if (s.fport f).state = 4 && decide ((s.fport f).lastRx + 1000000 ≤ s.now) then portGoDown s f 9 else s)

/-- PORT_IDLE_TIMER (R423): 10 µs without another frame. -/
def execPortIdleTimer (f : FpId) (s : State) : Host.Outcome State Fault Refusal :=
  .next (if (s.fport f).state = 4 && decide ((s.fport f).lastTx + 10000 ≤ s.now) then sendPlain s f 0x08 [] false else s)

/-- Physical training with the lanes found good (R411). -/
def trainPort (s : State) (f : Nat) (lanes : Byte) : State :=
  let good := lanes.toNat % 16 == 15 || lanes.toNat / 16 == 15
  portNotice (s.updFport f (fun p => { p with lanes := lanes, state := if good then 1 else 2, downAt := s.now })) f

/-- PORT_TRAIN_RETRY (R412): every 100 ms while ENABLE is 1. A port of a stopped partition stays down (R430). -/
def execPortTrainRetry (f : FpId) (lanes : Byte) (s : State) : Host.Outcome State Fault Refusal :=
  .next (
    let p := s.fport f
    if (p.state = 2 || p.state = 7) && p.enable && ((p.part.map (fun q => !s.partStopped q)).getD false)
        && decide (p.downAt + 100000000 ≤ s.now) then trainPort s f lanes
    else s)

/-- PORT_DOWN (R429): QUIT, and the link goes down. -/
def execPortDown (p : PortId) (f : FpId) (s : State) : Host.Outcome State Fault Refusal :=
  .next (
    let x := s.fport f
    if !s.mayControl p f then s
    else if x.linkUp then portQuit s f 10
    else if x.state = 3 then portClose (sendPlain s f 0x06 (bytesLE 1 10) false) f 7 10
    else if x.state = 1 then portClose s f 7 10
    else s)

/-- PORT_REARM (R426, R429): from quarantine or absence. -/
def execPortRearm (p : PortId) (f : FpId) (lanes : Byte) (s : State) : Host.Outcome State Fault Refusal :=
  .next (
    let x := s.fport f
    if !s.mayControl p f || s.partStopped p || !(x.state == 6 || x.state == 2) then s
    else if x.enable then trainPort s f lanes
    else portNotice (s.updFport f (fun x => { x with state := 7 })) f)

/-! ## Outbound messages (R419, R420) -/

/-- The bytes of a packet of an outbound message, whether it is the last, and whether it is a void marker. -/
def outPiece (p : Packet) : List Byte × Bool × Bool :=
  if p.cls = 3 then
    if !p.ctrl then (p.payload, p.aux.testBit 6, false)
    else if p.aux.testBit 2 then ([], true, true)
    else (p.payload.take (p.aux / 8 + 1), true, false)
  else (p.msgBytes, p.aux.testBit 6, p.ctrl && p.aux.testBit 7)

/-- A whole message becomes DATA frames of at most 4,096 B; a void marker is one frame of LENGTH 0. -/
def sendMessage (s : State) (f ch : Nat) (void : Bool) (bytes : List Byte) : State :=
  let cls := if 2048 ≤ ch then 3 else 0
  if void then queueFrame s f 0x10 cls true true ch 0 []
  else
    let n := max 1 (ceilDiv bytes.length 4096)
    s.each (List.range n) (fun s i =>
      queueFrame s f 0x10 cls (i == 0) (i + 1 == n) ch (if i = 0 then bytes.length else 0) (slice bytes (4096 * i) 4096))

/-- A packet of a message enters the transmit queue of a port: acknowledged at once (R419), discarded when the link is
down (R423). -/
def enqueuePiece (s : State) (f : Nat) (p : Packet) : State :=
  let ch := p.addr % 4096
  let piece := outPiece p
  let s1 := if p.cls = 0 then s.send (p.ack 0) else s
  if !(s.fport f).linkUp then s1
  else
    let a : Assembly := Tab.get {} (s.fport f).asmOut ch
    if piece.2.1 then
      sendMessage (s1.updFport f (fun x => { x with asmOut := Tab.put {} x.asmOut ch {} })) f ch piece.2.2 (a.bytes ++ piece.1)
    else s1.updFport f (fun x => { x with asmOut := Tab.put {} x.asmOut ch { a with bytes := a.bytes ++ piece.1 } })

/-- PORT_MSG_ENQUEUE (R419, R420). -/
def execPortMsgEnqueue (i : Nat) (s : State) : Host.Outcome State Fault Refusal :=
  .next (
    match s.arrived i [0, 3] [0, 6] with
    | none => s
    | some p =>
      if !((p.cls == 0 && p.opc == 6) || (p.cls == 3 && p.opc == 0)) then s
      else match nodePort p.loc with
        | some f => enqueuePiece (s.takePacket i) f p
        | none => s)

/-! ## Ingest windows (R422) -/

/-- WINDOW_COMMIT: the oldest record has every acknowledgement. -/
def execWindowCommit (f : FpId) (w : Fin 16) (s : State) : Host.Outcome State Fault Refusal :=
  .next (match ((s.fport f).window w).recs with
    | (_, size, 0) :: rest =>
      let s1 := s.updWindow f w (fun x => { x with wr := x.wr + size, recs := rest })
      if (s.fport f).winIrq then portNotice s1 f else s1
    | _ => s)

/-- WIN_RD_WRITE (R422, R429): a value beyond WR is ignored; a move of RD advertises anew. -/
def execWinRdWrite (p : PortId) (f : FpId) (w : Fin 16) (data : W32) (s : State) : Host.Outcome State Fault Refusal :=
  .next (
    let x := (s.fport f).window w
    let d := (data.toNat + 2 ^ 32 - x.rd % 2 ^ 32) % 2 ^ 32
    if !s.mayControl p f || x.wr - x.rd < d then s
    else
      let s1 := s.updWindow f w (fun y => { y with rd := y.rd + d })
      if d ≠ 0 && x.enable then advertise s1 f w else s1)

end Sys2Proof.Machine
end

