-- ==== Sys2Proof/Machine/Alias.lean ====
section
/-!
DEFINITION. The bit aliases of BAR0 (R395, R468, R469).
-/
namespace Sys2Proof.Machine

/-- A bit of the hub register page or of the selected block. -/
inductive AliasBit where
  | page (off bit : Nat)
  | unit (b : BarPlace) (bit : Nat)
  /-- A reserved word, or an offset of BAR0 without an alias. -/
  | none
  deriving DecidableEq, Repr

/-- What an alias word of port p names: bit (word offset × 32 + bit) × 4 above the base. -/
def State.aliasBit (s : State) (p off : Nat) : AliasBit :=
  match barPlace off with
  | .pageAlias a => .page (a / 128 * 4) (a / 4 % 32)
  | .blockAlias a =>
    let sel := (s.hub p).alias_.toNat
    let w := a / 128 * 4
    if sel.testBit 31 then .unit (.core (sel % 2 ^ 13 * 16 + w / 0x1000) (w % 0x1000)) (a / 4 % 32)
    else .unit (.cox (sel % 2 ^ 13) w) (a / 4 % 32)
  | _ => .none

/-- ALIAS_READ (R395, R469): one bit; a read clears that bit alone when it is RC. -/
def execAliasRead (p : PortId) (off : BitVec 26) (s : State) : Host.Outcome State Fault Refusal :=
  .next (
    let o := off.toNat
    if !s.hostUp p then s
    else match s.aliasBit p o with
      | .none => s
      | a =>
        if s.bring.recovery then s.emit (.completion p 1 [])
        else if o % 4 ≠ 0 then badRead s p 30 o
        else match a with
          | .page r b =>
            if 0x8000 ≤ r then goodRead s p 0
            else goodRead (clearRc s p r (BitVec.ofNat 32 (2 ^ b))) p (flag ((s.hubWord p r).testBit b) 0)
          | .unit u b => (match s.unitWord p u with
            | some v => goodRead s p (flag (v.testBit b) 0)
            | none => badRead s p 31 o)
          | .none => s)

/-- The state that a command leaves. -/
def after (o : Host.Outcome State Fault Refusal) (s : State) : State :=
  match o with
  | .next t => t
  | _ => s

/-- The answer of a bezel die to a REARM that an alias write gives: free values. -/
def aliasAnswer (n : Nat) : BezelAnswer :=
  { present := Config.rearmFlag n 0, trained := Config.rearmFlag n 1, width32 := Config.rearmFlag n 2
    chain := Config.rearmBytes n 0, measure := Config.rearmBytes n 1, sig := Config.rearmBytes n 2 }

/-- Writing 1 to a WO bit of one bit acts; wider WO fields (BRING_STEP, PWR_REEN) do not (R469). -/
def aliasAct (s : State) (p : PortId) (off bit : Nat) : State :=
  if off = 0x20C then
    (match bit with
    | 0 => after (execLayoutStage p s) s
    | 1 => after (execLayoutReplace p s) s
    | 2 => after (execLayoutCancel p s) s
    | 3 => after (execLayoutDiscard p s) s
    | _ => s)
  else if off = 0x41C ∧ bit = 0 then after (execCmdResume p s) s
  else if 0x4000 ≤ off ∧ off < 0x5000 ∧ off % 0x100 = 8 then
    let f : FpId := Fin.ofNat 16 (off % 0x1000 / 0x100)
    (match bit with
    | 0 => after (execPortRekey p f s) s
    | 1 => after (execPortRearm p f (Config.rearmLanes s.fv) s.draw) s
    | 2 => after (execPortDown p f s) s
    | _ => s)
  else if off = 0x6408 + p.val * 0x200 then
    (match bit with
    | 0 => after (execBezEnable p s) s
    | 1 => after (execBezRearm p (aliasAnswer s.fv) s.draw) s
    | 2 => after (execBezDisable p s) s
    | _ => s)
  else if off = 0x603C ∧ bit = 0 then writeReg s p 0x603C 1
  else s

/-- The _LO registers of pairs that a host writes (R393). -/
def pairLo (off : Nat) : Bool :=
  [0x180, 0x200, 0x228, 0x400, 0x408, 0x410, 0x430, 0x618, 0x6030].contains off
  || (decide (0x6500 ≤ off) && decide (off < 0x6C00) && decide (0x100 ≤ (off - 0x6400) % 0x200) && off % 16 == 0)

/-- An RW bit changes alone: in the shadow for a _LO register, else in the value in force (R469). -/
def aliasSet (s : State) (p : PortId) (off bit d : Nat) : State :=
  let old := if pairLo off then (Tab.get 0 (s.hub p).shadows off).toNat else s.hubWord p off
  let v := putBits old bit bit d
  if off = 0x434 then after (execBar2BaseCommit p (BitVec.ofNat 32 v) s) s
  else if 0x5000 ≤ off ∧ off < 0x6000 ∧ off % 16 = 12 then
    after (execWinRdWrite p (Fin.ofNat 16 (off % 0x1000 / 0x100)) (Fin.ofNat 16 (off % 0x100 / 16)) (BitVec.ofNat 32 v) s) s
  else writeReg s p off v

/-- The words whose bits are WO. -/
def woWord (off : Nat) : Bool :=
  [0x100, 0x18C, 0x20C, 0x41C, 0x200C, 0x603C].contains off || (decide (0x4000 ≤ off) && decide (off < 0x5000) && off % 0x100 == 8)
  || (decide (0x6400 ≤ off) && decide (off < 0x6C00) && (off - 0x6400) % 0x200 == 8)

/-- ALIAS_WRITE (R395, R469): bit 0 of the data. RO, RC and RSV bits ignore writes. -/
def execAliasWrite (p : PortId) (off : BitVec 26) (data : W32) (s : State) : Host.Outcome State Fault Refusal :=
  .next (
    let o := off.toNat
    let d := data.toNat % 2
    if !s.hostUp p then s
    else match s.aliasBit p o with
      | .none => s
      | a =>
        if s.bring.recovery then s.emit (.writeError p 1)
        else if o % 4 ≠ 0 then badWrite s p 30 o
        else match a with
          | .page r b =>
            if 0x8000 ≤ r then s
            else if woWord r then (if d = 1 then aliasAct s p r b else s)
            else aliasSet s p r b d
          | .unit u b => (match s.unitWord p u with
            | none => badWrite s p 31 o
            | some _ => (match u with
              | .core l 0 => if b = 0 && d = 1 && decide (l < 4608) then after (execHaltReq p (Fin.ofNat 4608 l) 1 s) s else s
              | _ => s))
          | .none => s)

end Sys2Proof.Machine
end

