-- ==== Sys2Proof/Machine/Boundary.lean ====
section
/-!
DEFINITION. The commands at the panel's boundary: SUP_EN, the management interface and the removal of power (R341, R477 to
R480).
-/
namespace Sys2Proof.Machine

/-- SMB_ALERT_N is asserted while bit 0 or bit 3 of HOST_EVT is pending at any port (R477). -/
def State.smbAlert (s : State) : Bool :=
  s.ports.any (fun p => (s.hub p).evt.toNat.testBit 0 || (s.hub p).evt.toNat.testBit 3)

/-- SUP_EN_FALL (R480): stage A goes without an ordered stop. -/
def execSupEnFall (s : State) : Host.Outcome State Fault Refusal :=
  .next (
    let s1 := s.updSupply (fun u => { u with supEn := false })
    if s.supply.stageA then removeStageA s1 false else s1)

/-- POWER_REMOVED (R341, R14): the bus bars are dead, and the supervisor with them. -/
def execPowerRemoved (s : State) : Host.Outcome State Fault Refusal :=
  .next (((removeStageA s false).updSupply (fun _ => {})).updCool (fun _ => {}))

/-- The RC bits that the endpoint sees: those of any port's copy. -/
def State.rcUnion (s : State) : RcView :=
  (List.range 4).foldl (fun v p => { stroke := v.stroke ||| (s.hub p).strokeRc, power := v.power ||| (s.hub p).pwrRc, cool := v.cool ||| (s.hub p).coolRc })
    { stroke := 0, power := 0, cool := 0 }

/-- No port: its own fields read as at reset (log entry 42). -/
def noPort : Nat := 4

/-- SMB_READ_REG (R479): status and value; the RC bits stay. -/
def execSmbReadReg (off : W32) (s : State) : Host.Outcome State Fault Refusal :=
  .next (
    let o := off.toNat
    if s.supply.vin = 0 then s
    else if o % 4 ≠ 0 || !panelScope o then s.emit (.mctp ([1] ++ zeros 4))
    else if !s.supply.booted || s.bring.recovery || (List.range 4).all (fun h => !(s.hub h).live) then s.emit (.mctp ([2] ++ zeros 4))
    else s.emit (.mctp ([0] ++ bytesLE 4 (s.pageWord noPort o s.rcUnion))))

/-- SMB_READ_SUP (R479). -/
def execSmbReadSup (s : State) : Host.Outcome State Fault Refusal :=
  .next (
    if s.supply.vin = 0 then s
    else s.emit (.mctp ([0] ++ bytesLE 2 (half s.cool.inlet) ++ bytesLE 2 (half s.cool.outlet) ++ bytesLE 2 s.cool.dp ++ bytesLE 2 s.supply.vin
      ++ bytesLE 1 (flag s.supply.stageA 0 + flag (s.cool.leak || s.supply.leakN) 1 + flag s.supply.faultN 2))))

end Sys2Proof.Machine
end

