-- ==== Sys2Proof/Machine/CoreMe.lean ====
section
/-!
DEFINITION. The matrix-engine class (R78 to R84). One meaning per function: the sequencer of core k issues it.
-/
namespace Sys2Proof.Machine

/-- MMA (R78). ups: the bits of its products p[m,n] that the engine gets wrong (R128). -/
def execMma (k : PCore) (ups : List (Nat × Nat × W32)) (s : State) : Host.Outcome State Fault Refusal := .next (issueAs s k.val .mma ups)

/-- MST (R78). -/
def execMst (k : PCore) (s : State) : Host.Outcome State Fault Refusal := .next (issueAs s k.val .mst)

/-- MLD (R78). -/
def execMld (k : PCore) (s : State) : Host.Outcome State Fault Refusal := .next (issueAs s k.val .mld)

/-- MZERO (R78). -/
def execMzero (k : PCore) (s : State) : Host.Outcome State Fault Refusal := .next (issueAs s k.val .mzero)

end Sys2Proof.Machine
end

