-- ==== Sys2Proof/Machine/CoreMv.lean ====
section
/-!
DEFINITION. The mover class (R90 to R95). One meaning per function: the sequencer of core k issues it.
-/
namespace Sys2Proof.Machine

/-- COPY (R90). -/
def execCopy (k : PCore) (s : State) : Host.Outcome State Fault Refusal := .next (issueAs s k.val .copy)

/-- RCOPY (R90). -/
def execRcopy (k : PCore) (s : State) : Host.Outcome State Fault Refusal := .next (issueAs s k.val .rcopy)

/-- GATHER (R90). -/
def execGather (k : PCore) (s : State) : Host.Outcome State Fault Refusal := .next (issueAs s k.val .gather)

/-- SCATTER (R90). -/
def execScatter (k : PCore) (s : State) : Host.Outcome State Fault Refusal := .next (issueAs s k.val .scatter)

/-- SEND (R90). -/
def execSend (k : PCore) (s : State) : Host.Outcome State Fault Refusal := .next (issueAs s k.val .send)

/-- RECV (R90). -/
def execRecv (k : PCore) (s : State) : Host.Outcome State Fault Refusal := .next (issueAs s k.val .recv)

/-- VOID (R90). -/
def execVoidMark (k : PCore) (s : State) : Host.Outcome State Fault Refusal := .next (issueAs s k.val .voidMark)

/-- ROUTE (R90). -/
def execRoute (k : PCore) (s : State) : Host.Outcome State Fault Refusal := .next (issueAs s k.val .route)

end Sys2Proof.Machine
end

