-- ==== Sys2Proof/Machine/CoreSeq.lean ====
section
/-!
DEFINITION. The sequencer class (R75 to R77). One meaning per function: the sequencer of core k issues it.
-/
namespace Sys2Proof.Machine

/-- NOP (R75): no effect but the next PC. -/
def execNop (k : PCore) (s : State) : Host.Outcome State Fault Refusal := .next (issueAs s k.val .nop)

/-- HALT (R75): the core stops in state HALTED once all tickets and unit queues are empty. -/
def execHalt (k : PCore) (s : State) : Host.Outcome State Fault Refusal := .next (issueAs s k.val .halt)

/-- BR (R75): PC ← PC + OFF. -/
def execBr (k : PCore) (s : State) : Host.Outcome State Fault Refusal := .next (issueAs s k.val .br)

/-- BRR (R75): PC ← s[SA][17:0]. -/
def execBrr (k : PCore) (s : State) : Host.Outcome State Fault Refusal := .next (issueAs s k.val .brr)

/-- TWAIT (R75): stalls until the tickets of its mask read 0. -/
def execTwait (k : PCore) (s : State) : Host.Outcome State Fault Refusal := .next (issueAs s k.val .twait)

/-- PSET (R75): a predicate takes a condition. -/
def execPset (k : PCore) (s : State) : Host.Outcome State Fault Refusal := .next (issueAs s k.val .pset)

/-- ALU (R75): an arithmetic result. -/
def execAlu (k : PCore) (s : State) : Host.Outcome State Fault Refusal := .next (issueAs s k.val .alu)

/-- MOVI (R75): 16 bits of a scalar register. -/
def execMovi (k : PCore) (s : State) : Host.Outcome State Fault Refusal := .next (issueAs s k.val .movi)

/-- SLD (R75): 8 B of SRAM into a scalar register. -/
def execSld (k : PCore) (s : State) : Host.Outcome State Fault Refusal := .next (issueAs s k.val .sld)

/-- SST (R75): a scalar register into 8 B of SRAM. -/
def execSst (k : PCore) (s : State) : Host.Outcome State Fault Refusal := .next (issueAs s k.val .sst)

/-- TDLD (R75): 32 B of SRAM into a descriptor. -/
def execTdld (k : PCore) (s : State) : Host.Outcome State Fault Refusal := .next (issueAs s k.val .tdld)

/-- TDST (R75): a descriptor into 32 B of SRAM. -/
def execTdst (k : PCore) (s : State) : Host.Outcome State Fault Refusal := .next (issueAs s k.val .tdst)

/-- TDSET (R75): a field of a descriptor. -/
def execTdset (k : PCore) (s : State) : Host.Outcome State Fault Refusal := .next (issueAs s k.val .tdset)

/-- SRD (R75): a special value. -/
def execSrd (k : PCore) (s : State) : Host.Outcome State Fault Refusal := .next (issueAs s k.val .srd)

end Sys2Proof.Machine
end

