-- ==== Sys2Proof/Machine/CoreSy.lean ====
section
/-!
DEFINITION. The sync-unit class (R96, R97). One meaning per function: the sequencer of core k issues it.
-/
namespace Sys2Proof.Machine

/-- SIGNAL (R96). -/
def execSignal (k : PCore) (s : State) : Host.Outcome State Fault Refusal := .next (issueAs s k.val .signal)

/-- WAIT (R96). -/
def execWait (k : PCore) (s : State) : Host.Outcome State Fault Refusal := .next (issueAs s k.val .wait)

/-- ARM (R96). -/
def execArm (k : PCore) (s : State) : Host.Outcome State Fault Refusal := .next (issueAs s k.val .arm)

/-- BARRIER (R96). -/
def execBarrier (k : PCore) (s : State) : Host.Outcome State Fault Refusal := .next (issueAs s k.val .barrier)

/-- STROKEWAIT (R96). -/
def execStrokewait (k : PCore) (s : State) : Host.Outcome State Fault Refusal := .next (issueAs s k.val .strokewait)

end Sys2Proof.Machine
end

