-- ==== Sys2Proof/Machine/CoreVe.lean ====
section
/-!
DEFINITION. The vector-engine class (R85 to R89). One meaning per function: the sequencer of core k issues it.
-/
namespace Sys2Proof.Machine

/-- EW (R85). -/
def execEw (k : PCore) (s : State) : Host.Outcome State Fault Refusal := .next (issueAs s k.val .ew)

/-- CVT (R85). -/
def execCvt (k : PCore) (s : State) : Host.Outcome State Fault Refusal := .next (issueAs s k.val .cvt)

/-- RED (R85). -/
def execRed (k : PCore) (s : State) : Host.Outcome State Fault Refusal := .next (issueAs s k.val .red)

/-- TRN (R85). -/
def execTrn (k : PCore) (s : State) : Host.Outcome State Fault Refusal := .next (issueAs s k.val .trn)

/-- SMX (R85). -/
def execSmx (k : PCore) (s : State) : Host.Outcome State Fault Refusal := .next (issueAs s k.val .smx)

/-- WARP (R85). -/
def execWarp (k : PCore) (s : State) : Host.Outcome State Fault Refusal := .next (issueAs s k.val .warp)

end Sys2Proof.Machine
end

