-- ==== Sys2Proof/Machine/Security.lean ====
section
/-!
DEFINITION. The security commands (R436 to R448, R454, R457): the form and the judgement of a command, and what each does.
-/
namespace Sys2Proof.Machine

/-! ## The form of a command (R437) -/

structure SecCmd where
  code    : Nat
  signer  : Nat
  panel   : List Byte
  nonce   : List Byte
  payload : List Byte
  signed  : List Byte
  sig     : List Byte
  rootKey : List Byte
  deriving DecidableEq, Repr

def sigBytes : Nat := 3309
def keyBytes : Nat := 1952

/-- The command that bytes spell, none when a format field of the frame is wrong. -/
def secCmdOf (b : List Byte) : Option SecCmd :=
  let signer := recByte b 6
  let n := recNat b 104 4
  let tail := (if signer = 0 then 0 else sigBytes) + (if signer = 2 then keyBytes else 0)
  if decide (128 ≤ b.length) && recNat b 0 4 == 0x444D434B && recByte b 4 == 1 && decide (1 ≤ recByte b 5) && decide (recByte b 5 ≤ 0xB)
      && decide (signer ≤ 2) && recByte b 7 == 0 && (slice b 108 20).all (fun x => x == 0) && b.length == 128 + n + tail then
    some { code := recByte b 5, signer := signer, panel := slice b 8 64, nonce := slice b 72 32, payload := slice b 128 n
           signed := b.take (128 + n), sig := slice b (128 + n) sigBytes, rootKey := slice b (128 + n + sigBytes) keyBytes }
  else none

/-- The bytes carry a signature (R438). -/
def carriesSig (b : List Byte) : Bool := recByte b 6 == 1 || recByte b 6 == 2

/-! ## Judgement (R438) -/

/-- The two certificates of ENROL and TRANSFER: 0 in order, 1 a wrong form, 4 a wrong signature. -/
def enrolFault (b : List Byte) : Nat :=
  let o := certOf (slice b 0 certSize)
  let i := certOf (slice b certSize certSize)
  if b.length ≠ 2 * certSize || !o.ok || !i.ok || o.kind != 4 || i.kind != 3 then 1
  else if !o.selfSigned || i.key != Config.panelPublicKey || !i.signedBy o.key then 4 else 0

/-- The entries of a user calibration block, none when one is not allowed (R447). -/
def readCal (b : List Byte) : Option (List (Nat × Nat × Int)) :=
  let n := b.length / 8
  let signedOf := fun (v : Nat) => if v < 2 ^ 31 then (v : Int) else (v : Int) - 2 ^ 32
  let es := (List.range n).map (fun i => (recByte b (8 * i), recNat b (8 * i + 2) 2, signedOf (recNat b (8 * i + 4) 4), recByte b (8 * i + 1)))
  let fits := fun (e : Nat × Nat × Int × Nat) =>
    let v := e.2.2.1
    e.2.2.2 == 0 && (match e.1 with
      | 1 => decide (e.2.1 < 156 * 16) && decide (-30 ≤ v) && decide (v ≤ 30)
      | 2 => e.2.1 == 0 && decide (-20 ≤ v) && decide (v ≤ 20)
      | 3 => e.2.1 == 0 && decide (-100 ≤ v) && decide (v ≤ 100)
      | 4 => decide (e.2.1 < 156) && decide (-100 ≤ v) && decide (v ≤ 100)
      | _ => false)
  if b.length % 8 = 0 && decide (1 ≤ n) && decide (n ≤ 4096) && es.all fits then some (es.map (fun e => (e.1, e.2.1, e.2.2.1))) else none

/-- The scope bits that R445 lists. -/
def scopeListed (m : Nat) : Bool := m % 2 ^ 12 == m && m / 16 % 16 == 0

/-- A format field of the payload is wrong. -/
def payloadBad (c : SecCmd) : Bool :=
  let n := c.payload.length
  match c.code with
  | 0x01 => n != 44
  | 0x02 => enrolFault c.payload == 1
  | 0x03 => enrolFault c.payload == 1
  | 0x04 => (readPolicy c.payload).isNone
  | 0x06 => n != 4 || !scopeListed (natLE c.payload)
  | 0x08 => n != 12
  | 0x09 => (readCal c.payload).isNone
  | 0x0B => n != 12
  | _ => n != 0

/-- The signature on a command verifies. -/
def State.sigGood (s : State) (c : SecCmd) : Bool :=
  match c.signer with
  | 0 => true
  | 1 => s.sec.owned && Config.mldsaVerify s.sec.ownerKey c.signed c.sig
  | _ => Config.vendorRoots.contains (digest64 c.rootKey) && Config.mldsaVerify c.rootKey c.signed c.sig

/-- The signer that a command must have is the one it has. -/
def State.signerGood (s : State) (c : SecCmd) : Bool :=
  match c.code with
  | 0x01 => true
  | 0x02 => enrolFault c.payload == 0
  | 0x03 => c.signer == 1 && enrolFault c.payload == 0
  | 0x06 => c.signer != 0
  | 0x07 => true
  | 0x08 => !s.sec.policy.ownerUpdate || c.signer == 1
  | _ => c.signer == 1

/-- RESULT of a command: 0, or why it is rejected. -/
def State.judge (s : State) (c : SecCmd) : Nat :=
  if payloadBad c then 1
  else if c.panel ≠ identityDigest then 2
  else if c.nonce ≠ s.sec.nonce then 3
  else if !s.sigGood c || !s.signerGood c then 4
  else if (c.code = 2 && s.sec.owned) || (c.code = 6 && s.sec.session.isSome) then 5
  else if c.code = 6 && c.signer = 2 && !s.sec.policy.vendorAccess then 6
  else 0

/-- A command ends with a RESULT: 4 done or 5 rejected, with EVENT 0x19. -/
def endSec (s : State) (p code result detail : Nat) : State :=
  let s1 := s.updSecPort p (fun c => { c with state := if result = 0 then 4 else 5, code := code, result := result, detail := detail })
  if result = 0 then s1 else secRecord s1 0x19 p

/-- A security command of port p with CODE code: fetched, judged, and done by act, whose number is its RESULT. -/
def secRow (s : State) (p code : Nat) (bytes : Option (List Byte)) (act : State → SecCmd → State × Nat) : State :=
  if !s.supply.booted || s.bring.recovery || !(s.hub p).live || (s.hub p).sec.state ≠ 1 || s.sec.updating.isSome || s.sec.writing.isSome then s
  else match bytes with
    | none => endSec s p 0 8 0
    | some b =>
      let own := recByte b 5
      if own ≠ code && decide (1 ≤ own) && decide (own ≤ 0xB) then s
      else
        let done := match secCmdOf b with
          | none => endSec s p own 1 0
          | some c =>
            let r := s.judge c
            if r ≠ 0 then endSec s p code r 0
            else
              let t := act s c
              if code = 8 then t.1 else endSec t.1 p code t.2 0
        if carriesSig b then freshNonce done else done

/-! ## The rows -/

/-- Build the report for a nonce and write it to a buffer of the host; a buffer too small receives nothing (R440). -/
def writeReport (s : State) (p addr room : Nat) (nonce : List Byte) : State × Nat :=
  let r := s.hallmarkReport nonce
  if room < r.length then (s, 1)
  else ((s.draw.updSec (fun x => { x with report := r })).emit (.hostWrite p addr r), 0)

/-- REPORT (R440, R441). -/
def execReport (p : PortId) (bytes : Option (List Byte)) (s : State) : Host.Outcome State Fault Refusal :=
  .next (secRow s p 0x01 bytes (fun s c => writeReport s p (recNat c.payload 32 8) (recNat c.payload 40 4) (c.payload.take 32)))

/-- The owner and the identity certificate of a payload are stored. -/
def storeOwner (s : State) (b : List Byte) : State :=
  secRecord (s.updSec (fun x => { x with owned := true, ownerKey := (certOf (slice b 0 certSize)).key, idCert := slice b certSize certSize })) 0x1F 1

/-- ENROL (R436): the panel is OWNED, under the default policy (R439). -/
def execEnrol (p : PortId) (bytes : Option (List Byte)) (s : State) : Host.Outcome State Fault Refusal :=
  .next (secRow s p 0x02 bytes (fun s c => (storeOwner (s.updSec (fun x => { x with policy := {} })) c.payload, 0)))

/-- TRANSFER (R438): peer roots and bezel entries go, the floor stays. -/
def execTransfer (p : PortId) (bytes : Option (List Byte)) (s : State) : Host.Outcome State Fault Refusal :=
  .next (secRow s p 0x03 bytes (fun s c =>
    (storeOwner (s.updSec (fun x => { x with policy := { x.policy with roots := [], bezMask := 0, bezels := [] } })) c.payload, 0)))

/-- POLICY (R439): the floor only rises. -/
def execPolicy (p : PortId) (bytes : Option (List Byte)) (s : State) : Host.Outcome State Fault Refusal :=
  .next (secRow s p 0x04 bytes (fun s c => match readPolicy c.payload with
    | some (q, floor) => (s.updSec (fun x => { x with policy := q, floor := max x.floor floor }), 0)
    | none => (s, 1)))

/-- FIELD_CLEAR (R358): a CLEAR marker, which counts the entries before it. -/
def execFieldClear (p : PortId) (bytes : Option (List Byte)) (s : State) : Host.Outcome State Fault Refusal :=
  .next (secRow s p 0x05 bytes (fun s _ =>
    (s.updDefects (fun d => { d with
      field := d.field ++ [{ kind := 0x0E, cause := 0, unit := d.field.length, stroke := s.stroke.count }], clearPend := true }), 0)))

/-- ACCESS_OPEN (R445). -/
def execAccessOpen (p : PortId) (bytes : Option (List Byte)) (s : State) : Host.Outcome State Fault Refusal :=
  .next (secRow s p 0x06 bytes (fun s c =>
    let scope := natLE c.payload
    (secRecord (s.updSec (fun x => { x with session := some { scope := scope, signer := c.signer, since := s.now }, opened := x.opened + 1 })) 0x1A scope, 0)))

/-- ACCESS_CLOSE (R445). -/
def execAccessClose (p : PortId) (bytes : Option (List Byte)) (s : State) : Host.Outcome State Fault Refusal :=
  .next (secRow s p 0x07 bytes (fun s _ => (closeSession s, 0)))

/-- ACCESS_EXPIRE (R445): 8 h after opening. -/
def execAccessExpire (s : State) : Host.Outcome State Fault Refusal :=
  .next (match s.sec.session with
    | some x => if x.since + 28800000000000 ≤ s.now then closeSession s else s
    | none => s)

/-- UPDATE (R443): the image is fetched from the host. -/
def execUpdate (p : PortId) (bytes : Option (List Byte)) (s : State) : Host.Outcome State Fault Refusal :=
  .next (secRow s p 0x08 bytes (fun s c =>
    (((s.updSec (fun x => { x with updating := some p.val })).updSecPort p (fun q => { q with state := 3, code := 8 })).emit
      (.hostRead p (recNat c.payload 0 8) (recNat c.payload 8 4)), 0)))

/-- UPDATE_IMAGE_FETCHED (R443): the image is verified; a failed one leaves the slot as it is. -/
def execUpdateImageFetched (img : Option Image) (s : State) : Host.Outcome State Fault Refusal :=
  .next (match s.sec.updating, s.sec.writing with
    | some p, none =>
      let s1 := s.updSec (fun x => { x with updating := none })
      (match img with
      | none => endSec s1 p 8 8 0
      | some i =>
        let c := imageCause s.sec.floor i
        if c ≠ 0 then endSec s1 p 8 7 c else s.updSec (fun x => { x with writing := some i }))
    | _, _ => s)

/-- UPDATE_SLOT_WRITTEN (R443): UPDATE_PEND reads 1 once the slot differs from the running image. -/
def execUpdateSlotWritten (s : State) : Host.Outcome State Fault Refusal :=
  .next (match s.sec.updating, s.sec.writing with
    | some p, some i =>
      let s1 := secRecord (s.updSec (fun x => { x with
        updating := none, writing := none, slotImage := some i, updatePend := digest64 i.manifest != x.runDigest })) 0x1B i.version.toNat
      if (s.hub p).sec.state = 3 then endSec s1 p 8 0 0 else s1
    | _, _ => s)

/-- CAL_WRITE (R447, R448): the block takes effect at the next AUTH. -/
def execCalWrite (p : PortId) (bytes : Option (List Byte)) (s : State) : Host.Outcome State Fault Refusal :=
  .next (secRow s p 0x09 bytes (fun s c => match readCal c.payload with
    | some l => (s.updSec (fun x => { x with calStored := l, restorePend := false }), 0)
    | none => (s, 1)))

/-- RESTORE_FACTORY (R448). -/
def execRestoreFactory (p : PortId) (bytes : Option (List Byte)) (s : State) : Host.Outcome State Fault Refusal :=
  .next (secRow s p 0x0A bytes (fun s _ => (s.updSec (fun x => { x with restorePend := true }), 0)))

/-- The owner's stores are erased; the floor and the factory blocks stay (R454). -/
def eraseOwner (s : State) : State :=
  s.updSec (fun x => { x with owned := false, ownerKey := [], idCert := [], policy := {}, calStored := [], userCal := [], restorePend := false })

/-- DECOMMISSION (R454): a last report, the session closed, the stores erased, RESTART, UNOWNED. -/
def execDecommission (p : PortId) (bytes : Option (List Byte)) (s : State) : Host.Outcome State Fault Refusal :=
  .next (secRow s p 0x0B bytes (fun s c =>
    let r := writeReport s p (recNat c.payload 0 8) (recNat c.payload 8 4) (zeros 32)
    if r.2 ≠ 0 then r
    else (secRecord ((eraseOwner (restartPanel r.1)).updBring (fun b => { b with port := p })) 0x1F 0, 0)))

end Sys2Proof.Machine
end

