-- ==== Sys2Proof/Machine/Stroke.lean ====
section
/-!
DEFINITION. A region's stroke boundary (R51): the admission windows that open and close on it (R153, R157), the ratios,
phases, frequency changes and crew starts that fall on it (R181, R185, R317 to R324, R401), the STROKEWAITs and start
windows it releases, and what it triggers for its partition.
-/
namespace Sys2Proof.Machine

/-! ## Admission windows -/

/-- The window that a unit has open closes: its record goes to intake core 0 (R157). -/
def closeWindow (s : State) (u : Nat) : State :=
  let a := s.admUnit u
  if !a.open_ then s
  else
    let h := a.windowNo % 2
    let core := a.intake.headD 0
    let body := bytesLE 4 a.granted ++ bytesLE 4 (if h = 0 then a.cancelled0 else a.cancelled1) ++ bytesLE 8 a.openStroke
    match s.unitNode u, s.lcidNode core with
    | some me, some ic =>
      (s.updAdmit u (fun a => { a with
        open_ := false, closing := a.closing ++ [(if h = 0 then a.expert.arrive0 else a.expert.arrive1, a.expert.capacity - a.granted)] })).send
        (writePacket 1 a.part (agentTag + 64 + u % 64) (sramBase core + a.expert.recBase + h * 16) body me ic)
    | _, _ => s.updAdmit u (fun a => { a with open_ := false })

/-- Window w opens at a stroke: on a free half it takes requests, else it has capacity 0 (R153). -/
def openWindow (s : State) (u w count : Nat) : State :=
  let a := s.admUnit u
  let h := w % 2
  if (if h = 0 then a.free0 else a.free1) then
    let s1 := s.updAdmit u (fun a => { a with
      windowNo := w, opened := true, openStroke := count, open_ := true, granted := 0
      free0 := a.free0 && h != 0, free1 := a.free1 && h != 1
      cancelled0 := if h = 0 then 0 else a.cancelled0, cancelled1 := if h = 0 then a.cancelled1 else 0 })
    let arm := fun (s : State) (o t : Nat) => match s.unitNode u, s.objNode o with
      | some me, some home => s.send (syncPacket 1 a.part agentTag o 2 t 0 me home)
      | _, _ => s
    arm (arm s1 (if h = 0 then a.expert.arrive0 else a.expert.arrive1) a.expert.capacity)
      (if h = 0 then a.expert.free0 else a.expert.free1) a.intake.length
  else s.updAdmit u (fun a => { a with windowNo := w, opened := true, open_ := false })

/-- The units homed in a region whose window changes at a count. -/
def admitWindows (s : State) (r count : Nat) : State :=
  let mine := s.admits.filter (fun x => x.2.valid && decide (0 < x.2.window) && (x.2.intake.head?.bind (fun l => s.physRegion (lcidRegion l))) == some r)
  s.each (mine.filter (fun x => !x.2.opened || x.2.windowNo != count / x.2.window)) (fun s x =>
    openWindow (closeWindow s x.1) x.1 (count / x.2.window) count)

/-! ## What falls on a stroke -/

/-- An event with its stroke and the order of its posting; a plan's events come before any other (R401). -/
structure Falling where
  stroke : Nat
  posted : Nat
  ev     : EventKind
  deriving DecidableEq, Repr

/-- A plan record has an occurrence at stroke n of a layout whose stroke A is a (R185). -/
def PlanRec.falls (r : PlanRec) (a n : Nat) : Bool :=
  decide (a + r.offset ≤ n) && (if r.period = 0 then n == a + r.offset else (n - a - r.offset) % r.period == 0)

def PlanRec.event (r : PlanRec) : EventKind :=
  match r.kind with
  | 0 => .phase (Fin.ofNat 16 r.arg8)
  | 1 => .window (Fin.ofNat 2 r.arg8) (Fin.ofNat 1024 r.arg16) r.length
  | _ => .crewStart r.arg16

/-- The plan's events of one stroke. At A phase 0 is in force unless the plan names another, and crews without a record
start. -/
def Layout.planAt (l : Layout) (a n : Nat) : List EventKind :=
  (if n = a then EventKind.phase 0 :: ((l.crews.filter (fun c => !l.plan.any (fun r => r.kind == 2 && r.arg16 == c.crew))).map (fun c => .crewStart c.crew)) else [])
  ++ (l.plan.filter (fun r => r.falls a n)).map PlanRec.event

/-- The strokes after old up to new. -/
def strokesAfter (old new : Nat) : List Nat := (List.range (new - old)).map (fun i => old + 1 + i)

/-- What the plan in force brings in the strokes after old up to new. -/
def State.planned (s : State) (p old new : Nat) : List Falling :=
  let y := (s.hub p).lay
  match y.layout? with
  | some l =>
    if y.state == .applying && !y.pendingStart then []
    else (strokesAfter old new).flatMap (fun n => (l.planAt y.startStroke n).map (fun e => ({ stroke := n, posted := 0, ev := e } : Falling)))
  | none => []

/-- An event concerns a region of the partition and crew. -/
def eventConcerns (e : EventKind) (crew : Option Nat) : Bool :=
  match e with
  | .cap .thermal c _ => crew == some c
  | .cap .localRatio c _ => crew == some c
  | .freq c _ => crew == some c
  | .crewStart c => crew == some c
  | _ => true

/-- The pending events of the region's cox that its new count reaches. -/
def State.reached (s : State) (r p old new : Nat) : List PendEvent :=
  let crew := (s.region r).assign.map (·.crew)
  sortBy (fun a b => decide (a.stroke < b.stroke) || (a.stroke == b.stroke && decide (a.posted ≤ b.posted)))
    ((s.cox (r / 4)).events.filter (fun e => (e.part == p || e.ev == .telemetry) && decide (old < e.stroke) && decide (e.stroke ≤ new) && eventConcerns e.ev crew))

/-! ## Ratios -/

/-- The FOLLOW component at a stroke: the largest of the partition's own and every peer's latest (R324). -/
def State.followAt (s : State) (p v n : Nat) : Nat :=
  let h := s.hub p
  (List.range 16).foldl (fun a f =>
    if 16 ≤ Tab.get 0 h.silent f then a
    else match (h.published.filter (fun x => x.2.2 == f && decide (x.1 ≤ n))).getLast? with
      | some x => max a x.2.1
      | none => a) v

/-- A component posted before a fast tightening does not undo it (R337). -/
def tightened (posted tightAt now v : Nat) : Nat := if posted < tightAt then max now v else v

/-- What the first region to act on a cap event sets. -/
def setComponent (s : State) (e : PendEvent) : State :=
  match e.ev with
  | .cap .panel _ v => s.updPower (fun q => { q with panelR := tightened e.posted q.tightAt q.panelR v })
  | .cap .partition _ v => s.updHub e.part (fun h => { h with partR := tightened e.posted h.tightAt h.partR v })
  | .cap .follow _ v => s.updHub e.part (fun h => { h with followR := s.followAt e.part v e.stroke })
  | .cap .thermal c v => s.updCrew e.part c (fun k => { k with thermalR := tightened e.posted k.tightAt k.thermalR v })
  | .cap .localRatio c v => s.each (s.crewRegions e.part c) (fun s r => s.updRegion r (fun x => { x with localR := v }))
  | _ => s

/-- Events with the number of posting of e. -/
def PendEvent.same (e x : PendEvent) : Bool := x.posted == e.posted && x.part == e.part

/-- A region acts on an event: the first of all coxes sets what it sets outside regions, and the first of each cox reports it
there when it is late (R50). -/
def takeEvent (r : Nat) (s : State) (e : PendEvent) : State :=
  if (s.cox (r / 4)).events.any (fun x => e.same x && x.taken) then s
  else
    let s1 := if (s.cox (r / 4)).events.any (fun x => e.same x && x.applied) then s
      else (setComponent s e).each (s.coxes.map (·.1)) (fun s site => s.updCox site (fun c => { c with
        transit := c.transit.map (fun x => if e.same x then { x with applied := true } else x)
        events := c.events.map (fun x => if e.same x then { x with applied := true } else x) }))
    let s2 := s1.updCox (r / 4) (fun c => { c with events := c.events.map (fun x => if e.same x then { x with taken := true } else x) })
    if e.late then coxRecord (setStrokeRc s2 20) (r / 4) (siteRec s2 (r / 4) 0x0F 0 0 0) else s2

/-! ## Rotation (R181) -/

/-- Group g of a crew of n groups is among the active, from first on. -/
def inTurn (first active n g : Nat) : Bool := decide ((g + n - first % n) % n < active)

/-- A group's RUN object follows it, and a group that becomes active asks its regions to wake. -/
def turnGroup (p c g : Nat) (on : Bool) (s : State) : State :=
  let objs := (s.syncs.filter (fun x => x.2.run && x.2.part == p && x.2.crew == c && x.2.group == g)).map (·.1)
  if on then
    let s1 := s.each objs (fun s o => homeRelease s o true)
    s1.each ((s1.crewRegions p c).filter (fun r => ((s1.region r).assign.map (·.group)) == some g)) (fun s r =>
      s.updRegion r (fun x => { x with wakeReq := x.wakeReq || x.depth != 0 }))
  else s.each objs (fun s o => s.updSync o (fun x => { x with released := false }))

/-- The rotation strokes that a crew has passed by stroke n. -/
def rotateCrew (p n : Nat) (s : State) (c : CrewRec) : State :=
  let k := s.crew p c.crew
  if c.active < c.groups && 0 < c.rot && k.started && k.startAt ≤ n then
    let first := (n - k.startAt) / c.rot % c.groups
    if first = k.firstActive then s
    else
      let s1 := s.updCrew p c.crew (fun k => { k with firstActive := first })
      (List.range c.groups).foldl (fun s g =>
        let was := inTurn k.firstActive c.active c.groups g
        let is := inTurn first c.active c.groups g
        if was == is then s else turnGroup p c.crew g is s) s1
  else s

/-! ## Phases, operating points, starts -/

/-- The point a crew prefers in a phase (R184). -/
def State.phasePoint (s : State) (p ph crew : Nat) : Nat :=
  let ps := ((s.layoutOf p).map (·.phases)).getD []
  match ps.find? (fun r => r.phase == ph && r.crew == crew) with
  | some r => r.op
  | none => ((ps.find? (fun r => r.phase == 0 && r.crew == crew)).map (·.op)).getD 3

def isPhase : EventKind → Bool
  | .phase _ => true
  | _ => false

/-- Of the PHASE_ENTERs of one stroke the one posted last governs (R401). -/
def governing : List Falling → List Falling
  | [] => []
  | f :: l => if isPhase f.ev && l.any (fun g => g.stroke == f.stroke && isPhase g.ev) then governing l else f :: governing l

/-- Phases and frequency changes act on a region in their order (R52, R322, R401): the point it is to take. -/
def pointAfter (s : State) (p r : Nat) (a : Assign) (l : List Falling) : State × Nat :=
  (governing l).foldl (fun acc f => match f.ev with
    | .phase ph =>
      let pref := s.phasePoint p ph.val a.crew
      ((acc.1.updRegion r (fun x => { x with pref := pref })).updCrew p a.crew (fun k => { k with pref := pref }), max acc.2 pref)
    | .freq _ op => (acc.1, op.val)
    | _ => acc) (s, (s.region r).op)

/-- Both halves of a crew's admission units are free at its start (R153). -/
def freeUnits (s : State) (p c : Nat) : State :=
  s.each ((s.admits.filter (fun x => x.2.valid && x.2.part == p && x.2.expert.crew == c)).map (·.1)) (fun s u =>
    s.updAdmit u (fun a => { a with free0 := true, free1 := true }))

/-- A crew starts on a region: it asks for admission (R185, R193). -/
def startOn (p r : Nat) (s : State) (f : Falling) : State :=
  match f.ev, (s.region r).assign with
  | .crewStart c, some a =>
    if a.crew = c then
      let s1 := s.updRegion r (fun x => { x with startDue := true })
      if (s.crew p c).started then s1
      else (freeUnits s1 p c).updCrew p c (fun k => { k with started := true, startAt := f.stroke, firstActive := 0 })
    else s
  | _, _ => s

/-- A start window opens at the tree whose root works in the region (R260, R401). -/
def openTree (p r new : Nat) (s : State) (f : Falling) : State :=
  match f.ev with
  | .window ty n len =>
    let tk := treeKey p ty.val n.val
    let t := s.tree tk
    if s.rootRegion t == some r then
      tryTree (s.updTree tk (fun t => { t with
        gated := true
        openUntil := if f.stroke + len ≤ new then t.openUntil else some (max (t.openUntil.getD 0) (f.stroke + len)) })) tk
    else s
  | _ => s

/-- STROKEWAITs whose target the count has reached complete, at a catch point (R97, R250). -/
def releaseWaits (s : State) (r count : Nat) : State :=
  s.each (regionCores r) (fun s k =>
    s.each ((s.core k).syRun.filter (fun x => wFn x.op.w == 4 && decide (x.key ≤ count) && !(s.core k).catches.any (fun c => c.seq == some x.op.seq)))
      (fun s x => catchAt s k (some x.op.seq)))

/-! ## The boundary -/

/-- What the first region of a partition to reach a stroke does for it before its own work: a new layout comes into force, the
phase is entered, groups rotate. -/
def partitionStroke (s : State) (p n : Nat) (fall : List Falling) : State :=
  let s1 := if (s.hub p).lay.startStroke ≤ n then newLayoutStarts s p else s
  let s2 := fall.foldl (fun s f => match f.ev with
    | .phase ph => s.updHub p (fun h => { h with phase := ph.val })
    | _ => s) s1
  (((s2.layoutOf p).map (·.crews)).getD []).foldl (rotateCrew p n) s2

/-- Action 6: the strokes that the partition has not seen, and the events that no region has acted on before. -/
def partitionTriggers (s : State) (p old new : Nat) (evs : List PendEvent) : State :=
  let s1 := if old < new then (strokesAfter old new).foldl (fun s n => fetcherStroke s p n) (s.updHub p (fun h => { h with trig := new })) else s
  let s2 := if evs.any (fun e => e.ev == .fetch) then fetchStroke s1 p else s1
  if evs.any (fun e => e.ev == .replacement) then startReplacement s2 p else s2

/-- What falls on a region of a partition in the strokes after old up to new, in its order. -/
def State.fallsOn (s : State) (r p old new : Nat) : List Falling :=
  sortBy (fun a b => decide (a.stroke < b.stroke) || (a.stroke == b.stroke && decide (a.posted ≤ b.posted)))
    (s.planned p old new ++ (s.reached r p old new).map (fun e => ({ stroke := e.stroke, posted := e.posted + 1, ev := e.ev } : Falling)))

/-- A region is to run at a point: a change starts unless it runs there. -/
def startChange (s : State) (r p : Nat) (a : Assign) (op : Nat) : State :=
  if op = (s.region r).op then s else (changeNow s r op).updCrew p a.crew (fun k => { k with op := op })

/-- A region of a partition takes the strokes after old up to new. -/
def partBoundary (s : State) (r p old new : Nat) : State :=
  let trig := (s.hub p).trig
  let evs := s.reached r p old new
  let sorted := s.fallsOn r p old new
  -- action 3
  let s1 := evs.foldl (takeEvent r) s
  let s2 := if trig < new then partitionStroke s1 p new sorted else s1
  let s3 := setRatio s2 r
  -- action 4
  let s4 := match (s3.region r).assign with
    | some a =>
      let x := pointAfter s3 p r a sorted
      startChange x.1 r p a x.2
    | none => s3
  -- action 5, with the crews that start
  let s5 := sorted.foldl (startOn p r) (releaseWaits s4 r new)
  let s6 := sorted.foldl (openTree p r new) s5
  partitionTriggers s6 p trig new (evs.filter (fun e => !e.applied))

/-- REGION_STROKE_BOUNDARY (R47, R51). A TELEMETRY event samples what action 2 latches at every boundary (R48, R309). -/
def execRegionStrokeBoundary (r : PRegion) (mean : W16) (s : State) : Host.Outcome State Fault Refusal :=
  .next (
    let x := s.region r
    let new := (s.cox (r.val / 4)).count
    if x.clock == .running && !x.fenced && decide (x.count < new) then
      let s1 := s.updRegion r (fun x => { x with count := new, acted := new, stkMean := mean.toNat })
      let s2 := admitWindows s1 r new
      let s3 := match s.partOfSite (r.val / 4) with
        | some p => if s.partStopped p then s2 else partBoundary s2 r p x.acted new
        | none => s2
      pruneEvents s3 (r.val / 4)
    else s)

/-! ## The end of a frequency change (R58) -/

/-- The highest rail that the pending changes of a region's crew ask for (R58 step 1). -/
def State.railDue (s : State) (r : Nat) : Nat :=
  (s.cox (r / 4)).events.foldl (fun v e => match e.ev, (s.region r).assign with
    | .freq crew op, some a => if a.part = e.part ∧ a.crew = crew ∧ (s.region r).acted < e.stroke then max v (vsetOf op.val) else v
    | _, _ => v) 0

/-- The trees whose roots work in a region go on with what waited for it (R59). -/
def resumeTrees (s : State) (r : Nat) : State :=
  s.each ((s.trees.filter (fun t => s.rootRegion t.2 == some r)).map (·.1)) tryTree

/-- FREQ_CHANGE_RESUME (R58 steps 6 and 7): the region loads the count and resumes at its new point, at a catch point for
each core that runs (R250); for a lower point the rail falls, though not below what a pending change needs. A change whose stroke
came during the stop starts at once (R52). -/
def execFreqChangeResume (r : PRegion) (s : State) : Host.Outcome State Fault Refusal :=
  .next (
    let x := s.region r
    match x.clock, x.chg with
    | .stopped, some op =>
      if x.fenced then s
      else
        let count := (s.cox (r.val / 4)).count
        let s1 := s.updRegion r (fun x => { x with
          clock := .running, count := count, op := op, vset := if x.vset = 0 then 0 else max (vsetOf op) (s.railDue r), chg := none, chgNext := none })
        let s2 := s1.each ((regionCores r).filter (fun k => (s1.core k).mode == .running)) (fun s k => catchAt s k none)
        let s3 := match x.chgNext, x.assign with
          | some q, _ => changeNow s2 r q
          | none, some a => startChange s2 r a.part a (pointAfter s2 a.part r a (s2.fallsOn r a.part x.acted count)).2
          | none, none => s2
        resumeTrees (setRatio s3 r) r
    | _, _ => s)

end Sys2Proof.Machine
end

