-- ==== Sys2Proof/Machine/Thermal.lean ====
section
/-!
DEFINITION. The commands of chapter 11: cap epochs and operating points (R318 to R324), idle depths (R325, R326), thermal
control (R327 to R329), and the coolant with its stops (R332 to R335).
-/
namespace Sys2Proof.Machine

/-! ## Epochs -/

/-- E of R318. -/
def Stroke.epoch (k : Stroke) : Nat := max 1 (ceilDiv 1000000 (max 1 k.period))

/-- The hottest prediction of a crew [0.1 °C]. -/
def State.crewPred (s : State) (p c : Nat) : Int := (s.crewRegions p c).foldl (fun a r => max a (s.region r).pred) 0
/-- The hottest prediction of a partition's stacks (R483). -/
def State.stackPred (s : State) (p : Nat) : Int := (s.partStacks p).foldl (fun a st => max a (s.stack st).pred) 0

/-- R327: P / L of a hot spot predicted at t against a limit temperature, as a pair; at or below the inlet L is unbounded. -/
def heatOver (inlet t limit : Int) : Nat × Nat := if t ≤ inlet then (0, 1) else ((t - inlet).toNat, (limit - inlet).toNat)

/-- The thermal ratio of a crew from its present value: its own regions at 105 °C, its partition's stacks at 95 °C. -/
def State.thermalNew (s : State) (p c : Nat) : Nat :=
  let b := (s.crew p c).thermalR
  let x := heatOver s.cool.inlet (s.crewPred p c) 1050
  let y := heatOver s.cool.inlet (s.stackPred p) 950
  max (ratioRule b x.1 x.2) (ratioRule b y.1 y.2)

/-- R320 for heat: a thermal ratio that is more than 5 % short tightens at once. -/
def tightenHeat (s : State) : State :=
  s.each (List.range 4) (fun s p => s.each (s.partCrews p) (fun s c =>
    let x := heatOver s.cool.inlet (s.crewPred p c) 1050
    let y := heatOver s.cool.inlet (s.stackPred p) 950
    if fastOver x.1 x.2 || fastOver y.1 y.2 then
      applyRatio (s.updCrew p c (fun k => { k with thermalR := max k.thermalR (s.thermalNew p c), tightAt := s.postNo })) p c
    else s))

/-- The operating-point step of a crew at an epoch (R321, R328, R329). -/
def stepCrew (s : State) (p c : Nat) : State :=
  let k := s.crew p c
  let r := (s.crewRatio p c).1
  let low := if 30 ≤ r then k.lowEpochs + 1 else 0
  let still := if r = 0 then k.zeroEpochs + 1 else 0
  let move := fun (s : State) (op : Nat) =>
    postEvent (s.updCrew p c (fun k => { k with lowEpochs := 0, zeroEpochs := 0, stepDown := false })) p (.freq c (Fin.ofNat 8 op)) s.firstLead
  if k.substLimit && decide (k.op < 5) then move s 5
  else if (k.stepDown || decide (4 ≤ low)) && decide (k.op < 7) then move s (k.op + 1)
  else if 16 ≤ still && decide (k.held k.pref < k.op) then move s (k.op - 1)
  else s.updCrew p c (fun k => { k with lowEpochs := low, zeroEpochs := still, stepDown := false })

/-- The largest ratio among a partition's crews (R324). -/
def State.largestRatio (s : State) (p : Nat) : Nat := (s.partCrews p).foldl (fun a c => max a (s.crewRatio p c).1) 0

/-- FOLLOW: the partition publishes its largest ratio for a stroke on each of its ports under version 1.2 (R324, R428). -/
def publishRatio (s : State) (p n : Nat) : State :=
  let r := s.largestRatio p
  let ports := (List.range 16).filter (fun f => ((s.layoutOf p).map (·.part.portMask.testBit f)).getD false)
  let s1 := s.updHub p (fun h => { h with silent := ports.foldl (fun t f => Tab.upd 0 t f (fun n => min 16 (n + 1))) h.silent })
  s1.each (ports.filter (fun f => ((s1.fport f).state == 4 || (s1.fport f).state == 5) && (s1.fport f).version == 0x12)) (fun s f =>
    queueFrame s f 0x14 1 true true 0 16 (bytesLE 6 n ++ bytesLE 1 r ++ bytesLE 1 p ++ zeros 8))

/-- Local ratios relax at epochs (R320). -/
def relaxLocal (s : State) : State :=
  s.each ((s.regions.filter (fun x => x.2.localR != 0)).map (·.1)) (fun s r =>
    let x := s.region r
    if 100 * x.msMean < 95 * x.limit then setRatio (s.updRegion r (fun y => { y with localR := y.localR - 5 })) r else s)

/-- A write to PCAP takes effect (R323); during an apply, as its crews start (R198). -/
def latchCap (s : State) (p : Nat) : State := s.updHub p (fun h => { h with capNow := h.pcap })

/-- CAP_EPOCH (R318, R319, R321, R324): the manager computes and posts every component for the first epoch stroke with
the lead. Right after a takeover nothing relaxes (R315). -/
def execCapEpoch (s : State) : Host.Outcome State Fault Refusal :=
  .next (
    let k := s.stroke
    let e := k.epoch
    if s.managed && k.running && !s.panelStopped && k.count % e == 0 && (decide (s.power.lastEpoch < k.count) || s.power.epochs == 0) then
      let mayRelax := !k.takeover || decide (1 ≤ s.power.epochs)
      let hold := fun (old new : Nat) => if mayRelax then new else max old new
      let n := ceilDiv s.firstLead e * e
      let panel := hold s.power.panelR (ratioRule s.power.panelR s.power.inputMw s.busLimit)
      let s1 := (s.updPower (fun p => { p with epochs := p.epochs + 1, lastEpoch := k.count })).each
        ((List.range 4).filter (fun p => (s.hub p).lay.state != .applying)) latchCap
      let s2 := s1.updStroke (fun k => { k with takeover := k.takeover && !mayRelax })
      let s3 := s2.each ((List.range 4).filter (fun p => (s2.layoutOf p).isSome && !s2.partStopped p)) (fun s p =>
        let h := s.hub p
        let part := hold h.partR (match s.capOf p with
          | some c => ratioRule h.partR h.partMw c
          | none => h.partR - 5)
        let s1 := postEvent s p (.cap .panel 0 panel) n
        let s2 := postEvent s1 p (.cap .partition 0 part) n
        let s3 := s2.each (s2.partCrews p) (fun s c => postEvent s p (.cap .thermal c (hold (s.crew p c).thermalR (s.thermalNew p c))) n)
        let s4 := s3.each (s3.partCrews p) (fun s c => stepCrew s p c)
        if s4.follows p then publishRatio (postEvent s4 p (.cap .follow 0 (s4.largestRatio p)) n) p n else s4)
      let s4 := if mayRelax then relaxLocal s3 else s3
      applyPanel s4
    else s)

/-- LOCAL_LIMIT (R314, R320): the region's local ratio from its present current, at every region of the crew. -/
def execLocalLimit (r : PRegion) (cur : Nat) (s : State) : Host.Outcome State Fault Refusal :=
  .next (
    let x := s.region r
    if x.vset != 0 && !x.fenced && decide (x.limit < cur) then
      let s1 := s.updRegion r (fun y => { y with localR := ratioRule y.localR cur x.limit })
      match x.assign with
      | some a => applyRatio s1 a.part a.crew
      | none => s1
    else s)

/-! ## Idle depths (R325, R326) -/

/-- IDLE_CLOCK_GATE (R325): idle for 64 region cycles. -/
def execIdleClockGate (r : PRegion) (s : State) : Host.Outcome State Fault Refusal :=
  .next (if s.regionQuiet r && !s.packetWaits r && (s.region r).depth == 0 && (s.region r).assign.isSome && decide (1 ≤ s.allowedDepth r) then
      s.updRegion r (fun x => { x with depth := 1, idleSince := some s.now })
    else s)

/-- A deeper depth, after the region has been idle for ns. -/
def deeper (s : State) (r depth ns : Nat) : State :=
  match (s.region r).idleSince with
  | some t =>
    if s.regionQuiet r && !s.packetWaits r && (s.region r).depth + 1 == depth && !(s.region r).waking && decide (depth ≤ s.allowedDepth r)
        && decide (t + ns ≤ s.now) then
      s.updRegion r (fun x => { x with depth := depth })
    else s
  | none => s

/-- IDLE_RETENTION (R325): idle for 80 µs. -/
def execIdleRetention (r : PRegion) (s : State) : Host.Outcome State Fault Refusal := .next (deeper s r 2 80000)
/-- IDLE_REGION_OFF (R325): idle for 1.2 ms. -/
def execIdleRegionOff (r : PRegion) (s : State) : Host.Outcome State Fault Refusal := .next (deeper s r 3 1200000)

/-- REGION_WAKE (R326): refused while an ordered stop runs (R337). -/
def execRegionWake (r : PRegion) (s : State) : Host.Outcome State Fault Refusal :=
  .next (
    let x := s.region r
    let stopped := s.panelStopped || (match x.assign with
      | some a => s.partStopped a.part
      | none => false)
    if x.depth != 0 && !x.waking && !x.fenced && !stopped && (s.packetWaits r || x.wakeReq || x.startDue || s.strokeNear r s.stroke.period) then
      s.updRegion r (fun y => { y with waking := true, wakeReq := false, grantAt := if y.depth = 1 then some s.now else none })
    else s)

/-- WAKE_DONE (R325, R250): 0.1 µs after the wake of a gated clock, 8 µs or 120 µs after the grant of a deeper one. -/
def execWakeDone (r : PRegion) (s : State) : Host.Outcome State Fault Refusal :=
  .next (
    let x := s.region r
    match x.grantAt with
    | some t =>
      let ns := if x.depth = 3 then 120000 else if x.depth = 2 then 8000 else 100
      if x.waking && x.depth != 0 && decide (t + ns ≤ s.now) then
        let s1 := s.updRegion r (fun y => { y with
          count := (s.cox (r.val / 4)).count, depth := 0, waking := false, idleSince := none, wakes := if x.depth = 1 then y.wakes else sat 16 (y.wakes + 1)
          grantAt := none })
        let s2 := if x.depth = 1 then s1 else startRamp s1 r
        s2.each ((regionCores r).filter (fun k => (s2.core k).mode == .running)) (fun s k => catchAt s k none)
      else s
    | none => s)

/-! ## Heat (R327 to R329) -/

/-- THERMAL_PREDICT (R327, R483). -/
def execThermalPredict (regionPreds : List (PRegion × Int)) (stackPreds : List (StackId × Int)) (s : State) : Host.Outcome State Fault Refusal :=
  .next (if s.managed then
      let s1 := s.each regionPreds (fun s x => s.updRegion x.1 (fun r => { r with pred := x.2 }))
      let s2 := s1.each stackPreds (fun s x => s.updStack x.1 (fun r => { r with pred := x.2 }))
      if s2.panelStopped then s2 else tightenHeat s2
    else s)

/-- One reading of a sensor against its last ms: history, excluded, good since (R328). -/
def readSensor (now : Nat) (v : Int) (hist : List (Nat × Int)) (excl : Bool) (good : Nat) : List (Nat × Int) × Bool × Nat :=
  let near := hist.filter (fun h => decide (now ≤ h.1 + 1000000))
  let ok := decide (-200 ≤ v) && decide (v ≤ 1500) && near.all (fun h => decide (v - h.2 ≤ 20) && decide (h.2 - v ≤ 20))
  let kept := near ++ [(now, v)]
  if !ok then (kept, true, now)
  else if excl && decide (good + 16000000 ≤ now) then (kept, false, good)
  else (kept, excl, good)

/-- The hot spot after a pair of readings; pred is the model's prediction for that instant. -/
def HotSpot.take (h : HotSpot) (now : Nat) (a b pred : Int) : HotSpot :=
  let x := readSensor now a h.aHist h.aExcl h.aGood
  let y := readSensor now b h.bHist h.bExcl h.bGood
  { a := a, b := b, aHist := x.1, bHist := y.1, aExcl := x.2.1, bExcl := y.2.1, aGood := x.2.2, bGood := y.2.2
    disagree := h.disagree || (!x.2.1 && !y.2.1 && (decide (40 < a - b) || decide (40 < b - a)))
    ctrl := if x.2.1 then (if y.2.1 then pred + 100 else b) else (if y.2.1 then a else max a b) }

/-- The thermal steps of a region by its controlling reading (R329). -/
def thermalStep (s : State) (r : Nat) : State :=
  let t := s.regionTj r
  let x := s.region r
  let s1 := s.updRegion r (fun y => { y with hot113 := if 1130 ≤ t then (some (y.hot113.getD s.now)) else none })
  if t < 1080 then s1.updRegion r (fun y => { y with hot108 := none })
  else if (match x.hot108 with
    | some u => decide (s.now < u + 1000000)
    | none => false) then s1
  else
    let s2 := s1.updRegion r (fun y => { y with hot108 := some s.now, localR := min 95 (y.localR + 20) })
    let s3 := coxRecord s2 (r / 4) (siteRec s2 (r / 4) 0x0C 0 ((s2.logicalRegion r).getD 0) 0)
    match x.assign with
    | some a => applyRatio (s3.updCrew a.part a.crew (fun c => { c with stepDown := true })) a.part a.crew
    | none => s3

/-- The user calibration of an item in force (R447). -/
def State.calOf (s : State) (item index : Nat) : Int :=
  ((s.sec.userCal.filter (fun e => e.1 == item && e.2.1 == index)).map (·.2.2)).foldl (· + ·) 0

/-- HOTSPOT_READ (R328, R329): the readings with the factory offsets; the user's are added (R447). -/
def execHotspotRead (site : SiteId) (h : Fin 8) (ab : Int × Int) (pred : Int) (s : State) : Host.Outcome State Fault Refusal :=
  .next (if (s.cox site).live then
      let a := ab.1 + s.calOf 1 (site.val * 16 + h.val * 2)
      let b := ab.2 + s.calOf 1 (site.val * 16 + h.val * 2 + 1)
      let r := site.val * 4 + h.val / 2
      let s1 := s.updCox site (fun c => { c with hot := Tab.upd {} c.hot h (fun x => x.take s.now a b pred) })
      let lost := fun (i : Nat) => let x := Tab.get ({} : HotSpot) (s1.cox site).hot i; x.aExcl && x.bExcl
      let s2 := s1.updRegion r (fun x => { x with subst := lost (h.val / 2 * 2) || lost (h.val / 2 * 2 + 1) })
      let s3 := match (s2.region r).assign with
        | some q => s2.updCrew q.part q.crew (fun c => { c with substLimit := (s2.crewRegions q.part q.crew).any (fun i => (s2.region i).subst) })
        | none => s2
      thermalStep s3 r
    else s)

/-- The die has been fenced for heat. -/
def State.heatFenced (s : State) (site : Nat) : Bool := (siteRegions site).any (fun r => (s.region r).thFenced)

/-- A die is fenced for heat: no defect entry (R329). -/
def heatFence (s : State) (site : Nat) : State :=
  let s1 := tripDie s site 0
  let s2 := s1.each (siteRegions site) (fun s r => s.updRegion r (fun x => { x with thFenced := true }))
  hubRecord s2 (siteRec s2 site 0x0C 5 ((s2.dieOfSite site).getD 0) 0)

/-- THERMAL_FENCE_113 (R329): 113 °C or above for 1 ms. -/
def execThermalFence113 (site : SiteId) (s : State) : Host.Outcome State Fault Refusal :=
  .next (if s.trips site && !s.heatFenced site && (siteRegions site).any (fun r => match (s.region r).hot113 with
      | some t => decide (t + 1000000 ≤ s.now)
      | none => false) then heatFence s site else s)

/-- COMPARATOR_TRIP (R297, R329): the 118 °C comparator opens the eFuse without firmware. -/
def execComparatorTrip (site : SiteId) (s : State) : Host.Outcome State Fault Refusal :=
  .next (if s.trips site && !s.heatFenced site then heatFence s site else s)

/-! ## Coolant (R332 to R335) -/

/-- A sample with the user calibration added (R447). -/
def State.calibrated (s : State) (c : Coolant) : Coolant :=
  { c with inlet := c.inlet + s.calOf 2 0, flow := (c.flow * (1000 + s.calOf 3 0) / 1000).toNat }

/-- A leak is detected: LEAK_N goes out, and the ordered stop begins (R335). -/
def leakFound (s : State) : State :=
  let s1 := (s.updCool (fun c => { c with leak := true, leakAt := some (c.leakAt.getD s.now) })).updSupply (fun x => { x with leakN := true })
  if s.supply.stageA then raiseAll (orderedStop s1 4) 3 else s1

/-- What a sample shows of the flow, the temperatures and the pressure. -/
def takeSample (c : Coolant) (s : State) : State :=
  if s.supply.stageA then
    let since := fun (b : Bool) (t : Option Nat) => if b then some (t.getD s.now) else none
    let s1 := s.updCool (fun x => { x with
      sampled := true, flow := c.flow, dp := c.dp, outlet := c.outlet, inlet := c.inlet
      alert80 := flowBelow c.flow c.inlet 8, alert60 := flowBelow c.flow c.inlet 6, inletHigh := decide (400 < c.inlet)
      dpHist := x.dpHist.filter (fun h => decide (s.now ≤ h.1 + 1000000000)) ++ [(s.now, c.dp)]
      lowSince := since (flowBelow c.flow c.inlet 4) x.lowSince, hotSince := since (decide (450 ≤ c.inlet)) x.hotSince })
    let o := s.cool
    let n := s1.cool
    if o.alert80 == n.alert80 && o.alert60 == n.alert60 && o.inletHigh == n.inletHigh then s1
    else
      let up := (n.alert80 && !o.alert80) || (n.alert60 && !o.alert60) || (n.inletHigh && !o.inletHigh)
      raiseAll (if up then hubRecord s1 (panelRec s1 0x0D 0 0 0) else s1) 3
  else if s.supply.vin ≠ 0 then s.updCool (fun x => { x with flow := c.flow, dp := c.dp, outlet := c.outlet, inlet := c.inlet })
  else s

/-- COOLANT_SAMPLE (R332): with the factory calibration; the supervisor reads its sensors without stage A too (R479). The leak signal
is sampled with the rest: LEAK follows it (R339). -/
def execCoolantSample (c0 : Coolant) (s : State) : Host.Outcome State Fault Refusal :=
  .next (
    let s1 := takeSample (s.calibrated c0) s
    if s.supply.stageA || s.supply.vin != 0 then
      (if c0.leak && !s.cool.leak then leakFound s1 else s1.updCool (fun x => { x with leak := c0.leak }))
    else s1)

/-- A condition has held since t for 1 s. -/
def heldSecond (s : State) (t : Option Nat) : Bool :=
  match t with
  | some t => decide (t + 1000000000 ≤ s.now)
  | none => false

/-- COOLANT_SLOW_STOP (R332): f < 0.4 for 1 s. -/
def execCoolantSlowStop (s : State) : Host.Outcome State Fault Refusal :=
  .next (if s.supply.stageA && heldSecond s s.cool.lowSince then orderedStop s 2 else s)

/-- INLET_STOP (R332): the inlet at 45 °C or above for 1 s. -/
def execInletStop (s : State) : Host.Outcome State Fault Refusal :=
  .next (if s.supply.stageA && heldSecond s s.cool.hotSince then orderedStop s 3 else s)

/-- The differential pressure has fallen below 20 % of its mean over the preceding 1 s, within 100 ms (R333). -/
def State.suddenFall (s : State) : Bool :=
  let h := s.cool.dpHist.filter (fun x => decide (s.now ≤ x.1 + 1000000000) && decide (x.1 < s.now))
  let mean := meanOf (h.map (·.2))
  decide (5 * s.cool.dp < mean) && h.any (fun x => decide (s.now ≤ x.1 + 100000000) && decide (mean ≤ 5 * x.2))

/-- SUDDEN_LOSS (R333, R339): detected, also once the panel has stopped. -/
def execSuddenLoss (s : State) : Host.Outcome State Fault Refusal :=
  .next (if s.supply.stageA && s.suddenFall then orderedStop (setCoolRc s 31) 1 else s)

/-- ORDERED_STOP_DRAIN (R333 step 5): every partition whose fabric is quiet, or that has drained for 1 ms, goes off; with
the last of a panel stop, every other region too. -/
def execOrderedStopDrain (s : State) : Host.Outcome State Fault Refusal :=
  .next (
    let ready := (List.range 4).filter (fun p => match (s.hub p).stopping with
      | some t => s.drainedNow p || decide (t + 1000000 ≤ s.now)
      | none => false)
    let s1 := s.each ready stopEnds
    if s1.panelStopped && !s1.cool.drained && (List.range 4).all (fun p => (s1.hub p).stopping.isNone) then
      let s2 := switchOff s1 (s1.regions.map (·.1))
      (s2.each (s2.stackTab.map (·.1)) (fun s st => s.updStack st (fun x => { x with selfRefresh := true }))).updCool (fun c => { c with drained := true })
    else s1)

/-- SUPERVISOR_CHECK (R334): the outlet and the hubs' hottest dies at 1.5 s and at 2 s after detection. -/
def execSupervisorCheck (before after : List Int) (s : State) : Host.Outcome State Fault Refusal :=
  .next (match s.cool.stopAt with
    | some t =>
      if s.supply.stageA && decide (t + 2000000000 ≤ s.now) && (before.zip after).any (fun x => decide (x.1 < x.2)) then removeStageA s true else s
    | none => s)

/-- LEAK_SIGNAL (R335). -/
def execLeakSignal (s : State) : Host.Outcome State Fault Refusal := .next (leakFound s)

/-- LEAK_POWER_OFF (R335): 500 ms after detection. -/
def execLeakPowerOff (s : State) : Host.Outcome State Fault Refusal :=
  .next (match s.cool.leakAt with
    | some t => if s.supply.stageA && decide (t + 500000000 ≤ s.now) then removeStageA s true else s
    | none => s)

/-- HEARTBEAT_LOSS (R383): no manager heartbeat for 100 ms. -/
def execHeartbeatLoss (s : State) : Host.Outcome State Fault Refusal :=
  .next (if s.supply.stageA && decide (2 ≤ s.bring.done) then removeStageA s true else s)

end Sys2Proof.Machine
end

