-- ==== Sys2Proof/Machine/Dispatch.lean ====
section
/-!
DEFINITION. What each command does: one arm per constructor, each one call of its meaning.
-/
namespace Sys2Proof.Machine

def exec (i : Instr) (s : State) : Host.Outcome State Fault Refusal :=
  match i with
  | .strokeEdge h low => Sys2Proof.Machine.execStrokeEdge h low s
  | .strokeQualified h high => Sys2Proof.Machine.execStrokeQualified h high s
  | .strokeWindowEnd => Sys2Proof.Machine.execStrokeWindowEnd s
  | .synthesisedStroke => Sys2Proof.Machine.execSynthesisedStroke s
  | .handoverSpanEnd => Sys2Proof.Machine.execHandoverSpanEnd s
  | .strokeMarker site ring cnt => Sys2Proof.Machine.execStrokeMarker site ring cnt s
  | .regionStrokeBoundary r mean => Sys2Proof.Machine.execRegionStrokeBoundary r mean s
  | .eventPost p ev n => Sys2Proof.Machine.execEventPost p ev n s
  | .coxEventReceive site => Sys2Proof.Machine.execCoxEventReceive site s
  | .freqChangeResume r => Sys2Proof.Machine.execFreqChangeResume r s
  | .refLost r => Sys2Proof.Machine.execRefLost r s
  | .droopDetect r => Sys2Proof.Machine.execDroopDetect r s
  | .droopClear r => Sys2Proof.Machine.execDroopClear r s
  | .nop k => Sys2Proof.Machine.execNop k s
  | .halt k => Sys2Proof.Machine.execHalt k s
  | .br k => Sys2Proof.Machine.execBr k s
  | .brr k => Sys2Proof.Machine.execBrr k s
  | .twait k => Sys2Proof.Machine.execTwait k s
  | .pset k => Sys2Proof.Machine.execPset k s
  | .alu k => Sys2Proof.Machine.execAlu k s
  | .movi k => Sys2Proof.Machine.execMovi k s
  | .sld k => Sys2Proof.Machine.execSld k s
  | .sst k => Sys2Proof.Machine.execSst k s
  | .tdld k => Sys2Proof.Machine.execTdld k s
  | .tdst k => Sys2Proof.Machine.execTdst k s
  | .tdset k => Sys2Proof.Machine.execTdset k s
  | .srd k => Sys2Proof.Machine.execSrd k s
  | .mma k ups => Sys2Proof.Machine.execMma k ups s
  | .mst k => Sys2Proof.Machine.execMst k s
  | .mld k => Sys2Proof.Machine.execMld k s
  | .mzero k => Sys2Proof.Machine.execMzero k s
  | .ew k => Sys2Proof.Machine.execEw k s
  | .cvt k => Sys2Proof.Machine.execCvt k s
  | .red k => Sys2Proof.Machine.execRed k s
  | .trn k => Sys2Proof.Machine.execTrn k s
  | .smx k => Sys2Proof.Machine.execSmx k s
  | .warp k => Sys2Proof.Machine.execWarp k s
  | .copy k => Sys2Proof.Machine.execCopy k s
  | .rcopy k => Sys2Proof.Machine.execRcopy k s
  | .gather k => Sys2Proof.Machine.execGather k s
  | .scatter k => Sys2Proof.Machine.execScatter k s
  | .send k => Sys2Proof.Machine.execSend k s
  | .recv k => Sys2Proof.Machine.execRecv k s
  | .voidMark k => Sys2Proof.Machine.execVoidMark k s
  | .route k => Sys2Proof.Machine.execRoute k s
  | .signal k => Sys2Proof.Machine.execSignal k s
  | .pairSubmissionTimeout k => Sys2Proof.Machine.execPairSubmissionTimeout k s
  | .wait k => Sys2Proof.Machine.execWait k s
  | .arm k => Sys2Proof.Machine.execArm k s
  | .barrier k => Sys2Proof.Machine.execBarrier k s
  | .strokewait k => Sys2Proof.Machine.execStrokewait k s
  | .instrComplete k u n => Sys2Proof.Machine.execInstrComplete k u n s
  | .haltReq p l data => Sys2Proof.Machine.execHaltReq p l data s
  | .routerForward n => Sys2Proof.Machine.execRouterForward n s
  | .linkFrameReceive site e noise => Sys2Proof.Machine.execLinkFrameReceive site e noise s
  | .linkRetrainStart site e cause => Sys2Proof.Machine.execLinkRetrainStart site e cause s
  | .linkRetrainDone site e f0 f1 f2 f3 => Sys2Proof.Machine.execLinkRetrainDone site e f0 f1 f2 f3 s
  | .tapOutOfService r => Sys2Proof.Machine.execTapOutOfService r s
  | .routeDrainDone p => Sys2Proof.Machine.execRouteDrainDone p s
  | .routeDrainTimeout p => Sys2Proof.Machine.execRouteDrainTimeout p s
  | .routeTablesLoaded p => Sys2Proof.Machine.execRouteTablesLoaded p s
  | .responseTimeout k tag => Sys2Proof.Machine.execResponseTimeout k tag s
  | .rdata n => Sys2Proof.Machine.execRdata n s
  | .ack n => Sys2Proof.Machine.execAck n s
  | .release n => Sys2Proof.Machine.execRelease n s
  | .grant n => Sys2Proof.Machine.execGrant n s
  | .credit n => Sys2Proof.Machine.execCredit n s
  | .adata n => Sys2Proof.Machine.execAdata n s
  | .inboundRd n => Sys2Proof.Machine.execInboundRd n s
  | .inboundWr n => Sys2Proof.Machine.execInboundWr n s
  | .inboundWrs n => Sys2Proof.Machine.execInboundWrs n s
  | .msgReceive n => Sys2Proof.Machine.execMsgReceive n s
  | .homeSignal n => Sys2Proof.Machine.execHomeSignal n s
  | .homeWait n => Sys2Proof.Machine.execHomeWait n s
  | .homeArm n => Sys2Proof.Machine.execHomeArm n s
  | .homeBarrier n => Sys2Proof.Machine.execHomeBarrier n s
  | .homeFaultReport o l absent => Sys2Proof.Machine.execHomeFaultReport o l absent s
  | .hostSignal p o data => Sys2Proof.Machine.execHostSignal p o data s
  | .admitRequest n => Sys2Proof.Machine.execAdmitRequest n s
  | .coxFenceReport n => Sys2Proof.Machine.execCoxFenceReport n s
  | .catchPoint k => Sys2Proof.Machine.execCatchPoint k s
  | .catchEnd k => Sys2Proof.Machine.execCatchEnd k s
  | .treeCredit n => Sys2Proof.Machine.execTreeCredit n s
  | .treeMcast n => Sys2Proof.Machine.execTreeMcast n s
  | .treeContrib n => Sys2Proof.Machine.execTreeContrib n s
  | .treeResult n => Sys2Proof.Machine.execTreeResult n s
  | .treeDone n => Sys2Proof.Machine.execTreeDone n s
  | .treeDropped n => Sys2Proof.Machine.execTreeDropped n s
  | .sliceEnqueue n => Sys2Proof.Machine.execSliceEnqueue n s
  | .sliceRead sl ce errs => Sys2Proof.Machine.execSliceRead sl ce errs s
  | .sliceWrite sl finds => Sys2Proof.Machine.execSliceWrite sl finds s
  | .sliceAtom sl finds => Sys2Proof.Machine.execSliceAtom sl finds s
  | .retireCopyDone sl => Sys2Proof.Machine.execRetireCopyDone sl s
  | .hbmRetrainStart st ch cause => Sys2Proof.Machine.execHbmRetrainStart st ch cause s
  | .hbmRetrainDone st ch ok repaired => Sys2Proof.Machine.execHbmRetrainDone st ch ok repaired s
  | .hbmTempRead st t => Sys2Proof.Machine.execHbmTempRead st t s
  | .stackOvertemp st => Sys2Proof.Machine.execStackOvertemp st s
  | .ecsRead st n => Sys2Proof.Machine.execEcsRead st n s
  | .hbmRefresh sl => Sys2Proof.Machine.execHbmRefresh sl s
  | .hbmZeroDone => Sys2Proof.Machine.execHbmZeroDone s
  | .hbmMoveDone p => Sys2Proof.Machine.execHbmMoveDone p s
  | .scrubRead k line ce ue pass => Sys2Proof.Machine.execScrubRead k line ce ue pass s
  | .spareLoadDone r ce ue => Sys2Proof.Machine.execSpareLoadDone r ce ue s
  | .faultRecordAppend h => Sys2Proof.Machine.execFaultRecordAppend h s
  | .stageaConverterFail n => Sys2Proof.Machine.execStageaConverterFail n s
  | .inputUndervoltage => Sys2Proof.Machine.execInputUndervoltage s
  | .inputOvervoltage => Sys2Proof.Machine.execInputOvervoltage s
  | .phaseFail r n => Sys2Proof.Machine.execPhaseFail r n s
  | .railShort r => Sys2Proof.Machine.execRailShort r s
  | .railOvervoltage r => Sys2Proof.Machine.execRailOvervoltage r s
  | .sensorLoss r valid => Sys2Proof.Machine.execSensorLoss r valid s
  | .efuseTrip site => Sys2Proof.Machine.execEfuseTrip site s
  | .groupTrip g overcur => Sys2Proof.Machine.execGroupTrip g overcur s
  | .channelTrip n => Sys2Proof.Machine.execChannelTrip n s
  | .hubLost h => Sys2Proof.Machine.execHubLost h s
  | .masterTakeover => Sys2Proof.Machine.execMasterTakeover s
  | .baseGroupFail b => Sys2Proof.Machine.execBaseGroupFail b s
  | .pathResistanceUpdate r ests => Sys2Proof.Machine.execPathResistanceUpdate r ests s
  | .pwrReen p data => Sys2Proof.Machine.execPwrReen p data s
  | .reenTestDone short => Sys2Proof.Machine.execReenTestDone short s
  | .powerRequest r kind final present => Sys2Proof.Machine.execPowerRequest r kind final present s
  | .powerGrantWindow => Sys2Proof.Machine.execPowerGrantWindow s
  | .powerGrant r => Sys2Proof.Machine.execPowerGrant r s
  | .pllLock r => Sys2Proof.Machine.execPllLock r s
  | .rampDone r => Sys2Proof.Machine.execRampDone r s
  | .telemetryMs t => Sys2Proof.Machine.execTelemetryMs t s
  | .capEpoch => Sys2Proof.Machine.execCapEpoch s
  | .localLimit r cur => Sys2Proof.Machine.execLocalLimit r cur s
  | .idleClockGate r => Sys2Proof.Machine.execIdleClockGate r s
  | .idleRetention r => Sys2Proof.Machine.execIdleRetention r s
  | .idleRegionOff r => Sys2Proof.Machine.execIdleRegionOff r s
  | .regionWake r => Sys2Proof.Machine.execRegionWake r s
  | .wakeDone r => Sys2Proof.Machine.execWakeDone r s
  | .thermalPredict regionPreds stackPreds => Sys2Proof.Machine.execThermalPredict regionPreds stackPreds s
  | .hotspotRead site h ab pred => Sys2Proof.Machine.execHotspotRead site h ab pred s
  | .thermalFence113 site => Sys2Proof.Machine.execThermalFence113 site s
  | .comparatorTrip site => Sys2Proof.Machine.execComparatorTrip site s
  | .coolantSample c => Sys2Proof.Machine.execCoolantSample c s
  | .coolantSlowStop => Sys2Proof.Machine.execCoolantSlowStop s
  | .inletStop => Sys2Proof.Machine.execInletStop s
  | .suddenLoss => Sys2Proof.Machine.execSuddenLoss s
  | .orderedStopDrain => Sys2Proof.Machine.execOrderedStopDrain s
  | .supervisorCheck before after => Sys2Proof.Machine.execSupervisorCheck before after s
  | .leakSignal => Sys2Proof.Machine.execLeakSignal s
  | .leakPowerOff => Sys2Proof.Machine.execLeakPowerOff s
  | .heartbeatLoss => Sys2Proof.Machine.execHeartbeatLoss s
  | .powerArrival vin hallmarkOk => Sys2Proof.Machine.execPowerArrival vin hallmarkOk s
  | .bulkChargeDone => Sys2Proof.Machine.execBulkChargeDone s
  | .supply p vin => Sys2Proof.Machine.execSupply p vin s
  | .hub p => Sys2Proof.Machine.execHub p s
  | .auth p inp => Sys2Proof.Machine.execAuth p inp s
  | .inventory inp => Sys2Proof.Machine.execInventory inp s
  | .waves p => Sys2Proof.Machine.execWaves p s
  | .powerWave => Sys2Proof.Machine.execPowerWave s
  | .starttest p res => Sys2Proof.Machine.execStarttest p res s
  | .coreTestTimeout k => Sys2Proof.Machine.execCoreTestTimeout k s
  | .mesh p training => Sys2Proof.Machine.execMesh p training s
  | .load p => Sys2Proof.Machine.execLoad p s
  | .ready p => Sys2Proof.Machine.execReady p s
  | .restart p => Sys2Proof.Machine.execRestart p s
  | .stepComplete ce ue => Sys2Proof.Machine.execStepComplete ce ue s
  | .recoveryGo p => Sys2Proof.Machine.execRecoveryGo p s
  | .recoveryFetchDone img => Sys2Proof.Machine.execRecoveryFetchDone img s
  | .recoveryWriteDone => Sys2Proof.Machine.execRecoveryWriteDone s
  | .layoutStage p => Sys2Proof.Machine.execLayoutStage p s
  | .layoutFetchDone p bytes => Sys2Proof.Machine.execLayoutFetchDone p bytes s
  | .layoutDiscard p => Sys2Proof.Machine.execLayoutDiscard p s
  | .layoutReplace p => Sys2Proof.Machine.execLayoutReplace p s
  | .layoutCancel p => Sys2Proof.Machine.execLayoutCancel p s
  | .replaceQuiet p => Sys2Proof.Machine.execReplaceQuiet p s
  | .replaceDrainTimeout p => Sys2Proof.Machine.execReplaceDrainTimeout p s
  | .replaceLoadDone p ce ue => Sys2Proof.Machine.execReplaceLoadDone p ce ue s
  | .hostLinkDown p => Sys2Proof.Machine.execHostLinkDown p s
  | .hostLinkReturn p => Sys2Proof.Machine.execHostLinkReturn p s
  | .bar2Read p off len => Sys2Proof.Machine.execBar2Read p off len s
  | .bar2Write p off data => Sys2Proof.Machine.execBar2Write p off data s
  | .bar2Atomic p off op size op0 op1 => Sys2Proof.Machine.execBar2Atomic p off op size op0 op1 s
  | .bar2BaseCommit p data => Sys2Proof.Machine.execBar2BaseCommit p data s
  | .aliasRead p off => Sys2Proof.Machine.execAliasRead p off s
  | .aliasWrite p off data => Sys2Proof.Machine.execAliasWrite p off data s
  | .rcRead p off => Sys2Proof.Machine.execRcRead p off s
  | .registerWrite p off data => Sys2Proof.Machine.execRegisterWrite p off data s
  | .cmdHeaderReadDone p hdr => Sys2Proof.Machine.execCmdHeaderReadDone p hdr s
  | .cmdRecordsReadDone p recs => Sys2Proof.Machine.execCmdRecordsReadDone p recs s
  | .cmdNop p => Sys2Proof.Machine.execCmdNop p s
  | .copyIn p => Sys2Proof.Machine.execCopyIn p s
  | .copyOut p => Sys2Proof.Machine.execCopyOut p s
  | .copyDone p n data ce ue => Sys2Proof.Machine.execCopyDone p n data ce ue s
  | .cmdSignal p => Sys2Proof.Machine.execCmdSignal p s
  | .cmdWait p => Sys2Proof.Machine.execCmdWait p s
  | .cmdEvent p => Sys2Proof.Machine.execCmdEvent p s
  | .cmdStroke p => Sys2Proof.Machine.execCmdStroke p s
  | .completionWrite p ok => Sys2Proof.Machine.execCompletionWrite p ok s
  | .cmdResume p => Sys2Proof.Machine.execCmdResume p s
  | .portPcsLock f width4 => Sys2Proof.Machine.execPortPcsLock f width4 s
  | .hello f fr => Sys2Proof.Machine.execHello f fr s
  | .cert f fr => Sys2Proof.Machine.execCert f fr s
  | .kemEk f fr => Sys2Proof.Machine.execKemEk f fr s
  | .kemCt f fr => Sys2Proof.Machine.execKemCt f fr s
  | .finish f fr => Sys2Proof.Machine.execFinish f fr s
  | .quit f fr => Sys2Proof.Machine.execQuit f fr s
  | .idle f fr => Sys2Proof.Machine.execIdle f fr s
  | .keyUpdate f fr => Sys2Proof.Machine.execKeyUpdate f fr s
  | .data f fr => Sys2Proof.Machine.execData f fr s
  | .scredit f fr => Sys2Proof.Machine.execScredit f fr s
  | .wcredit f fr => Sys2Proof.Machine.execWcredit f fr s
  | .chreset f fr => Sys2Proof.Machine.execChreset f fr s
  | .publish f fr => Sys2Proof.Machine.execPublish f fr s
  | .portMsgEnqueue n => Sys2Proof.Machine.execPortMsgEnqueue n s
  | .portRetrainStart f => Sys2Proof.Machine.execPortRetrainStart f s
  | .portRetrainDone f lanes => Sys2Proof.Machine.execPortRetrainDone f lanes s
  | .portRetrainTimeout f => Sys2Proof.Machine.execPortRetrainTimeout f s
  | .portSilence f => Sys2Proof.Machine.execPortSilence f s
  | .portIdleTimer f => Sys2Proof.Machine.execPortIdleTimer f s
  | .portTrainRetry f lanes => Sys2Proof.Machine.execPortTrainRetry f lanes s
  | .rekeyTimer f => Sys2Proof.Machine.execRekeyTimer f s
  | .portRekey p f => Sys2Proof.Machine.execPortRekey p f s
  | .portDown p f => Sys2Proof.Machine.execPortDown p f s
  | .portRearm p f lanes => Sys2Proof.Machine.execPortRearm p f lanes s
  | .windowCommit f w => Sys2Proof.Machine.execWindowCommit f w s
  | .winRdWrite p f w data => Sys2Proof.Machine.execWinRdWrite p f w data s
  | .report p bytes => Sys2Proof.Machine.execReport p bytes s
  | .enrol p bytes => Sys2Proof.Machine.execEnrol p bytes s
  | .transfer p bytes => Sys2Proof.Machine.execTransfer p bytes s
  | .policy p bytes => Sys2Proof.Machine.execPolicy p bytes s
  | .fieldClear p bytes => Sys2Proof.Machine.execFieldClear p bytes s
  | .accessOpen p bytes => Sys2Proof.Machine.execAccessOpen p bytes s
  | .accessClose p bytes => Sys2Proof.Machine.execAccessClose p bytes s
  | .accessExpire => Sys2Proof.Machine.execAccessExpire s
  | .update p bytes => Sys2Proof.Machine.execUpdate p bytes s
  | .updateSlotWritten => Sys2Proof.Machine.execUpdateSlotWritten s
  | .calWrite p bytes => Sys2Proof.Machine.execCalWrite p bytes s
  | .restoreFactory p bytes => Sys2Proof.Machine.execRestoreFactory p bytes s
  | .decommission p bytes => Sys2Proof.Machine.execDecommission p bytes s
  | .bezEnable p => Sys2Proof.Machine.execBezEnable p s
  | .bezDisable p => Sys2Proof.Machine.execBezDisable p s
  | .bezRearm p ans => Sys2Proof.Machine.execBezRearm p ans s
  | .bezelPacket n req => Sys2Proof.Machine.execBezelPacket n req s
  | .bezelLinkLost n => Sys2Proof.Machine.execBezelLinkLost n s
  | .supEnFall => Sys2Proof.Machine.execSupEnFall s
  | .smbReadReg off => Sys2Proof.Machine.execSmbReadReg off s
  | .smbReadSup => Sys2Proof.Machine.execSmbReadSup s
  | .powerRemoved => Sys2Proof.Machine.execPowerRemoved s
  | .updateImageFetched img => Sys2Proof.Machine.execUpdateImageFetched img s

end Sys2Proof.Machine
end

