-- ==== Sys2Proof/Safety.lean ====
section
/-!
DEFINITION. What counts as a safe run, in the terms the statements use: steps that stop nowhere, and the invariant of the
state's tables and memories.
-/
namespace Sys2Proof.Machine

/-- A step that neither faults nor refuses. -/
def State.steps (s : State) : Prop := ∃ t, step s = .next t

/-- A memory is in its canonical form: addresses strictly rising, and no byte listed that an unlisted address reads as. -/
def Memory.wf (m : List Host.Cell) : Bool := Tab.wf 0 m

/-- Every memory and every table of the state is in canonical form. -/
def State.canonical (s : State) : Bool :=
  Memory.wf s.sram && Memory.wf s.hbm && Tab.wf {} s.hubs && Tab.wf {} s.colMaps && Tab.wf {} s.coxes && Tab.wf {} s.regions
  && Tab.wf {} s.cores && Tab.wf none s.lcidAt && Tab.wf {} s.crews && Tab.wf {} s.syncs && Tab.wf {} s.trees
  && Tab.wf {} s.admits && Tab.wf {} s.links && Tab.wf 0 s.offs && Tab.wf {} s.arbs && Tab.wf {} s.slices && Tab.wf {} s.stackTab && Tab.wf [] s.tallies
  && Tab.wf {} s.fports && Tab.wf {} s.bezels

/-- The sequencer of core k issues a word of function f: the core works, the word at its PC is fetched without an error, its
predicate lets it execute and nothing stalls it (R65, R66, R71 to R75). -/
def State.issues (s : State) (k : Nat) (f : CoreFn) : Bool :=
  s.coreActive k && (fetchWord s k).cause == 0 && decodeWord (s.word k) == some f && (s.core k).executes (s.word k)
  && !stalls (s.core k) f (s.word k)

/-- The row of a function of the core's instruction set (R75 to R97), for core k. -/
def coreRow (k : PCore) (ups : List (Nat × Nat × W32)) : CoreFn → Instr
  | .nop => .nop k
  | .halt => .halt k
  | .br => .br k
  | .brr => .brr k
  | .twait => .twait k
  | .pset => .pset k
  | .alu => .alu k
  | .movi => .movi k
  | .sld => .sld k
  | .sst => .sst k
  | .tdld => .tdld k
  | .tdst => .tdst k
  | .tdset => .tdset k
  | .srd => .srd k
  | .mma => .mma k ups
  | .mst => .mst k
  | .mld => .mld k
  | .mzero => .mzero k
  | .ew => .ew k
  | .cvt => .cvt k
  | .red => .red k
  | .trn => .trn k
  | .smx => .smx k
  | .warp => .warp k
  | .copy => .copy k
  | .rcopy => .rcopy k
  | .gather => .gather k
  | .scatter => .scatter k
  | .send => .send k
  | .recv => .recv k
  | .voidMark => .voidMark k
  | .route => .route k
  | .signal => .signal k
  | .wait => .wait k
  | .arm => .arm k
  | .barrier => .barrier k
  | .strokewait => .strokewait k

/-- Core k goes on at instruction n, with what its instruction writes. -/
def State.goesOn (s : State) (k n : Nat) (f : Core → Core) : State :=
  (s.updCore k (fun c => f { c with seq := c.seq + 1 })).updCore k (fun c => { c with pc := n })

end Sys2Proof.Machine
end

