-- ==== Sys2Proof/WellFormed.lean ====
section
/-!
DEFINITION. Which operands a command can have: what the panel's inputs allow, beyond the ranges that the operands' types
already give.
-/
namespace Sys2Proof

/-- A ratio is 0-95 (R316) and a crew 0-255 (R174). -/
def EventKind.wf : EventKind → Bool
  | .cap _ crew ratio => decide (crew < 256) && decide (ratio ≤ 95)
  | .freq crew _ => decide (crew < 256)
  | .crewStart crew => decide (crew < 256)
  | .window _ _ len => decide (1 ≤ len) && decide (len < 2 ^ 32)
  | .phase _ => true
  | .telemetry => true
  | .fetch => true
  | .replacement => true

/-- A lane group has 17 lanes (R205). -/
def groupLanes (l : List Nat) : Bool := l.all (fun n => decide (n ≤ 17))

/-- A base-layer bundle is numbered 0-4 (R21, R353). -/
def Finding.wf : Finding → Bool
  | .link _ _ b f0 f1 f2 f3 => decide (b.val < 5) && groupLanes [f0, f1, f2, f3]
  | .tap _ => true
  | .digestOnce _ => true
  | .digestTwice _ => true
  | .core _ => true
  | .router _ => true
  | .cox _ => true

/-- The frame header names four credit counts (R415). -/
def Frame.wf (fr : Frame) : Bool := decide (fr.hd.credits.length = 4)

/-- Column groups 0-38, HBM channels 0-47 and auxiliary rails 0-5 (R295, R311). -/
def Telemetry.wf (t : Telemetry) : Bool :=
  t.groups.all (fun x => decide (x.1 < 39)) && t.rails.all (fun x => decide (x.1 < 48)) && t.aux.all (fun x => decide (x.1 < 6))

/-- The payload of a packet is at most 512 bytes (R212). -/
def BezelReq.wf (r : BezelReq) : Bool := decide (r.payload.length ≤ 512)

/-- The commands that the panel's inputs can give. -/
def Instr.wf : Instr → Bool
  | .mma _ ups => ups.all (fun u => decide (u.1 < 64) && decide (u.2.1 < 64))
  | .eventPost _ ev _ => ev.wf
  | .linkFrameReceive _ _ noise => decide (noise.length ≤ 136)
  | .linkRetrainDone _ _ f0 f1 f2 f3 => groupLanes [f0, f1, f2, f3]
  | .telemetryMs t => t.wf
  | .auth _ inp => decide (inp.bezels.length ≤ 4)
  | .starttest _ res => res.all Finding.wf
  | .mesh _ training => decide (training.lanes.length ≤ 16)
  | .bar2Read _ _ len => decide (1 ≤ len) && decide (len ≤ 4096)
  | .bar2Write _ _ bytes => decide (1 ≤ bytes.length) && decide (bytes.length ≤ 512)
  | .bar2Atomic _ off _ size _ _ => (size == 4 || size == 8 || size == 16) && decide (off.toNat % size = 0)
  | .cmdRecordsReadDone _ recs => (recs.getD []).all (fun r => decide (r.length = 64))
  | .hello _ fr => fr.wf
  | .cert _ fr => fr.wf
  | .kemEk _ fr => fr.wf
  | .kemCt _ fr => fr.wf
  | .finish _ fr => fr.wf
  | .quit _ fr => fr.wf
  | .idle _ fr => fr.wf
  | .keyUpdate _ fr => fr.wf
  | .data _ fr => fr.wf
  | .scredit _ fr => fr.wf
  | .wcredit _ fr => fr.wf
  | .chreset _ fr => fr.wf
  | .publish _ fr => fr.wf
  | .bezelPacket _ req => req.wf
  | _ => true

end Sys2Proof
end

