-- ==== Sys2Proof/Certificates/Slice0/Obligations.lean ====
section
/-!
DEFINITION. The statements for the provers. Each says what commands of the panel do, or what no command can do, by the
rules named in its docstring.
-/
open Sys2Proof Sys2Proof.Machine

/-- The step. That an empty queue lets time pass is the model's choice (log entry 1). -/
def Obligations.StepRunsTheFrontCommand : Prop :=
  (∀ (c : Instr) (rest : List Instr) (s : State), s.pending = c :: rest → step s = exec c { s with pending := rest }) ∧
  (∀ s : State, s.pending = [] → step s = .next { s with now := s.now + 1 })

/-- The invariant of the state's tables and memories (log entry 7). -/
def Obligations.EveryStepKeepsTheCanonicalForm : Prop :=
  ∀ s t : State, s.canonical = true → step s = .next t → t.canonical = true

/-- R1, R355, R439: what no command changes. -/
def Obligations.NoCommandChangesPartOrFactoryList : Prop :=
  ∀ (c : Instr) (s t : State), s.canonical = true → exec c s = .next t →
    t.part = s.part ∧ t.defects.factory = s.defects.factory ∧ t.pending = s.pending ∧ s.sec.floor ≤ t.sec.floor ∧ s.now ≤ t.now

/-- Every command goes on. -/
def Obligations.EveryCommandGoesOn : Prop :=
  (∀ (c : Instr) (s : State), ∃ t, exec c s = .next t) ∧ (∀ s : State, s.steps)

/-- Reset. What memory reads as, and registers without a stated reset value, are the model's choice (log entries 3, 7). -/
def Obligations.ResetIsAsStated : Prop :=
  let s := State.reset
  s.canonical = true ∧ s.pending = [] ∧ s.net = [] ∧ s.sram = [] ∧ s.hbm = [] ∧ s.out = [] ∧
  s.supply.stageA = false ∧ s.supply.booted = false ∧ s.bring.done = 0 ∧ s.bring.running = 0 ∧ s.bring.failed = false ∧ s.bring.ready = [] ∧
  s.stroke.count = 0 ∧ s.stroke.base = 0 ∧ s.stroke.running = false ∧ s.stroke.dflt = 10000 ∧
  s.sec.owned = false ∧ s.sec.floor = 0 ∧ s.sec.session = none ∧ s.defects.field = [] ∧
  (∀ p, (s.hub p).live = false) ∧
  (∀ k i, (s.core k).sreg i = 0 ∧ (s.core k).treg i = 0 ∧ (s.core k).ticket i = 0 ∧ (s.core k).pred 0 = true ∧ ((s.core k).mode = .idle)) ∧
  (∀ k i, 0 < i → (s.core k).pred i = false) ∧
  (∀ o, (s.sync o).target = 0 ∧ (s.sync o).counter = 0 ∧ (s.sync o).released = false ∧ (s.sync o).faulted = false)

/-- R36, R38, R44: the rise and the end of a stroke pulse, and the end of a window without one. -/
def Obligations.StrokeEdgesAreQualifiedAndCounted : Prop :=
  (∀ (h : HubId) (low : Nat) (s : State), (s.hub h).live = true → (s.stroke.qualifying || s.stroke.running) = true →
    Tab.get none s.stroke.quals h = none → 200 ≤ low →
    exec (.strokeEdge h low) s = .next (s.updStroke (fun k => { k with quals := Tab.put none k.quals h (some s.now) }))) ∧
  (∀ (h : HubId) (low : Nat) (s : State), (s.hub h).live = true → (s.stroke.qualifying || s.stroke.running) = true → low < 200 →
    exec (.strokeEdge h low) s = .next ((setStrokeRc s 21).updStroke (fun k => { k with quals := Tab.put none k.quals h none }))) ∧
  (∀ (h : HubId) (high t : Nat) (s : State), Tab.get none s.stroke.quals h = some t → high < 200 →
    exec (.strokeQualified h high) s =
      .next (setStrokeRc (s.updStroke (fun k => { k with quals := Tab.put none k.quals h none })) 21)) ∧
  (∀ (h : HubId) (high t e : Nat) (s : State), Tab.get none s.stroke.quals h = some t → 200 ≤ high → t + 200 ≤ s.now →
    s.masterHub = h → (∀ u, h.val = 2 → s.stroke.judged = some u → u + 400 ≤ t) → s.stroke.free = false → s.stroke.running = true →
    s.stroke.lastAt = some e → s.stroke.established = true →
    e + meanOf s.stroke.intervals - meanOf s.stroke.intervals / 8 ≤ t → t ≤ s.stroke.windowEnd →
    exec (.strokeQualified h high) s = .next (countStroke (s.updStroke (fun k => { k with
      quals := Tab.put none k.quals h none, judged := some t, beside := k.beside.filter (fun u => decide (t + 400 ≤ u))
      intervals := last16 (k.intervals ++ [t - e]) })) t)) ∧
  (∀ (h : HubId) (high t e : Nat) (s : State), Tab.get none s.stroke.quals h = some t → 200 ≤ high → t + 200 ≤ s.now →
    s.masterHub = h → (∀ u, h.val = 2 → s.stroke.judged = some u → u + 400 ≤ t) → s.stroke.free = false →
    s.stroke.lastAt = some e → s.stroke.established = true →
    t < e + meanOf s.stroke.intervals - meanOf s.stroke.intervals / 8 → t ≤ s.stroke.windowEnd →
    exec (.strokeQualified h high) s =
      .next (setStrokeRc (s.updStroke (fun k => { k with
        quals := Tab.put none k.quals h none, judged := some t, beside := k.beside.filter (fun u => decide (t + 400 ≤ u)) })) 22)) ∧
  (∀ (h : HubId) (high t : Nat) (s : State), Tab.get none s.stroke.quals h = some t → 200 ≤ high → t + 200 ≤ s.now →
    h.val = 2 → s.masterHub = 0 → (∀ u, s.stroke.judged = some u → u + 400 ≤ t) →
    exec (.strokeQualified h high) s =
      .next (s.updStroke (fun k => { k with quals := Tab.put none k.quals h none, beside := k.beside ++ [t] }))) ∧
  (∀ (t : Nat) (s : State), (countStroke s t).stroke.count = s.stroke.count + 1 ∧ (countStroke s t).stroke.standby = s.stroke.count + 1 ∧
    (countStroke s t).stroke.lastAt = some t ∧ (countStroke s t).out = s.out ++ [.marker ((s.stroke.count + 1) % 65536)] ∧
    (Tab.wf 0 s.stroke.ringLast = true → ∀ q, q < 4 → Tab.get 0 (countStroke s t).stroke.ringLast q = if (s.hub q).live then s.stroke.count + 1 else Tab.get 0 s.stroke.ringLast q)) ∧
  (∀ s : State, s.counts = true → s.stroke.free = false → s.stroke.windowEnd ≤ s.now → s.edgeOpen s.stroke.windowEnd = false →
    ∃ t, exec .strokeWindowEnd s = .next t ∧ t = missStroke s ∧
      t.stroke = { (countStroke s s.stroke.windowEnd).stroke with
        free := true, slew := false, handover := false, entries := sat 16 (s.stroke.entries + 1)
        interval := if s.stroke.established then meanOf s.stroke.intervals else s.stroke.dflt * 10
        nextAt := s.stroke.windowEnd + (if s.stroke.established then meanOf s.stroke.intervals else s.stroke.dflt * 10)
        lastExt := none, extIvls := [] } ∧
      Out.marker ((s.stroke.count + 1) % 65536) ∈ t.out)

/-- R40 to R43: strokes under free stroke. -/
def Obligations.FreeStrokeCountsAndSlews : Prop :=
  (∀ s : State, s.counts = true → s.stroke.free = true → s.stroke.handover = false → s.stroke.nextAt ≤ s.now →
    exec .synthesisedStroke s = .next ((countStroke s s.stroke.nextAt).updStroke planStroke)) ∧
  (∀ s : State, s.counts = true → s.stroke.free = true → s.stroke.slew = true → s.stroke.edgeDue ≤ s.now →
    s.edgeOpen s.stroke.edgeDue = false → s.stroke.handoverNext = true →
    exec .handoverSpanEnd s = .next ((setStrokeRc ((countStroke s s.stroke.edgeDue).updStroke
      (fun k => { k with slew := false, handover := false, lastExt := none, extIvls := [] })) 23).updStroke planStroke)) ∧
  (∀ s : State, s.counts = true → s.stroke.free = true → s.stroke.slew = true → s.stroke.edgeDue ≤ s.now →
    s.edgeOpen s.stroke.edgeDue = false → s.stroke.handoverNext = false →
    exec .handoverSpanEnd s =
      .next (setStrokeRc (s.updStroke (fun k => { k with slew := false, handover := false, lastExt := none, extIvls := [] })) 23))

/-- R44, R46, R50: the cox side of the stroke. -/
def Obligations.CoxesFollowTheStroke : Prop :=
  (∀ (site : SiteId) (ring : Fin 4) (cnt : W16) (s : State), (s.cox site).live = true → (s.hub ring).live = true →
    cnt.toNat = ((s.cox site).count + 1) % 65536 → (s.cox site).count + 1 ≤ Tab.get 0 s.stroke.ringLast ring →
    exec (.strokeMarker site ring cnt) s =
      .next (pruneEvents (s.updCox site (fun x => { x with count := (s.cox site).count + 1 })) site)) ∧
  (∀ (site : SiteId) (ring : Fin 4) (cnt : W16) (s : State), cnt.toNat = (s.cox site).count % 65536 →
    exec (.strokeMarker site ring cnt) s = .next s) ∧
  (∀ (site : SiteId) (ring : Fin 4) (cnt : W16) (n : Nat) (s : State), (s.cox site).live = true → (s.hub ring).live = true →
    cnt.toNat = n % 65536 → (s.cox site).count + 1 < n → n < (s.cox site).count + 65536 → n ≤ Tab.get 0 s.stroke.ringLast ring →
    exec (.strokeMarker site ring cnt) s =
      .next (let s1 := pruneEvents (s.updCox site (fun x => { x with count := n })) site
        coxRecord s1 site (siteRec s1 site 0x0F 0 0 0))) ∧
  (∀ (site : SiteId) (ring : Fin 4) (cnt : W16) (n : Nat) (s : State),
    cnt.toNat = n % 65536 → (s.cox site).count < n → n < (s.cox site).count + 65536 → Tab.get 0 s.stroke.ringLast ring < n →
    exec (.strokeMarker site ring cnt) s = .next s) ∧
  (∀ (site : SiteId) (s : State) (e : PendEvent) (rest : List PendEvent), (s.cox site).transit = e :: rest →
    (∀ c op, e.ev ≠ .freq c op) → (s.cox site).count < e.stroke →
    exec (.coxEventReceive site) s = .next (s.updCox site (fun c => { c with transit := rest, events := c.events ++ [e] }))) ∧
  (∀ (site : SiteId) (s : State) (e : PendEvent) (rest : List PendEvent), (s.cox site).transit = e :: rest →
    (∀ c op, e.ev ≠ .freq c op) → e.stroke ≤ (s.cox site).count →
    exec (.coxEventReceive site) s = .next (s.updCox site (fun c => { c with
      transit := rest, events := c.events ++ [{ e with stroke := (s.cox site).count + 1, late := true }] }))) ∧
  (∀ (site : SiteId) (s : State) (e : PendEvent) (rest : List PendEvent) (c : Nat) (op : Fin 8), (s.cox site).transit = e :: rest →
    e.ev = .freq c op → (s.cox site).count < e.stroke →
    exec (.coxEventReceive site) s = .next
      (let s1 := s.updCox site (fun x => { x with transit := rest, events := x.events ++ [e] })
       s1.each ((s1.crewRegions e.part c).filter (fun r => r / 4 == site.val)) (fun s' r =>
        raiseRail s' r op.val)))

/-- R48, R49, R52: posting an event. -/
def Obligations.EventsArePostedEverywhereOrNowhere : Prop :=
  (∀ (p : PartId) (ev : EventKind) (n : W48) (s : State), (s.layoutOf p).isSome = true → s.partStopped p = false → s.stroke.running = true →
    s.leadOk n.toNat = true → s.scopeFull p ev = false →
    exec (.eventPost p ev n) s = .next (((s.each (s.scopeSites p ev) (fun s' site => s'.updCox site (fun c => { c with
      transit := c.transit ++ [{ part := p, stroke := n.toNat, ev := ev, posted := s.postNo }] }))).setPostNo (s.postNo + 1)).setPosted .ok)) ∧
  (∀ (p : PartId) (ev : EventKind) (n : W48) (s : State), (s.layoutOf p).isSome = true → s.partStopped p = false → s.stroke.running = true →
    s.leadOk n.toNat = false → exec (.eventPost p ev n) s = .next (s.setPosted .stale)) ∧
  (∀ (p : PartId) (ev : EventKind) (n : W48) (s : State), (s.layoutOf p).isSome = true → s.partStopped p = false → s.stroke.running = true →
    s.leadOk n.toNat = true → s.scopeFull p ev = true → exec (.eventPost p ev n) s = .next (s.setPosted .full))

/-- R51, R54, R55, R58: the clock of a region. -/
def Obligations.RegionClockEventsComplete : Prop :=
  (∀ (r : PRegion) (mean : W16) (s : State), (s.region r).clock = .running → (s.region r).fenced = false →
    (s.region r).count < (s.cox (r.val / 4)).count →
    exec (.regionStrokeBoundary r mean) s = .next (pruneEvents
      (let s2 := admitWindows (s.updRegion r (fun x => { x with count := (s.cox (r.val / 4)).count, acted := (s.cox (r.val / 4)).count, stkMean := mean.toNat })) r (s.cox (r.val / 4)).count
       match s.partOfSite (r.val / 4) with
        | some p => if s.partStopped p then s2 else partBoundary s2 r p (s.region r).acted (s.cox (r.val / 4)).count
        | none => s2) (r.val / 4))) ∧
  (∀ (r : PRegion) (s : State) (op : Nat) (next : Option Nat), (s.region r).clock = .stopped → (s.region r).fenced = false →
    (s.region r).chg = some op → (s.region r).chgNext = next →
    exec (.freqChangeResume r) s = .next (
      let s1 := s.updRegion r (fun x => { x with
        clock := .running, count := (s.cox (r.val / 4)).count, op := op
        vset := if x.vset = 0 then 0 else max (vsetOf op) (s.railDue r), chg := none, chgNext := none })
      let s2 := s1.each ((regionCores r).filter (fun k => (s1.core k).mode == .running)) (fun s k => catchAt s k none)
      resumeTrees (setRatio (match next, (s.region r).assign with
        | some q, _ => changeNow s2 r q
        | none, some a => startChange s2 r a.part a (pointAfter s2 a.part r a (s2.fallsOn r a.part (s.region r).acted (s.cox (r.val / 4)).count)).2
        | none, none => s2) r) r)) ∧
  (∀ (r : PRegion) (s : State), (s.region r).clock = .running ∨ (s.region r).clock = .stopped →
    exec (.refLost r) s = .next ((setStrokeRc (fenceRegion s r 0) 19).updRegion r (fun x => { x with clock := .lost, chg := none }))) ∧
  (∀ (r : PRegion) (s : State), (s.region r).clock = .running →
    exec (.droopDetect r) s = .next (s.updRegion r (fun x => { x with droop := .stretched }))) ∧
  (∀ (r : PRegion) (s : State),
    exec (.droopClear r) s = .next (s.updRegion r (fun x => { x with droop := if x.droop = .stretched then .recovering else .none })))

/-- R75 to R77: the sequencer class. -/
def Obligations.SequencerInstructionsTakeEffect : Prop :=
  ∀ (k : PCore) (s : State), s.canonical = true →
    let w := s.word k
    let s1 := (fetchWord s k).s
    let next := (s1.core k).pc + 1
    (s.issues k .nop = true → next < (s1.core k).length → exec (.nop k) s = .next (s1.goesOn k next id)) ∧
    (s.issues k .halt = true →
      exec (.halt k) s = .next (s1.updCore k (fun c => { c with mode := .halted, pc := c.pc + 1, seq := c.seq + 1 }))) ∧
    (s.issues k .br = true → 0 ≤ ((s1.core k).pc : Int) + signed 20 (wbits w 19 0) → ((s1.core k).pc : Int) + signed 20 (wbits w 19 0) < (s1.core k).length →
      exec (.br k) s = .next (s1.goesOn k (((s1.core k).pc : Int) + signed 20 (wbits w 19 0)).toNat id)) ∧
    (s.issues k .brr = true → ((s1.core k).sreg (wbits w 44 40)).toNat % 2 ^ 18 < (s1.core k).length →
      exec (.brr k) s = .next (s1.goesOn k (((s1.core k).sreg (wbits w 44 40)).toNat % 2 ^ 18) id)) ∧
    (s.issues k .twait = true → next < (s1.core k).length → exec (.twait k) s = .next (s1.goesOn k next id)) ∧
    (s.issues k .pset = true → next < (s1.core k).length → exec (.pset k) s = .next (s1.goesOn k next (fun c => c.setPred (wbits w 44 42)
      (condValue (wbits w 31 29) (c.sreg (wbits w 41 37)) (if wbits w 28 28 = 1 then sext 16 (wbits w 15 0) else c.sreg (wbits w 36 32))
        (wbits w 15 0) (descOf (c.treg (wbits w 40 37))).void)))) ∧
    (s.issues k .alu = true → next < (s1.core k).length → exec (.alu k) s = .next (s1.goesOn k next (fun c => c.setSreg (wbits w 44 40)
      (aluValue (wbits w 29 26) (c.sreg (wbits w 39 35)) (if wbits w 25 25 = 1 then sext 24 (wbits w 23 0) else c.sreg (wbits w 34 30)))))) ∧
    (s.issues k .movi = true → next < (s1.core k).length → exec (.movi k) s = .next (s1.goesOn k next (fun c => c.setSreg (wbits w 44 40)
      (moviValue (c.sreg (wbits w 44 40)) (wbits w 39 38) (wbits w 37 37 == 1) (wbits w 15 0))))) ∧
    (s.issues k .tdset = true → next < (s1.core k).length → exec (.tdset k) s = .next (s1.goesOn k next (fun c => c.setTreg (wbits w 44 41)
      (tdsetValue (c.treg (wbits w 44 41)) (wbits w 34 31) (wbits w 30 30 == 1) (c.sreg (wbits w 39 35)))))) ∧
    (s.issues k .srd = true → next < (s1.core k).length → wbits w 15 0 ≠ 7 →
      exec (.srd k) s = .next (s1.goesOn k next (fun c => c.setSreg (wbits w 44 40) (srdValue s1 k (wbits w 15 0))))) ∧
    (s.issues k .srd = true → next < (s1.core k).length → wbits w 15 0 = 7 →
      exec (.srd k) s = .next (s1.draw.goesOn k next (fun c => c.setSreg (wbits w 44 40) (Config.regionCycles s1.fv)))) ∧
    (∀ a, a = ((s1.core k).sreg (wbits w 39 35) + BitVec.ofNat 64 (wbits w 20 0)).toNat →
      (s.issues k .sld = true → a + 8 ≤ sramSize → a % 8 = 0 → (unitReads s1 k [(a, 8)]).cause = 0 →
        ((unitReads s1 k [(a, 8)]).s.core k).pc + 1 < ((unitReads s1 k [(a, 8)]).s.core k).length →
        exec (.sld k) s = .next ((unitReads s1 k [(a, 8)]).s.goesOn k (((unitReads s1 k [(a, 8)]).s.core k).pc + 1) (fun c =>
          c.setSreg (wbits w 44 40) (BitVec.ofNat 64 (natLE (s1.sramBytes k a 8)))))) ∧
      (s.issues k .tdld = true → a + 32 ≤ sramSize → a % 32 = 0 → (unitReads s1 k [(a, 32)]).cause = 0 →
        ((unitReads s1 k [(a, 32)]).s.core k).pc + 1 < ((unitReads s1 k [(a, 32)]).s.core k).length →
        exec (.tdld k) s = .next ((unitReads s1 k [(a, 32)]).s.goesOn k (((unitReads s1 k [(a, 32)]).s.core k).pc + 1) (fun c =>
          c.setTreg (wbits w 44 41) (BitVec.ofNat 256 (natLE (s1.sramBytes k a 32)))))) ∧
      (∀ r, r = unitWrite s1 k a (bytesLE 8 ((s1.core k).sreg (wbits w 44 40)).toNat) →
        s.issues k .sst = true → a + 8 ≤ sramSize → a % 8 = 0 → r.cause = 0 → (r.s.core k).pc + 1 < (r.s.core k).length →
        exec (.sst k) s = .next (r.s.goesOn k ((r.s.core k).pc + 1) id)) ∧
      (∀ r, r = unitWrite s1 k a (bytesLE 32 ((s1.core k).treg (wbits w 44 41)).toNat) →
        s.issues k .tdst = true → a + 32 ≤ sramSize → a % 32 = 0 → r.cause = 0 → (r.s.core k).pc + 1 < (r.s.core k).length →
        exec (.tdst k) s = .next (r.s.goesOn k ((r.s.core k).pc + 1) id)))

/-- R62, R66, R71, R73, R74: issue to a unit, and what a word does that does not execute. -/
def Obligations.UnitInstructionsAreIssued : Prop :=
  (∀ (k : PCore) (ups : List (Nat × Nat × W32)) (f : CoreFn) (s : State),
    f ∈ [CoreFn.mma, .mst, .mld, .mzero, .ew, .cvt, .red, .trn, .smx, .warp, .copy, .rcopy, .gather, .scatter, .send, .recv, .voidMark,
      .route, .signal, .wait, .arm, .barrier] → s.issues k f = true →
    let s1 := (fetchWord s k).s
    let o := { opOf (s1.core k) f (s1.word k) with upset := if f = .mma then ups else [] }
    (issueCause s1 k f o = 0 →
      exec (coreRow k ups f) s = .next (goNext (advance ((s1.updCore k (fun c => { c with
          seq := c.seq + 1, tpend := if f = .recv then NSet.add c.tpend (wbits o.w 44 41) else c.tpend })).updCore k (fun c =>
            (c.setQueue (unitOfClass (wCls o.w)) (c.queue (unitOfClass (wCls o.w)) ++ [o])).ticketUp o.w)) k) k)) ∧
    (issueCause s1 k f o ≠ 0 → exec (coreRow k ups f) s = .next (issueFault s1 k (issueCause s1 k f o) 0))) ∧
  (∀ (k : PCore) (ups : List (Nat × Nat × W32)) (f : CoreFn) (s : State), s.coreActive k = true → (fetchWord s k).cause = 0 →
    decodeWord (s.word k) = some f → (s.core k).executes (s.word k) = false →
    exec (coreRow k ups f) s = .next (goNext ((fetchWord s k).s.updCore k (fun c => { c with seq := c.seq + 1 })) k)) ∧
  (∀ (k : PCore) (ups : List (Nat × Nat × W32)) (f : CoreFn) (s : State), s.coreActive k = true → (fetchWord s k).cause = 0 →
    decodeWord (s.word k) = none →
    exec (coreRow k ups f) s = .next (issueFault (fetchWord s k).s k 0x01 0)) ∧
  (∀ (k : PCore) (ups : List (Nat × Nat × W32)) (f : CoreFn) (s : State), s.coreActive k = true → (fetchWord s k).cause ≠ 0 →
    exec (coreRow k ups f) s = .next (coreFault (fetchWord s k).s k (fetchWord s k).cause 0 false 0 (s.core k).pc (fetchWord s k).addr))

/-- R84, R96, R149, R245: the start of an instruction in its unit. -/
def Obligations.UnitsStartInstructions : Prop :=
  (∀ (k : Nat) (u : CoreUnit) (s : State) (op : Op) (rest : List Op), (s.core k).queue u = op :: rest →
    let s1 := (s.updCore k (fun c => c.setQueue u rest)).updCore k (fun c => c.setRuns u (c.runs u ++ [{ op := op }]))
    let r := startOp s1 k op
    let t := if r.cause = 0 then r.s else unitFault r.s k u op r.cause r.addr
    (u ≠ .mv ∨ (s.core k).partner = false → startHead s k u op = t) ∧
    (u = .mv → (s.core k).partner = true → startHead s k u op = takeGift (takeGift t k op.seq) k op.seq)) ∧
  (∀ (k : Nat) (s : State) (op : Op), coreFn (wCls op.w) (wFn op.w) = some .mzero →
    startOp s k op = { s := s.setBank k (wbits op.w 44 43) { int := wbits op.w 42 42 == 1, elems := [] } }) ∧
  (∀ (k : Nat) (s : State) (op : Op) (f : CoreFn), f ∈ [CoreFn.ew, .cvt, .red, .trn, .smx, .warp] → coreFn (wCls op.w) (wFn op.w) = some f →
    (descOf op.td).void = true ∨ (descOf op.ta).void = true → startOp s k op = { s := s }) ∧
  (∀ (k : Nat) (s : State) (op : Op), coreFn (wCls op.w) (wFn op.w) = some .mma → (descOf op.ta).void = true ∨ (descOf op.tb).void = true →
    (startOp s k op).cause = 0 ∧ (startOp s k op).s =
      (if wbits op.w 34 34 = 1 then s else s.setBank k (wbits op.w 44 43) { int := !(descOf op.ta).isFloat, elems := [] })) ∧
  (∀ (k : Nat) (s : State) (op : Op) (f : CoreFn) (kind value : Nat) (home : Node),
    (f, kind, value) ∈ [(CoreFn.signal, 0, wbits op.w 15 0), (.wait, 1, 0), (.arm, 2, op.vb.toNat % 2 ^ 32), (.barrier, 3, 1)] →
    coreFn (wCls op.w) (wFn op.w) = some f → s.canonical = true → (s.core k).paired = false → (s.core k).partner = false →
    s.objNode op.obj = some home →
    (startOp s k op).cause = 0 ∧ (startOp s k op).s =
      request (s.setSyRun k op.seq (fun r => if kind = 0 then { r with done := true } else { r with key := op.obj, barrier := kind == 3 })) k
        (syncPacket 0 (s.partOfCore k) 0 op.obj kind value (s.lcidSeen k) (s.nodeOf k) home) { tag := 0, seq := op.seq, kind := .sync })

/-- R66, R97, R105, R137. -/
def Obligations.CoreEventsComplete : Prop :=
  (∀ (k : PCore) (s : State), s.canonical = true → s.issues k .strokewait = true →
    let s1 := (fetchWord s k).s
    let w := s1.word k
    let count := (s1.region (coreRegion k)).count
    let target := if wbits w 39 39 = 1 then count + wbits w 31 0 else ((s1.core k).sreg (wbits w 44 40)).toNat % 2 ^ 48
    (target ≤ count → (s1.core k).pc + 1 < (s1.core k).length → exec (.strokewait k) s = .next (s1.goesOn k ((s1.core k).pc + 1) id)) ∧
    (count < target → exec (.strokewait k) s = .next (goNext (enqueueOp (s1.updCore k (fun c => { c with seq := c.seq + 1 })) k
      { opOf (s1.core k) .strokewait w with va := BitVec.ofNat 64 target }) k))) ∧
  (∀ (k : PCore) (u : CoreUnit) (i : Nat) (r : Run) (s : State), s.routerRuns k = true → ((s.core k).runs u)[i]? = some r →
    u = .me ∨ u = .ve ∨ (u = .mv ∧ r.alone = true ∧ r.done = true) →
    exec (.instrComplete k u i) s = .next (advance (retireOne s k u r.op.seq false) k)) ∧
  (∀ (k : PCore) (j t : Nat) (s : State), s.pairOf k = some j → (s.core k).partner = false →
    let sent := fun (c : Core) => c.submitted.map (·.2) <|> c.noteSub.map (·.2.2)
    (sent (s.core k) = some t ∧ sent (s.core j) = none) ∨ (sent (s.core j) = some t ∧ sent (s.core k) = none) →
    t + 100000 ≤ s.now →
    exec (.pairSubmissionTimeout k) s = .next (pairMismatch s k j)) ∧
  (∀ (p : PortId) (l : Lcid) (data : W32) (k : Nat) (s : State), s.hostUp p = true → s.bring.recovery = false → s.reachCore p l = some k →
    (s.core k).partner = false → data.toNat.testBit 0 = true →
    exec (.haltReq p l data) s = .next (coreFault s k 0x15 0 false 0 (s.core k).pc 0))

/-- R214 to R216, R221, R243: responses at a core. -/
def Obligations.ResponsesAnswerTheirRequests : Prop :=
  ∀ (i : Nat) (p : Packet) (x y k : Nat) (s : State), p.loc = .router x y → s.coreHere p = some k → p.tag < agentTag → s.ejects k = true →
    (∀ q, s.arrived i [2] [0] = some p → (s.core k).findReq p.tag = some q → q.kind ≠ .stage →
      let r := readLands (takeReq (s.takePacket i) k p.tag) k p
      ((s.core k).fault.valid = false → r.cause = 0 → exec (.rdata i) s = .next (advancePair (settle r.s k q.seq) k)) ∧
      ((s.core k).fault.valid = false → r.cause ≠ 0 →
        exec (.rdata i) s = .next (advancePair (failReq r.s k { q with addr := r.addr } r.cause) k)) ∧
      ((s.core k).fault.valid = true → exec (.rdata i) s = .next (settle r.s k q.seq))) ∧
    (∀ q, s.arrived i [2] [0] = some p → (s.core k).findReq p.tag = some q → q.kind = .stage →
      exec (.rdata i) s = .next (advancePair (stageDone (settle ((takeReq (s.takePacket i) k p.tag).setRun k q.seq (fun r => { r with
        got := r.got ++ [(q.off, p.readBytes)] })) k q.seq) k q.seq) k)) ∧
    (∀ q, s.arrived i [2] [1] = some p → (s.core k).findReq p.tag = some q →
      let s1 := takeReq (s.takePacket i) k p.tag
      (p.aux % 16 = 0 → q.kind = .sync → exec (.ack i) s = .next (advancePair (finish s1 k .sy q.seq false) k)) ∧
      (p.aux % 16 = 0 → q.kind = .write ∨ q.kind = .note ∨ q.kind = .message → exec (.ack i) s = .next (advancePair (settle s1 k q.seq) k)) ∧
      (p.aux % 16 ≠ 0 → p.aux % 16 ≠ 3 →
        exec (.ack i) s = .next (advancePair (failReq s1 k q (if p.aux % 16 = 2 then 0x0C else 0x0A)) k))) ∧
    (∀ q, s.arrived i [2] [5] = some p → (s.core k).findReq p.tag = some q →
      exec (.adata i) s = .next (advancePair (answerReq (takeReq (s.takePacket i) k p.tag) k q (p.aux % 16)) k)) ∧
    (∀ q t c, s.arrived i [2] [3] = some p → (s.core k).findReq p.tag = some q → q.kind = .asksGrant t c → p.aux % 4 = 0 → (s.core k).fault.valid = false →
      exec (.grant i) s = .next (advancePair (routeAll (routeGranted (takeReq (s.takePacket i) k p.tag) k q.seq t c q.off
        (natLE (p.payload.take 2)) (natLE (slice p.payload 2 1)) (natLE (slice p.payload 3 2))) k q.seq) k)) ∧
    (∀ q t c, s.arrived i [2] [3] = some p → (s.core k).findReq p.tag = some q → q.kind = .asksGrant t c → p.aux % 4 ≠ 0 → (s.core k).fault.valid = false →
      exec (.grant i) s = .next (advancePair (routeAll (routeRefused (takeReq (s.takePacket i) k p.tag) k q.seq t q.off) k q.seq) k)) ∧
    (∀ q t c, s.arrived i [2] [3] = some p → (s.core k).findReq p.tag = some q → q.kind = .asksGrant t c → p.aux % 4 ≠ 0 → (s.core k).fault.valid = true →
      exec (.grant i) s = .next (takeReq (s.takePacket i) k p.tag)) ∧
    (s.arrived i [2] [2] = some p → p.aux % 16 = 0 →
      let runs := (s.core k).freedFirst p.addr
      exec (.release i) s = .next (advancePair (runs.foldl (fun s' r =>
          (k :: (if (s.core k).paired then (s.pairOf k).toList else [])).foldl (fun s'' j => releaseRun s'' j r.op.seq r.heldAtHome) s')
        ((s.takePacket i).updCore k (fun c => { c with reqs := c.reqs.filter (fun q => !(runs.any (fun r => r.op.seq == q.seq))) }))) k)) ∧
    (s.arrived i [2] [4] = some p → (s.core k).fault.valid = false →
      exec (.credit i) s = .next (advancePair ((k :: (if (s.core k).paired then (s.pairOf k).toList else [])).foldl (fun s' j =>
        pumpStream (s'.updCore j (fun c => { c with credits := Tab.upd 0 c.credits (p.addr % 4096) (· + 1) })) j (p.addr % 4096)) (s.takePacket i)) k))

/-- R93, R102, R221. -/
def Obligations.MessagesArriveAndRequestsTimeOut : Prop :=
  (∀ (i : Nat) (p : Packet) (k : Nat) (s : State), s.arrived i [0, 1] [6] = some p → s.coreHere p = some k → s.ejects k = true →
    let s1 := (s.takePacket i).send (p.ack (if (s.core k).lcid = none ∨ (s.region (coreRegion k)).assign = none then 1 else 0))
    ((s.core k).fault.valid = true → exec (.msgReceive i) s = .next s1) ∧
    (∀ r, (s.core k).fault.valid = false → (s.core k).postedRecv (p.addr % 4096) = some r →
      ((p.ctrl && p.aux.testBit 7) = true → exec (.msgReceive i) s = .next (advancePair (deliverMessage s1 k r true []) k)) ∧
      ((p.ctrl && p.aux.testBit 7) = false → p.aux.testBit 6 = true →
        exec (.msgReceive i) s = .next (advancePair
          (deliverMessage (s1.setRun k r.op.seq (fun r => { r with bytes := [] })) k r false (r.bytes ++ p.msgBytes)) k)) ∧
      ((p.ctrl && p.aux.testBit 7) = false → p.aux.testBit 6 = false →
        exec (.msgReceive i) s = .next (s1.setRun k r.op.seq (fun x => { x with bytes := r.bytes ++ p.msgBytes }))))) ∧
  (∀ (k : PCore) (tag : W16) (q : Req) (s : State), (s.core k).findReq tag.toNat = some q → (s.core k).waitReq q = false →
    q.born + 10000000 ≤ s.now →
    let s1 := takeReq (s.updFab (s.partOfCore k) (fun f => { f with timeout := sat 32 (f.timeout + 1) })) k tag.toNat
    ((s.core k).fault.valid = false → exec (.responseTimeout k tag) s =
      .next (advancePair (failReq s1 k q (if 1 ≤ q.win ∧ q.win ≤ 1536 then 0x0C else 0x0A)) k)) ∧
    ((s.core k).fault.valid = true → exec (.responseTimeout k tag) s = .next (settle s1 k q.seq)))

/-- R104, R135, R267, R268, R458: requests at a router for SRAM and for control words. -/
def Obligations.InboundRequestsAreServed : Prop :=
  ∀ (i : Nat) (p : Packet) (s : State), s.atTarget p = true →
    (∀ l off, targetOf p.addr = .sram l off →
      (s.arrived i [0, 1] [0] = some p →
        (∀ k, s.servedCore l = some k → off + p.readLen ≤ sramSize → s.sramBad k off p.readLen = false →
          exec (.inboundRd i) s = .next ((sramTouch (s.takePacket i) k off p.readLen).send (p.rdata p.readOff (s.sramBytes k off p.readLen)))) ∧
        (∀ k, s.servedCore l = some k → off + p.readLen ≤ sramSize → s.sramBad k off p.readLen = true →
          exec (.inboundRd i) s = .next ((sramTouch (s.takePacket i) k off p.readLen).send (p.ack 2))) ∧
        (s.servedCore l = none → exec (.inboundRd i) s = .next ((s.takePacket i).send (p.ack 1)))) ∧
      (∀ k, s.servedCore l = some k → (s.core k).inProgram off p.writeBytes.length = false → off + p.writeBytes.length ≤ sramSize →
        (s.core k).paired = false →
        let w := inboundWrite (s.takePacket i) k off p.writeBytes
        (s.arrived i [0, 1] [1] = some p → exec (.inboundWr i) s = .next (w.1.send (p.ack (if w.2 then 2 else 0)))) ∧
        (s.arrived i [0, 1] [2] = some p → exec (.inboundWrs i) s = .next (w.1.send (p.ack (if w.2 then 2 else 0))))) ∧
      (∀ k j, s.servedCore l = some k → (s.core k).inProgram off p.writeBytes.length = false → off + p.writeBytes.length ≤ sramSize →
        (s.core k).paired = true → s.pairOf k = some j →
        let w := inboundWrite (s.takePacket i) k off p.writeBytes
        (s.arrived i [0, 1] [1] = some p →
          exec (.inboundWr i) s = .next ((inboundWrite w.1 j off p.writeBytes).1.send (p.ack (if w.2 then 2 else 0)))) ∧
        (s.arrived i [0, 1] [2] = some p →
          exec (.inboundWrs i) s = .next ((inboundWrite w.1 j off p.writeBytes).1.send (p.ack (if w.2 then 2 else 0))))) ∧
      (s.servedCore l = none ∨ (∃ k, s.servedCore l = some k ∧ (s.core k).inProgram off p.writeBytes.length = true) →
        (s.arrived i [0, 1] [1] = some p → exec (.inboundWr i) s = .next ((s.takePacket i).send (p.ack 1))) ∧
        (s.arrived i [0, 1] [2] = some p → exec (.inboundWrs i) s = .next ((s.takePacket i).send (p.ack 1))))) ∧
    (∀ v, (∀ l off, targetOf p.addr ≠ .sram l off) → s.arrived i [0, 1] [0] = some p → (s.takePacket i).controlWord p.addr = some v → p.readLen = 4 → p.addr % 4 = 0 →
      exec (.inboundRd i) s = .next ((s.takePacket i).send (p.rdata p.readOff (bytesLE 4 v)))) ∧
    (∀ t, (∀ l off, targetOf p.addr ≠ .sram l off) → p.writeBytes.length = 4 → p.addr % 4 = 0 →
      writeControl (s.takePacket i) p.addr (natLE p.writeBytes) = some t →
      (s.arrived i [0, 1] [1] = some p → exec (.inboundWr i) s = .next (t.send (p.ack 0))) ∧
      (s.arrived i [0, 1] [2] = some p → exec (.inboundWrs i) s = .next (t.send (p.ack 0))))

/-- R242 to R248: the home agent. -/
def Obligations.SyncObjectsCountAndRelease : Prop :=
  (∀ (i : Nat) (p : Packet) (s : State), s.canonical = true → s.syncHere i 0 = some p →
    let x := s.sync p.addr
    let c := min (x.counter + p.syncValue % 65536) 0xFFFFFFFF
    let s1 := (s.takePacket i).updSync p.addr (fun x => { x with counter := min (x.counter + p.syncValue % 65536) 0xFFFFFFFF })
    (x.run = true → exec (.homeSignal i) s = .next ((s.takePacket i).send (p.ack 1))) ∧
    (x.run = false → x.released = true ∨ x.target = 0 ∨ c < x.target → exec (.homeSignal i) s = .next (s1.send (p.ack 0))) ∧
    (x.run = false → x.released = false → 0 < x.target → x.target ≤ c → exec (.homeSignal i) s = .next ((homeRelease s1 p.addr true).send (p.ack 0)))) ∧
  (∀ (i : Nat) (p : Packet) (s : State), s.syncHere i 2 = some p →
    let x := s.sync p.addr
    let s1 := (s.takePacket i).updSync p.addr (fun x => { x with target := p.syncValue, counter := 0, released := false })
    (x.run = true → exec (.homeArm i) s = .next ((s.takePacket i).send (p.ack 1))) ∧
    (x.run = false → p.syncValue ≠ 0 → exec (.homeArm i) s = .next (s1.send (p.ack 0))) ∧
    (x.run = false → p.syncValue = 0 → exec (.homeArm i) s = .next ((homeRelease s1 p.addr true).send (p.ack 0)))) ∧
  (∀ (i : Nat) (p : Packet) (s : State), s.syncHere i 1 = some p →
    let x := s.sync p.addr
    (x.faulted = true → exec (.homeWait i) s = .next (waiterFault (s.takePacket i) p.addr p.syncLcid x.cause)) ∧
    (x.faulted = false → x.released = true → exec (.homeWait i) s = .next (answerTaken (s.takePacket i) p p.addr p.syncLcid 0)) ∧
    (x.faulted = false → x.released = false → exec (.homeWait i) s = .next (homeHold (s.takePacket i) p.addr p.syncLcid))) ∧
  (∀ (i : Nat) (p : Packet) (s : State), s.canonical = true → s.syncHere i 3 = some p →
    let x := s.sync p.addr
    let c := min (x.counter + 1) 0xFFFFFFFF
    let s1 := (s.takePacket i).updSync p.addr (fun x => { x with counter := min (x.counter + 1) 0xFFFFFFFF })
    (x.faulted = true → exec (.homeBarrier i) s = .next (waiterFault (s.takePacket i) p.addr p.syncLcid x.cause)) ∧
    (x.faulted = false → x.run = true → exec (.homeBarrier i) s = .next (answerTaken (s.takePacket i) p p.addr p.syncLcid 1)) ∧
    (x.faulted = false → x.run = false → x.released = true → exec (.homeBarrier i) s = .next (answerTaken s1 p p.addr p.syncLcid 0)) ∧
    (x.faulted = false → x.run = false → x.released = false → x.target = 0 ∨ c < x.target →
      exec (.homeBarrier i) s = .next (homeHold s1 p.addr p.syncLcid)) ∧
    (x.faulted = false → x.run = false → x.released = false → 0 < x.target → x.target ≤ c →
      exec (.homeBarrier i) s = .next (homeRelease (homeHold s1 p.addr p.syncLcid) p.addr false))) ∧
  (∀ (o : ObjId) (l : Lcid) (absent : Bool) (s : State), (s.sync o).signallers.has l = true → s.lcidLost l absent = true →
    let cause := if (s.sync o).faulted then (s.sync o).cause else if absent then 0x12 else 0x11
    exec (.homeFaultReport o l absent) s = .next (((homeTakesReport s o).updSync o (fun x => { x with faulted := true, cause := cause, waiters := [] })).each
      (s.sync o).waiters (fun s' w => waiterFault s' o w cause)))

/-- R153, R155, R160, R250 to R252. -/
def Obligations.AdmissionAndCatchPointsComplete : Prop :=
  (∀ (i : Nat) (p : Packet) (u k : Nat) (s : State), s.arrived i [0] [5] = some p → s.admitUnit p = some u → s.coreHere p = some k → s.routerRuns k = true →
    let a := s.admUnit u
    let l := natLE (p.payload.take 2)
    let t := natLE (slice p.payload 2 2)
    let c := natLE (slice p.payload 4 1)
    (a.open_ = true → a.granted < a.expert.capacity → (∃ j, s.coreOf l = some j) →
      exec (.admitRequest i) s = .next (((s.takePacket i).updAdmit u (fun a => { a with
        granted := a.granted + 1, admitted := sat 32 (a.admitted + 1), grants := a.grants ++ [(l, a.granted, a.windowNo % 2, t, c, a.windowNo % 65536)] })).send
          (grantPacket p a 0 a.granted t c))) ∧
    (a.open_ = false ∨ a.expert.capacity ≤ a.granted →
      exec (.admitRequest i) s = .next (((s.takePacket i).updAdmit u (fun a => a.refuse (natLE (slice p.payload 5 1) % 2 == 1))).send
        (grantPacket p a (if a.open_ then 1 else 2) 0 t c)))) ∧
  (∀ (k : PCore) (s : State) (c : Catch), (s.core k).catches.find? (fun c => decide (c.due ≤ s.now)) = some c → s.routerRuns k = true →
    let s1 := s.updCore k (fun x => { x with catches := x.catches.erase c, quarterUntil := s.now + 256 })
    (c.seq = none → exec (.catchPoint k) s = .next (advance s1 k)) ∧
    (∀ n, c.seq = some n → exec (.catchPoint k) s = .next (advance (retireOne s1 k .sy n false) k))) ∧
  (∀ (k : PCore) (s : State), (s.core k).quarterUntil ≠ 0 → (s.core k).quarterUntil ≤ s.now →
    exec (.catchEnd k) s = .next (s.updCore k (fun c => { c with quarterUntil := 0 })))

/-- R204, R211, R215, R219 to R226: hops and taps. -/
def Obligations.PacketsMoveOneHop : Prop :=
  (∀ (i : Nat) (p : Packet) (x y k : Nat) (s : State), s.net[i]? = some p → p.loc = .router x y → s.coreHere p = some k → s.routerRuns k = true →
    headOfLine s.net i = true →
    (listedOpc p.cls p.opc = false ∨ p.dkind = 3 → exec (.routerForward i) s = .next (countTtl (s.takePacket i) p.part)) ∧
    (listedOpc p.cls p.opc = true → p.dkind ≠ 3 → p.dest ≠ some p.loc → (p.dkind = 2 → p.port ≠ none) →
      (p.ttl ≤ 1 → exec (.routerForward i) s = .next (countTtl (dropAtInput (s.takePacket i) p true) p.part)) ∧
      (1 < p.ttl → s.nextHop p = .hold → exec (.routerForward i) s = .next s) ∧
      (∀ st, 1 < p.ttl → s.nextHop p = .stop st → exec (.routerForward i) s =
        .next (if p.dkind = 2 then s.takePacket i else stopPacket s i { p with ttl := p.ttl - 1 } st)) ∧
      (∀ o j a q, 1 < p.ttl → s.wants p = some o → s.outGrant p.loc o = some (j, a) → s.net[j]? = some q → 1 < q.ttl →
        exec (.routerForward i) s = .next (hop s j q)))) ∧
  (∀ (i : Nat) (p : Packet) (f sub : Nat) (s : State), s.net[i]? = some p → p.loc = .edge f sub → headOfLine s.net i = true → p.dest ≠ some p.loc →
    (s.nextHop p = .hold → exec (.routerForward i) s = .next s) ∧
    (∀ st, s.nextHop p = .stop st → exec (.routerForward i) s = .next (stopPacket s i p st)) ∧
    (∀ n arr esc, s.nextHop p = .move n arr esc → exec (.routerForward i) s = .next (hop s i p))) ∧
  (∀ (i : Nat) (p : Packet) (x y : Nat) (s : State), p.loc = .router x y →
    (∀ n arr esc, s.nextHop p = .move n arr esc → (∀ f sub, n = .edge f sub → s.edgeAdmits p n = true) →
      hop s i p = takeRoom (arrive (s.takePacket i) { p with ttl := p.ttl - 1, loc := n, arr := arr, esc := esc, port := none }) p) ∧
    (∀ f sub arr esc, s.nextHop p = .move (.edge f sub) arr esc → s.edgeAdmits p (.edge f sub) = false →
      hop s i p = takeRoom (if p.cls = 2 then dropAtInput (countFence (s.takePacket i) p.part) p false
        else (countFence (s.takePacket i) p.part).send (({ p with ttl := p.ttl - 1 } : Packet).ack 5)) p) ∧
    (∀ key x' y' arr esc, s.nextHop p = .cross key x' y' arr esc →
      hop s i p = takeRoom ((s.takePacket i).updLink key (fun l => { l with
        sendQ := l.sendQ ++ ({ p with ttl := p.ttl - 1, esc := esc, port := none } : Packet).flits.map (fun z => (({ p with esc := esc } : Packet).vc, z)) })) p)) ∧
  (∀ (p : Packet) (s : State), p.port = none → takeRoom s p = s) ∧
  (∀ (r : PRegion) (s : State), s.regionLive r = true → (s.region r).tapOut = false → (s.link (r.val / 4 * 32 + 28 + r.val % 4)).up = true →
    let s1 := (s.updRegion r (fun x => { x with tapOut := true })).updLink (r.val / 4 * 32 + 28 + r.val % 4) (fun l => { l with state := 4 })
    exec (.tapOutOfService r) s = .next (if (s1.tapOf (r.val / 4) (r.val % 4)).isNone then fenceDie s1 (r.val / 4) 0x03
      else changeOf (linkRecord s1 (r.val / 4) (28 + r.val % 4) 6) (r.val / 4)))

/-- R55, R57, R206 to R209: links. -/
def Obligations.LinksAcknowledgeAndRetrain : Prop :=
  (∀ (site : SiteId) (e : Fin 24) (noise : List Byte) (s : State) (place : Nat × Nat × Dir) (j : Nat),
    s.linkPlace site e = some place → s.linkPartner site e = some j →
    let key := site.val * 32 + e.val
    ((s.link key).up = true → (s.link j).up = true → exec (.linkFrameReceive site e noise) s =
      .next ((readFifo (writeFrame s key j noise) key place).updLink key (fun l => { l with turn := !l.turn }))) ∧
    ((s.link key).up = false ∨ (s.link j).up = false → exec (.linkFrameReceive site e noise) s = .next s)) ∧
  (∀ (key j : Nat) (noise : List Byte) (s : State),
    (s.endRuns j = true → s.endRuns key = true → (s.link key).hold = false → (s.endStretched j = true → (s.link key).turn = true) →
      let f := (s.link j).nextFrame
      writeFrame s key j noise = (s.updLink j (fun _ => f.1)).updLink key (fun l => { l with
        fifo := l.fifo ++ [disturb f.2.bytes noise]
        hold := if 9 ≤ l.fifo.length then true else if l.fifo.length ≤ 3 then false else l.hold })) ∧
    (s.endRuns j = false ∨ s.endRuns key = false ∨ (s.link key).hold = true → writeFrame s key j noise = s)) ∧
  (∀ (key : Nat) (place : Nat × Nat × Dir) (s : State), s.endRuns key = true → s.endStretched key = false →
    readFifo s key place = (s.updLink key (fun l => { l with fifo := l.fifo.drop (s.link key).fifo.length, hold := holdBit (l.fifo.length - (s.link key).fifo.length) l.hold })).each
      (s.link key).fifo (fun t b => readFrame t key place b)) ∧
  (∀ (key : Nat) (place : Nat × Nat × Dir) (b : List Byte) (s : State),
    let fr := (parseFrame b).1
    ((parseFrame b).2 = false → readFrame s key place b = s.updLink key (fun l => { l with
      crcFail := sat 32 (l.crcFail + 1), nakSent := true
      crcTimes := l.crcTimes.filter (fun t => decide (s.now < t + 1000000)) ++ [s.now] })) ∧
    ((parseFrame b).2 = true → fr.mask = 0 → readFrame s key place b = s.updLink key (fun l => takeAck l fr)) ∧
    ((parseFrame b).2 = true → fr.mask ≠ 0 → s.canonical = true → fr.seq = (s.link key).expect →
      readFrame s key place b = updOff (assemble ((s.updLink key (fun l => takeAck l fr)).updLink key (fun l => { l with
        expect := (l.expect + 1) % 256, nakSent := false })) key place fr.slots)
          { cls := 0, opc := 0, loc := .router place.1 place.2.1, arr := place.2.2 }) ∧
    ((parseFrame b).2 = true → fr.mask ≠ 0 → s.canonical = true → fr.seq ≠ (s.link key).expect →
      readFrame s key place b = (s.updLink key (fun l => takeAck l fr)).updLink key (fun l => { l with nakSent := true }))) ∧
  (∀ (site : SiteId) (e : Fin 32) (cause : RetrainCause) (j : Nat) (s : State), e.val < 24 → (s.link (site.val * 32 + e.val)).up = true →
    (cause = .replays ∧ 8 ≤ (s.link (site.val * 32 + e.val)).replayRun) ∨ cause = .clock ∨
      (cause = .crc ∧ 256 < ((s.link (site.val * 32 + e.val)).crcTimes.filter (fun t => decide (s.now < t + 1000000))).length) →
    s.linkPartner site e = some j →
    let go := fun (l : LinkEnd) => { l with state := 3, retrains := sat 16 (l.retrains + 1), replayRun := 0, crcTimes := [] }
    exec (.linkRetrainStart site e cause) s = .next ((s.updLink (site.val * 32 + e.val) go).updLink j go)) ∧
  (∀ (site : SiteId) (e : Fin 32) (f0 f1 f2 f3 : Nat) (s : State), (s.link (site.val * 32 + e.val)).state = 3 →
    let key := site.val * 32 + e.val
    let good := ((List.range 4).filter (fun g => decide ([f0, f1, f2, f3].getD g 0 ≤ 1))).length
    (∀ j, e.val < 24 → s.linkPartner site e = some j →
      (good = 4 → exec (.linkRetrainDone site e f0 f1 f2 f3) s = .next ([key, j].foldl (fun t x => t.updLink x (fun l => { l with
        state := 1, groups := 15, spared := (retrainWidth [f0, f1, f2, f3]).2.2 })) s)) ∧
      (2 ≤ good → good < 4 → exec (.linkRetrainDone site e f0 f1 f2 f3) s = .next (linkRecord ([key, j].foldl (fun t x => t.updLink x (fun l => { l with
        state := 2, groups := (retrainWidth [f0, f1, f2, f3]).2.1, spared := (retrainWidth [f0, f1, f2, f3]).2.2 })) s) site e 0)) ∧
      (good < 2 → exec (.linkRetrainDone site e f0 f1 f2 f3) s = .next ([key, j].foldl (fun t x => checkLinks t (x / 32))
        (changeOf (linkRecord (disableLink s key) site e 6) site)))) ∧
    (24 ≤ e.val → f0 = 0 → exec (.linkRetrainDone site e f0 f1 f2 f3) s = .next (s.updLink key (fun l => { l with state := 1 }))) ∧
    (24 ≤ e.val → e.val < 28 → f0 ≠ 0 → exec (.linkRetrainDone site e f0 f1 f2 f3) s =
      .next (changeOf (linkRecord (s.updLink key (fun l => { l with state := 4 })) site e 6) site)) ∧
    (28 ≤ e.val → f0 ≠ 0 → exec (.linkRetrainDone site e f0 f1 f2 f3) s = .next (tapLost s (site.val * 4 + (e.val - 28)))))

/-- R225: the steps of a route change. -/
def Obligations.RouteChangesDrainAndResume : Prop :=
  (∀ (p : PartId) (s : State), s.paused p = true → (s.hub p).fab.drained = false → s.drainedNow p = true →
    exec (.routeDrainDone p) s = .next (recompute s p)) ∧
  (∀ (p : PartId) (s : State), s.paused p = true → (s.hub p).fab.drained = false → (s.hub p).fab.pausedAt + 1000000 ≤ s.now →
    exec (.routeDrainTimeout p) s = .next (recompute (discardAll s p) p)) ∧
  (∀ (p : PartId) (s : State), s.paused p = true → (s.hub p).fab.drained = true →
    let s1 := (s.updFab p (fun f => { f with paused := false, drained := false, waiting := [] })).each (s.hub p).fab.waiting (fun t q => t.place q)
    let s2 := s1.each ((s1.partRegions p).filter (fun r => (s1.region r).fenced)) (fun t r =>
      t.updRegion r (fun x => { x with pstate := if x.pstate = 4 then 4 else 0, vset := 0 }))
    let s3 := s2.each ((s2.partSites p).flatMap siteCores) (fun t k => if (t.core k).lcid.isSome then resumeCore t k else t)
    exec (.routeTablesLoaded p) s = .next (s3.each ((s3.trees.filter (fun t => t.2.part == p.val)).map (·.1)) (fun t tk =>
      tryTree (t.each ((t.tree tk).nodes.map (·.1)) (fun u r => foldNode 2100 u tk r)) tk)))

/-- R254 to R263: collectives. -/
def Obligations.TreePacketsAreServed : Prop :=
  (∀ (i : Nat) (p : Packet) (s : State), s.colHere i 0 [1] [1] = some p →
    exec (.treeCredit i) s = .next (tryTree (mergeCredits ((leaveBuffer (s.takePacket i) p).updNode p.treeKey p.atRouter (fun n => { n with
      creds := n.creds ++ [(p.colK, p.colFrom, p.colCount)] })) p.treeKey p.atRouter) p.treeKey)) ∧
  (∀ (i : Nat) (p : Packet) (s : State), s.colHere i 0 [1] [1] = none → s.colHere i 1 [0] [1] = some p →
    exec (.treeCredit i) s = .next (creditDown (leaveBuffer (s.takePacket i) p) p.treeKey p.atRouter p)) ∧
  (∀ (i : Nat) (p : Packet) (s : State), s.colHere i 0 [0] [0, 4] = some p →
    let waits := s.net.any (fun q => q.port.isSome && q.treeKey == p.treeKey && q.atRouter == p.atRouter && q.opc == 0)
    (s.paused p.part = false → waits = false →
      exec (.treeMcast i) s = .next (copyDown (leaveBuffer (s.takePacket i) p) p.treeKey p.atRouter p)) ∧
    (s.paused p.part = true ∨ waits = true → exec (.treeMcast i) s = .next s)) ∧
  (∀ (i : Nat) (p : Packet) (s : State), s.colHere i 1 [1] [0, 4] = some p →
    exec (.treeContrib i) s = .next (takeContrib (s.takePacket i) p.treeKey p.atRouter p)) ∧
  (∀ (i : Nat) (p : Packet) (k : Nat) (s : State), s.portResultHere i = none → s.colHere i 0 [2] [0, 4] = some p → s.coreHere p = some k →
    s.ejects k = true → exec (.treeResult i) s = .next (memberTakes (s.takePacket i) p.treeKey p.atRouter k p)) ∧
  (∀ (i : Nat) (p : Packet) (k : Nat) (s : State), s.portResultHere i = none → s.colHere i 0 [2] [0, 4] = none → s.colHere i 1 [2] [0, 1, 4] = some p →
    s.coreHere p = some k → s.ejects k = true →
    (p.colKind = 1 → exec (.treeResult i) s = .next (grantSend (s.takePacket i) p.treeKey k)) ∧
    (p.colKind ≠ 1 → exec (.treeResult i) s = .next (rootTakes (s.takePacket i) p.treeKey p))) ∧
  (∀ (i : Nat) (p : Packet) (k : Nat) (s : State), s.portResultHere i = some (p, k) → s.ejects k = true →
    exec (.treeResult i) s = .next (portResult (s.takePacket i) k p)) ∧
  (∀ (i : Nat) (p : Packet) (s : State), s.colHere i 0 [1] [2] = some p →
    exec (.treeDone i) s = .next (mergeDone ((leaveBuffer (s.takePacket i) p).updNode p.treeKey p.atRouter (fun n => { n with
      dones := n.dones ++ [(p.colFrom, p.colCount)] })) p.treeKey p.atRouter)) ∧
  (∀ (i : Nat) (p : Packet) (s : State), s.colHere i 0 [1] [3] = some p →
    exec (.treeDropped i) s = .next (mergeDone (dropUp (leaveBuffer (s.takePacket i) p) p.treeKey p.atRouter p.colCount (natLE (p.payload.take 2)))
      p.treeKey p.atRouter)) ∧
  (∀ (i : Nat) (rep : RingReport) (s : State), s.rings[i]? = some rep →
    exec (.coxFenceReport i) s = .next (takeReport (s.setRings (s.rings.eraseIdx i)) rep))

/-- R278 to R280, R284: slices. -/
def Obligations.SlicesServeRequests : Prop :=
  (∀ (i : Nat) (p : Packet) (sl ptr : Nat) (s : State), s.arrived i [0, 1] [0, 1, 2, 3, 4, 5, 6] = some p → nodeSlice p.loc = some sl →
    s.sliceGrant sl = some (i, ptr) →
    let s1 := (s.takePacket i).updSlice sl (fun x => { x with ptr := ptr })
    ((s.stack (sl / 32)).state = 4 → exec (.sliceEnqueue i) s = .next (s1.send (p.ack 2))) ∧
    ((s.stack (sl / 32)).state < 2 → exec (.sliceEnqueue i) s = .next (s1.send (p.ack 1))) ∧
    ((s.stack (sl / 32)).state ≠ 4 → 4 ≤ p.opc ∨ s.sliceByte p.part p.addr = none → exec (.sliceEnqueue i) s = .next (s1.send (p.ack 1))) ∧
    (∀ x byte, 2 ≤ (s.stack (sl / 32)).state → (s.stack (sl / 32)).state ≠ 4 → p.opc < 4 → s.sliceByte p.part p.addr = some (x, byte) →
      (x ≠ sl → exec (.sliceEnqueue i) s = .next (s1.send (p.ack 1))) ∧
      (x = sl → (s.slice sl).queue.length < 64 →
        exec (.sliceEnqueue i) s = .next (s1.updSlice sl (fun y => { y with queue := y.queue ++ [(p, byte)] }))) ∧
      (x = sl → 64 ≤ (s.slice sl).queue.length → exec (.sliceEnqueue i) s = .next s))) ∧
  (∀ (sl : SliceId) (ce : List Nat) (errs : SliceErrors) (p : Packet) (byte : Nat) (s : State), s.sliceHead sl [0] = some (p, byte) →
    let r := readFinds (noteParity (popSlice s sl) sl errs.parity) p.part sl byte p.addr p.readLen ce errs.ue
    (r.2 = [] → exec (.sliceRead sl ce errs) s =
      .next (r.1.send (({ p with loc := sliceNode sl } : Packet).rdata p.readOff (s.hbmBytes sl byte p.readLen)))) ∧
    (r.2 ≠ [] → exec (.sliceRead sl ce errs) s = .next (countUe (r.1.send (p.ack 2)) (sl.val / 32) r.2.length))) ∧
  (∀ (sl : SliceId) (f : SliceFinds) (p : Packet) (byte : Nat) (s : State), s.sliceHead sl [1, 2] = some (p, byte) →
    let w := hbmWrite (partialFinds (noteParity (popSlice s sl) sl f.parity) p.part sl byte p.addr p.writeBytes.length false f.ce f.ue) sl byte p.writeBytes
    (w.2 = [] → exec (.sliceWrite sl f) s = .next (w.1.send (p.ack 0))) ∧
    (w.2 ≠ [] → exec (.sliceWrite sl f) s = .next (countUe ((w.1.updStack (sl.val / 32) (fun x => { x with
      poisoned := sat 16 (x.poisoned + (w.2.map (· / 8)).dedup.length) })).send (p.ack 2)) (sl.val / 32) w.2.length))) ∧
  (∀ (sl : SliceId) (f : SliceFinds) (p : Packet) (byte : Nat) (s : State), s.sliceHead sl [3] = some (p, byte) →
    let s1 := partialFinds (noteParity (popSlice s sl) sl f.parity) p.part sl (byte / 8 * 8) (p.addr / 8 * 8) 8 true f.ce f.ue
    let old := natLE (s.hbmBytes sl (byte / 8 * 8) 8)
    let new := atomResult (p.aux % 16) old (natLE (p.payload.take 8)) (natLE (slice p.payload 8 8))
    (∀ v, s1.hbmBad (hbmKey s sl (byte / 8 * 8) / 8) = false → new = some v →
      exec (.sliceAtom sl f) s = .next ((hbmWrite s1 sl (byte / 8 * 8) (bytesLE 8 v)).1.send (adata p 0 old))) ∧
    (s1.hbmBad (hbmKey s sl (byte / 8 * 8) / 8) = false → new = none →
      exec (.sliceAtom sl f) s = .next (s1.send (adata p 1 old))) ∧
    (s1.hbmBad (hbmKey s sl (byte / 8 * 8) / 8) = true →
      exec (.sliceAtom sl f) s = .next (countUe (s1.send (adata p 2 0)) (sl.val / 32) 1)))

/-- R271, R277, R282 to R285, R483: stacks. -/
def Obligations.StacksKeepThemselves : Prop :=
  (∀ (sl : SliceId) (u n : Nat) (rest : List (Nat × Nat)) (s : State), (s.slice sl).retiring = (u, n) :: rest → s.sliceWorks sl = true →
    let old := hbmKey s sl (u * 4096)
    let new := sl.val * sliceBytes + n * 4096
    let ue := (List.range 512).filter (fun w => s.hbmBad (old / 8 + w))
    let s2 := (((s.setHbm (Tab.putList 0 s.hbm new (Tab.getList 0 s.hbm old 4096))).setHbmUe
      (ue.foldl (fun t w => t.add (new / 8 + w)) s.hbmUe)).updSlice sl (fun x => { x with
        retiring := rest, redirect := Tab.insert n x.redirect u })).updStack (sl.val / 32) (fun x => { x with
          newRet := sat 16 (x.newRet + 1), poisoned := sat 16 (x.poisoned + (ue.map (· / 8)).dedup.length) })
    (s.partOfStack (sl.val / 32) = none → exec (.retireCopyDone sl) s = .next s2) ∧
    (∀ p, s.partOfStack (sl.val / 32) = some p → exec (.retireCopyDone sl) s = .next (hubRecord s2 (partRec s2 p 0x07 0 (sl.val / 32) 0)))) ∧
  (∀ (st : StackId) (ch : Fin 16) (cause : RetrainCause) (s : State), (s.stack st).state = 2 ∨ (s.stack st).state = 3 →
    (s.stack st).retraining.has ch = false →
    (cause = .parity ∧ 32 ≤ ((Tab.get [] (s.stack st).parityTimes ch).filter (fun t => decide (s.now < t + 1000000))).length) ∨ cause = .margin ∨
      (cause = .temperature ∧ (∃ t, Tab.get 0 (s.stack st).trainTemp ch = t + 1 ∧ (t + 15 ≤ (s.stack st).temp ∨ (s.stack st).temp + 15 ≤ t))) →
    exec (.hbmRetrainStart st ch cause) s = .next (s.updStack st (fun x => { x with
      state := 3, retraining := x.retraining.add ch, retrains := sat 16 (x.retrains + 1) }))) ∧
  (∀ (st : StackId) (ch : Fin 16) (repaired : Nat) (s : State), (s.stack st).retraining.has ch = true →
    exec (.hbmRetrainDone st ch true repaired) s = .next (s.updStack st (fun x => { x with
      retraining := x.retraining.del ch, state := if (x.retraining.del ch).isEmpty then 2 else 3
      repaired := sat 8 repaired, parityTimes := Tab.put [] x.parityTimes ch [], trainTemp := Tab.put 0 x.trainTemp ch (x.temp + 1) })) ∧
    exec (.hbmRetrainDone st ch false repaired) s = .next (failStack s st 1 0x0B)) ∧
  (∀ (st : StackId) (t : Nat) (s : State), (s.stack st).state ≠ 0 →
    exec (.hbmTempRead st t) s = .next (s.updStack st (fun x => { x with
      temp := sat 8 t, doubleRefresh := decide (85 < t)
      trainTemp := (List.range 16).foldl (fun l c => if Tab.get 0 l c = 0 then Tab.put 0 l c (sat 8 t + 1) else l) x.trainTemp
      hotSince := if 100 ≤ t then some (x.hotSince.getD s.now) else none }))) ∧
  (∀ (st : StackId) (t : Nat) (s : State), (s.stack st).hotSince = some t → t + 1000000000 ≤ s.now → (s.stack st).state = 2 ∨ (s.stack st).state = 3 →
    exec (.stackOvertemp st) s = .next (failStack s st 5 0x0E)) ∧
  (∀ (st : StackId) (n : Nat) (s : State), (s.stack st).state ≠ 0 → (s.stack st).state ≠ 4 →
    exec (.ecsRead st n) s = .next (s.updStack st (fun x => { x with ce := sat 32 (x.ce + n) }))) ∧
  (∀ (sl : SliceId) (s : State), (s.stack (sl.val / 32)).state ≠ 0 → (s.stack (sl.val / 32)).state ≠ 4 → (s.stack (sl.val / 32)).selfRefresh = false →
    exec (.hbmRefresh sl) s = .next (s.updSlice sl (fun x => { x with refreshed := x.refreshed + 1 }))) ∧
  (∀ s : State, s.canonical = true → ∃ t, exec .hbmZeroDone s = .next t ∧
    (∀ a, Tab.get 0 t.hbm a = if s.part.stackPresent (a / sliceBytes / 32) = true ∧ a / sliceBytes / 32 < 48 ∧ (s.stack (a / sliceBytes / 32)).state = 1
      then 0 else Tab.get 0 s.hbm a) ∧
    (∀ st, s.part.stackPresent st = true → st < 48 → (s.stack st).state = 1 → (t.stack st).state = 2) ∧
    t.sram = s.sram ∧ t.cores = s.cores ∧ t.regions = s.regions)

/-- R269, R270, R379, R381, R407. -/
def Obligations.ScrubberAndLogComplete : Prop :=
  (∀ (k : PCore) (line : Fin 32768) (ce ue : List Nat) (pass : Bool) (s : State), (s.region (coreRegion k)).clock = .running →
    let all := fun (l : List Nat) => (l.filter (· < sramSize)).map (fun o => sramKey k o / 8)
    let s1 := (s.setSramUe ((all ue).foldl NSet.add s.sramUe)).setSramCe (((all ce).filter (fun w => !(all ue).contains w)).foldl NSet.add s.sramCe)
    let fixed := (wordsIn s1.sramCe (sramKey k (line.val * 64)) 64).length
    exec (.scrubRead k line ce ue pass) s = .next (checkLines ((sramRead s1 k (line.val * 64) 64).updRegion (coreRegion k) (fun x => { x with
      fixed := sat 16 (x.fixed + fixed), passes := if pass then sat 16 (x.passes + 1) else x.passes })) k)) ∧
  (∀ (h : HubId) (rc : FaultRec) (rest : List FaultRec) (s : State), (s.hub h).inbox = rc :: rest → (s.hub h).pending < 256 →
    let s2 := (s.updHub h (fun x => { x with inbox := rest })).updHub h (fun x => { x with
      log := Tab.insert rc x.log x.logWr, logWr := (x.logWr + 1) % 256, pending := x.pending + 1 })
    exec (.faultRecordAppend h) s = .next (if (s.hub h).pending = 0 then raiseEvt s2 h 0 else s2)) ∧
  (∀ (h : HubId) (rc : FaultRec) (rest : List FaultRec) (s : State), (s.hub h).inbox = rc :: rest → (s.hub h).pending = 256 →
    exec (.faultRecordAppend h) s = .next ((s.updHub h (fun x => { x with inbox := rest })).updHub h (fun x => { x with lost := sat 16 (x.lost + 1) })))

/-- R292 to R294, R298, R302. -/
def Obligations.SupplyFaultsActAsStated : Prop :=
  (∀ (n : Fin 20) (s : State), s.supply.stageA = true → s.power.failed.testBit n = false →
    let f := bitCount (s.power.failed + 2 ^ n.val) 20
    let s2 := hubRecord (s.updPower (fun p => { p with failed := s.power.failed + 2 ^ n.val, converters := f, limited := decide (3 ≤ f) }))
      (panelRec s 0x0B 0 0 0)
    (f < 3 → exec (.stageaConverterFail n) s = .next s2) ∧
    (f = 3 → exec (.stageaConverterFail n) s = .next (raiseAll s2 3)) ∧
    (3 < f → f < 9 → exec (.stageaConverterFail n) s = .next s2) ∧
    (9 ≤ f → exec (.stageaConverterFail n) s = .next (orderedStop s2 6))) ∧
  (∀ s : State, s.supply.stageA = true → exec .inputUndervoltage s = .next (orderedStop s 5)) ∧
  (∀ s : State, s.supply.stageA = true → ∃ t, exec .inputOvervoltage s = .next t ∧
    t.supply = { s.supply with stageA := false, pg := false, booted := false } ∧
    t.stroke = {} ∧ t.hubs = [] ∧ t.coxes = [] ∧ t.regions = [] ∧ t.cores = [] ∧ t.links = [] ∧ t.slices = [] ∧ t.stackTab = [] ∧
    t.sram = [] ∧ t.hbm = [] ∧ t.net = [] ∧ t.now = s.now ∧ t.part = s.part ∧ t.defects = s.defects ∧ t.sec.floor = s.sec.floor ∧ t.pending = s.pending) ∧
  (∀ (r : PRegion) (n : Fin 8) (s : State), s.phased r = true → (s.region r).phaseFail.toNat.testBit n = false →
    let s1 := s.updRegion r (fun x => { x with phaseFail := x.phaseFail ||| BitVec.ofNat 8 (2 ^ n.val) })
    ((s.region r).phaseFail = 0 →
      exec (.phaseFail r n) s = .next (coxRecord s1 (r.val / 4) (siteRec s1 (r.val / 4) 0x0B 0 ((s1.logicalRegion r).getD 0) 0))) ∧
    ((s.region r).phaseFail ≠ 0 → exec (.phaseFail r n) s = .next (darken s1 r 1 0x06))) ∧
  (∀ (r : PRegion) (s : State), s.phased r = true →
    exec (.railShort r) s = .next ((darken s r 2 0x07).updPower (fun p => { p with shorts := p.shorts ++ [(0, r.val)] })) ∧
    exec (.railOvervoltage r) s = .next (darken s r 3 0)) ∧
  (∀ (r : PRegion) (valid : BitVec 6) (s : State), s.phased r = true →
    let s1 := s.updRegion r (fun x => { x with sensors := valid })
    (3 ≤ bitCount (s1.region r).sensors.toNat 6 → exec (.sensorLoss r valid) s = .next s1) ∧
    (bitCount (s1.region r).sensors.toNat 6 < 3 → exec (.sensorLoss r valid) s = .next (darken s1 r 4 0)))

/-- R39, R296, R297, R302, R370. -/
def Obligations.TripsAndHubLossActAsStated : Prop :=
  (∀ (site : SiteId) (s : State), s.power.efuses.has site = true ∨ (s.cox site).tripAt = some s.now → s.power.shorts.contains (1, site.val) = false →
    exec (.efuseTrip site) s = .next ((appendDefect (tripDie s site 0x07) { kind := 4, cause := 7, unit := site.val, stroke := s.stroke.count }).updPower
      (fun p => { p with shorts := p.shorts ++ [(1, site.val)] }))) ∧
  (∀ (g : Fin 36) (overcur : Bool) (s : State), (s.group g).state = 1 →
    let s1 := s.each ((groupSites g).filter (fun st => s.power.efuses.has st)) (fun t site =>
      appendDefect (tripDie t site 0x07) { kind := 4, cause := 7, unit := site, stroke := t.stroke.count })
    exec (.groupTrip g overcur) s = .next ((s1.updGroup g (fun x => { x with state := 2, cause := if overcur then 2 else 1, tripped := (s.group g).sites, sites := 0 })).updPower
      (fun p => { p with
        shorts := p.shorts ++ [(2, g.val)]
        queue := p.queue.filter (fun q => siteGroup (q.region / 4) != g.val)
        granted := p.granted.filter (fun q => siteGroup (q.region / 4) != g.val) }))) ∧
  (∀ (n : Fin 60) (s : State), n.val < 12 → s.power.efuses.has (n.val * 13 + 12) = true → s.power.shorts.contains (1, n.val * 13 + 12) = false →
    exec (.channelTrip n) s = .next ((tripDie s (n.val * 13 + 12) 0x07).updPower (fun p => { p with shorts := p.shorts ++ [(1, n.val * 13 + 12)] }))) ∧
  (∀ (n : Fin 60) (s : State), 12 ≤ n.val → (Tab.get {} s.power.rails (n.val - 12) : Rail).state = 1 →
    exec (.channelTrip n) s = .next (failStack (s.updPower (fun p => { p with
      rails := Tab.upd {} p.rails (n.val - 12) (fun (x : Rail) => { x with state := 2 }), shorts := p.shorts ++ [(3, n.val - 12)] })) (n.val - 12) 2 0x0C)) ∧
  (∀ (h : HubId) (s : State), (s.hub h).live = true → s.supply.stageA = true →
    let s2 := stopReported ((s.updHub h (fun x => { x with live := false, linkUp := false })).updPower (fun p => { p with
      aux := Tab.upd {} p.aux h.val (fun (x : Rail) => { x with state := 2 }) })) h
    let s3 := (s2.updPower (fun p => { p with noGrants := true })).updStroke (fun k => { k with takeover := true })
    (h.val ≠ 0 → exec (.hubLost h) s = .next s2) ∧
    (h.val = 0 → s3.bring.running ≠ 2 → exec (.hubLost h) s = .next s3) ∧
    (h.val = 0 → s3.bring.running = 2 → exec (.hubLost h) s = .next (s3.updBring (fun b => { b with verdict := 3 })))) ∧
  (∀ s : State, (s.hub 0).live = false → (s.hub 2).live = true → s.stroke.master2 = false →
    exec .masterTakeover s = .next (raiseAll ((takeMaster s).updPower (fun p => { p with
      noGrants := s.panelStopped, epochs := 0 })) 5)) ∧
  (∀ (b : Fin 2) (s : State), (Tab.get {} s.power.aux (4 + b.val) : Rail).state = 1 →
    let s1 := s.updPower (fun p => { p with aux := Tab.upd {} p.aux (4 + b.val) (fun (x : Rail) => { x with state := 2 }) })
    let other := (Tab.get {} s1.power.aux (5 - b.val) : Rail).state
    (other ≠ 2 → exec (.baseGroupFail b) s = .next (hubRecord s1 (panelRec s1 0x0B 0 0 0))) ∧
    (other = 2 → s1.bring.running = 1 →
      exec (.baseGroupFail b) s = .next (s1.updBring (fun x => { x with verdict := 2, verdictDetail := 4 + b.val }))) ∧
    (other = 2 → s1.bring.running ≠ 1 → exec (.baseGroupFail b) s = .next (removeStageA s1 false)))

/-- R301, R303, R311. -/
def Obligations.PathResistanceAndReenable : Prop :=
  (∀ (r : PRegion) (ests : List Nat) (s : State), s.phased r = true → (s.region r).fenced = false →
    let x := s.region r
    let kept := (x.ests ++ ests).drop ((x.ests ++ ests).length - 64)
    let base := Config.pathBaseline r x.op
    let excess := if kept.isEmpty then 0 else median2 kept - 2 * base
    let above := fun (percent : Nat) => decide (2 * base * percent < excess * 100)
    let high := if above 60 then min 100 (x.high + 1) else 0
    let s1 := s.updRegion r (fun y => { y with
      ests := kept, rise := sat 16 (excess * 1000 / (2 * base)), high := high, pathFlag := y.pathFlag || above 25
      pathCap := above 60 || (y.pathCap && above 50) })
    let s2 := if above 25 ∧ x.pathFlag = false then
      coxRecord s1 (r.val / 4) (siteRec s1 (r.val / 4) 0x0B 0 ((s1.logicalRegion r).getD 0) 0) else s1
    exec (.pathResistanceUpdate r ests) s = .next (if high = 100 then darken s2 r 5 0x08 else s2)) ∧
  (∀ (p : PortId) (data : W32) (s : State),
    let kind := data.toNat / 2 ^ 30
    let id := data.toNat % 1024
    let u := s.reenUnit kind id
    s.reenPart kind id = some p.val → s.power.shorts.contains (kind, u) = true → s.power.reenDone.contains (kind, u) = false →
    exec (.pwrReen p data) s = .next (s.updPower (fun q => { q with
      reenDone := q.reenDone ++ [(kind, u)], reenRun := q.reenRun ++ [(kind, u, s.now)], reenResult := 1, reenKind := kind, reenId := id }))) ∧
  (∀ (short : Bool) (kind u t : Nat) (rest : List (Nat × Nat × Nat)) (s : State), s.power.reenRun = (kind, u, t) :: rest → t + 1000000 ≤ s.now →
    let newest := s.power.reenKind == kind && s.reenUnit kind s.power.reenId == u
    let s1 := s.updPower (fun p => { p with reenRun := rest, reenResult := if newest then (if short then 3 else 2) else p.reenResult })
    exec (.reenTestDone short) s = .next (if short then s1 else resolveShort (repower s1 kind u) kind u))

/-- R304 to R309. -/
def Obligations.AdmissionOfLoadCompletes : Prop :=
  (∀ (r : PRegion) (kind : ReqKind) (final present : Nat) (s : State), s.mayRequest r kind = true →
    exec (.powerRequest r kind final present) s = .next ((s.updRegion r (fun x => { x with pstate := 1 })).updPower (fun p => { p with
      queue := enqueue s { region := r, stroke := s.stroke.count, kind := kind, final := final, present := present } p.queue }))) ∧
  (∀ s : State, s.managed = true → s.power.windowNo < s.now / 10000 →
    let w := s.now / 10000
    let s1 := s.updPower (fun p => { p with windowNo := w, charges := p.charges.filter (fun c => decide (w ≤ c.1)) })
    let s2 := if s1.grants then scanQueue w s1 [] s1.power.queue else s1
    exec .powerGrantWindow s = .next (s2.each ((List.range 39).map (fun g => (g, s1.headroom g))) (fun t x =>
      if (t.group x.1).state = 1 then t.updGroup x.1 (fun g => { g with headroom := x.2, used := t.power.charged w (some x.1) / 10 }) else t))) ∧
  (∀ (r : PRegion) (q : PowReq) (s : State), s.power.granted.find? (fun q => q.region == r.val && decide (q.since + 2000 ≤ s.now)) = some q →
    let s1 := (s.updPower (fun p => { p with granted := p.granted.filter (fun x => x.region != r.val) })).updRegion r (fun x =>
      { x with grantAt := some q.since })
    (q.kind = .crewStart → exec (.powerGrant r) s = .next (startCores (startRamp (s1.updRegion r (fun x => { x with startDue := false })) r) r)) ∧
    (q.kind = .wake → exec (.powerGrant r) s = .next s1) ∧
    (q.kind = .powerOn → exec (.powerGrant r) s = .next (s1.updRegion r (fun x => { x with pstate := 2, vset := vsetOf x.op, sensors := 0x3F })))) ∧
  (∀ (r : PRegion) (t : Nat) (s : State), (s.region r).grantAt = some t → (s.region r).pstate = 2 → (s.region r).clock = .off →
    (s.region r).fenced = false → t + 2000 + railMv (s.region r).vset * 20 ≤ s.now →
    exec (.pllLock r) s = .next (startRamp (s.updRegion r (fun x => { x with
      clock := .running, count := (s.cox (r.val / 4)).count, acted := (s.cox (r.val / 4)).count })) r)) ∧
  (∀ (r : PRegion) (s : State), (s.region r).pstate = 2 → (s.region r).clock = .running →
    exec (.rampDone r) s = .next (setRatio (s.updRegion r (fun x => { x with
      pstate := 3, ramping := false, rampR := 0, finalCur := 0, grantAt := none })) r)) ∧
  (∀ (t : Telemetry) (s : State), s.supply.stageA = true →
    let s1 := s.updPower (fun p => { p with
      vin := t.vin.toNat, iin := t.iin.toNat, inputMw := t.inputMw, peak := decide (20000000 < t.inputMw)
      rails := t.rails.foldl (fun r x => if x.1 < 48 then Tab.upd {} r x.1 (fun (y : Rail) => { y with mean := x.2.1.toNat, peak := x.2.2.toNat }) else r) p.rails
      aux := t.aux.foldl (fun r x => if x.1 < 6 then Tab.upd {} r x.1 (fun (y : Rail) => { y with mean := x.2.1.toNat, peak := x.2.2.toNat }) else r) p.aux })
    let s2 := s1.each t.regions (fun u x => u.updRegion x.1 (fun r => { r with msMean := x.2.1.toNat, msPeak := x.2.2.toNat }))
    let s3 := s2.each t.regionMw (fun u x => u.updRegion x.1 (fun r => { r with msMw := x.2 }))
    let s4 := s3.each (t.groups.filter (fun x => decide (x.1 < 39))) (fun u x => u.updGroup x.1 (fun g => { g with mean := x.2.1.toNat, peak := x.2.2.toNat }))
    let s5 := s4.each t.stackMw (fun u x => u.updStack x.1 (fun y => { y with mw := x.2 }))
    let s6 := s5.each (List.range 4) (fun u p => u.updHub p (fun h => { h with partMw := if (u.layoutOf p).isSome then partPower u t p else 0 }))
    exec (.telemetryMs t) s = .next (if s6.managed && !s6.panelStopped then tightenFast s6 else s6))

/-- R314, R318 to R320, R325 to R327. -/
def Obligations.CapsAndIdleDepthsComplete : Prop :=
  (∀ (r : PRegion) (cur : Nat) (s : State), (s.region r).vset ≠ 0 → (s.region r).fenced = false → (s.region r).limit < cur →
    let s1 := s.updRegion r (fun y => { y with localR := ratioRule y.localR cur (s.region r).limit })
    exec (.localLimit r cur) s = .next (match (s.region r).assign with
      | some a => applyRatio s1 a.part a.crew
      | none => s1)) ∧
  (∀ (r : PRegion) (s : State), s.regionQuiet r = true → s.packetWaits r = false → (s.region r).depth = 0 → (s.region r).assign.isSome = true →
    1 ≤ s.allowedDepth r →
    exec (.idleClockGate r) s = .next (s.updRegion r (fun x => { x with depth := 1, idleSince := some s.now }))) ∧
  (∀ (r : PRegion) (t : Nat) (s : State), (s.region r).idleSince = some t → s.regionQuiet r = true → s.packetWaits r = false →
    (s.region r).waking = false →
    ((s.region r).depth = 1 → 2 ≤ s.allowedDepth r → t + 80000 ≤ s.now →
      exec (.idleRetention r) s = .next (s.updRegion r (fun x => { x with depth := 2 }))) ∧
    ((s.region r).depth = 2 → 3 ≤ s.allowedDepth r → t + 1200000 ≤ s.now →
      exec (.idleRegionOff r) s = .next (s.updRegion r (fun x => { x with depth := 3 })))) ∧
  (∀ (r : PRegion) (s : State), (s.region r).depth ≠ 0 → (s.region r).waking = false → (s.region r).fenced = false → s.panelStopped = false →
    (∀ a, (s.region r).assign = some a → s.partStopped a.part = false) →
    s.packetWaits r = true ∨ (s.region r).wakeReq = true ∨ (s.region r).startDue = true ∨ s.strokeNear r s.stroke.period = true →
    exec (.regionWake r) s = .next (s.updRegion r (fun y => { y with
      waking := true, wakeReq := false, grantAt := if y.depth = 1 then some s.now else none }))) ∧
  (∀ (r : PRegion) (t : Nat) (s : State), (s.region r).grantAt = some t → (s.region r).waking = true → (s.region r).depth ≠ 0 →
    t + (if (s.region r).depth = 3 then 120000 else if (s.region r).depth = 2 then 8000 else 100) ≤ s.now →
    let s1 := s.updRegion r (fun y => { y with
      count := (s.cox (r.val / 4)).count, depth := 0, waking := false, idleSince := none, wakes := if (s.region r).depth = 1 then y.wakes else sat 16 (y.wakes + 1), grantAt := none })
    let s2 := if (s.region r).depth = 1 then s1 else startRamp s1 r
    exec (.wakeDone r) s = .next (s2.each ((regionCores r).filter (fun k => (s2.core k).mode == .running)) (fun t k => catchAt t k none))) ∧
  (∀ (rp : List (PRegion × Int)) (sp : List (StackId × Int)) (s : State), s.managed = true →
    let s2 := (s.each rp (fun t x => t.updRegion x.1 (fun r => { r with pred := x.2 }))).each sp (fun t x => t.updStack x.1 (fun r => { r with pred := x.2 }))
    exec (.thermalPredict rp sp) s = .next (if s2.panelStopped then s2 else tightenHeat s2)) ∧
  (∀ s : State, s.canonical = true → s.managed = true → s.stroke.running = true → s.panelStopped = false → s.stroke.count % s.stroke.epoch = 0 →
    s.power.lastEpoch < s.stroke.count ∨ s.power.epochs = 0 → (∀ p, p < 4 → s.layoutOf p = none) →
    let mayRelax := !s.stroke.takeover || decide (1 ≤ s.power.epochs)
    let s2 := ((s.updPower (fun p => { p with epochs := p.epochs + 1, lastEpoch := s.stroke.count })).each
      ((List.range 4).filter (fun p => (s.hub p).lay.state != .applying)) latchCap).updStroke (fun k => { k with
      takeover := k.takeover && !mayRelax })
    exec .capEpoch s = .next (applyPanel (if mayRelax then relaxLocal s2 else s2)))

/-- R318 to R321, R324: a cap epoch with partitions formed. -/
def Obligations.CapEpochPostsEveryComponent : Prop :=
  ∀ s : State, s.managed = true → s.stroke.running = true → s.panelStopped = false → s.stroke.count % s.stroke.epoch = 0 →
    s.power.lastEpoch < s.stroke.count ∨ s.power.epochs = 0 →
    let mayRelax := !s.stroke.takeover || decide (1 ≤ s.power.epochs)
    let hold := fun (old new : Nat) => if mayRelax then new else max old new
    let n := ceilDiv s.firstLead s.stroke.epoch * s.stroke.epoch
    let panel := hold s.power.panelR (ratioRule s.power.panelR s.power.inputMw s.busLimit)
    let s2 := ((s.updPower (fun p => { p with epochs := p.epochs + 1, lastEpoch := s.stroke.count })).each
      ((List.range 4).filter (fun p => (s.hub p).lay.state != .applying)) latchCap).updStroke (fun k => { k with
      takeover := k.takeover && !mayRelax })
    let one := fun (t : State) (p : Nat) =>
      let part := hold (t.hub p).partR (match t.capOf p with
        | some c => ratioRule (t.hub p).partR (t.hub p).partMw c
        | none => (t.hub p).partR - 5)
      let t2 := postEvent (postEvent t p (.cap .panel 0 panel) n) p (.cap .partition 0 part) n
      let t3 := t2.each (t2.partCrews p) (fun u c => postEvent u p (.cap .thermal c (hold (u.crew p c).thermalR (u.thermalNew p c))) n)
      let t4 := t3.each (t3.partCrews p) (fun u c => stepCrew u p c)
      if t4.follows p then publishRatio (postEvent t4 p (.cap .follow 0 (t4.largestRatio p)) n) p n else t4
    let s3 := s2.each ((List.range 4).filter (fun p => (s2.layoutOf p).isSome && !s2.partStopped p)) one
    exec .capEpoch s = .next (applyPanel (if mayRelax then relaxLocal s3 else s3))

/-- R328, R329, R332 to R335, R383. -/
def Obligations.ThermalAndCoolantCommandsComplete : Prop :=
  (∀ (site : SiteId) (h : Fin 8) (a0 b0 pred : Int) (s : State), (s.cox site).live = true →
    let r := site.val * 4 + h.val / 2
    let s1 := s.updCox site (fun c => { c with hot := Tab.upd {} c.hot h (fun x => x.take s.now (a0 + s.calOf 1 (site.val * 16 + h.val * 2))
      (b0 + s.calOf 1 (site.val * 16 + h.val * 2 + 1)) pred) })
    let lost := fun (i : Nat) => let x := Tab.get ({} : HotSpot) (s1.cox site).hot i; x.aExcl && x.bExcl
    let s2 := s1.updRegion r (fun x => { x with subst := lost (h.val / 2 * 2) || lost (h.val / 2 * 2 + 1) })
    exec (.hotspotRead site h (a0, b0) pred) s = .next (thermalStep (match (s2.region r).assign with
      | some q => s2.updCrew q.part q.crew (fun c => { c with substLimit := (s2.crewRegions q.part q.crew).any (fun i => (s2.region i).subst) })
      | none => s2) r)) ∧
  (∀ (site : SiteId) (r t : Nat) (s : State), s.trips site = true → s.heatFenced site = false → r ∈ siteRegions site → (s.region r).hot113 = some t → t + 1000000 ≤ s.now →
    exec (.thermalFence113 site) s = .next (heatFence s site)) ∧
  (∀ (site : SiteId) (s : State), s.trips site = true → s.heatFenced site = false → exec (.comparatorTrip site) s = .next (heatFence s site)) ∧
  (∀ (c0 : Coolant) (s : State), s.supply.stageA = true → c0.leak = false ∨ s.cool.leak = true → ∃ t, exec (.coolantSample c0) s = .next t ∧
    t.cool.sampled = true ∧ t.cool.flow = (s.calibrated c0).flow ∧ t.cool.dp = (s.calibrated c0).dp ∧ t.cool.outlet = (s.calibrated c0).outlet ∧
    t.cool.inlet = (s.calibrated c0).inlet ∧ t.cool.alert80 = decide (100 * (s.calibrated c0).flow < 8 * requiredFlow (s.calibrated c0).inlet) ∧
    t.cool.alert60 = decide (100 * (s.calibrated c0).flow < 6 * requiredFlow (s.calibrated c0).inlet) ∧
    t.cool.inletHigh = decide (400 < (s.calibrated c0).inlet) ∧ t.cool.leak = c0.leak ∧ t.regions = s.regions ∧ t.cores = s.cores ∧ t.power = s.power) ∧
  (∀ (c0 : Coolant) (s : State), s.supply.stageA = true → c0.leak = true → s.cool.leak = false →
    exec (.coolantSample c0) s = .next (leakFound (takeSample (s.calibrated c0) s))) ∧
  (∀ (t : Nat) (s : State), s.supply.stageA = true → s.cool.lowSince = some t → t + 1000000000 ≤ s.now →
    exec .coolantSlowStop s = .next (orderedStop s 2)) ∧
  (∀ (t : Nat) (s : State), s.supply.stageA = true → s.cool.hotSince = some t → t + 1000000000 ≤ s.now → exec .inletStop s = .next (orderedStop s 3)) ∧
  (∀ s : State, s.supply.stageA = true → s.suddenFall = true → exec .suddenLoss s = .next (orderedStop (setCoolRc s 31) 1)) ∧
  (∀ (s : State), let s1 := s.each ((List.range 4).filter (fun p => match (s.hub p).stopping with
      | some t => s.drainedNow p || decide (t + 1000000 ≤ s.now)
      | none => false)) stopEnds
    (s1.panelStopped = false → exec .orderedStopDrain s = .next s1) ∧
    (s1.panelStopped = true → s1.cool.drained = false → (∀ p, p < 4 → (s1.hub p).stopping = none) →
      let s2 := switchOff s1 (s1.regions.map (·.1))
      exec .orderedStopDrain s = .next ((s2.each (s2.stackTab.map (·.1)) (fun t st => t.updStack st (fun x => { x with
        selfRefresh := true }))).updCool (fun c => { c with drained := true })))) ∧
  (∀ (before after : List Int) (t : Nat) (s : State), s.cool.stopAt = some t → s.supply.stageA = true → t + 2000000000 ≤ s.now →
    (before.zip after).any (fun x => decide (x.1 < x.2)) = true → exec (.supervisorCheck before after) s = .next (removeStageA s true)) ∧
  (∀ s : State, s.supply.stageA = true → exec .leakSignal s = .next (raiseAll (orderedStop ((s.updCool (fun c => { c with
    leak := true, leakAt := some (c.leakAt.getD s.now) })).updSupply (fun x => { x with leakN := true })) 4) 3)) ∧
  (∀ (t : Nat) (s : State), s.cool.leakAt = some t → s.supply.stageA = true → t + 500000000 ≤ s.now →
    exec .leakPowerOff s = .next (removeStageA s true)) ∧
  (∀ s : State, s.supply.stageA = true → 2 ≤ s.bring.done → exec .heartbeatLoss s = .next (removeStageA s true))

/-- R340 to R344: power arrival and the first four steps. -/
def Obligations.FirstBringUpStepsRun : Prop :=
  (∀ (c : Instr) (s t : State),
    (c = .bulkChargeDone ∧ t = s.updSupply (fun u => { u with charged := true })) ∨
      (∃ vin h, c = .powerArrival vin h ∧ t = s.updSupply (fun u => { u with vin := vin, supEn := true, hubOk := h })) →
    let all := t.supply.supEn = true ∧ t.supply.charged = true ∧ t.supply.stageA = false ∧ 5000 ≤ t.supply.vin ∧ t.supply.vin ≤ 6000
    (all → exec c s = .next (bootHubs (t.updSupply (fun u => { u with stageA := true, pg := true, faultN := false })) (fun k => t.supply.hubOk.getLsbD k))) ∧
    (¬ all → exec c s = .next t)) ∧
  (∀ (p : PortId) (s : State), s.portLive p = true → s.bring.running = 0 → s.bring.stopped = false → s.bring.failed = false →
    let run := fun n => s.updBring (fun b => { b with running := n, failed := false, verdict := 0, verdictDetail := 0, port := p, since := s.now, input := .none })
    (∀ vin, s.bring.done = 0 → 5000 ≤ vin → vin ≤ 6000 → s.power.converters ≤ 8 →
      exec (.supply p vin) s = .next (powerSites ((beginBringUp (run 1)).updSupply (fun u => { u with vin := vin })))) ∧
    (∀ vin, s.bring.done = 0 → vin < 5000 ∨ 6000 < vin →
      exec (.supply p vin) s = .next (((beginBringUp (run 1)).updSupply (fun u => { u with vin := vin })).updBring (fun b =>
        { b with verdict := 2, verdictDetail := 0xFFFF }))) ∧
    (s.bring.done = 1 →
      let t := (run 2).updStroke (fun k => { k with qualifying := true, intervals := [], lastAt := none, quals := [] })
      ((s.hub 0).live = true → exec (.hub p) s = .next t) ∧
      ((s.hub 0).live = false → exec (.hub p) s = .next (t.updBring (fun b => { b with verdict := 3, verdictDetail := 0 })))) ∧
    (∀ inp : AuthInput, s.bring.done = 2 →
      (inp.factoryListOk = true → inp.calibrationOk = true → inp.hallmarkOk = true →
        exec (.auth p inp) s = .next ((run 3).updBring (fun b => { b with input := .auth inp }))) ∧
      (inp.factoryListOk = false ∨ inp.calibrationOk = false ∨ inp.hallmarkOk = false →
        exec (.auth p inp) s = .next ((run 3).updBring (fun b => { b with verdict := 4, verdictDetail := 0xFFFF })))) ∧
    (∀ repaired : List (StackId × Nat), s.bring.done = 3 →
      let lanes := fun (st : Nat) => ((repaired.find? (fun x => x.1.val == st)).map (·.2)).getD 0
      let t := (run 4).each s.part.stackList (fun t st => t.updStack st (fun _ =>
        if s.defects.names 7 st then { state := 4, cause := 4 } else { state := 1, selfRefresh := false, repaired := sat 8 (lanes st) }))
      exec (.inventory ⟨p, repaired⟩) s = .next (t.each (s.defects.inForce.filter (fun e => e.kind == 6 && s.part.stackPresent (e.unit / 2 ^ 18 / 32))) redirectListed)))

/-- R346 to R352: the last five steps. -/
def Obligations.LastBringUpStepsRun : Prop :=
  ∀ (p : PortId) (s : State),
    (s.portLive p = true → s.bring.running = 0 → s.bring.stopped = false → s.bring.failed = false →
      let run := fun n => s.updBring (fun b => { b with running := n, failed := false, verdict := 0, verdictDetail := 0, port := p, since := s.now, input := .none })
      (s.bring.done = 4 → s.coolantBad = false →
        let all := (List.range 624).filter (fun r => s.power.efuses.has (r / 4) && !(s.region r).fenced && (s.region r).pstate == 0)
        exec (.waves p) s = .next (nextWave ((run 5).updBring (fun b => { b with waveLeft := all })))) ∧
      (s.bring.done = 4 → s.coolantBad = true →
        exec (.waves p) s = .next ((run 5).updBring (fun b => { b with verdict := 5, verdictDetail := 0 }))) ∧
      (∀ res, s.bring.done = 5 →
        exec (.starttest p res) s = .next ((run 6).updBring (fun b => { b with input := .tests res }))) ∧
      (∀ lanes channels, s.bring.done = 6 →
        exec (.mesh p ⟨lanes, channels⟩) s = .next ((run 7).updBring (fun b => { b with input := .mesh lanes channels }))) ∧
      (7 ≤ s.bring.done →
        let t := beginLoad (run 8)
        (t.bring.waveLeft = [] → exec (.load p) s = .next t) ∧
        (t.bring.waveLeft ≠ [] → exec (.load p) s = .next (nextWave t))) ∧
      (8 ≤ s.bring.done → (s.layoutOf p).isSome = true → s.bring.ready.has p = false →
        exec (.ready p) s = .next (((run 9).updBring (fun b => { b with ready := b.ready.add p })).updCmd p (fun c =>
          { c with state := 1, locked := true, startAt := (run 9).firstLead })))) ∧
    (s.bring.running = 5 ∨ s.bring.running = 8 → s.bring.verdict = 0 → s.bring.waveLeft ≠ [] → s.waveSettled = true →
      exec .powerWave s = .next (nextWave s)) ∧
    (¬ ((s.bring.running = 5 ∨ s.bring.running = 8) ∧ s.bring.verdict = 0) → s.bring.offLeft ≠ [] → s.bring.offWindow ≠ some (s.now / 10000) →
      exec .powerWave s = .next ((s.updBring (fun b => { b with offLeft := b.offLeft.drop 24, offWindow := some (s.now / 10000) })).each
        (s.bring.offLeft.take 24) regionOff)) ∧
    (∀ (k : PCore) (res : List Finding), s.bring.input = .tests res → s.bring.running = 6 → s.bring.since + 1000000000 ≤ s.now →
      (s.region (coreRegion k)).pstate = 3 → (s.region (coreRegion k)).fenced = false → Finding.core k ∉ res →
      exec (.coreTestTimeout k) s = .next (s.updBring (fun b => { b with input := .tests (res ++ [.core k]) })))

/-- R342, R344: the order of the steps. -/
def Obligations.StepsOutOfOrderAreRefused : Prop :=
  ∀ (p : PortId) (n : Nat) (c : Instr) (s : State),
    ((n = 1 ∧ ∃ vin, c = .supply p vin) ∨ (n = 2 ∧ c = .hub p) ∨ (n = 3 ∧ ∃ inp, c = .auth p inp) ∨ (n = 4 ∧ ∃ rep, c = .inventory ⟨p, rep⟩) ∨
      (n = 5 ∧ c = .waves p) ∨ (n = 6 ∧ ∃ res, c = .starttest p res) ∨ (n = 7 ∧ ∃ training, c = .mesh p training) ∨
      (n = 8 ∧ c = .load p) ∨ (n = 9 ∧ c = .ready p)) →
    (s.portLive p = false → exec c s = .next s) ∧
    (n ≤ 7 → n ≤ s.bring.done → exec c s = .next s) ∧
    (s.portLive p = true → (n = 9 → s.bring.ready.has p = false) → n ≠ s.bring.running → ¬ (n ≤ 7 ∧ n ≤ s.bring.done) →
      s.bring.running ≠ 0 ∨ s.bring.stopped = true ∨ (n ≤ 7 ∧ s.bring.done + 1 < n) ∨ (n = 8 ∧ s.bring.done < 7) ∨ (n = 9 ∧ s.bring.done < 8) ∨
        (s.bring.failed = true ∧ (s.bring.verdict ≠ 5 ∨ n ≠ 5)) →
      exec c s = .next (s.updBring (fun b => { b with errCode := 1, errStep := n, errPort := p, errDetail := 0 })))

/-- R342 to R345, R359, R360. -/
def Obligations.StepsEndAndRecoveryLoads : Prop :=
  ∀ s : State,
    (∀ ce ue, s.stepReady = true →
      let n := s.bring.running
      (n = 15 → exec (.stepComplete ce ue) s = .next (raiseAll (restartCompletes s) 1)) ∧
      (n ≠ 15 → s.bring.verdict ≠ 0 →
        let t := s.updBring (fun b => { b with
          running := 0, failed := true, errCode := b.verdict, errStep := n, errPort := b.port, errDetail := b.verdictDetail
          waveLeft := [], waveNow := [], input := .none })
        exec (.stepComplete ce ue) s = .next (raiseAll (if n = 1 then unpowerSites t
          else if n = 2 then t.updStroke (fun k => { k with qualifying := false, intervals := [], lastAt := none, quals := [] })
          else if n = 4 then { t with stackTab := [], slices := [] } else t) 1)) ∧
      (∀ u : State, n ≠ 15 → s.bring.verdict = 0 →
        (n = 2 ∧ u = hubCompletes s) ∨ (∃ inp, n = 3 ∧ s.bring.input = .auth inp ∧ u = authCompletes inp s) ∨
          (∃ res, n = 6 ∧ s.bring.input = .tests res ∧ u = testsComplete res s) ∨
          (∃ lanes ch, n = 7 ∧ s.bring.input = .mesh lanes ch ∧ u = meshCompletes lanes ch s) ∨
          (n = 8 ∧ u = endLoad ce ue s) ∨ ((n = 1 ∨ n = 4 ∨ n = 5 ∨ n = 9) ∧ u = s) →
        exec (.stepComplete ce ue) s = .next (raiseAll (u.updBring (fun b => { b with running := 0, done := n, waveNow := [], input := .none })) 1))) ∧
    (∀ inp, let bad := (inp.mismatched.map (·.val)).filter (fun st => s.part.siteList.contains st && !(s.cox st).fenced && !(s.cox st).mismatch)
      let t1 := s.each bad (fun s site => secRecord ((cutDie s site 0).updCox site (fun c => { c with mismatch := true })) 0x18 site)
      let t2 := calInForce (t1.each inp.bezels.zipIdx (fun s x => if x.2 < 4 then admitBezel s x.2 x.1 else s))
      authCompletes inp s = t2.draw.updSec (fun x => { x with report := t2.hallmarkReport [] })) ∧
    (∀ lanes channels, let t := (meshPasses 157 s).updBring (fun b => { b with
        noChannel := (channels.map (fun (c : SiteId × Fin 4) => c.1.val * 32 + 24 + c.2.val)).foldl NSet.add [] })
      meshCompletes lanes channels s = t.each ((List.range 16).filter s.part.fportPresent) (fun t f =>
        t.updFport f (fun x => { x with lanes := lanes.getD f 0 }))) ∧
    (∀ p : PortId, s.portLive p = true → exec (.restart p) s = .next ((restartPanel s).updBring (fun b => { b with port := p }))) ∧
    (∀ p : PortId, s.bring.recovery = true → s.supply.booted = true → s.part.hostPresent p = true → (s.hub p).live = true → (s.hub p).linkUp = true →
      s.bring.recovState = 0 ∨ s.bring.recovState = 4 →
      exec (.recoveryGo p) s = .next ((s.updBring (fun b => { b with
        recovState := 1, recovSupplied := 0, recovAttempts := min (b.recovAttempts + 1) 255 })).emit (.hostRead p (s.hub p).recovAddr (s.hub p).recovLen))) ∧
    (s.bring.recovery = true → s.bring.recovState = 1 →
      (exec (.recoveryFetchDone none) s = .next (s.updBring (fun b => { b with recovState := 4, recovSupplied := 5 }))) ∧
      (∀ i, imageCause s.sec.floor i = 0 →
        exec (.recoveryFetchDone (some i)) s = .next (s.updBring (fun b => { b with recovState := 3, recovImage := some i }))) ∧
      (∀ i, imageCause s.sec.floor i ≠ 0 →
        exec (.recoveryFetchDone (some i)) s = .next (s.updBring (fun b => { b with recovState := 4, recovSupplied := imageCause s.sec.floor i })))) ∧
    (∀ i, s.bring.recovery = true → s.bring.recovState = 3 → s.bring.recovImage = some i →
      exec .recoveryWriteDone s = .next (bootHubs (s.updSec (fun x => { x with slotImage := some i })) (fun h => (s.hub h).live)))

/-- R188 to R199: layout streams. -/
def Obligations.LayoutsAreStagedAndReplaced : Prop :=
  ∀ (p : PortId) (s : State),
    let y := (s.hub p).lay
    (s.portLive p = true → y.state = .replacePending ∨ y.state = .applying ∨ s.bring.done < 4 →
      exec (.layoutStage p) s = .next (s.updLay p (fun y => y.fail 0 ⟨0x19, 0, noRecord⟩))) ∧
    (s.portLive p = true → y.state = .empty ∨ y.state = .staged ∨ y.state = .rejected → 4 ≤ s.bring.done →
      let t := s.updLay p (fun y => { y.fail 0 ⟨0, 0, 0⟩ with state := .fetching, staged := none })
      ((s.layoutOf p).isSome = true → exec (.layoutStage p) s = .next (raiseEvt (t.emit (.hostRead p y.addr y.len)) p 2)) ∧
      (s.layoutOf p = none →
        exec (.layoutStage p) s = .next (raiseEvt ((t.updHub p (fun h => { h with interleave := [] })).emit (.hostRead p y.addr y.len)) p 2))) ∧
    (y.state = .fetching →
      (exec (.layoutFetchDone p none) s = .next (raiseEvt (s.updLay p (fun y => { y.fail 0 ⟨3, 0, noRecord⟩ with state := .rejected })) p 2)) ∧
      (∀ b e, s.stageCheck p y.len b = some e →
        exec (.layoutFetchDone p (some b)) s = .next (raiseEvt (s.updLay p (fun y => { y.fail 0 e with state := .rejected })) p 2)) ∧
      (∀ b, s.stageCheck p y.len b = none →
        let t := s.updLay p (fun y => { y with state := .staged, staged := some (readLayout b) })
        ((s.layoutOf p).isSome = true → exec (.layoutFetchDone p (some b)) s = .next (raiseEvt t p 2)) ∧
        (s.layoutOf p = none → exec (.layoutFetchDone p (some b)) s =
          .next (raiseEvt (t.updHub p (fun h => { h with interleave := s.liveStacks (readLayout b).part.stackMask })) p 2)))) ∧
    (s.portLive p = true → y.state = .staged →
      let t := s.updLay p (fun y => { y with state := .empty, staged := none })
      ((s.layoutOf p).isSome = true → exec (.layoutDiscard p) s = .next (raiseEvt t p 2)) ∧
      (s.layoutOf p = none → exec (.layoutDiscard p) s = .next (raiseEvt (t.updHub p (fun h => { h with interleave := [] })) p 2)) ∧
      ((s.layoutOf p).isSome = true → s.partStopped p = false →
        let u := postEvent s p .replacement y.repl
        (u.posted = .ok → exec (.layoutReplace p) s = .next (raiseEvt ((u.updLay p (fun y => { y with state := .replacePending })).setPosted s.posted) p 2)) ∧
        (u.posted ≠ .ok → exec (.layoutReplace p) s = .next (raiseEvt ((setLayRc s p 25).setPosted s.posted) p 2)))) ∧
    (s.portLive p = true → y.state = .replacePending →
      exec (.layoutCancel p) s = .next (raiseEvt ((cancelEvents s p (fun e => e == .replacement)).updLay p (fun y => { y with state := .staged })) p 2)) ∧
    (s.quieting p = true → s.partQuiet p = true → exec (.replaceQuiet p) s = .next (resetPartition s p)) ∧
    (∀ t0, s.quieting p = true → s.partQuiet p = false → y.quietSince = some t0 → t0 + 1000000 ≤ s.now →
      exec (.replaceDrainTimeout p) s = .next (raiseEvt (resetPartition (setLayRc (clearFabric s p) p 27) p) p 2)) ∧
    (∀ ce ue l, y.staged = some l → y.state = .applying → y.loading = true → (s.hub p).moving = false → (s.layoutOf p).isSome = true →
      let s0 := if s.paused p then tablesInPlace (recompute s p) p else s
      let t := finishApply (loadLayout (assignRegions (s0.updLay p (fun y => { y with layout? := some l })) p l) p l false ce ue) p l
      exec (.replaceLoadDone p ce ue) s = .next ((t.each (t.partRegions p) (fun s r => s.updRegion r (fun x => { x with loading := none }))).updLay p
        (fun y => { y with staged := none, pendingStart := true }))) ∧
    (∀ (r : PRegion) ce ue lc l k lead, (s.region r).loading = some lc → s.partOfSite (r.val / 4) = some p.val → s.layoutOf p = some l →
      s.coreOf lc = some k → s.leadOf k = some lead →
      exec (.spareLoadDone r ce ue) s = .next (loadCore (placementReads (s.updRegion r (fun x => { x with loading := none })) p (l.readRuns [lead]) ce ue)
        p l k lead true))

/-- R13, R389 to R395, R469: BAR0. -/
def Obligations.HostRegistersAnswer : Prop :=
  ∀ (p : PortId) (s : State), s.hostUp p = true → s.bring.recovery = false →
    (∀ off : BitVec 26, off.toNat % 4 = 0 →
      (∀ r, barPlace off.toNat = .page r → exec (.rcRead p off) s = .next ((clearRc s p r 0xFFFFFFFF).emit (.completion p 0 (bytesLE 4 (s.hubWord p r))))) ∧
      (∀ v, (∀ r, barPlace off.toNat ≠ .page r) → s.unitWord p (barPlace off.toNat) = some v →
        exec (.rcRead p off) s = .next (s.emit (.completion p 0 (bytesLE 4 v)))) ∧
      (barPlace off.toNat = .reserved → exec (.rcRead p off) s = .next ((hostError s p 31 off.toNat false).emit (.completion p 1 []))) ∧
      (∀ r data, barPlace off.toNat = .page r → exec (.registerWrite p off data) s = .next (writeReg s p r data.toNat)) ∧
      (∀ data, barPlace off.toNat = .reserved → exec (.registerWrite p off data) s = .next ((hostError s p 31 off.toNat false).emit (.writeError p 1)))) ∧
    (∀ off : BitVec 26, off.toNat % 4 ≠ 0 →
      exec (.rcRead p off) s = .next ((hostError s p 30 off.toNat false).emit (.completion p 1 [])) ∧
      (∀ data, exec (.registerWrite p off data) s = .next ((hostError s p 30 off.toNat false).emit (.writeError p 1)))) ∧
    (∀ (o : ObjId) (data : W32),
      (s.reachSync p o = false →
        exec (.hostSignal p o data) s = .next ((hostError s p 31 (0x400000 + o.val * 16 + 12) false).emit (.writeError p 1))) ∧
      (s.reachSync p o = true → data.toNat % 65536 = 0 → exec (.hostSignal p o data) s = .next s) ∧
      (∀ home, s.reachSync p o = true → data.toNat % 65536 ≠ 0 → s.objNode o = some home →
        exec (.hostSignal p o data) s = .next (hubForward s p (syncPacket 1 p 0 o 0 (data.toNat % 65536) 0 (hubNode p) home)
          { tag := 0, kind := 3, size := 4, addr := 0x400000 + o.val * 16 + 12 }))) ∧
    (∀ data : W32,
      let v := s.committed p 0x430 (data.toNat % 2 ^ 16) / 2 ^ 30 * 2 ^ 30
      (v < 0x020000000000 ∨ v = 0x100000000000 → exec (.bar2BaseCommit p data) s = .next (s.updHub p (fun h => { h with bar2 := v }))) ∧
      (¬ (v < 0x020000000000 ∨ v = 0x100000000000) → exec (.bar2BaseCommit p data) s = .next s)) ∧
    (∀ off : BitVec 26, off.toNat % 4 = 0 →
      (∀ r b, s.aliasBit p off.toNat = .page r b → r < 0x8000 →
        (exec (.aliasRead p off) s = .next ((clearRc s p r (BitVec.ofNat 32 (2 ^ b))).emit
          (.completion p 0 (bytesLE 4 (if (s.hubWord p r).testBit b then 1 else 0))))) ∧
        (∀ d : W32, woWord r = true → d.toNat % 2 = 1 → exec (.aliasWrite p off d) s = .next (aliasAct s p r b)) ∧
        (∀ d : W32, woWord r = true → d.toNat % 2 = 0 → exec (.aliasWrite p off d) s = .next s) ∧
        (∀ d : W32, woWord r = false → exec (.aliasWrite p off d) s = .next (aliasSet s p r b (d.toNat % 2)))) ∧
      (∀ u b v, s.aliasBit p off.toNat = .unit u b → s.unitWord p u = some v →
        exec (.aliasRead p off) s = .next (s.emit (.completion p 0 (bytesLE 4 (if v.testBit b then 1 else 0)))) ∧
        (∀ d : W32, (∀ l, u ≠ .core l 0) → exec (.aliasWrite p off d) s = .next s)))

/-- R217, R276, R281, R287, R387, R390: BAR2 and the link. -/
def Obligations.Bar2AccessesComplete : Prop :=
  ∀ (p : PortId) (s : State),
    (∀ off, s.hostUp p = true → exec (.bar2Read p off 0) s = .next (s.emit (.completion p 0 []))) ∧
    (∀ (off : BitVec 36) (len : Nat), 1 ≤ len → s.hostUp p = true →
      let a := (s.hub p).bar2 + off.toNat
      ((s.hub p).moving = true → exec (.bar2Read p off len) s = .next (s.updHub p (fun h => { h with barHeld := h.barHeld ++ [(0, a, len, [])] }))) ∧
      ((s.hub p).moving = false → exec (.bar2Read p off len) s = .next (serveBar2 s p 0 a len []))) ∧
    (∀ (off : BitVec 36) (data : List Byte), s.hostUp p = true →
      let a := (s.hub p).bar2 + off.toNat
      ((s.hub p).moving = true → exec (.bar2Write p off data) s = .next (s.updHub p (fun h => { h with barHeld := h.barHeld ++ [(1, a, data.length, data)] }))) ∧
      ((s.hub p).moving = false → exec (.bar2Write p off data) s = .next (serveBar2 s p 1 a data.length data))) ∧
    (∀ (off : BitVec 36) op size op0 op1, s.hostUp p = true →
      let a := (s.hub p).bar2 + off.toNat
      let d := bytesLE 1 (atomCode op size a) ++ bytesLE 8 (op0.toNat % 2 ^ (8 * size)) ++ bytesLE 8 (op1.toNat % 2 ^ (8 * size))
      ((size = 4 ∨ size = 8) → off.toNat % size = 0 → (s.hub p).moving = true →
        exec (.bar2Atomic p off op size op0 op1) s = .next (s.updHub p (fun h => { h with barHeld := h.barHeld ++ [(2, a, size, d)] }))) ∧
      ((size = 4 ∨ size = 8) → off.toNat % size = 0 → (s.hub p).moving = false →
        exec (.bar2Atomic p off op size op0 op1) s = .next (serveBar2 s p 2 a size d)) ∧
      (¬ ((size = 4 ∨ size = 8) ∧ off.toNat % size = 0) → exec (.bar2Atomic p off op size op0 op1) s = .next (s.emit (.completion p 1 [])))) ∧
    ((s.hub p).moving = true →
      exec (.hbmMoveDone p) s = .next (((moveHbm s p).updHub p (fun h => { h with barHeld := [] })).each ((s.hub p).barHeld) (fun s x =>
        serveBar2 s p x.1 x.2.1 x.2.2.1 x.2.2.2))) ∧
    (s.hostUp p = true → exec (.hostLinkDown p) s = .next ((stopReported (s.updHub p (fun h => { h with linkUp := false, barHeld := [] })) p).updCmd p
      (fun c => { c with state := 0, fetch := 0 }))) ∧
    (s.part.hostPresent p = true → (s.hub p).live = true → exec (.hostLinkReturn p) s = .next (s.updHub p (fun h => { h with linkUp := true })))

/-- R399 to R406: the command ring. -/
def Obligations.CommandRingRuns : Prop :=
  ∀ (p : PortId) (s : State),
    let c := (s.hub p).cmd
    (c.fetch = 1 → c.state = 1 →
      exec (.cmdHeaderReadDone p none) s = .next (fetchError s p 1) ∧
      ∀ tail head : W32,
        (2 ^ c.sqLog ≤ tail.toNat → exec (.cmdHeaderReadDone p (some (tail, head))) s = .next (fetchError s p 3)) ∧
        (tail.toNat < 2 ^ c.sqLog → 2 ^ c.cqLog ≤ head.toNat → exec (.cmdHeaderReadDone p (some (tail, head))) s = .next (fetchError s p 4)) ∧
        (tail.toNat < 2 ^ c.sqLog → head.toNat < 2 ^ c.cqLog →
          let t := s.updCmd p (fun c => { c with sqTail := tail.toNat, cqHead := head.toNat })
          let n := ((t.hub p).cmd).takes
          (n = 0 → exec (.cmdHeaderReadDone p (some (tail, head))) s = .next (endFetch t p)) ∧
          (n ≠ 0 → exec (.cmdHeaderReadDone p (some (tail, head))) s =
            .next (readRecords (t.updCmd p (fun c => { c with fetch := 2, fetchN := n })) p n)))) ∧
    (c.fetch = 2 → c.state = 1 →
      exec (.cmdRecordsReadDone p none) s = .next (fetchError s p 2) ∧
      ∀ l : List (List Byte), l.length = c.fetchN →
        exec (.cmdRecordsReadDone p (some l)) s = .next (settleCmds (endFetch (s.updCmd p (fun c => { c with
          sqHead := c.sqHead + l.length, fetched := c.fetched ++ l.zipIdx.map (fun x => (c.sqHead + x.2, x.1)) })) p) p)) ∧
    (∀ i r,
      let u := settleCmds s p
      (u.headCmd p 0 = some (i, r) → exec (.cmdNop p) s = .next (endCmd (popCmd u p 0) p i 0 0)) ∧
      (u.headCmd p 1 = some (i, r) →
        exec (.copyIn p) s = .next (settleCmds ((popCmd u p 0).emit (.hostRead p (recNat r 16 8) (recNat r 32 4))) p)) ∧
      (u.headCmd p 2 = some (i, r) → exec (.copyOut p) s = .next (settleCmds (popCmd u p 0) p)) ∧
      (∀ home,
        let o := recNat r 16 4
        u.headCmd p 3 = some (i, r) → u.objNode o = some home → u.partOfDie (objDie o) = some p.val →
        exec (.cmdSignal p) s = .next (settleCmds (hubForward (popCmd u p 0) p (syncPacket 1 p 0 o 0 (recNat r 20 2) 0 (hubNode p) home)
          { tag := 0, kind := 4, size := i, addr := o }) p)) ∧
      (u.headCmd p 3 = some (i, r) → u.ownObject p (recNat r 16 4) = false → exec (.cmdSignal p) s = .next (endCmd (popCmd u p 0) p i 1 0)) ∧
      (∀ o, o = recNat r 16 4 →
        let x := u.sync o
        let t := popCmd u p x.releases
        u.headCmd p 4 = some (i, r) →
        (u.ownObject p o = false → exec (.cmdWait p) s = .next (endCmd t p i 1 x.releases)) ∧
        (u.ownObject p o = true → x.faulted = true → exec (.cmdWait p) s = .next (endCmd t p i 9 x.releases)) ∧
        (u.ownObject p o = true → x.faulted = false → x.released = true → exec (.cmdWait p) s = .next (endCmd t p i 0 x.releases)) ∧
        (u.ownObject p o = true → x.faulted = false → x.released = false → exec (.cmdWait p) s = .next (settleCmds t p))) ∧
      (∀ n, n = recNat r 24 6 →
        let t := postEvent (popCmd u p 0) p (if recByte r 16 = 0 then .phase (Fin.ofNat 16 (recByte r 17))
          else .window (Fin.ofNat 2 (recByte r 17)) (Fin.ofNat 1024 (recNat r 18 2)) (recNat r 32 4)) n
        u.headCmd p 5 = some (i, r) →
        (t.posted = .stale → exec (.cmdEvent p) s = .next (endCmd t p i 6 n)) ∧
        (t.posted = .full → exec (.cmdEvent p) s = .next (endCmd t p i 7 n)) ∧
        (t.posted ≠ .stale → t.posted ≠ .full → exec (.cmdEvent p) s = .next (settleCmds t p))) ∧
      (∀ n, n = recNat r 24 6 →
        u.headCmd p 6 = some (i, r) →
        (n ≤ u.stroke.count → exec (.cmdStroke p) s = .next (endCmd (popCmd u p 0) p i 0 n)) ∧
        (u.stroke.count < n → exec (.cmdStroke p) s = .next (settleCmds (popCmd u p 0) p)))) ∧
    (∀ i ce ue a, (((s.hub p).cmd.active).filter (fun a => isCopy a.rec_))[i]? = some a →
      let n := recNat a.rec_ 32 4
      let base := recNat a.rec_ 24 8
      let ps := s.copyPieces p base n
      exec (.copyDone p i none ce ue) s = .next (endCmd s p a.index 3 0) ∧
      ∀ d, (s.hub p).moving = false → s.copyFlows ps = true →
        (a.opc = 1 → d.length = n →
          let r := ps.foldl (copyInPiece p base ce ue d) { s := s }
          exec (.copyDone p i (some d) ce ue) s = .next (endCmd r.s p a.index r.status r.moved)) ∧
        (a.opc ≠ 1 →
          let r := ps.foldl (copyOutPiece p base ce ue) { s := s }
          (r.out = [] → exec (.copyDone p i (some d) ce ue) s = .next (endCmd r.s p a.index r.status r.moved)) ∧
          (r.out ≠ [] → exec (.copyDone p i (some d) ce ue) s =
            .next (endCmd (r.s.emit (.hostWrite p (recNat a.rec_ 16 8) r.out)) p a.index r.status r.moved)))) ∧
    (∀ x rest,
      let u := settleCmds s p
      let c := (u.hub p).cmd
      c.held = x :: rest →
      (c.room = 0 → u.partStopped p = true → ∀ ok, exec (.completionWrite p ok) s = .next (u.updCmd p (fun c => { c with
        held := rest, lost := min (c.lost + 1) 65535 }))) ∧
      (c.room ≠ 0 → exec (.completionWrite p false) s = .next (fetchError u p 5)) ∧
      (c.room ≠ 0 →
        let wrap := decide (c.cqTail + 1 = 2 ^ c.cqLog)
        let t := (u.updCmd p (fun c => { c with held := rest, cqTail := if wrap then 0 else c.cqTail + 1, phase := c.phase != wrap })).emit
          (.hostWrite p (c.cq + 32 * c.cqTail) (x.bytes c.sqLog c.phase))
        (x.irq = none → exec (.completionWrite p true) s = .next t) ∧
        (∀ v, x.irq = some v → c.coalesceNow = true → exec (.completionWrite p true) s = .next (t.updCmd p (fun c => { c with owed := c.owed.add v }))) ∧
        (∀ v, x.irq = some v → c.coalesceNow = false → exec (.completionWrite p true) s = .next (msixSend t p v)))) ∧
    (c.state = 3 → (s.hub p).live = true → (s.hub p).linkUp = true →
      exec (.cmdResume p) s = .next (s.updCmd p (fun c => { c with resume := true, err := 0 })))

/-- R415 to R417, R423, R424: what the link layer and the firewall make of a frame. -/
def Obligations.FramesAreJudged : Prop :=
  ∀ (f : FpId) (fr : Frame) (c : Instr) (s : State),
    ((c = .idle f fr ∧ fr.hd.type = 0x08) ∨ (c = .keyUpdate f fr ∧ fr.hd.type = 0x09) ∨ (c = .data f fr ∧ fr.hd.type = 0x10) ∨
      (c = .scredit f fr ∧ fr.hd.type = 0x11) ∨ (c = .wcredit f fr ∧ fr.hd.type = 0x12) ∨ (c = .chreset f fr ∧ fr.hd.type = 0x13) ∨
      (c = .publish f fr ∧ fr.hd.type = 0x14)) →
    let p := s.fport f
    let heard := s.updFport f (fun p => { p with lastRx := s.now, grace := p.grace - 1 })
    let keyOk := fr.hd.key = p.keyBit ∨ 0 < p.grace
    let back := takeReturns heard f fr
    (p.state ≠ 4 → exec c s = .next s) ∧
    (p.state = 4 → fr.fcsOk = false → exec c s = .next (portNak s f)) ∧
    (p.state = 4 → fr.fcsOk = true → fr.tagOk = false → exec c s = .next (portTagFail heard f)) ∧
    (p.state = 4 → fr.fcsOk = true → fr.hd.key ≠ p.keyBit → p.grace = 0 → exec c s = .next (portTagFail heard f)) ∧
    (p.state = 4 → fr.fcsOk = true → fr.tagOk = true → keyOk → 0x10 ≤ fr.hd.type.toNat → fr.hd.seq.toNat ≠ p.seqIn →
      exec c s = .next (portNak back f)) ∧
    (p.state = 4 → fr.fcsOk = true → fr.tagOk = true → keyOk → fr.hd.type.toNat < 0x10 → (back.fport f).badHeader fr = true →
      exec c s = .next (portMalformed back f)) ∧
    (p.state = 4 → fr.fcsOk = true → fr.tagOk = true → keyOk → 0x10 ≤ fr.hd.type.toNat → fr.hd.seq.toNat = p.seqIn →
      let next_ := back.updFport f (fun p => { p with seqIn := (p.seqIn + 1) % 2 ^ 32, nakSent := false })
      (next_.fport f).badHeader fr = true → exec c s = .next (portMalformed next_ f))

/-- R417 to R428: frames that arrive. -/
def Obligations.FramesAreTaken : Prop :=
  ∀ (f : FpId) (fr : Frame) (s u : State), (linkLayer s f fr).2 = true → firewall (linkLayer s f fr).1 f fr = (u, true) →
    (fr.hd.type = 0x10 →
      let ch := fr.hd.channel.toNat
      (fr.hd.gen.toNat ≠ u.portGen f → exec (.data f fr) s = .next (u.updFport f (fun p => { p with stale := sat 32 (p.stale + 1) }))) ∧
      (fr.hd.gen.toNat = u.portGen f →
        (3088 ≤ ch → exec (.data f fr) s = .next (portMalformed u f)) ∧
        (3072 ≤ ch → ch < 3088 → exec (.data f fr) s = .next (takeWindow u f (ch - 3072) fr)) ∧
        (∀ r, ch < 3072 → u.channelIn f ch = some r → exec (.data f fr) s = .next (takeSegment u f r ch fr)) ∧
        (ch < 3072 → u.channelIn f ch = none → exec (.data f fr) s = .next (portMalformed u f)))) ∧
    (∀ r dst, fr.hd.type = 0x11 → fr.hd.gen.toNat = u.portGen f → u.channelOut f fr.hd.channel.toNat = some r → u.lcidNode r.srcLcid = some dst →
      let pk : Packet := { cls := 2, opc := 4, part := ((u.fport f).part).getD 0, addr := r.srcId, payload := zeros 16, loc := portNode f }
      exec (.scredit f fr) s = .next (u.send ((pk.setSrc (portNode f)).setDest dst))) ∧
    (fr.hd.type = 0x12 → fr.hd.gen.toNat = u.portGen f → 3072 ≤ fr.hd.channel.toNat → fr.hd.channel.toNat < 3088 →
      exec (.wcredit f fr) s = .next (u.updFport f (fun p => { p with wcOut := Tab.put 0 p.wcOut fr.hd.channel.toNat (natLE (fr.payload.take 4)) }))) ∧
    (fr.hd.type = 0x13 →
      let g := natLE (fr.payload.take 1)
      exec (.chreset f fr) s = .next (pumpPort ((voidCredits u f).updFport f (fun p => { p with
        peerGen := g, txq := if p.peerGen = noGen then p.txq.map (fun x => withGen x g) else p.txq })) f)) ∧
    (∀ p, fr.hd.type = 0x14 → (u.fport f).part = some p →
      (u.follows p = true → exec (.publish f fr) s = .next (u.updHub p (fun h => { h with
        published := h.published ++ [(natLE (fr.payload.take 6), min 95 (natLE (slice fr.payload 6 1)), f.val)], silent := Tab.put 0 h.silent f 0 }))) ∧
      (u.follows p = false → exec (.publish f fr) s = .next u)) ∧
    (fr.hd.type = 0x08 → exec (.idle f fr) s = .next u) ∧
    (fr.hd.type = 0x09 →
      let p := u.fport f
      (fr.payload.length = 1184 → p.rekeying = false ∨ p.isLo = false →
        let e := Config.kemEncaps u.fv fr.payload
        exec (.keyUpdate f fr) s = .next (switchKeys (sendPlain u.draw f 0x09 e.1 false) f (p.nextKeys e.2))) ∧
      (fr.payload.length = 1088 → p.rekeying = true →
        exec (.keyUpdate f fr) s = .next (switchKeys u f (p.nextKeys (Config.kemDecaps p.ekDraw fr.payload))))) ∧
    (fr.hd.type = 0x06 → exec (.quit f fr) s = .next (portGoDown u f 8))

/-- R411, R416, R426: the handshake. -/
def Obligations.HandshakeGoesThroughItsSteps : Prop :=
  ∀ (f : FpId) (fr : Frame) (s : State),
    let p := s.fport f
    (∀ w4, p.state = 1 → p.enable = true → s.partStopped (p.part.getD 0) = false → w4 = true ∨ p.lanes = 0xFF →
      exec (.portPcsLock f w4) s = .next (sendTalk (portNotice (s.updFport f (fun p => { p with state := 3, width4 := w4, step := 1, talk := [] })) f) f 0x01 1
        (bytesLE 1 fabricMin ++ bytesLE 1 fabricMax ++ bytesLE 1 (p.part.getD 0) ++ bytesLE 1 s.part.code))) ∧
    (p.state = 3 → fr.fcsOk = true →
      (fr.hd.type = 0x01 → p.step = 1 →
        let low := max fabricMin (natLE (fr.payload.take 1))
        let high := min fabricMax (natLE (slice fr.payload 1 1))
        (high < low → exec (.hello f fr) s = .next (portClose (portRecord (sendPlain s f 0x06 (bytesLE 1 3) false) f 0x15) f 7 3)) ∧
        (low ≤ high → exec (.hello f fr) s = .next (sendChain (s.updFport f (fun p => { p with
          version := high, peerPart := natLE (slice fr.payload 2 1), talk := p.talk ++ [(1, false, fr.payload)] })) f))) ∧
      (fr.hd.type = 0x02 → p.step = 3 →
        let chain := (if fr.hd.first then [] else p.chain) ++ fr.payload
        let key := chainLeaf chain
        (fr.hd.last = false → exec (.cert f fr) s = .next (s.updFport f (fun p => { p with chain := chain }))) ∧
        (fr.hd.last = true → chainAnchors chain s.ownerKeys s.sec.policy.roots = true →
          exec (.cert f fr) s = .next (sendEk (s.updFport f (fun p => { p with
            chain := chain, peerKey := key, peer := (digest64 key).take 8, talk := p.talk ++ [(3, false, chain)] })) f)) ∧
        (fr.hd.last = true → chainAnchors chain s.ownerKeys s.sec.policy.roots = false →
          exec (.cert f fr) s = .next (portHandshakeFail s f 4))) ∧
      (fr.hd.type = 0x03 → p.step = 4 → p.ssPeer = none →
        let e := Config.kemEncaps s.fv fr.payload
        exec (.kemEk f fr) s = .next (maybeFinish (sendTalk (s.draw.updFport f (fun p => { p with
          ssPeer := some e.2, talk := p.talk ++ [(4, false, fr.payload)] })) f 0x04 5 e.1) f)) ∧
      (fr.hd.type = 0x04 → p.step = 4 → p.ssOwn = none →
        exec (.kemCt f fr) s = .next (maybeFinish (s.updFport f (fun q => { q with
          ssOwn := some (Config.kemDecaps p.ekDraw fr.payload), talk := q.talk ++ [(5, false, fr.payload)] })) f)) ∧
      (fr.hd.type = 0x05 → p.step = 6 → Config.mldsaVerify p.peerKey p.transcript fr.payload = true →
        exec (.finish f fr) s = .next (comeUp s f)) ∧
      (fr.hd.type = 0x05 → p.step = 6 → Config.mldsaVerify p.peerKey p.transcript fr.payload = false →
        exec (.finish f fr) s = .next (portHandshakeFail s f 5)) ∧
      (fr.hd.type = 0x06 → exec (.quit f fr) s = .next (portClose s f 7 8))) ∧
    (p.state = 4 → p.rekeying = true → p.version = 0x10 → fr.fcsOk = true → fr.hd.type = 0x05 → p.step = 6 →
      Config.mldsaVerify p.peerKey p.transcript fr.payload = true → exec (.finish f fr) s = .next (switchKeys s f p.newKeys))

/-- R411 to R413, R417, R423, R426, R429, R430. -/
def Obligations.PortsRetrainAndRearm : Prop :=
  ∀ (f : FpId) (lanes : Byte) (s : State),
    let x := s.fport f
    let good := lanes.toNat % 16 = 15 ∨ lanes.toNat / 16 = 15
    (x.state = 4 → exec (.portRetrainStart f) s = .next (portNotice (s.updFport f (fun p => { p with
      state := 5, retrainAt := s.now, retrains := min (p.retrains + 1) 65535 })) f)) ∧
    (x.state = 5 → good →
      let w4 := lanes != 0xFF
      let t := s.updFport f (fun p => { p with state := 4, lanes := lanes, width4 := w4, lastRx := s.now })
      let u := portNotice (if x.width4 = w4 then t else portRecord t f 0x12) f
      (x.rekeying = false → exec (.portRetrainDone f lanes) s = .next (pumpPort u f)) ∧
      (x.rekeying = true → exec (.portRetrainDone f lanes) s = .next (startRekey u f))) ∧
    (x.state = 5 → x.retrainAt + 10000000 ≤ s.now → exec (.portRetrainTimeout f) s = .next (portGoDown s f 2)) ∧
    (x.state = 4 → x.lastRx + 1000000 ≤ s.now → exec (.portSilence f) s = .next (portGoDown s f 9)) ∧
    (x.state = 4 → x.lastTx + 10000 ≤ s.now → exec (.portIdleTimer f) s = .next (sendPlain s f 0x08 [] false)) ∧
    (∀ q, x.state = 2 ∨ x.state = 7 → x.enable = true → x.part = some q → s.partStopped q = false → x.downAt + 100000000 ≤ s.now →
      (good → exec (.portTrainRetry f lanes) s = .next (portNotice (s.updFport f (fun p => { p with lanes := lanes, state := 1, downAt := s.now })) f)) ∧
      (¬ good → exec (.portTrainRetry f lanes) s = .next (portNotice (s.updFport f (fun p => { p with lanes := lanes, state := 2, downAt := s.now })) f))) ∧
    (x.state = 4 → x.rekeying = false → x.keyAt + 3600000000000 ≤ s.now ∨ 2 ^ 31 ≤ x.txn → exec (.rekeyTimer f) s = .next (startRekey s f)) ∧
    (∀ p : PortId, s.mayControl p f = true →
      (x.state = 4 → x.rekeying = false → exec (.portRekey p f) s = .next (startRekey s f)) ∧
      (x.state = 5 → x.rekeying = false → exec (.portRekey p f) s = .next (s.updFport f (fun x => { x with rekeying := true }))) ∧
      (x.linkUp = true → exec (.portDown p f) s = .next (portQuit s f 10)) ∧
      (x.linkUp = false → x.state = 3 → exec (.portDown p f) s = .next (portClose (sendPlain s f 0x06 (bytesLE 1 10) false) f 7 10)) ∧
      (x.linkUp = false → x.state = 1 → exec (.portDown p f) s = .next (portClose s f 7 10)) ∧
      (s.partStopped p = false → x.state = 6 ∨ x.state = 2 →
        (x.enable = true → exec (.portRearm p f lanes) s = .next (trainPort s f lanes)) ∧
        (x.enable = false → exec (.portRearm p f lanes) s = .next (portNotice (s.updFport f (fun x => { x with state := 7 })) f))))

/-- R419, R420, R422: messages out and windows. -/
def Obligations.MessagesLeaveAndWindowsCommit : Prop :=
  (∀ (i : Nat) (p : Packet) (f : Nat) (s : State), s.arrived i [0, 3] [0, 6] = some p → (p.cls = 0 ∧ p.opc = 6) ∨ (p.cls = 3 ∧ p.opc = 0) →
    nodePort p.loc = some f →
    let t := if p.cls = 0 then (s.takePacket i).send (p.ack 0) else s.takePacket i
    let ch := p.addr % 4096
    let piece := outPiece p
    let a : Assembly := Tab.get {} (s.fport f).asmOut ch
    ((s.fport f).linkUp = false → exec (.portMsgEnqueue i) s = .next t) ∧
    ((s.fport f).linkUp = true → (piece.2.1 = false →
        exec (.portMsgEnqueue i) s = .next (t.updFport f (fun x => { x with asmOut := Tab.put {} x.asmOut ch { a with bytes := a.bytes ++ piece.1 } }))) ∧
      (piece.2.1 = true →
        exec (.portMsgEnqueue i) s = .next (sendMessage (t.updFport f (fun x => { x with asmOut := Tab.put {} x.asmOut ch {} })) f ch piece.2.2 (a.bytes ++ piece.1))))) ∧
  (∀ (f : FpId) (w : Fin 16) (s : State) (at_ size : Nat) (rest : List (Nat × Nat × Nat)), ((s.fport f).window w).recs = (at_, size, 0) :: rest →
    let t := s.updWindow f w (fun x => { x with wr := x.wr + size, recs := rest })
    ((s.fport f).winIrq = true → exec (.windowCommit f w) s = .next (portNotice t f)) ∧
    ((s.fport f).winIrq = false → exec (.windowCommit f w) s = .next t)) ∧
  (∀ (p : PortId) (f : FpId) (w : Fin 16) (data : W32) (s : State), s.mayControl p f = true →
    let x := (s.fport f).window w
    let d := (data.toNat + 2 ^ 32 - x.rd % 2 ^ 32) % 2 ^ 32
    let t := s.updWindow f w (fun y => { y with rd := y.rd + d })
    (x.wr - x.rd < d → exec (.winRdWrite p f w data) s = .next s) ∧
    (d ≤ x.wr - x.rd → d ≠ 0 → x.enable = true → exec (.winRdWrite p f w data) s = .next (advertise t f w)) ∧
    (d ≤ x.wr - x.rd → d = 0 ∨ x.enable = false → exec (.winRdWrite p f w data) s = .next t))

/-- R436 to R448, R454: security commands. -/
def Obligations.AcceptedSecurityCommandsAct : Prop :=
  ∀ (p : PortId) (b : List Byte) (c : SecCmd) (s : State), s.supply.booted = true → s.bring.recovery = false → (s.hub p).live = true →
    (s.hub p).sec.state = 1 → s.sec.updating = none → s.sec.writing = none → secCmdOf b = some c → s.judge c = 0 →
    let fin := fun (t : State) => if carriesSig b then freshNonce t else t
    (c.code = 0x01 →
      let r := writeReport s p (recNat c.payload 32 8) (recNat c.payload 40 4) (c.payload.take 32)
      exec (.report p (some b)) s = .next (fin (endSec r.1 p 0x01 r.2 0))) ∧
    (c.code = 0x02 →
      exec (.enrol p (some b)) s = .next (fin (endSec (storeOwner (s.updSec (fun x => { x with policy := {} })) c.payload) p 0x02 0 0))) ∧
    (c.code = 0x03 →
      exec (.transfer p (some b)) s = .next (fin (endSec (storeOwner (s.updSec (fun x => { x with
        policy := { x.policy with roots := [], bezMask := 0, bezels := [] } })) c.payload) p 0x03 0 0))) ∧
    (∀ q floor, c.code = 0x04 → readPolicy c.payload = some (q, floor) →
      exec (.policy p (some b)) s = .next (fin (endSec (s.updSec (fun x => { x with policy := q, floor := max x.floor floor })) p 0x04 0 0))) ∧
    (c.code = 0x05 →
      exec (.fieldClear p (some b)) s = .next (fin (endSec (s.updDefects (fun d => { d with
        field := d.field ++ [{ kind := 0x0E, cause := 0, unit := d.field.length, stroke := s.stroke.count }], clearPend := true })) p 0x05 0 0))) ∧
    (c.code = 0x06 →
      exec (.accessOpen p (some b)) s = .next (fin (endSec (secRecord (s.updSec (fun x => { x with
        session := some { scope := natLE c.payload, signer := c.signer, since := s.now }, opened := x.opened + 1 })) 0x1A (natLE c.payload)) p 0x06 0 0))) ∧
    (c.code = 0x07 → exec (.accessClose p (some b)) s = .next (fin (endSec (closeSession s) p 0x07 0 0))) ∧
    (c.code = 0x08 →
      exec (.update p (some b)) s = .next (fin (((s.updSec (fun x => { x with updating := some p.val })).updSecPort p (fun q =>
        { q with state := 3, code := 8 })).emit (.hostRead p (recNat c.payload 0 8) (recNat c.payload 8 4))))) ∧
    (∀ l, c.code = 0x09 → readCal c.payload = some l →
      exec (.calWrite p (some b)) s = .next (fin (endSec (s.updSec (fun x => { x with calStored := l, restorePend := false })) p 0x09 0 0))) ∧
    (c.code = 0x0A →
      exec (.restoreFactory p (some b)) s = .next (fin (endSec (s.updSec (fun x => { x with restorePend := true })) p 0x0A 0 0))) ∧
    (c.code = 0x0B →
      let r := writeReport s p (recNat c.payload 0 8) (recNat c.payload 8 4) (zeros 32)
      (r.2 = 0 → exec (.decommission p (some b)) s = .next (fin (endSec (secRecord ((eraseOwner (restartPanel r.1)).updBring (fun b =>
        { b with port := p })) 0x1F 0) p 0x0B 0 0))) ∧
      (r.2 ≠ 0 → exec (.decommission p (some b)) s = .next (fin (endSec r.1 p 0x0B r.2 0))))

/-- R437, R438: refused security commands. -/
def Obligations.RefusedSecurityCommandsDoNothingElse : Prop :=
  ∀ (p : PortId) (bytes : Option (List Byte)) (i : Instr) (n : Nat) (s : State),
    ((n = 0x01 ∧ i = .report p bytes) ∨ (n = 0x02 ∧ i = .enrol p bytes) ∨ (n = 0x03 ∧ i = .transfer p bytes) ∨ (n = 0x04 ∧ i = .policy p bytes) ∨
      (n = 0x05 ∧ i = .fieldClear p bytes) ∨ (n = 0x06 ∧ i = .accessOpen p bytes) ∨ (n = 0x07 ∧ i = .accessClose p bytes) ∨
      (n = 0x08 ∧ i = .update p bytes) ∨ (n = 0x09 ∧ i = .calWrite p bytes) ∨ (n = 0x0A ∧ i = .restoreFactory p bytes) ∨
      (n = 0x0B ∧ i = .decommission p bytes)) →
    (s.bring.recovery = true ∨ (s.hub p).sec.state ≠ 1 ∨ s.sec.updating.isSome = true → exec i s = .next s) ∧
    (s.supply.booted = true → s.bring.recovery = false → (s.hub p).live = true → (s.hub p).sec.state = 1 → s.sec.updating = none → s.sec.writing = none →
      (bytes = none → exec i s = .next (endSec s p 0 8 0)) ∧
      (∀ b, bytes = some b → recByte b 5 = n →
        let fin := fun (t : State) => if carriesSig b then freshNonce t else t
        (secCmdOf b = none → exec i s = .next (fin (endSec s p n 1 0))) ∧
        (∀ c, secCmdOf b = some c → s.judge c ≠ 0 → exec i s = .next (fin (endSec s p n (s.judge c) 0)))))

/-- R341, R442 to R445, R449 to R453, R477 to R480. -/
def Obligations.ImagesBezelsAndBoundaryComplete : Prop :=
  (∀ (x : Session) (s : State), s.sec.session = some x → x.since + 28800000000000 ≤ s.now → exec .accessExpire s = .next (closeSession s)) ∧
  (∀ (q : Nat) (s : State), s.sec.updating = some q → s.sec.writing = none →
    let t := s.updSec (fun x => { x with updating := none })
    (exec (.updateImageFetched none) s = .next (endSec t q 8 8 0)) ∧
    (∀ i, imageCause s.sec.floor i ≠ 0 → exec (.updateImageFetched (some i)) s = .next (endSec t q 8 7 (imageCause s.sec.floor i))) ∧
    (∀ i, imageCause s.sec.floor i = 0 → exec (.updateImageFetched (some i)) s = .next (s.updSec (fun x => { x with writing := some i })))) ∧
  (∀ (q : Nat) (i : Image) (s : State), s.sec.updating = some q → s.sec.writing = some i →
    let t := secRecord (s.updSec (fun x => { x with
      updating := none, writing := none, slotImage := some i, updatePend := digest64 i.manifest != x.runDigest })) 0x1B i.version.toNat
    ((t.hub q).sec.state = 3 → exec .updateSlotWritten s = .next (endSec t q 8 0 0)) ∧
    ((t.hub q).sec.state ≠ 3 → exec .updateSlotWritten s = .next t)) ∧
  (∀ (p : PortId) (s : State), s.bezControl p = true →
    let st := (s.bezel p).state
    (st = 2 → exec (.bezEnable p) s = .next (s.updBezel p (fun b => { b with state := 3 }))) ∧
    (st = 3 → exec (.bezDisable p) s = .next (s.updBezel p (fun b => { b with state := 2 }))) ∧
    (∀ ans, st = 1 ∨ st = 4 ∨ st = 5 → exec (.bezRearm p ans) s = .next (admitBezel s p ans))) ∧
  (∀ (n : Fin 4) (r : BezelReq) (s : State), (s.bezel n).state = 3 → s.bezelOf n n = true →
    let b := s.bezel n
    (64 < r.against → exec (.bezelPacket n r) s = .next (bezQuarantine s n 6)) ∧
    (r.against ≤ 64 → bezFilters r = true →
      exec (.bezelPacket n r) s = .next (bezQuarantine (secRecord (s.updBezel n (fun b => { b with violF := min (b.violF + 1) 65535 })) 0x1D n) n 4)) ∧
    (r.against ≤ 64 → bezFilters r = false → bezPermitted b r = false →
      let at_ := recentTimes b.winAt s.now 1000000
      let t := (s.updBezel n (fun b => { b with violW := min (b.violW + 1) 65535, winAt := at_ })).emit (.bezel n r.tag.toNat 1 [])
      (at_.length < 16 → exec (.bezelPacket n r) s = .next t) ∧
      (16 ≤ at_.length → exec (.bezelPacket n r) s = .next (bezQuarantine t n 5))) ∧
    (∀ dst, r.against ≤ 64 → bezFilters r = false → bezPermitted b r = true → s.bezNode n r.addr.toNat = some dst → b.pend.length < b.out + 1 →
      exec (.bezelPacket n r) s = .next (bezInject s n r dst))) ∧
  (∀ (n : Fin 4) (s : State), (s.bezel n).state = 2 ∨ (s.bezel n).state = 3 →
    exec (.bezelLinkLost n) s = .next (secRecord (s.updBezel n (fun b => { b with state := 5, cause := 3, pend := [] })) 0x1C n)) ∧
  (∀ s, s.supply.stageA = true → exec .supEnFall s = .next (removeStageA (s.updSupply (fun u => { u with supEn := false })) false)) ∧
  (∀ s, s.supply.stageA = false → exec .supEnFall s = .next (s.updSupply (fun u => { u with supEn := false }))) ∧
  (∀ s, exec .powerRemoved s = .next (((removeStageA s false).updSupply (fun _ => {})).updCool (fun _ => {}))) ∧
  (∀ (off : W32) (s : State), s.supply.vin ≠ 0 →
    (off.toNat % 4 ≠ 0 ∨ panelScope off.toNat = false → exec (.smbReadReg off) s = .next (s.emit (.mctp ([1] ++ zeros 4)))) ∧
    (off.toNat % 4 = 0 → panelScope off.toNat = true → s.supply.booted = false ∨ s.bring.recovery = true →
      exec (.smbReadReg off) s = .next (s.emit (.mctp ([2] ++ zeros 4)))) ∧
    (∀ h < 4, off.toNat % 4 = 0 → panelScope off.toNat = true → s.supply.booted = true → s.bring.recovery = false → (s.hub h).live = true →
      exec (.smbReadReg off) s = .next (s.emit (.mctp ([0] ++ bytesLE 4 (s.pageWord noPort off.toNat s.rcUnion)))))) ∧
  (∀ s, s.supply.vin ≠ 0 →
    exec .smbReadSup s = .next (s.emit (.mctp ([0] ++ bytesLE 2 (half s.cool.inlet) ++ bytesLE 2 (half s.cool.outlet) ++ bytesLE 2 s.cool.dp ++
      bytesLE 2 s.supply.vin ++ bytesLE 1 ((if s.supply.stageA then 1 else 0) + (if s.cool.leak || s.supply.leakN then 2 else 0) +
        (if s.supply.faultN then 4 else 0))))))

/-- R33: the SRAM windows. -/
def Obligations.SramWindowsStandWhereTheyShould : Prop :=
  ∀ (l : Lcid) (off : Nat), off < 0x400000 →
    targetOf (0x100000000000 + l.val * 0x400000 + off) = (if off < 0x200000 then .sram l.val off else .reserved)

/-- R73: predication. -/
def Obligations.FalsePredicateIsANoOp : Prop :=
  (∀ (c : Core) (w : W64), c.executes w = true ↔ c.pred (wPred w) ≠ wPneg w) ∧
  (∀ (c : Core) (w : W64), wPred w = 0 → wPneg w = true → c.executes w = false) ∧
  (∀ (k : PCore) (ups : List (Nat × Nat × W32)) (f : CoreFn) (s : State), s.canonical = true → s.sramUe = [] → s.sramCe = [] →
    (s.core k).badLines.length < 2 → s.coreActive k = true → decodeWord (s.word k) = some f → (s.core k).executes (s.word k) = false →
    (s.core k).pc + 1 < (s.core k).length →
    ∃ t, exec (coreRow k ups f) s = .next t ∧ t.core k = { s.core k with pc := (s.core k).pc + 1, seq := (s.core k).seq + 1 } ∧
      t = { s with cores := t.cores } ∧ ∀ j, j ≠ k.val → t.core j = s.core j) ∧
  (∀ (k : PCore) (f : CoreFn) (s : State), s.coreActive k = true → (fetchWord s k).cause = 0 → decodeWord (s.word k) = some f →
    (s.core k).executes (s.word k) = true → stalls (s.core k) f (s.word k) = false → s.issues k f = true)

/-- R71, R72, R75: the frame of the register instructions. -/
def Obligations.RegisterInstructionsStayInTheirCore : Prop :=
  ∀ (k : PCore) (ups : List (Nat × Nat × W32)) (f : CoreFn) (s : State), s.canonical = true → s.sramUe = [] → s.sramCe = [] →
    (s.core k).badLines.length < 2 → f ∈ [CoreFn.nop, .twait, .pset, .alu, .movi, .tdset] → s.issues k f = true → (s.core k).pc + 1 < (s.core k).length →
    ∃ t, exec (coreRow k ups f) s = .next t ∧ t = { s with cores := t.cores } ∧ (∀ j, j ≠ k.val → t.core j = s.core j) ∧
      t.core k = { s.core k with
        pc := (s.core k).pc + 1, seq := (s.core k).seq + 1, preds := (t.core k).preds, sregs := (t.core k).sregs, tregs := (t.core k).tregs } ∧
      (f ≠ .pset → (t.core k).preds = (s.core k).preds) ∧
      (f ≠ .alu → f ≠ .movi → (t.core k).sregs = (s.core k).sregs) ∧
      (f ≠ .tdset → (t.core k).tregs = (s.core k).tregs) ∧
      (∀ i, f = .pset → i ≠ wbits (s.word k) 44 42 → (t.core k).pred i = (s.core k).pred i) ∧
      (∀ i, f = .alu ∨ f = .movi → i ≠ wbits (s.word k) 44 40 → (t.core k).sreg i = (s.core k).sreg i) ∧
      (∀ i, f = .tdset → i ≠ wbits (s.word k) 44 41 → (t.core k).treg i = (s.core k).treg i)

/-- R75, R267, R279: the frames of the commands that store. -/
def Obligations.StoresWriteTheirBytesOnly : Prop :=
  ∀ s t : State, s.canonical = true → s.sramUe = [] → s.sramCe = [] → s.hbmUe = [] → s.hbmCe = [] → (∀ q, (s.hub q).lostUnits = []) →
    (∀ k : PCore, (s.core k).badLines.length < 2 → (s.core k).pc + 1 < (s.core k).length →
      let w := s.word k
      let a := ((s.core k).sreg (wbits w 39 35) + BitVec.ofNat 64 (wbits w 20 0)).toNat
      let key := sramKey k a
      (s.issues k .sst = true → a % 8 = 0 → a + 8 ≤ sramSize → (s.core k).inProgram a 8 = false → exec (.sst k) s = .next t →
        t.hbm = s.hbm ∧ ∀ x, Tab.get 0 t.sram x =
          if key ≤ x ∧ x < key + 8 then (bytesLE 8 ((s.core k).sreg (wbits w 44 40)).toNat).getD (x - key) 0 else Tab.get 0 s.sram x) ∧
      (s.issues k .tdst = true → a % 32 = 0 → a + 32 ≤ sramSize → (s.core k).inProgram a 32 = false → exec (.tdst k) s = .next t →
        t.hbm = s.hbm ∧ ∀ x, Tab.get 0 t.sram x =
          if key ≤ x ∧ x < key + 32 then (bytesLE 32 ((s.core k).treg (wbits w 44 41)).toNat).getD (x - key) 0 else Tab.get 0 s.sram x)) ∧
    (∀ i p l off k, s.arrived i [0, 1] [1] = some p → s.atTarget p = true → targetOf p.addr = .sram l off → s.servedCore l = some k →
      (s.core k).paired = false → (s.core k).badLines.length < 2 → (s.core k).inProgram off p.writeBytes.length = false →
      off + p.writeBytes.length ≤ sramSize → exec (.inboundWr i) s = .next t →
      t.hbm = s.hbm ∧ ∀ x, Tab.get 0 t.sram x =
        if sramKey k off ≤ x ∧ x < sramKey k off + p.writeBytes.length then p.writeBytes.getD (x - sramKey k off) 0 else Tab.get 0 s.sram x) ∧
    (∀ i p l off k, s.arrived i [0, 1] [0] = some p → s.atTarget p = true → targetOf p.addr = .sram l off → s.servedCore l = some k →
      (s.core k).badLines.length < 2 → exec (.inboundRd i) s = .next t → t.sram = s.sram ∧ t.hbm = s.hbm) ∧
    (∀ (sl : SliceId) p byte, s.sliceHead sl [1, 2] = some (p, byte) → exec (.sliceWrite sl {}) s = .next t →
      t.sram = s.sram ∧ ∀ x, Tab.get 0 t.hbm x =
        if hbmKey s sl byte ≤ x ∧ x < hbmKey s sl byte + p.writeBytes.length then p.writeBytes.getD (x - hbmKey s sl byte) 0 else Tab.get 0 s.hbm x) ∧
    (∀ (sl : SliceId) p byte, s.sliceHead sl [0] = some (p, byte) → exec (.sliceRead sl [] {}) s = .next t → t.sram = s.sram ∧ t.hbm = s.hbm)

/-- R272, R274: the interleave is a bijection. -/
def Obligations.InterleaveIsABijection : Prop :=
  ∀ l : List Nat, l.Nodup →
    (∀ a, hbmLocate l a = none ↔ 32 * l.length * 178000 * 4096 ≤ a) ∧
    (∀ a b x, hbmLocate l a = some x → hbmLocate l b = some x → a = b) ∧
    (∀ a sl byte, hbmLocate l a = some (sl, byte) → sl / 32 ∈ l ∧ byte < 178000 * 4096 ∧ byte % 4096 = a % 4096) ∧
    (∀ st pc byte, st ∈ l → pc < 32 → byte < 178000 * 4096 → ∃ a, hbmLocate l a = some (st * 32 + pc, byte)) ∧
    (∀ a sl byte d, hbmLocate l a = some (sl, byte) → a % 4096 + d < 4096 → hbmLocate l (a + d) = some (sl, byte + d))

/-- R117: rounding. -/
def Obligations.RoundingTakesTheRightNeighbour : Prop :=
  ∀ k r x : Nat,
    let lo := x / 2 ^ k * 2 ^ k
    let hi := lo + 2 ^ k
    (∀ rnd, x % 2 ^ k = 0 → roundTo k rnd r x = x) ∧
    (∀ rnd, 2 ^ k ∣ roundTo k rnd r x ∧ lo ≤ roundTo k rnd r x ∧ roundTo k rnd r x ≤ hi) ∧
    (∀ y : Nat, 2 ^ k ∣ y → (roundTo k 0 r x : Int) - x ≤ ((y : Int) - x).natAbs ∧ (x : Int) - roundTo k 0 r x ≤ ((y : Int) - x).natAbs) ∧
    (2 * x = lo + hi → roundTo k 0 r x / 2 ^ k % 2 = 0) ∧
    (roundTo k 1 r x = lo) ∧
    (x % 2 ^ k ≠ 0 → (roundTo k 2 r x = hi ↔ 65536 ≤ 65536 * (x - lo) / (hi - lo) + r))

/-- R107, R108, R117, R119: decoding and encoding of elements agree. -/
def Obligations.ElementsKeepTheirBits : Prop :=
  ∀ (g : FloatFmt) (v rnd r : Nat), g ∈ [fp32, bf16, fp16, e4m3, e5m2, e3m2, e2m3, e2m1] → v < 2 ^ g.width → decodeFloat g v ≠ .nan →
    g.encode rnd false r (decodeFloat g v) = v ∧ ((decodeFloat g v).isFin = true → g.encode rnd true r (decodeFloat g v) = v)

/-- R394: RC bits clear in the reading port's copy alone. -/
def Obligations.ReadsClearOnlyTheirOwnPort : Prop :=
  ∀ (p : PortId) (off : BitVec 26) (s t : State), s.canonical = true →
    (exec (.rcRead p off) s = .next t ∨ exec (.aliasRead p off) s = .next t →
      t = { s with hubs := t.hubs, out := t.out } ∧ ∀ q, q ≠ p.val → t.hub q = s.hub q) ∧
    (s.hostUp p = true → s.bring.recovery = false → exec (.rcRead p off) s = .next t →
      (off = 0x600 → (t.hub p).strokeRc = 0) ∧ (off = 0x2004 → (t.hub p).pwrRc = 0) ∧ (off = 0x2808 → (t.hub p).coolRc = 0) ∧
      (off = 0x210 → (t.hub p).layRc = 0) ∧ (off = 0x304 → (t.hub p).fabRc = 0) ∧ (off = 0x420 → (t.hub p).cmdRc = 0) ∧
      (off = 0x440 → (t.hub p).evt = 0) ∧ (off = 0x444 → (t.hub p).err = 0))

/-- R352: READY. -/
def Obligations.ReadyStartsTheFetcher : Prop :=
  ∀ (p : PortId) (s : State), s.canonical = true → s.portLive p = true → s.bring.ready.has p = false → s.bring.running = 0 → 8 ≤ s.bring.done →
    s.bring.failed = false → s.bring.stopped = false →
    ((s.layoutOf p).isSome = true → ∃ t, exec (.ready p) s = .next t ∧ (t.hub p).cmd.state = 1 ∧ t.bring.ready.has p = true ∧
      (0 < s.stroke.period → s.leadOk (t.hub p).cmd.startAt = true) ∧ (∀ n, n < (t.hub p).cmd.startAt → s.leadOk n = false)) ∧
    (s.layoutOf p = none → exec (.ready p) s = .next (s.updBring (fun b => { b with errCode := 1, errStep := 9, errPort := p, errDetail := 0 })))

/-- R448: RESTORE_FACTORY. -/
def Obligations.RestoreFactoryDiscardsAtAuth : Prop :=
  (∀ (p : PortId) (b : List Byte) (c : SecCmd) (s : State), s.supply.booted = true → s.bring.recovery = false → (s.hub p).live = true →
    (s.hub p).sec.state = 1 → s.sec.updating = none → s.sec.writing = none → secCmdOf b = some c → s.judge c = 0 →
    (c.code = 0x0A → ∃ t, exec (.restoreFactory p (some b)) s = .next t ∧ t.sec.restorePend = true ∧ t.sec.userCal = s.sec.userCal) ∧
    (c.code = 0x09 → ∃ t l, readCal c.payload = some l ∧ exec (.calWrite p (some b)) s = .next t ∧ t.sec.restorePend = false ∧ t.sec.calStored = l ∧
      t.sec.userCal = s.sec.userCal)) ∧
  (∀ (p : PortId) (inp : AuthInput) (s : State), s.portLive p = true → s.bring.running = 0 → s.bring.stopped = false → s.bring.failed = false →
    s.bring.done = 2 → inp.factoryListOk = true → inp.calibrationOk = true → inp.hallmarkOk = true →
    ∃ t, exec (.auth p inp) s = .next t ∧ t.sec = s.sec ∧ t.bring.running = 3 ∧
      (∀ ce ue, ∃ u, exec (.stepComplete ce ue) t = .next u ∧ u.sec.restorePend = false ∧
        (s.sec.restorePend = true → u.sec.userCal = [] ∧ u.sec.calStored = []) ∧
        (s.sec.restorePend = false → u.sec.userCal = s.sec.calStored ∧ u.sec.calStored = s.sec.calStored)))

/-- R8, R274, R276: isolation of BAR2. -/
def Obligations.Bar2StaysInItsPartition : Prop :=
  ∀ (p : PortId) (c : Instr) (s t : State), s.canonical = true →
    ((∃ off len, c = .bar2Read p off len) ∨ (∃ off bytes, c = .bar2Write p off bytes) ∨ (∃ off op size a b, c = .bar2Atomic p off op size a b)) →
    exec c s = .next t →
    t = { s with net := t.net, hubs := t.hubs, out := t.out } ∧ (∀ q, q ≠ p.val → t.hub q = s.hub q) ∧
    ∃ new, t.net = s.net ++ new ∧ ∀ k ∈ new, k.part = p.val ∧ k.cls = 1 ∧ k.loc = hubNode p ∧ ∃ dst a, s.bar2Node p a = some dst ∧ k = k.setDest dst
end

