-- ==== Sys2Proof/Laws/Frames.lean ====
section
/-!
SUPPORT. What the shared operations of the fabric leave alone: everything but the packets, the links, the OFF bits and the
arbiters, said once for each of them, and the readings of a state that the commands take after a packet leaves its router.
-/
namespace Sys2Proof.Machine

/-- The two states agree but in what the fabric holds. -/
def FabricOnly (s t : State) : Prop := ∃ net links offs arbs, t = { s with net := net, links := links, offs := offs, arbs := arbs }

theorem FabricOnly.refl (s : State) : FabricOnly s s := ⟨s.net, s.links, s.offs, s.arbs, rfl⟩

theorem FabricOnly.trans {s t u : State} (h : FabricOnly s t) (g : FabricOnly t u) : FabricOnly s u := by
  obtain ⟨_, _, _, _, rfl⟩ := h
  obtain ⟨n, l, o, a, rfl⟩ := g
  exact ⟨n, l, o, a, rfl⟩

theorem updOff_fabric (s : State) (p : Packet) : FabricOnly s (updOff s p) := by
  unfold updOff
  split
  · exact ⟨_, _, _, _, rfl⟩
  · split
    · exact FabricOnly.refl s
    · exact ⟨_, _, _, _, rfl⟩

theorem movePointer_fabric (s : State) (i : Nat) (p : Packet) : FabricOnly s (movePointer s i p) := by
  unfold movePointer
  repeat' split
  all_goals first | exact FabricOnly.refl s | exact ⟨_, _, _, _, rfl⟩

theorem takePacket_fabric (s : State) (i : Nat) : FabricOnly s (s.takePacket i) := by
  unfold State.takePacket
  split
  · exact ((movePointer_fabric s i _).trans ⟨_, _, _, _, rfl⟩).trans (updOff_fabric _ _)
  · exact FabricOnly.refl s

theorem arrive_fabric (s : State) (p : Packet) : FabricOnly s (arrive s p) :=
  FabricOnly.trans ⟨_, _, _, _, rfl⟩ (updOff_fabric _ _)

/-! ## Readings after a packet leaves its router -/

section readings
variable (s : State) (i : Nat)

/-- A reading that no part of the fabric enters is as before. -/
theorem takePacket_reading {α : Type} (f : State → α) (h : ∀ t, FabricOnly s t → f t = f s) : f (s.takePacket i) = f s :=
  h _ (takePacket_fabric s i)

@[simp] theorem takePacket_now : (s.takePacket i).now = s.now := by obtain ⟨_, _, _, _, h⟩ := takePacket_fabric s i; rw [h]
@[simp] theorem takePacket_core (k : Nat) : (s.takePacket i).core k = s.core k := by obtain ⟨_, _, _, _, h⟩ := takePacket_fabric s i; rw [h]; rfl
@[simp] theorem takePacket_region (r : Nat) : (s.takePacket i).region r = s.region r := by obtain ⟨_, _, _, _, h⟩ := takePacket_fabric s i; rw [h]; rfl
@[simp] theorem takePacket_cox (x : Nat) : (s.takePacket i).cox x = s.cox x := by obtain ⟨_, _, _, _, h⟩ := takePacket_fabric s i; rw [h]; rfl
@[simp] theorem takePacket_hub (x : Nat) : (s.takePacket i).hub x = s.hub x := by obtain ⟨_, _, _, _, h⟩ := takePacket_fabric s i; rw [h]; rfl
@[simp] theorem takePacket_sync (o : Nat) : (s.takePacket i).sync o = s.sync o := by obtain ⟨_, _, _, _, h⟩ := takePacket_fabric s i; rw [h]; rfl
@[simp] theorem takePacket_tree (k : Nat) : (s.takePacket i).tree k = s.tree k := by obtain ⟨_, _, _, _, h⟩ := takePacket_fabric s i; rw [h]; rfl
@[simp] theorem takePacket_admUnit (u : Nat) : (s.takePacket i).admUnit u = s.admUnit u := by obtain ⟨_, _, _, _, h⟩ := takePacket_fabric s i; rw [h]; rfl
@[simp] theorem takePacket_slice (n : Nat) : (s.takePacket i).slice n = s.slice n := by obtain ⟨_, _, _, _, h⟩ := takePacket_fabric s i; rw [h]; rfl
@[simp] theorem takePacket_stack (n : Nat) : (s.takePacket i).stack n = s.stack n := by obtain ⟨_, _, _, _, h⟩ := takePacket_fabric s i; rw [h]; rfl
@[simp] theorem takePacket_sram : (s.takePacket i).sram = s.sram := by obtain ⟨_, _, _, _, h⟩ := takePacket_fabric s i; rw [h]
@[simp] theorem takePacket_hbm : (s.takePacket i).hbm = s.hbm := by obtain ⟨_, _, _, _, h⟩ := takePacket_fabric s i; rw [h]
@[simp] theorem takePacket_sramUe : (s.takePacket i).sramUe = s.sramUe := by obtain ⟨_, _, _, _, h⟩ := takePacket_fabric s i; rw [h]
@[simp] theorem takePacket_sramCe : (s.takePacket i).sramCe = s.sramCe := by obtain ⟨_, _, _, _, h⟩ := takePacket_fabric s i; rw [h]
@[simp] theorem takePacket_pairOf (k : Nat) : (s.takePacket i).pairOf k = s.pairOf k := by obtain ⟨_, _, _, _, h⟩ := takePacket_fabric s i; rw [h]; rfl
@[simp] theorem takePacket_servedCore (l : Nat) : (s.takePacket i).servedCore l = s.servedCore l := by obtain ⟨_, _, _, _, h⟩ := takePacket_fabric s i; rw [h]; rfl
@[simp] theorem takePacket_coreOf (l : Nat) : (s.takePacket i).coreOf l = s.coreOf l := by obtain ⟨_, _, _, _, h⟩ := takePacket_fabric s i; rw [h]; rfl
@[simp] theorem takePacket_sramBytes (k o n : Nat) : (s.takePacket i).sramBytes k o n = s.sramBytes k o n := by obtain ⟨_, _, _, _, h⟩ := takePacket_fabric s i; rw [h]; rfl
@[simp] theorem takePacket_sramBad (k o n : Nat) : (s.takePacket i).sramBad k o n = s.sramBad k o n := by obtain ⟨_, _, _, _, h⟩ := takePacket_fabric s i; rw [h]; rfl
@[simp] theorem takePacket_ejects (k : Nat) : (s.takePacket i).ejects k = s.ejects k := by obtain ⟨_, _, _, _, h⟩ := takePacket_fabric s i; rw [h]; rfl
@[simp] theorem takePacket_routerRuns (k : Nat) : (s.takePacket i).routerRuns k = s.routerRuns k := by obtain ⟨_, _, _, _, h⟩ := takePacket_fabric s i; rw [h]; rfl

end readings

end Sys2Proof.Machine
end

