-- ==== Sys2Proof/Laws/Tab.lean ====
section
/-!
SUPPORT. Laws of the tables: every operation keeps the canonical form, and reading after writing.
-/
namespace Sys2Proof.Machine

/-- A lower bound of the keys of a table, none for no bound. -/
def Tab.above : Option Nat → Nat → Prop
  | none, _ => True
  | some m, k => m < k

variable {α : Type} [DecidableEq α] {d : α}

theorem Tab.wfFrom_cons {b : Option Nat} {k : Nat} {v : α} {t : Tab α} :
    Tab.wfFrom d b ((k, v) :: t) = true ↔ Tab.above b k ∧ v ≠ d ∧ Tab.wfFrom d (some k) t = true := by
  cases b <;> simp [Tab.wfFrom, Tab.above, and_assoc]

@[simp] theorem Tab.wfFrom_nil {b : Option Nat} : Tab.wfFrom d b ([] : Tab α) = true := rfl

@[simp] theorem Tab.wf_nil : Tab.wf d ([] : Tab α) = true := rfl

theorem Tab.wfFrom_weaken {b c : Option Nat} {t : Tab α} (hb : ∀ k, Tab.above c k → Tab.above b k)
    (h : Tab.wfFrom d c t = true) : Tab.wfFrom d b t = true := by
  cases t with
  | nil => rfl
  | cons e t =>
    obtain ⟨k, v⟩ := e
    rw [Tab.wfFrom_cons] at h ⊢
    exact ⟨hb k h.1, h.2⟩

theorem Tab.wfFrom_some {j k : Nat} {t : Tab α} (hjk : j ≤ k) (h : Tab.wfFrom d (some k) t = true) :
    Tab.wfFrom d (some j) t = true :=
  Tab.wfFrom_weaken (c := some k) (fun n (hn : k < n) => show j < n by omega) h

theorem Tab.wfFrom_erase {b : Option Nat} {t : Tab α} (n : Nat) (h : Tab.wfFrom d b t = true) :
    Tab.wfFrom d b (Tab.erase t n) = true := by
  induction t generalizing b with
  | nil => rfl
  | cons e t ih =>
    obtain ⟨k, v⟩ := e
    have h' := Tab.wfFrom_cons.mp h
    simp only [Tab.erase]
    split
    · refine Tab.wfFrom_weaken (c := some k) (fun j (hj : k < j) => ?_) h'.2.2
      cases b with
      | none => trivial
      | some m => have : m < k := h'.1; exact (by omega : m < j)
    · split
      · exact h
      · exact Tab.wfFrom_cons.mpr ⟨h'.1, h'.2.1, ih h'.2.2⟩

theorem Tab.wfFrom_insert {b : Option Nat} {t : Tab α} {n : Nat} {v : α} (hv : v ≠ d) (hn : Tab.above b n)
    (h : Tab.wfFrom d b t = true) : Tab.wfFrom d b (Tab.insert v t n) = true := by
  induction t generalizing b with
  | nil => exact Tab.wfFrom_cons.mpr ⟨hn, hv, rfl⟩
  | cons e t ih =>
    obtain ⟨k, w⟩ := e
    have h' := Tab.wfFrom_cons.mp h
    simp only [Tab.insert]
    split
    · subst_vars; exact Tab.wfFrom_cons.mpr ⟨hn, hv, h'.2.2⟩
    · split
      · exact Tab.wfFrom_cons.mpr ⟨hn, hv, Tab.wfFrom_cons.mpr ⟨‹_›, h'.2⟩⟩
      · exact Tab.wfFrom_cons.mpr ⟨h'.1, h'.2.1, ih (show k < n by omega) h'.2.2⟩

/-- A write keeps the canonical form. -/
theorem Tab.wf_put {t : Tab α} (n : Nat) (v : α) (h : Tab.wf d t = true) : Tab.wf d (Tab.put d t n v) = true := by
  unfold Tab.put
  split
  · exact Tab.wfFrom_erase n h
  · exact Tab.wfFrom_insert ‹_› trivial h

/-- A change of one entry keeps the canonical form. -/
theorem Tab.wf_upd {t : Tab α} (n : Nat) (f : α → α) (h : Tab.wf d t = true) : Tab.wf d (Tab.upd d t n f) = true :=
  Tab.wf_put n _ h

/-- A write of a run keeps the canonical form. -/
theorem Tab.wf_putList {t : Tab α} (n : Nat) (vs : List α) (h : Tab.wf d t = true) :
    Tab.wf d (Tab.putList d t n vs) = true := by
  induction vs generalizing t n with
  | nil => exact h
  | cons v vs ih => exact ih (n + 1) (Tab.wf_put n v h)

theorem Tab.wfFrom_filter {b : Option Nat} {t : Tab α} (p : Nat × α → Bool) (h : Tab.wfFrom d b t = true) :
    Tab.wfFrom d b (t.filter p) = true := by
  induction t generalizing b with
  | nil => rfl
  | cons e t ih =>
    obtain ⟨k, v⟩ := e
    have h' := Tab.wfFrom_cons.mp h
    rw [List.filter_cons]
    split
    · exact Tab.wfFrom_cons.mpr ⟨h'.1, h'.2.1, ih h'.2.2⟩
    · refine ih (Tab.wfFrom_weaken (c := some k) (fun j (hj : k < j) => ?_) h'.2.2)
      cases b with
      | none => trivial
      | some m => have : m < k := h'.1; exact (by omega : m < j)

/-- Dropping entries keeps the canonical form. -/
theorem Tab.wf_filter {t : Tab α} (p : Nat × α → Bool) (h : Tab.wf d t = true) : Tab.wf d (t.filter p) = true :=
  Tab.wfFrom_filter p h

theorem Tab.wfFrom_mapAll {b : Option Nat} {t : Tab α} (f : Nat → α → α) (h : Tab.wfFrom d b t = true) :
    Tab.wfFrom d b (Tab.mapAll d f t) = true := by
  induction t generalizing b with
  | nil => rfl
  | cons e t ih =>
    obtain ⟨k, v⟩ := e
    have h' := Tab.wfFrom_cons.mp h
    simp only [Tab.mapAll]
    split
    · refine ih (Tab.wfFrom_weaken (c := some k) (fun j (hj : k < j) => ?_) h'.2.2)
      cases b with
      | none => trivial
      | some m => have : m < k := h'.1; exact (by omega : m < j)
    · exact Tab.wfFrom_cons.mpr ⟨h'.1, ‹_›, ih h'.2.2⟩

/-- A change of every entry keeps the canonical form. -/
theorem Tab.wf_mapAll {t : Tab α} (f : Nat → α → α) (h : Tab.wf d t = true) : Tab.wf d (Tab.mapAll d f t) = true :=
  Tab.wfFrom_mapAll f h

/-- A fold whose every step keeps the canonical form keeps it. -/
theorem Tab.wf_foldl {β : Type} {t : Tab α} (l : List β) (f : Tab α → β → Tab α)
    (hf : ∀ t x, Tab.wf d t = true → Tab.wf d (f t x) = true) (h : Tab.wf d t = true) : Tab.wf d (l.foldl f t) = true := by
  induction l generalizing t with
  | nil => exact h
  | cons x l ih => exact ih (hf t x h)

/-! ## Reading after writing -/

theorem Tab.get_below {t : Tab α} {k n : Nat} (h : Tab.wfFrom d (some k) t = true) (hn : n ≤ k) : Tab.get d t n = d := by
  cases t with
  | nil => rfl
  | cons e t =>
    obtain ⟨j, v⟩ := e
    have h' := Tab.wfFrom_cons.mp h
    have : k < j := h'.1
    simp only [Tab.get]
    rw [if_neg (by omega), if_pos (by omega)]

omit [DecidableEq α] in
theorem Tab.get_insert_same {t : Tab α} (n : Nat) (v : α) : Tab.get d (Tab.insert v t n) n = v := by
  induction t with
  | nil => simp [Tab.insert, Tab.get]
  | cons e t ih =>
    obtain ⟨k, w⟩ := e
    simp only [Tab.insert]
    split
    · simp [Tab.get]
    · split
      · simp [Tab.get]
      · simp only [Tab.get]
        rw [if_neg ‹_›, if_neg ‹_›, ih]

omit [DecidableEq α] in
theorem Tab.get_insert_ne {t : Tab α} {n m : Nat} (v : α) (hm : m ≠ n) : Tab.get d (Tab.insert v t n) m = Tab.get d t m := by
  induction t with
  | nil => simp [Tab.insert, Tab.get, hm]
  | cons e t ih =>
    obtain ⟨k, w⟩ := e
    simp only [Tab.insert]
    split
    · subst_vars; simp [Tab.get, hm]
    · split
      · simp only [Tab.get]
        rw [if_neg hm]
        split
        · rw [if_neg (by omega), if_pos (by omega)]
        · rfl
      · simp only [Tab.get, ih]

theorem Tab.get_erase_same {b : Option Nat} {t : Tab α} (n : Nat) (h : Tab.wfFrom d b t = true) :
    Tab.get d (Tab.erase t n) n = d := by
  induction t generalizing b with
  | nil => rfl
  | cons e t ih =>
    obtain ⟨k, w⟩ := e
    have h' := Tab.wfFrom_cons.mp h
    simp only [Tab.erase]
    split
    · subst_vars; exact Tab.get_below h'.2.2 (le_refl _)
    · split
      · simp only [Tab.get]; rw [if_neg ‹_›, if_pos ‹_›]
      · simp only [Tab.get]; rw [if_neg ‹_›, if_neg ‹_›]; exact ih h'.2.2

theorem Tab.get_erase_ne {b : Option Nat} {t : Tab α} {n m : Nat} (hm : m ≠ n) (h : Tab.wfFrom d b t = true) :
    Tab.get d (Tab.erase t n) m = Tab.get d t m := by
  induction t generalizing b with
  | nil => rfl
  | cons e t ih =>
    obtain ⟨k, w⟩ := e
    have h' := Tab.wfFrom_cons.mp h
    simp only [Tab.erase]
    split
    · subst_vars
      simp only [Tab.get]
      rw [if_neg hm]
      split
      · exact Tab.get_below h'.2.2 (by omega)
      · rfl
    · split
      · rfl
      · simp only [Tab.get, ih h'.2.2]

/-- A read of the entry written. -/
theorem Tab.get_put_same {t : Tab α} (n : Nat) (v : α) (h : Tab.wf d t = true) : Tab.get d (Tab.put d t n v) n = v := by
  unfold Tab.put
  split
  · subst_vars; exact Tab.get_erase_same n h
  · exact Tab.get_insert_same n v

/-- A read of every other entry. -/
theorem Tab.get_put_ne {t : Tab α} {n m : Nat} (v : α) (hm : m ≠ n) (h : Tab.wf d t = true) :
    Tab.get d (Tab.put d t n v) m = Tab.get d t m := by
  unfold Tab.put
  split
  · exact Tab.get_erase_ne hm h
  · exact Tab.get_insert_ne v hm

/-- A read of any entry after a write. -/
theorem Tab.get_put {t : Tab α} (n m : Nat) (v : α) (h : Tab.wf d t = true) :
    Tab.get d (Tab.put d t n v) m = if m = n then v else Tab.get d t m := by
  split
  · subst_vars; exact Tab.get_put_same _ v h
  · exact Tab.get_put_ne v ‹_› h

/-- A read of any entry after a change. -/
theorem Tab.get_upd {t : Tab α} (n m : Nat) (f : α → α) (h : Tab.wf d t = true) :
    Tab.get d (Tab.upd d t n f) m = if m = n then f (Tab.get d t n) else Tab.get d t m :=
  Tab.get_put n m _ h

/-- A read of any entry after a write of a run. -/
theorem Tab.get_putList {t : Tab α} (n m : Nat) (vs : List α) (h : Tab.wf d t = true) :
    Tab.get d (Tab.putList d t n vs) m = if n ≤ m ∧ m < n + vs.length then vs.getD (m - n) d else Tab.get d t m := by
  induction vs generalizing t n with
  | nil => simp [Tab.putList]
  | cons v vs ih =>
    simp only [Tab.putList]
    rw [ih (n + 1) (Tab.wf_put n v h), Tab.get_put n m v h]
    by_cases h1 : m = n
    · subst h1; simp
    · by_cases h2 : n + 1 ≤ m ∧ m < n + 1 + vs.length
      · rw [if_pos h2, if_pos (by simp only [List.length_cons]; omega)]
        obtain ⟨j, rfl⟩ : ∃ j, m = n + 1 + j := ⟨m - (n + 1), by omega⟩
        have e1 : n + 1 + j - (n + 1) = j := by omega
        have e2 : n + 1 + j - n = j + 1 := by omega
        simp [e1, e2]
      · rw [if_neg h2, if_neg h1, if_neg (by simp only [List.length_cons]; omega)]

/-- A table is canonical in one way only: equal reads make equal tables. -/
theorem Tab.ext_from {b c : Option Nat} {t u : Tab α} (ht : Tab.wfFrom d b t = true) (hu : Tab.wfFrom d c u = true)
    (h : ∀ n, Tab.get d t n = Tab.get d u n) : t = u := by
  induction t generalizing b c u with
  | nil =>
    cases u with
    | nil => rfl
    | cons e u =>
      obtain ⟨k, v⟩ := e
      have := h k
      simp [Tab.get] at this
      exact absurd this.symm (Tab.wfFrom_cons.mp hu).2.1
  | cons e t ih =>
    obtain ⟨k, v⟩ := e
    have ht' := Tab.wfFrom_cons.mp ht
    cases u with
    | nil =>
      have := h k
      simp [Tab.get] at this
      exact absurd this ht'.2.1
    | cons e' u =>
      obtain ⟨j, w⟩ := e'
      have hu' := Tab.wfFrom_cons.mp hu
      have hkj : k = j := by
        rcases Nat.lt_trichotomy k j with hlt | heq | hgt
        · have := h k
          simp only [Tab.get] at this
          have e1 : ¬ k = j := by omega
          simp [e1, hlt] at this
          exact absurd this ht'.2.1
        · exact heq
        · have := h j
          simp only [Tab.get] at this
          have e1 : ¬ j = k := by omega
          simp [e1, hgt] at this
          exact absurd this.symm hu'.2.1
      subst hkj
      have hv : v = w := by have := h k; simpa [Tab.get] using this
      subst hv
      congr 1
      refine ih ht'.2.2 hu'.2.2 (fun n => ?_)
      have hn := h n
      simp only [Tab.get] at hn
      by_cases h1 : n = k
      · rw [Tab.get_below ht'.2.2 (by omega), Tab.get_below hu'.2.2 (by omega)]
      · by_cases h2 : n < k
        · rw [Tab.get_below ht'.2.2 (by omega), Tab.get_below hu'.2.2 (by omega)]
        · simpa [h1, h2] using hn

end Sys2Proof.Machine
end

