-- ==== Sys2Proof/Laws/State.lean ====
section
/-!
SUPPORT. What each updater of the state leaves and what it changes, one lemma for each field.
-/
namespace Sys2Proof.Machine

variable (s : State)

/-! ## State.updHub -/

@[simp] theorem State.updHub_now (p : Nat) (f : Hub → Hub) : (s.updHub p f).now = s.now := rfl
@[simp] theorem State.updHub_fv (p : Nat) (f : Hub → Hub) : (s.updHub p f).fv = s.fv := rfl
@[simp] theorem State.updHub_part (p : Nat) (f : Hub → Hub) : (s.updHub p f).part = s.part := rfl
@[simp] theorem State.updHub_supply (p : Nat) (f : Hub → Hub) : (s.updHub p f).supply = s.supply := rfl
@[simp] theorem State.updHub_stroke (p : Nat) (f : Hub → Hub) : (s.updHub p f).stroke = s.stroke := rfl
@[simp] theorem State.updHub_bring (p : Nat) (f : Hub → Hub) : (s.updHub p f).bring = s.bring := rfl
@[simp] theorem State.updHub_defects (p : Nat) (f : Hub → Hub) : (s.updHub p f).defects = s.defects := rfl
@[simp] theorem State.updHub_colMaps (p : Nat) (f : Hub → Hub) : (s.updHub p f).colMaps = s.colMaps := rfl
@[simp] theorem State.updHub_coxes (p : Nat) (f : Hub → Hub) : (s.updHub p f).coxes = s.coxes := rfl
@[simp] theorem State.updHub_regions (p : Nat) (f : Hub → Hub) : (s.updHub p f).regions = s.regions := rfl
@[simp] theorem State.updHub_cores (p : Nat) (f : Hub → Hub) : (s.updHub p f).cores = s.cores := rfl
@[simp] theorem State.updHub_lcidAt (p : Nat) (f : Hub → Hub) : (s.updHub p f).lcidAt = s.lcidAt := rfl
@[simp] theorem State.updHub_crews (p : Nat) (f : Hub → Hub) : (s.updHub p f).crews = s.crews := rfl
@[simp] theorem State.updHub_syncs (p : Nat) (f : Hub → Hub) : (s.updHub p f).syncs = s.syncs := rfl
@[simp] theorem State.updHub_trees (p : Nat) (f : Hub → Hub) : (s.updHub p f).trees = s.trees := rfl
@[simp] theorem State.updHub_admits (p : Nat) (f : Hub → Hub) : (s.updHub p f).admits = s.admits := rfl
@[simp] theorem State.updHub_net (p : Nat) (f : Hub → Hub) : (s.updHub p f).net = s.net := rfl
@[simp] theorem State.updHub_links (p : Nat) (f : Hub → Hub) : (s.updHub p f).links = s.links := rfl
@[simp] theorem State.updHub_offs (p : Nat) (f : Hub → Hub) : (s.updHub p f).offs = s.offs := rfl
@[simp] theorem State.updHub_arbs (p : Nat) (f : Hub → Hub) : (s.updHub p f).arbs = s.arbs := rfl
@[simp] theorem State.updHub_sram (p : Nat) (f : Hub → Hub) : (s.updHub p f).sram = s.sram := rfl
@[simp] theorem State.updHub_sramUe (p : Nat) (f : Hub → Hub) : (s.updHub p f).sramUe = s.sramUe := rfl
@[simp] theorem State.updHub_sramCe (p : Nat) (f : Hub → Hub) : (s.updHub p f).sramCe = s.sramCe := rfl
@[simp] theorem State.updHub_hbm (p : Nat) (f : Hub → Hub) : (s.updHub p f).hbm = s.hbm := rfl
@[simp] theorem State.updHub_hbmUe (p : Nat) (f : Hub → Hub) : (s.updHub p f).hbmUe = s.hbmUe := rfl
@[simp] theorem State.updHub_hbmCe (p : Nat) (f : Hub → Hub) : (s.updHub p f).hbmCe = s.hbmCe := rfl
@[simp] theorem State.updHub_slices (p : Nat) (f : Hub → Hub) : (s.updHub p f).slices = s.slices := rfl
@[simp] theorem State.updHub_stackTab (p : Nat) (f : Hub → Hub) : (s.updHub p f).stackTab = s.stackTab := rfl
@[simp] theorem State.updHub_tallies (p : Nat) (f : Hub → Hub) : (s.updHub p f).tallies = s.tallies := rfl
@[simp] theorem State.updHub_power (p : Nat) (f : Hub → Hub) : (s.updHub p f).power = s.power := rfl
@[simp] theorem State.updHub_cool (p : Nat) (f : Hub → Hub) : (s.updHub p f).cool = s.cool := rfl
@[simp] theorem State.updHub_fports (p : Nat) (f : Hub → Hub) : (s.updHub p f).fports = s.fports := rfl
@[simp] theorem State.updHub_sec (p : Nat) (f : Hub → Hub) : (s.updHub p f).sec = s.sec := rfl
@[simp] theorem State.updHub_bezels (p : Nat) (f : Hub → Hub) : (s.updHub p f).bezels = s.bezels := rfl
@[simp] theorem State.updHub_rings (p : Nat) (f : Hub → Hub) : (s.updHub p f).rings = s.rings := rfl
@[simp] theorem State.updHub_posted (p : Nat) (f : Hub → Hub) : (s.updHub p f).posted = s.posted := rfl
@[simp] theorem State.updHub_postNo (p : Nat) (f : Hub → Hub) : (s.updHub p f).postNo = s.postNo := rfl
@[simp] theorem State.updHub_out (p : Nat) (f : Hub → Hub) : (s.updHub p f).out = s.out := rfl
@[simp] theorem State.updHub_pending (p : Nat) (f : Hub → Hub) : (s.updHub p f).pending = s.pending := rfl

/-! ## State.updCox -/

@[simp] theorem State.updCox_now (p : Nat) (f : Cox → Cox) : (s.updCox p f).now = s.now := rfl
@[simp] theorem State.updCox_fv (p : Nat) (f : Cox → Cox) : (s.updCox p f).fv = s.fv := rfl
@[simp] theorem State.updCox_part (p : Nat) (f : Cox → Cox) : (s.updCox p f).part = s.part := rfl
@[simp] theorem State.updCox_supply (p : Nat) (f : Cox → Cox) : (s.updCox p f).supply = s.supply := rfl
@[simp] theorem State.updCox_stroke (p : Nat) (f : Cox → Cox) : (s.updCox p f).stroke = s.stroke := rfl
@[simp] theorem State.updCox_hubs (p : Nat) (f : Cox → Cox) : (s.updCox p f).hubs = s.hubs := rfl
@[simp] theorem State.updCox_bring (p : Nat) (f : Cox → Cox) : (s.updCox p f).bring = s.bring := rfl
@[simp] theorem State.updCox_defects (p : Nat) (f : Cox → Cox) : (s.updCox p f).defects = s.defects := rfl
@[simp] theorem State.updCox_colMaps (p : Nat) (f : Cox → Cox) : (s.updCox p f).colMaps = s.colMaps := rfl
@[simp] theorem State.updCox_regions (p : Nat) (f : Cox → Cox) : (s.updCox p f).regions = s.regions := rfl
@[simp] theorem State.updCox_cores (p : Nat) (f : Cox → Cox) : (s.updCox p f).cores = s.cores := rfl
@[simp] theorem State.updCox_lcidAt (p : Nat) (f : Cox → Cox) : (s.updCox p f).lcidAt = s.lcidAt := rfl
@[simp] theorem State.updCox_crews (p : Nat) (f : Cox → Cox) : (s.updCox p f).crews = s.crews := rfl
@[simp] theorem State.updCox_syncs (p : Nat) (f : Cox → Cox) : (s.updCox p f).syncs = s.syncs := rfl
@[simp] theorem State.updCox_trees (p : Nat) (f : Cox → Cox) : (s.updCox p f).trees = s.trees := rfl
@[simp] theorem State.updCox_admits (p : Nat) (f : Cox → Cox) : (s.updCox p f).admits = s.admits := rfl
@[simp] theorem State.updCox_net (p : Nat) (f : Cox → Cox) : (s.updCox p f).net = s.net := rfl
@[simp] theorem State.updCox_links (p : Nat) (f : Cox → Cox) : (s.updCox p f).links = s.links := rfl
@[simp] theorem State.updCox_offs (p : Nat) (f : Cox → Cox) : (s.updCox p f).offs = s.offs := rfl
@[simp] theorem State.updCox_arbs (p : Nat) (f : Cox → Cox) : (s.updCox p f).arbs = s.arbs := rfl
@[simp] theorem State.updCox_sram (p : Nat) (f : Cox → Cox) : (s.updCox p f).sram = s.sram := rfl
@[simp] theorem State.updCox_sramUe (p : Nat) (f : Cox → Cox) : (s.updCox p f).sramUe = s.sramUe := rfl
@[simp] theorem State.updCox_sramCe (p : Nat) (f : Cox → Cox) : (s.updCox p f).sramCe = s.sramCe := rfl
@[simp] theorem State.updCox_hbm (p : Nat) (f : Cox → Cox) : (s.updCox p f).hbm = s.hbm := rfl
@[simp] theorem State.updCox_hbmUe (p : Nat) (f : Cox → Cox) : (s.updCox p f).hbmUe = s.hbmUe := rfl
@[simp] theorem State.updCox_hbmCe (p : Nat) (f : Cox → Cox) : (s.updCox p f).hbmCe = s.hbmCe := rfl
@[simp] theorem State.updCox_slices (p : Nat) (f : Cox → Cox) : (s.updCox p f).slices = s.slices := rfl
@[simp] theorem State.updCox_stackTab (p : Nat) (f : Cox → Cox) : (s.updCox p f).stackTab = s.stackTab := rfl
@[simp] theorem State.updCox_tallies (p : Nat) (f : Cox → Cox) : (s.updCox p f).tallies = s.tallies := rfl
@[simp] theorem State.updCox_power (p : Nat) (f : Cox → Cox) : (s.updCox p f).power = s.power := rfl
@[simp] theorem State.updCox_cool (p : Nat) (f : Cox → Cox) : (s.updCox p f).cool = s.cool := rfl
@[simp] theorem State.updCox_fports (p : Nat) (f : Cox → Cox) : (s.updCox p f).fports = s.fports := rfl
@[simp] theorem State.updCox_sec (p : Nat) (f : Cox → Cox) : (s.updCox p f).sec = s.sec := rfl
@[simp] theorem State.updCox_bezels (p : Nat) (f : Cox → Cox) : (s.updCox p f).bezels = s.bezels := rfl
@[simp] theorem State.updCox_rings (p : Nat) (f : Cox → Cox) : (s.updCox p f).rings = s.rings := rfl
@[simp] theorem State.updCox_posted (p : Nat) (f : Cox → Cox) : (s.updCox p f).posted = s.posted := rfl
@[simp] theorem State.updCox_postNo (p : Nat) (f : Cox → Cox) : (s.updCox p f).postNo = s.postNo := rfl
@[simp] theorem State.updCox_out (p : Nat) (f : Cox → Cox) : (s.updCox p f).out = s.out := rfl
@[simp] theorem State.updCox_pending (p : Nat) (f : Cox → Cox) : (s.updCox p f).pending = s.pending := rfl

/-! ## State.updRegion -/

@[simp] theorem State.updRegion_now (p : Nat) (f : Region → Region) : (s.updRegion p f).now = s.now := rfl
@[simp] theorem State.updRegion_fv (p : Nat) (f : Region → Region) : (s.updRegion p f).fv = s.fv := rfl
@[simp] theorem State.updRegion_part (p : Nat) (f : Region → Region) : (s.updRegion p f).part = s.part := rfl
@[simp] theorem State.updRegion_supply (p : Nat) (f : Region → Region) : (s.updRegion p f).supply = s.supply := rfl
@[simp] theorem State.updRegion_stroke (p : Nat) (f : Region → Region) : (s.updRegion p f).stroke = s.stroke := rfl
@[simp] theorem State.updRegion_hubs (p : Nat) (f : Region → Region) : (s.updRegion p f).hubs = s.hubs := rfl
@[simp] theorem State.updRegion_bring (p : Nat) (f : Region → Region) : (s.updRegion p f).bring = s.bring := rfl
@[simp] theorem State.updRegion_defects (p : Nat) (f : Region → Region) : (s.updRegion p f).defects = s.defects := rfl
@[simp] theorem State.updRegion_colMaps (p : Nat) (f : Region → Region) : (s.updRegion p f).colMaps = s.colMaps := rfl
@[simp] theorem State.updRegion_coxes (p : Nat) (f : Region → Region) : (s.updRegion p f).coxes = s.coxes := rfl
@[simp] theorem State.updRegion_cores (p : Nat) (f : Region → Region) : (s.updRegion p f).cores = s.cores := rfl
@[simp] theorem State.updRegion_lcidAt (p : Nat) (f : Region → Region) : (s.updRegion p f).lcidAt = s.lcidAt := rfl
@[simp] theorem State.updRegion_crews (p : Nat) (f : Region → Region) : (s.updRegion p f).crews = s.crews := rfl
@[simp] theorem State.updRegion_syncs (p : Nat) (f : Region → Region) : (s.updRegion p f).syncs = s.syncs := rfl
@[simp] theorem State.updRegion_trees (p : Nat) (f : Region → Region) : (s.updRegion p f).trees = s.trees := rfl
@[simp] theorem State.updRegion_admits (p : Nat) (f : Region → Region) : (s.updRegion p f).admits = s.admits := rfl
@[simp] theorem State.updRegion_net (p : Nat) (f : Region → Region) : (s.updRegion p f).net = s.net := rfl
@[simp] theorem State.updRegion_links (p : Nat) (f : Region → Region) : (s.updRegion p f).links = s.links := rfl
@[simp] theorem State.updRegion_offs (p : Nat) (f : Region → Region) : (s.updRegion p f).offs = s.offs := rfl
@[simp] theorem State.updRegion_arbs (p : Nat) (f : Region → Region) : (s.updRegion p f).arbs = s.arbs := rfl
@[simp] theorem State.updRegion_sram (p : Nat) (f : Region → Region) : (s.updRegion p f).sram = s.sram := rfl
@[simp] theorem State.updRegion_sramUe (p : Nat) (f : Region → Region) : (s.updRegion p f).sramUe = s.sramUe := rfl
@[simp] theorem State.updRegion_sramCe (p : Nat) (f : Region → Region) : (s.updRegion p f).sramCe = s.sramCe := rfl
@[simp] theorem State.updRegion_hbm (p : Nat) (f : Region → Region) : (s.updRegion p f).hbm = s.hbm := rfl
@[simp] theorem State.updRegion_hbmUe (p : Nat) (f : Region → Region) : (s.updRegion p f).hbmUe = s.hbmUe := rfl
@[simp] theorem State.updRegion_hbmCe (p : Nat) (f : Region → Region) : (s.updRegion p f).hbmCe = s.hbmCe := rfl
@[simp] theorem State.updRegion_slices (p : Nat) (f : Region → Region) : (s.updRegion p f).slices = s.slices := rfl
@[simp] theorem State.updRegion_stackTab (p : Nat) (f : Region → Region) : (s.updRegion p f).stackTab = s.stackTab := rfl
@[simp] theorem State.updRegion_tallies (p : Nat) (f : Region → Region) : (s.updRegion p f).tallies = s.tallies := rfl
@[simp] theorem State.updRegion_power (p : Nat) (f : Region → Region) : (s.updRegion p f).power = s.power := rfl
@[simp] theorem State.updRegion_cool (p : Nat) (f : Region → Region) : (s.updRegion p f).cool = s.cool := rfl
@[simp] theorem State.updRegion_fports (p : Nat) (f : Region → Region) : (s.updRegion p f).fports = s.fports := rfl
@[simp] theorem State.updRegion_sec (p : Nat) (f : Region → Region) : (s.updRegion p f).sec = s.sec := rfl
@[simp] theorem State.updRegion_bezels (p : Nat) (f : Region → Region) : (s.updRegion p f).bezels = s.bezels := rfl
@[simp] theorem State.updRegion_rings (p : Nat) (f : Region → Region) : (s.updRegion p f).rings = s.rings := rfl
@[simp] theorem State.updRegion_posted (p : Nat) (f : Region → Region) : (s.updRegion p f).posted = s.posted := rfl
@[simp] theorem State.updRegion_postNo (p : Nat) (f : Region → Region) : (s.updRegion p f).postNo = s.postNo := rfl
@[simp] theorem State.updRegion_out (p : Nat) (f : Region → Region) : (s.updRegion p f).out = s.out := rfl
@[simp] theorem State.updRegion_pending (p : Nat) (f : Region → Region) : (s.updRegion p f).pending = s.pending := rfl

/-! ## State.updCore -/

@[simp] theorem State.updCore_now (p : Nat) (f : Core → Core) : (s.updCore p f).now = s.now := rfl
@[simp] theorem State.updCore_fv (p : Nat) (f : Core → Core) : (s.updCore p f).fv = s.fv := rfl
@[simp] theorem State.updCore_part (p : Nat) (f : Core → Core) : (s.updCore p f).part = s.part := rfl
@[simp] theorem State.updCore_supply (p : Nat) (f : Core → Core) : (s.updCore p f).supply = s.supply := rfl
@[simp] theorem State.updCore_stroke (p : Nat) (f : Core → Core) : (s.updCore p f).stroke = s.stroke := rfl
@[simp] theorem State.updCore_hubs (p : Nat) (f : Core → Core) : (s.updCore p f).hubs = s.hubs := rfl
@[simp] theorem State.updCore_bring (p : Nat) (f : Core → Core) : (s.updCore p f).bring = s.bring := rfl
@[simp] theorem State.updCore_defects (p : Nat) (f : Core → Core) : (s.updCore p f).defects = s.defects := rfl
@[simp] theorem State.updCore_colMaps (p : Nat) (f : Core → Core) : (s.updCore p f).colMaps = s.colMaps := rfl
@[simp] theorem State.updCore_coxes (p : Nat) (f : Core → Core) : (s.updCore p f).coxes = s.coxes := rfl
@[simp] theorem State.updCore_regions (p : Nat) (f : Core → Core) : (s.updCore p f).regions = s.regions := rfl
@[simp] theorem State.updCore_lcidAt (p : Nat) (f : Core → Core) : (s.updCore p f).lcidAt = s.lcidAt := rfl
@[simp] theorem State.updCore_crews (p : Nat) (f : Core → Core) : (s.updCore p f).crews = s.crews := rfl
@[simp] theorem State.updCore_syncs (p : Nat) (f : Core → Core) : (s.updCore p f).syncs = s.syncs := rfl
@[simp] theorem State.updCore_trees (p : Nat) (f : Core → Core) : (s.updCore p f).trees = s.trees := rfl
@[simp] theorem State.updCore_admits (p : Nat) (f : Core → Core) : (s.updCore p f).admits = s.admits := rfl
@[simp] theorem State.updCore_net (p : Nat) (f : Core → Core) : (s.updCore p f).net = s.net := rfl
@[simp] theorem State.updCore_links (p : Nat) (f : Core → Core) : (s.updCore p f).links = s.links := rfl
@[simp] theorem State.updCore_offs (p : Nat) (f : Core → Core) : (s.updCore p f).offs = s.offs := rfl
@[simp] theorem State.updCore_arbs (p : Nat) (f : Core → Core) : (s.updCore p f).arbs = s.arbs := rfl
@[simp] theorem State.updCore_sram (p : Nat) (f : Core → Core) : (s.updCore p f).sram = s.sram := rfl
@[simp] theorem State.updCore_sramUe (p : Nat) (f : Core → Core) : (s.updCore p f).sramUe = s.sramUe := rfl
@[simp] theorem State.updCore_sramCe (p : Nat) (f : Core → Core) : (s.updCore p f).sramCe = s.sramCe := rfl
@[simp] theorem State.updCore_hbm (p : Nat) (f : Core → Core) : (s.updCore p f).hbm = s.hbm := rfl
@[simp] theorem State.updCore_hbmUe (p : Nat) (f : Core → Core) : (s.updCore p f).hbmUe = s.hbmUe := rfl
@[simp] theorem State.updCore_hbmCe (p : Nat) (f : Core → Core) : (s.updCore p f).hbmCe = s.hbmCe := rfl
@[simp] theorem State.updCore_slices (p : Nat) (f : Core → Core) : (s.updCore p f).slices = s.slices := rfl
@[simp] theorem State.updCore_stackTab (p : Nat) (f : Core → Core) : (s.updCore p f).stackTab = s.stackTab := rfl
@[simp] theorem State.updCore_tallies (p : Nat) (f : Core → Core) : (s.updCore p f).tallies = s.tallies := rfl
@[simp] theorem State.updCore_power (p : Nat) (f : Core → Core) : (s.updCore p f).power = s.power := rfl
@[simp] theorem State.updCore_cool (p : Nat) (f : Core → Core) : (s.updCore p f).cool = s.cool := rfl
@[simp] theorem State.updCore_fports (p : Nat) (f : Core → Core) : (s.updCore p f).fports = s.fports := rfl
@[simp] theorem State.updCore_sec (p : Nat) (f : Core → Core) : (s.updCore p f).sec = s.sec := rfl
@[simp] theorem State.updCore_bezels (p : Nat) (f : Core → Core) : (s.updCore p f).bezels = s.bezels := rfl
@[simp] theorem State.updCore_rings (p : Nat) (f : Core → Core) : (s.updCore p f).rings = s.rings := rfl
@[simp] theorem State.updCore_posted (p : Nat) (f : Core → Core) : (s.updCore p f).posted = s.posted := rfl
@[simp] theorem State.updCore_postNo (p : Nat) (f : Core → Core) : (s.updCore p f).postNo = s.postNo := rfl
@[simp] theorem State.updCore_out (p : Nat) (f : Core → Core) : (s.updCore p f).out = s.out := rfl
@[simp] theorem State.updCore_pending (p : Nat) (f : Core → Core) : (s.updCore p f).pending = s.pending := rfl

/-! ## State.setCoreOf -/

@[simp] theorem State.setCoreOf_now (p : Nat) (f : Option Nat) : (s.setCoreOf p f).now = s.now := rfl
@[simp] theorem State.setCoreOf_fv (p : Nat) (f : Option Nat) : (s.setCoreOf p f).fv = s.fv := rfl
@[simp] theorem State.setCoreOf_part (p : Nat) (f : Option Nat) : (s.setCoreOf p f).part = s.part := rfl
@[simp] theorem State.setCoreOf_supply (p : Nat) (f : Option Nat) : (s.setCoreOf p f).supply = s.supply := rfl
@[simp] theorem State.setCoreOf_stroke (p : Nat) (f : Option Nat) : (s.setCoreOf p f).stroke = s.stroke := rfl
@[simp] theorem State.setCoreOf_hubs (p : Nat) (f : Option Nat) : (s.setCoreOf p f).hubs = s.hubs := rfl
@[simp] theorem State.setCoreOf_bring (p : Nat) (f : Option Nat) : (s.setCoreOf p f).bring = s.bring := rfl
@[simp] theorem State.setCoreOf_defects (p : Nat) (f : Option Nat) : (s.setCoreOf p f).defects = s.defects := rfl
@[simp] theorem State.setCoreOf_colMaps (p : Nat) (f : Option Nat) : (s.setCoreOf p f).colMaps = s.colMaps := rfl
@[simp] theorem State.setCoreOf_coxes (p : Nat) (f : Option Nat) : (s.setCoreOf p f).coxes = s.coxes := rfl
@[simp] theorem State.setCoreOf_regions (p : Nat) (f : Option Nat) : (s.setCoreOf p f).regions = s.regions := rfl
@[simp] theorem State.setCoreOf_cores (p : Nat) (f : Option Nat) : (s.setCoreOf p f).cores = s.cores := rfl
@[simp] theorem State.setCoreOf_crews (p : Nat) (f : Option Nat) : (s.setCoreOf p f).crews = s.crews := rfl
@[simp] theorem State.setCoreOf_syncs (p : Nat) (f : Option Nat) : (s.setCoreOf p f).syncs = s.syncs := rfl
@[simp] theorem State.setCoreOf_trees (p : Nat) (f : Option Nat) : (s.setCoreOf p f).trees = s.trees := rfl
@[simp] theorem State.setCoreOf_admits (p : Nat) (f : Option Nat) : (s.setCoreOf p f).admits = s.admits := rfl
@[simp] theorem State.setCoreOf_net (p : Nat) (f : Option Nat) : (s.setCoreOf p f).net = s.net := rfl
@[simp] theorem State.setCoreOf_links (p : Nat) (f : Option Nat) : (s.setCoreOf p f).links = s.links := rfl
@[simp] theorem State.setCoreOf_offs (p : Nat) (f : Option Nat) : (s.setCoreOf p f).offs = s.offs := rfl
@[simp] theorem State.setCoreOf_arbs (p : Nat) (f : Option Nat) : (s.setCoreOf p f).arbs = s.arbs := rfl
@[simp] theorem State.setCoreOf_sram (p : Nat) (f : Option Nat) : (s.setCoreOf p f).sram = s.sram := rfl
@[simp] theorem State.setCoreOf_sramUe (p : Nat) (f : Option Nat) : (s.setCoreOf p f).sramUe = s.sramUe := rfl
@[simp] theorem State.setCoreOf_sramCe (p : Nat) (f : Option Nat) : (s.setCoreOf p f).sramCe = s.sramCe := rfl
@[simp] theorem State.setCoreOf_hbm (p : Nat) (f : Option Nat) : (s.setCoreOf p f).hbm = s.hbm := rfl
@[simp] theorem State.setCoreOf_hbmUe (p : Nat) (f : Option Nat) : (s.setCoreOf p f).hbmUe = s.hbmUe := rfl
@[simp] theorem State.setCoreOf_hbmCe (p : Nat) (f : Option Nat) : (s.setCoreOf p f).hbmCe = s.hbmCe := rfl
@[simp] theorem State.setCoreOf_slices (p : Nat) (f : Option Nat) : (s.setCoreOf p f).slices = s.slices := rfl
@[simp] theorem State.setCoreOf_stackTab (p : Nat) (f : Option Nat) : (s.setCoreOf p f).stackTab = s.stackTab := rfl
@[simp] theorem State.setCoreOf_tallies (p : Nat) (f : Option Nat) : (s.setCoreOf p f).tallies = s.tallies := rfl
@[simp] theorem State.setCoreOf_power (p : Nat) (f : Option Nat) : (s.setCoreOf p f).power = s.power := rfl
@[simp] theorem State.setCoreOf_cool (p : Nat) (f : Option Nat) : (s.setCoreOf p f).cool = s.cool := rfl
@[simp] theorem State.setCoreOf_fports (p : Nat) (f : Option Nat) : (s.setCoreOf p f).fports = s.fports := rfl
@[simp] theorem State.setCoreOf_sec (p : Nat) (f : Option Nat) : (s.setCoreOf p f).sec = s.sec := rfl
@[simp] theorem State.setCoreOf_bezels (p : Nat) (f : Option Nat) : (s.setCoreOf p f).bezels = s.bezels := rfl
@[simp] theorem State.setCoreOf_rings (p : Nat) (f : Option Nat) : (s.setCoreOf p f).rings = s.rings := rfl
@[simp] theorem State.setCoreOf_posted (p : Nat) (f : Option Nat) : (s.setCoreOf p f).posted = s.posted := rfl
@[simp] theorem State.setCoreOf_postNo (p : Nat) (f : Option Nat) : (s.setCoreOf p f).postNo = s.postNo := rfl
@[simp] theorem State.setCoreOf_out (p : Nat) (f : Option Nat) : (s.setCoreOf p f).out = s.out := rfl
@[simp] theorem State.setCoreOf_pending (p : Nat) (f : Option Nat) : (s.setCoreOf p f).pending = s.pending := rfl

/-! ## State.updCrew -/

@[simp] theorem State.updCrew_now (p c : Nat) (f : Crew → Crew) : (s.updCrew p c f).now = s.now := rfl
@[simp] theorem State.updCrew_fv (p c : Nat) (f : Crew → Crew) : (s.updCrew p c f).fv = s.fv := rfl
@[simp] theorem State.updCrew_part (p c : Nat) (f : Crew → Crew) : (s.updCrew p c f).part = s.part := rfl
@[simp] theorem State.updCrew_supply (p c : Nat) (f : Crew → Crew) : (s.updCrew p c f).supply = s.supply := rfl
@[simp] theorem State.updCrew_stroke (p c : Nat) (f : Crew → Crew) : (s.updCrew p c f).stroke = s.stroke := rfl
@[simp] theorem State.updCrew_hubs (p c : Nat) (f : Crew → Crew) : (s.updCrew p c f).hubs = s.hubs := rfl
@[simp] theorem State.updCrew_bring (p c : Nat) (f : Crew → Crew) : (s.updCrew p c f).bring = s.bring := rfl
@[simp] theorem State.updCrew_defects (p c : Nat) (f : Crew → Crew) : (s.updCrew p c f).defects = s.defects := rfl
@[simp] theorem State.updCrew_colMaps (p c : Nat) (f : Crew → Crew) : (s.updCrew p c f).colMaps = s.colMaps := rfl
@[simp] theorem State.updCrew_coxes (p c : Nat) (f : Crew → Crew) : (s.updCrew p c f).coxes = s.coxes := rfl
@[simp] theorem State.updCrew_regions (p c : Nat) (f : Crew → Crew) : (s.updCrew p c f).regions = s.regions := rfl
@[simp] theorem State.updCrew_cores (p c : Nat) (f : Crew → Crew) : (s.updCrew p c f).cores = s.cores := rfl
@[simp] theorem State.updCrew_lcidAt (p c : Nat) (f : Crew → Crew) : (s.updCrew p c f).lcidAt = s.lcidAt := rfl
@[simp] theorem State.updCrew_syncs (p c : Nat) (f : Crew → Crew) : (s.updCrew p c f).syncs = s.syncs := rfl
@[simp] theorem State.updCrew_trees (p c : Nat) (f : Crew → Crew) : (s.updCrew p c f).trees = s.trees := rfl
@[simp] theorem State.updCrew_admits (p c : Nat) (f : Crew → Crew) : (s.updCrew p c f).admits = s.admits := rfl
@[simp] theorem State.updCrew_net (p c : Nat) (f : Crew → Crew) : (s.updCrew p c f).net = s.net := rfl
@[simp] theorem State.updCrew_links (p c : Nat) (f : Crew → Crew) : (s.updCrew p c f).links = s.links := rfl
@[simp] theorem State.updCrew_offs (p c : Nat) (f : Crew → Crew) : (s.updCrew p c f).offs = s.offs := rfl
@[simp] theorem State.updCrew_arbs (p c : Nat) (f : Crew → Crew) : (s.updCrew p c f).arbs = s.arbs := rfl
@[simp] theorem State.updCrew_sram (p c : Nat) (f : Crew → Crew) : (s.updCrew p c f).sram = s.sram := rfl
@[simp] theorem State.updCrew_sramUe (p c : Nat) (f : Crew → Crew) : (s.updCrew p c f).sramUe = s.sramUe := rfl
@[simp] theorem State.updCrew_sramCe (p c : Nat) (f : Crew → Crew) : (s.updCrew p c f).sramCe = s.sramCe := rfl
@[simp] theorem State.updCrew_hbm (p c : Nat) (f : Crew → Crew) : (s.updCrew p c f).hbm = s.hbm := rfl
@[simp] theorem State.updCrew_hbmUe (p c : Nat) (f : Crew → Crew) : (s.updCrew p c f).hbmUe = s.hbmUe := rfl
@[simp] theorem State.updCrew_hbmCe (p c : Nat) (f : Crew → Crew) : (s.updCrew p c f).hbmCe = s.hbmCe := rfl
@[simp] theorem State.updCrew_slices (p c : Nat) (f : Crew → Crew) : (s.updCrew p c f).slices = s.slices := rfl
@[simp] theorem State.updCrew_stackTab (p c : Nat) (f : Crew → Crew) : (s.updCrew p c f).stackTab = s.stackTab := rfl
@[simp] theorem State.updCrew_tallies (p c : Nat) (f : Crew → Crew) : (s.updCrew p c f).tallies = s.tallies := rfl
@[simp] theorem State.updCrew_power (p c : Nat) (f : Crew → Crew) : (s.updCrew p c f).power = s.power := rfl
@[simp] theorem State.updCrew_cool (p c : Nat) (f : Crew → Crew) : (s.updCrew p c f).cool = s.cool := rfl
@[simp] theorem State.updCrew_fports (p c : Nat) (f : Crew → Crew) : (s.updCrew p c f).fports = s.fports := rfl
@[simp] theorem State.updCrew_sec (p c : Nat) (f : Crew → Crew) : (s.updCrew p c f).sec = s.sec := rfl
@[simp] theorem State.updCrew_bezels (p c : Nat) (f : Crew → Crew) : (s.updCrew p c f).bezels = s.bezels := rfl
@[simp] theorem State.updCrew_rings (p c : Nat) (f : Crew → Crew) : (s.updCrew p c f).rings = s.rings := rfl
@[simp] theorem State.updCrew_posted (p c : Nat) (f : Crew → Crew) : (s.updCrew p c f).posted = s.posted := rfl
@[simp] theorem State.updCrew_postNo (p c : Nat) (f : Crew → Crew) : (s.updCrew p c f).postNo = s.postNo := rfl
@[simp] theorem State.updCrew_out (p c : Nat) (f : Crew → Crew) : (s.updCrew p c f).out = s.out := rfl
@[simp] theorem State.updCrew_pending (p c : Nat) (f : Crew → Crew) : (s.updCrew p c f).pending = s.pending := rfl

/-! ## State.updSync -/

@[simp] theorem State.updSync_now (p : Nat) (f : SyncObj → SyncObj) : (s.updSync p f).now = s.now := rfl
@[simp] theorem State.updSync_fv (p : Nat) (f : SyncObj → SyncObj) : (s.updSync p f).fv = s.fv := rfl
@[simp] theorem State.updSync_part (p : Nat) (f : SyncObj → SyncObj) : (s.updSync p f).part = s.part := rfl
@[simp] theorem State.updSync_supply (p : Nat) (f : SyncObj → SyncObj) : (s.updSync p f).supply = s.supply := rfl
@[simp] theorem State.updSync_stroke (p : Nat) (f : SyncObj → SyncObj) : (s.updSync p f).stroke = s.stroke := rfl
@[simp] theorem State.updSync_hubs (p : Nat) (f : SyncObj → SyncObj) : (s.updSync p f).hubs = s.hubs := rfl
@[simp] theorem State.updSync_bring (p : Nat) (f : SyncObj → SyncObj) : (s.updSync p f).bring = s.bring := rfl
@[simp] theorem State.updSync_defects (p : Nat) (f : SyncObj → SyncObj) : (s.updSync p f).defects = s.defects := rfl
@[simp] theorem State.updSync_colMaps (p : Nat) (f : SyncObj → SyncObj) : (s.updSync p f).colMaps = s.colMaps := rfl
@[simp] theorem State.updSync_coxes (p : Nat) (f : SyncObj → SyncObj) : (s.updSync p f).coxes = s.coxes := rfl
@[simp] theorem State.updSync_regions (p : Nat) (f : SyncObj → SyncObj) : (s.updSync p f).regions = s.regions := rfl
@[simp] theorem State.updSync_cores (p : Nat) (f : SyncObj → SyncObj) : (s.updSync p f).cores = s.cores := rfl
@[simp] theorem State.updSync_lcidAt (p : Nat) (f : SyncObj → SyncObj) : (s.updSync p f).lcidAt = s.lcidAt := rfl
@[simp] theorem State.updSync_crews (p : Nat) (f : SyncObj → SyncObj) : (s.updSync p f).crews = s.crews := rfl
@[simp] theorem State.updSync_trees (p : Nat) (f : SyncObj → SyncObj) : (s.updSync p f).trees = s.trees := rfl
@[simp] theorem State.updSync_admits (p : Nat) (f : SyncObj → SyncObj) : (s.updSync p f).admits = s.admits := rfl
@[simp] theorem State.updSync_net (p : Nat) (f : SyncObj → SyncObj) : (s.updSync p f).net = s.net := rfl
@[simp] theorem State.updSync_links (p : Nat) (f : SyncObj → SyncObj) : (s.updSync p f).links = s.links := rfl
@[simp] theorem State.updSync_offs (p : Nat) (f : SyncObj → SyncObj) : (s.updSync p f).offs = s.offs := rfl
@[simp] theorem State.updSync_arbs (p : Nat) (f : SyncObj → SyncObj) : (s.updSync p f).arbs = s.arbs := rfl
@[simp] theorem State.updSync_sram (p : Nat) (f : SyncObj → SyncObj) : (s.updSync p f).sram = s.sram := rfl
@[simp] theorem State.updSync_sramUe (p : Nat) (f : SyncObj → SyncObj) : (s.updSync p f).sramUe = s.sramUe := rfl
@[simp] theorem State.updSync_sramCe (p : Nat) (f : SyncObj → SyncObj) : (s.updSync p f).sramCe = s.sramCe := rfl
@[simp] theorem State.updSync_hbm (p : Nat) (f : SyncObj → SyncObj) : (s.updSync p f).hbm = s.hbm := rfl
@[simp] theorem State.updSync_hbmUe (p : Nat) (f : SyncObj → SyncObj) : (s.updSync p f).hbmUe = s.hbmUe := rfl
@[simp] theorem State.updSync_hbmCe (p : Nat) (f : SyncObj → SyncObj) : (s.updSync p f).hbmCe = s.hbmCe := rfl
@[simp] theorem State.updSync_slices (p : Nat) (f : SyncObj → SyncObj) : (s.updSync p f).slices = s.slices := rfl
@[simp] theorem State.updSync_stackTab (p : Nat) (f : SyncObj → SyncObj) : (s.updSync p f).stackTab = s.stackTab := rfl
@[simp] theorem State.updSync_tallies (p : Nat) (f : SyncObj → SyncObj) : (s.updSync p f).tallies = s.tallies := rfl
@[simp] theorem State.updSync_power (p : Nat) (f : SyncObj → SyncObj) : (s.updSync p f).power = s.power := rfl
@[simp] theorem State.updSync_cool (p : Nat) (f : SyncObj → SyncObj) : (s.updSync p f).cool = s.cool := rfl
@[simp] theorem State.updSync_fports (p : Nat) (f : SyncObj → SyncObj) : (s.updSync p f).fports = s.fports := rfl
@[simp] theorem State.updSync_sec (p : Nat) (f : SyncObj → SyncObj) : (s.updSync p f).sec = s.sec := rfl
@[simp] theorem State.updSync_bezels (p : Nat) (f : SyncObj → SyncObj) : (s.updSync p f).bezels = s.bezels := rfl
@[simp] theorem State.updSync_rings (p : Nat) (f : SyncObj → SyncObj) : (s.updSync p f).rings = s.rings := rfl
@[simp] theorem State.updSync_posted (p : Nat) (f : SyncObj → SyncObj) : (s.updSync p f).posted = s.posted := rfl
@[simp] theorem State.updSync_postNo (p : Nat) (f : SyncObj → SyncObj) : (s.updSync p f).postNo = s.postNo := rfl
@[simp] theorem State.updSync_out (p : Nat) (f : SyncObj → SyncObj) : (s.updSync p f).out = s.out := rfl
@[simp] theorem State.updSync_pending (p : Nat) (f : SyncObj → SyncObj) : (s.updSync p f).pending = s.pending := rfl

/-! ## State.updTree -/

@[simp] theorem State.updTree_now (p : Nat) (f : Tree → Tree) : (s.updTree p f).now = s.now := rfl
@[simp] theorem State.updTree_fv (p : Nat) (f : Tree → Tree) : (s.updTree p f).fv = s.fv := rfl
@[simp] theorem State.updTree_part (p : Nat) (f : Tree → Tree) : (s.updTree p f).part = s.part := rfl
@[simp] theorem State.updTree_supply (p : Nat) (f : Tree → Tree) : (s.updTree p f).supply = s.supply := rfl
@[simp] theorem State.updTree_stroke (p : Nat) (f : Tree → Tree) : (s.updTree p f).stroke = s.stroke := rfl
@[simp] theorem State.updTree_hubs (p : Nat) (f : Tree → Tree) : (s.updTree p f).hubs = s.hubs := rfl
@[simp] theorem State.updTree_bring (p : Nat) (f : Tree → Tree) : (s.updTree p f).bring = s.bring := rfl
@[simp] theorem State.updTree_defects (p : Nat) (f : Tree → Tree) : (s.updTree p f).defects = s.defects := rfl
@[simp] theorem State.updTree_colMaps (p : Nat) (f : Tree → Tree) : (s.updTree p f).colMaps = s.colMaps := rfl
@[simp] theorem State.updTree_coxes (p : Nat) (f : Tree → Tree) : (s.updTree p f).coxes = s.coxes := rfl
@[simp] theorem State.updTree_regions (p : Nat) (f : Tree → Tree) : (s.updTree p f).regions = s.regions := rfl
@[simp] theorem State.updTree_cores (p : Nat) (f : Tree → Tree) : (s.updTree p f).cores = s.cores := rfl
@[simp] theorem State.updTree_lcidAt (p : Nat) (f : Tree → Tree) : (s.updTree p f).lcidAt = s.lcidAt := rfl
@[simp] theorem State.updTree_crews (p : Nat) (f : Tree → Tree) : (s.updTree p f).crews = s.crews := rfl
@[simp] theorem State.updTree_syncs (p : Nat) (f : Tree → Tree) : (s.updTree p f).syncs = s.syncs := rfl
@[simp] theorem State.updTree_admits (p : Nat) (f : Tree → Tree) : (s.updTree p f).admits = s.admits := rfl
@[simp] theorem State.updTree_net (p : Nat) (f : Tree → Tree) : (s.updTree p f).net = s.net := rfl
@[simp] theorem State.updTree_links (p : Nat) (f : Tree → Tree) : (s.updTree p f).links = s.links := rfl
@[simp] theorem State.updTree_offs (p : Nat) (f : Tree → Tree) : (s.updTree p f).offs = s.offs := rfl
@[simp] theorem State.updTree_arbs (p : Nat) (f : Tree → Tree) : (s.updTree p f).arbs = s.arbs := rfl
@[simp] theorem State.updTree_sram (p : Nat) (f : Tree → Tree) : (s.updTree p f).sram = s.sram := rfl
@[simp] theorem State.updTree_sramUe (p : Nat) (f : Tree → Tree) : (s.updTree p f).sramUe = s.sramUe := rfl
@[simp] theorem State.updTree_sramCe (p : Nat) (f : Tree → Tree) : (s.updTree p f).sramCe = s.sramCe := rfl
@[simp] theorem State.updTree_hbm (p : Nat) (f : Tree → Tree) : (s.updTree p f).hbm = s.hbm := rfl
@[simp] theorem State.updTree_hbmUe (p : Nat) (f : Tree → Tree) : (s.updTree p f).hbmUe = s.hbmUe := rfl
@[simp] theorem State.updTree_hbmCe (p : Nat) (f : Tree → Tree) : (s.updTree p f).hbmCe = s.hbmCe := rfl
@[simp] theorem State.updTree_slices (p : Nat) (f : Tree → Tree) : (s.updTree p f).slices = s.slices := rfl
@[simp] theorem State.updTree_stackTab (p : Nat) (f : Tree → Tree) : (s.updTree p f).stackTab = s.stackTab := rfl
@[simp] theorem State.updTree_tallies (p : Nat) (f : Tree → Tree) : (s.updTree p f).tallies = s.tallies := rfl
@[simp] theorem State.updTree_power (p : Nat) (f : Tree → Tree) : (s.updTree p f).power = s.power := rfl
@[simp] theorem State.updTree_cool (p : Nat) (f : Tree → Tree) : (s.updTree p f).cool = s.cool := rfl
@[simp] theorem State.updTree_fports (p : Nat) (f : Tree → Tree) : (s.updTree p f).fports = s.fports := rfl
@[simp] theorem State.updTree_sec (p : Nat) (f : Tree → Tree) : (s.updTree p f).sec = s.sec := rfl
@[simp] theorem State.updTree_bezels (p : Nat) (f : Tree → Tree) : (s.updTree p f).bezels = s.bezels := rfl
@[simp] theorem State.updTree_rings (p : Nat) (f : Tree → Tree) : (s.updTree p f).rings = s.rings := rfl
@[simp] theorem State.updTree_posted (p : Nat) (f : Tree → Tree) : (s.updTree p f).posted = s.posted := rfl
@[simp] theorem State.updTree_postNo (p : Nat) (f : Tree → Tree) : (s.updTree p f).postNo = s.postNo := rfl
@[simp] theorem State.updTree_out (p : Nat) (f : Tree → Tree) : (s.updTree p f).out = s.out := rfl
@[simp] theorem State.updTree_pending (p : Nat) (f : Tree → Tree) : (s.updTree p f).pending = s.pending := rfl

/-! ## State.updAdmit -/

@[simp] theorem State.updAdmit_now (p : Nat) (f : Admit → Admit) : (s.updAdmit p f).now = s.now := rfl
@[simp] theorem State.updAdmit_fv (p : Nat) (f : Admit → Admit) : (s.updAdmit p f).fv = s.fv := rfl
@[simp] theorem State.updAdmit_part (p : Nat) (f : Admit → Admit) : (s.updAdmit p f).part = s.part := rfl
@[simp] theorem State.updAdmit_supply (p : Nat) (f : Admit → Admit) : (s.updAdmit p f).supply = s.supply := rfl
@[simp] theorem State.updAdmit_stroke (p : Nat) (f : Admit → Admit) : (s.updAdmit p f).stroke = s.stroke := rfl
@[simp] theorem State.updAdmit_hubs (p : Nat) (f : Admit → Admit) : (s.updAdmit p f).hubs = s.hubs := rfl
@[simp] theorem State.updAdmit_bring (p : Nat) (f : Admit → Admit) : (s.updAdmit p f).bring = s.bring := rfl
@[simp] theorem State.updAdmit_defects (p : Nat) (f : Admit → Admit) : (s.updAdmit p f).defects = s.defects := rfl
@[simp] theorem State.updAdmit_colMaps (p : Nat) (f : Admit → Admit) : (s.updAdmit p f).colMaps = s.colMaps := rfl
@[simp] theorem State.updAdmit_coxes (p : Nat) (f : Admit → Admit) : (s.updAdmit p f).coxes = s.coxes := rfl
@[simp] theorem State.updAdmit_regions (p : Nat) (f : Admit → Admit) : (s.updAdmit p f).regions = s.regions := rfl
@[simp] theorem State.updAdmit_cores (p : Nat) (f : Admit → Admit) : (s.updAdmit p f).cores = s.cores := rfl
@[simp] theorem State.updAdmit_lcidAt (p : Nat) (f : Admit → Admit) : (s.updAdmit p f).lcidAt = s.lcidAt := rfl
@[simp] theorem State.updAdmit_crews (p : Nat) (f : Admit → Admit) : (s.updAdmit p f).crews = s.crews := rfl
@[simp] theorem State.updAdmit_syncs (p : Nat) (f : Admit → Admit) : (s.updAdmit p f).syncs = s.syncs := rfl
@[simp] theorem State.updAdmit_trees (p : Nat) (f : Admit → Admit) : (s.updAdmit p f).trees = s.trees := rfl
@[simp] theorem State.updAdmit_net (p : Nat) (f : Admit → Admit) : (s.updAdmit p f).net = s.net := rfl
@[simp] theorem State.updAdmit_links (p : Nat) (f : Admit → Admit) : (s.updAdmit p f).links = s.links := rfl
@[simp] theorem State.updAdmit_offs (p : Nat) (f : Admit → Admit) : (s.updAdmit p f).offs = s.offs := rfl
@[simp] theorem State.updAdmit_arbs (p : Nat) (f : Admit → Admit) : (s.updAdmit p f).arbs = s.arbs := rfl
@[simp] theorem State.updAdmit_sram (p : Nat) (f : Admit → Admit) : (s.updAdmit p f).sram = s.sram := rfl
@[simp] theorem State.updAdmit_sramUe (p : Nat) (f : Admit → Admit) : (s.updAdmit p f).sramUe = s.sramUe := rfl
@[simp] theorem State.updAdmit_sramCe (p : Nat) (f : Admit → Admit) : (s.updAdmit p f).sramCe = s.sramCe := rfl
@[simp] theorem State.updAdmit_hbm (p : Nat) (f : Admit → Admit) : (s.updAdmit p f).hbm = s.hbm := rfl
@[simp] theorem State.updAdmit_hbmUe (p : Nat) (f : Admit → Admit) : (s.updAdmit p f).hbmUe = s.hbmUe := rfl
@[simp] theorem State.updAdmit_hbmCe (p : Nat) (f : Admit → Admit) : (s.updAdmit p f).hbmCe = s.hbmCe := rfl
@[simp] theorem State.updAdmit_slices (p : Nat) (f : Admit → Admit) : (s.updAdmit p f).slices = s.slices := rfl
@[simp] theorem State.updAdmit_stackTab (p : Nat) (f : Admit → Admit) : (s.updAdmit p f).stackTab = s.stackTab := rfl
@[simp] theorem State.updAdmit_tallies (p : Nat) (f : Admit → Admit) : (s.updAdmit p f).tallies = s.tallies := rfl
@[simp] theorem State.updAdmit_power (p : Nat) (f : Admit → Admit) : (s.updAdmit p f).power = s.power := rfl
@[simp] theorem State.updAdmit_cool (p : Nat) (f : Admit → Admit) : (s.updAdmit p f).cool = s.cool := rfl
@[simp] theorem State.updAdmit_fports (p : Nat) (f : Admit → Admit) : (s.updAdmit p f).fports = s.fports := rfl
@[simp] theorem State.updAdmit_sec (p : Nat) (f : Admit → Admit) : (s.updAdmit p f).sec = s.sec := rfl
@[simp] theorem State.updAdmit_bezels (p : Nat) (f : Admit → Admit) : (s.updAdmit p f).bezels = s.bezels := rfl
@[simp] theorem State.updAdmit_rings (p : Nat) (f : Admit → Admit) : (s.updAdmit p f).rings = s.rings := rfl
@[simp] theorem State.updAdmit_posted (p : Nat) (f : Admit → Admit) : (s.updAdmit p f).posted = s.posted := rfl
@[simp] theorem State.updAdmit_postNo (p : Nat) (f : Admit → Admit) : (s.updAdmit p f).postNo = s.postNo := rfl
@[simp] theorem State.updAdmit_out (p : Nat) (f : Admit → Admit) : (s.updAdmit p f).out = s.out := rfl
@[simp] theorem State.updAdmit_pending (p : Nat) (f : Admit → Admit) : (s.updAdmit p f).pending = s.pending := rfl

/-! ## State.updLink -/

@[simp] theorem State.updLink_now (p : Nat) (f : LinkEnd → LinkEnd) : (s.updLink p f).now = s.now := rfl
@[simp] theorem State.updLink_fv (p : Nat) (f : LinkEnd → LinkEnd) : (s.updLink p f).fv = s.fv := rfl
@[simp] theorem State.updLink_part (p : Nat) (f : LinkEnd → LinkEnd) : (s.updLink p f).part = s.part := rfl
@[simp] theorem State.updLink_supply (p : Nat) (f : LinkEnd → LinkEnd) : (s.updLink p f).supply = s.supply := rfl
@[simp] theorem State.updLink_stroke (p : Nat) (f : LinkEnd → LinkEnd) : (s.updLink p f).stroke = s.stroke := rfl
@[simp] theorem State.updLink_hubs (p : Nat) (f : LinkEnd → LinkEnd) : (s.updLink p f).hubs = s.hubs := rfl
@[simp] theorem State.updLink_bring (p : Nat) (f : LinkEnd → LinkEnd) : (s.updLink p f).bring = s.bring := rfl
@[simp] theorem State.updLink_defects (p : Nat) (f : LinkEnd → LinkEnd) : (s.updLink p f).defects = s.defects := rfl
@[simp] theorem State.updLink_colMaps (p : Nat) (f : LinkEnd → LinkEnd) : (s.updLink p f).colMaps = s.colMaps := rfl
@[simp] theorem State.updLink_coxes (p : Nat) (f : LinkEnd → LinkEnd) : (s.updLink p f).coxes = s.coxes := rfl
@[simp] theorem State.updLink_regions (p : Nat) (f : LinkEnd → LinkEnd) : (s.updLink p f).regions = s.regions := rfl
@[simp] theorem State.updLink_cores (p : Nat) (f : LinkEnd → LinkEnd) : (s.updLink p f).cores = s.cores := rfl
@[simp] theorem State.updLink_lcidAt (p : Nat) (f : LinkEnd → LinkEnd) : (s.updLink p f).lcidAt = s.lcidAt := rfl
@[simp] theorem State.updLink_crews (p : Nat) (f : LinkEnd → LinkEnd) : (s.updLink p f).crews = s.crews := rfl
@[simp] theorem State.updLink_syncs (p : Nat) (f : LinkEnd → LinkEnd) : (s.updLink p f).syncs = s.syncs := rfl
@[simp] theorem State.updLink_trees (p : Nat) (f : LinkEnd → LinkEnd) : (s.updLink p f).trees = s.trees := rfl
@[simp] theorem State.updLink_admits (p : Nat) (f : LinkEnd → LinkEnd) : (s.updLink p f).admits = s.admits := rfl
@[simp] theorem State.updLink_net (p : Nat) (f : LinkEnd → LinkEnd) : (s.updLink p f).net = s.net := rfl
@[simp] theorem State.updLink_offs (p : Nat) (f : LinkEnd → LinkEnd) : (s.updLink p f).offs = s.offs := rfl
@[simp] theorem State.updLink_arbs (p : Nat) (f : LinkEnd → LinkEnd) : (s.updLink p f).arbs = s.arbs := rfl
@[simp] theorem State.updLink_sram (p : Nat) (f : LinkEnd → LinkEnd) : (s.updLink p f).sram = s.sram := rfl
@[simp] theorem State.updLink_sramUe (p : Nat) (f : LinkEnd → LinkEnd) : (s.updLink p f).sramUe = s.sramUe := rfl
@[simp] theorem State.updLink_sramCe (p : Nat) (f : LinkEnd → LinkEnd) : (s.updLink p f).sramCe = s.sramCe := rfl
@[simp] theorem State.updLink_hbm (p : Nat) (f : LinkEnd → LinkEnd) : (s.updLink p f).hbm = s.hbm := rfl
@[simp] theorem State.updLink_hbmUe (p : Nat) (f : LinkEnd → LinkEnd) : (s.updLink p f).hbmUe = s.hbmUe := rfl
@[simp] theorem State.updLink_hbmCe (p : Nat) (f : LinkEnd → LinkEnd) : (s.updLink p f).hbmCe = s.hbmCe := rfl
@[simp] theorem State.updLink_slices (p : Nat) (f : LinkEnd → LinkEnd) : (s.updLink p f).slices = s.slices := rfl
@[simp] theorem State.updLink_stackTab (p : Nat) (f : LinkEnd → LinkEnd) : (s.updLink p f).stackTab = s.stackTab := rfl
@[simp] theorem State.updLink_tallies (p : Nat) (f : LinkEnd → LinkEnd) : (s.updLink p f).tallies = s.tallies := rfl
@[simp] theorem State.updLink_power (p : Nat) (f : LinkEnd → LinkEnd) : (s.updLink p f).power = s.power := rfl
@[simp] theorem State.updLink_cool (p : Nat) (f : LinkEnd → LinkEnd) : (s.updLink p f).cool = s.cool := rfl
@[simp] theorem State.updLink_fports (p : Nat) (f : LinkEnd → LinkEnd) : (s.updLink p f).fports = s.fports := rfl
@[simp] theorem State.updLink_sec (p : Nat) (f : LinkEnd → LinkEnd) : (s.updLink p f).sec = s.sec := rfl
@[simp] theorem State.updLink_bezels (p : Nat) (f : LinkEnd → LinkEnd) : (s.updLink p f).bezels = s.bezels := rfl
@[simp] theorem State.updLink_rings (p : Nat) (f : LinkEnd → LinkEnd) : (s.updLink p f).rings = s.rings := rfl
@[simp] theorem State.updLink_posted (p : Nat) (f : LinkEnd → LinkEnd) : (s.updLink p f).posted = s.posted := rfl
@[simp] theorem State.updLink_postNo (p : Nat) (f : LinkEnd → LinkEnd) : (s.updLink p f).postNo = s.postNo := rfl
@[simp] theorem State.updLink_out (p : Nat) (f : LinkEnd → LinkEnd) : (s.updLink p f).out = s.out := rfl
@[simp] theorem State.updLink_pending (p : Nat) (f : LinkEnd → LinkEnd) : (s.updLink p f).pending = s.pending := rfl

/-! ## State.updArb -/

@[simp] theorem State.updArb_now (p : Nat) (f : Arb → Arb) : (s.updArb p f).now = s.now := rfl
@[simp] theorem State.updArb_fv (p : Nat) (f : Arb → Arb) : (s.updArb p f).fv = s.fv := rfl
@[simp] theorem State.updArb_part (p : Nat) (f : Arb → Arb) : (s.updArb p f).part = s.part := rfl
@[simp] theorem State.updArb_supply (p : Nat) (f : Arb → Arb) : (s.updArb p f).supply = s.supply := rfl
@[simp] theorem State.updArb_stroke (p : Nat) (f : Arb → Arb) : (s.updArb p f).stroke = s.stroke := rfl
@[simp] theorem State.updArb_hubs (p : Nat) (f : Arb → Arb) : (s.updArb p f).hubs = s.hubs := rfl
@[simp] theorem State.updArb_bring (p : Nat) (f : Arb → Arb) : (s.updArb p f).bring = s.bring := rfl
@[simp] theorem State.updArb_defects (p : Nat) (f : Arb → Arb) : (s.updArb p f).defects = s.defects := rfl
@[simp] theorem State.updArb_colMaps (p : Nat) (f : Arb → Arb) : (s.updArb p f).colMaps = s.colMaps := rfl
@[simp] theorem State.updArb_coxes (p : Nat) (f : Arb → Arb) : (s.updArb p f).coxes = s.coxes := rfl
@[simp] theorem State.updArb_regions (p : Nat) (f : Arb → Arb) : (s.updArb p f).regions = s.regions := rfl
@[simp] theorem State.updArb_cores (p : Nat) (f : Arb → Arb) : (s.updArb p f).cores = s.cores := rfl
@[simp] theorem State.updArb_lcidAt (p : Nat) (f : Arb → Arb) : (s.updArb p f).lcidAt = s.lcidAt := rfl
@[simp] theorem State.updArb_crews (p : Nat) (f : Arb → Arb) : (s.updArb p f).crews = s.crews := rfl
@[simp] theorem State.updArb_syncs (p : Nat) (f : Arb → Arb) : (s.updArb p f).syncs = s.syncs := rfl
@[simp] theorem State.updArb_trees (p : Nat) (f : Arb → Arb) : (s.updArb p f).trees = s.trees := rfl
@[simp] theorem State.updArb_admits (p : Nat) (f : Arb → Arb) : (s.updArb p f).admits = s.admits := rfl
@[simp] theorem State.updArb_net (p : Nat) (f : Arb → Arb) : (s.updArb p f).net = s.net := rfl
@[simp] theorem State.updArb_links (p : Nat) (f : Arb → Arb) : (s.updArb p f).links = s.links := rfl
@[simp] theorem State.updArb_offs (p : Nat) (f : Arb → Arb) : (s.updArb p f).offs = s.offs := rfl
@[simp] theorem State.updArb_sram (p : Nat) (f : Arb → Arb) : (s.updArb p f).sram = s.sram := rfl
@[simp] theorem State.updArb_sramUe (p : Nat) (f : Arb → Arb) : (s.updArb p f).sramUe = s.sramUe := rfl
@[simp] theorem State.updArb_sramCe (p : Nat) (f : Arb → Arb) : (s.updArb p f).sramCe = s.sramCe := rfl
@[simp] theorem State.updArb_hbm (p : Nat) (f : Arb → Arb) : (s.updArb p f).hbm = s.hbm := rfl
@[simp] theorem State.updArb_hbmUe (p : Nat) (f : Arb → Arb) : (s.updArb p f).hbmUe = s.hbmUe := rfl
@[simp] theorem State.updArb_hbmCe (p : Nat) (f : Arb → Arb) : (s.updArb p f).hbmCe = s.hbmCe := rfl
@[simp] theorem State.updArb_slices (p : Nat) (f : Arb → Arb) : (s.updArb p f).slices = s.slices := rfl
@[simp] theorem State.updArb_stackTab (p : Nat) (f : Arb → Arb) : (s.updArb p f).stackTab = s.stackTab := rfl
@[simp] theorem State.updArb_tallies (p : Nat) (f : Arb → Arb) : (s.updArb p f).tallies = s.tallies := rfl
@[simp] theorem State.updArb_power (p : Nat) (f : Arb → Arb) : (s.updArb p f).power = s.power := rfl
@[simp] theorem State.updArb_cool (p : Nat) (f : Arb → Arb) : (s.updArb p f).cool = s.cool := rfl
@[simp] theorem State.updArb_fports (p : Nat) (f : Arb → Arb) : (s.updArb p f).fports = s.fports := rfl
@[simp] theorem State.updArb_sec (p : Nat) (f : Arb → Arb) : (s.updArb p f).sec = s.sec := rfl
@[simp] theorem State.updArb_bezels (p : Nat) (f : Arb → Arb) : (s.updArb p f).bezels = s.bezels := rfl
@[simp] theorem State.updArb_rings (p : Nat) (f : Arb → Arb) : (s.updArb p f).rings = s.rings := rfl
@[simp] theorem State.updArb_posted (p : Nat) (f : Arb → Arb) : (s.updArb p f).posted = s.posted := rfl
@[simp] theorem State.updArb_postNo (p : Nat) (f : Arb → Arb) : (s.updArb p f).postNo = s.postNo := rfl
@[simp] theorem State.updArb_out (p : Nat) (f : Arb → Arb) : (s.updArb p f).out = s.out := rfl
@[simp] theorem State.updArb_pending (p : Nat) (f : Arb → Arb) : (s.updArb p f).pending = s.pending := rfl

/-! ## State.updSlice -/

@[simp] theorem State.updSlice_now (p : Nat) (f : Slice → Slice) : (s.updSlice p f).now = s.now := rfl
@[simp] theorem State.updSlice_fv (p : Nat) (f : Slice → Slice) : (s.updSlice p f).fv = s.fv := rfl
@[simp] theorem State.updSlice_part (p : Nat) (f : Slice → Slice) : (s.updSlice p f).part = s.part := rfl
@[simp] theorem State.updSlice_supply (p : Nat) (f : Slice → Slice) : (s.updSlice p f).supply = s.supply := rfl
@[simp] theorem State.updSlice_stroke (p : Nat) (f : Slice → Slice) : (s.updSlice p f).stroke = s.stroke := rfl
@[simp] theorem State.updSlice_hubs (p : Nat) (f : Slice → Slice) : (s.updSlice p f).hubs = s.hubs := rfl
@[simp] theorem State.updSlice_bring (p : Nat) (f : Slice → Slice) : (s.updSlice p f).bring = s.bring := rfl
@[simp] theorem State.updSlice_defects (p : Nat) (f : Slice → Slice) : (s.updSlice p f).defects = s.defects := rfl
@[simp] theorem State.updSlice_colMaps (p : Nat) (f : Slice → Slice) : (s.updSlice p f).colMaps = s.colMaps := rfl
@[simp] theorem State.updSlice_coxes (p : Nat) (f : Slice → Slice) : (s.updSlice p f).coxes = s.coxes := rfl
@[simp] theorem State.updSlice_regions (p : Nat) (f : Slice → Slice) : (s.updSlice p f).regions = s.regions := rfl
@[simp] theorem State.updSlice_cores (p : Nat) (f : Slice → Slice) : (s.updSlice p f).cores = s.cores := rfl
@[simp] theorem State.updSlice_lcidAt (p : Nat) (f : Slice → Slice) : (s.updSlice p f).lcidAt = s.lcidAt := rfl
@[simp] theorem State.updSlice_crews (p : Nat) (f : Slice → Slice) : (s.updSlice p f).crews = s.crews := rfl
@[simp] theorem State.updSlice_syncs (p : Nat) (f : Slice → Slice) : (s.updSlice p f).syncs = s.syncs := rfl
@[simp] theorem State.updSlice_trees (p : Nat) (f : Slice → Slice) : (s.updSlice p f).trees = s.trees := rfl
@[simp] theorem State.updSlice_admits (p : Nat) (f : Slice → Slice) : (s.updSlice p f).admits = s.admits := rfl
@[simp] theorem State.updSlice_net (p : Nat) (f : Slice → Slice) : (s.updSlice p f).net = s.net := rfl
@[simp] theorem State.updSlice_links (p : Nat) (f : Slice → Slice) : (s.updSlice p f).links = s.links := rfl
@[simp] theorem State.updSlice_offs (p : Nat) (f : Slice → Slice) : (s.updSlice p f).offs = s.offs := rfl
@[simp] theorem State.updSlice_arbs (p : Nat) (f : Slice → Slice) : (s.updSlice p f).arbs = s.arbs := rfl
@[simp] theorem State.updSlice_sram (p : Nat) (f : Slice → Slice) : (s.updSlice p f).sram = s.sram := rfl
@[simp] theorem State.updSlice_sramUe (p : Nat) (f : Slice → Slice) : (s.updSlice p f).sramUe = s.sramUe := rfl
@[simp] theorem State.updSlice_sramCe (p : Nat) (f : Slice → Slice) : (s.updSlice p f).sramCe = s.sramCe := rfl
@[simp] theorem State.updSlice_hbm (p : Nat) (f : Slice → Slice) : (s.updSlice p f).hbm = s.hbm := rfl
@[simp] theorem State.updSlice_hbmUe (p : Nat) (f : Slice → Slice) : (s.updSlice p f).hbmUe = s.hbmUe := rfl
@[simp] theorem State.updSlice_hbmCe (p : Nat) (f : Slice → Slice) : (s.updSlice p f).hbmCe = s.hbmCe := rfl
@[simp] theorem State.updSlice_stackTab (p : Nat) (f : Slice → Slice) : (s.updSlice p f).stackTab = s.stackTab := rfl
@[simp] theorem State.updSlice_tallies (p : Nat) (f : Slice → Slice) : (s.updSlice p f).tallies = s.tallies := rfl
@[simp] theorem State.updSlice_power (p : Nat) (f : Slice → Slice) : (s.updSlice p f).power = s.power := rfl
@[simp] theorem State.updSlice_cool (p : Nat) (f : Slice → Slice) : (s.updSlice p f).cool = s.cool := rfl
@[simp] theorem State.updSlice_fports (p : Nat) (f : Slice → Slice) : (s.updSlice p f).fports = s.fports := rfl
@[simp] theorem State.updSlice_sec (p : Nat) (f : Slice → Slice) : (s.updSlice p f).sec = s.sec := rfl
@[simp] theorem State.updSlice_bezels (p : Nat) (f : Slice → Slice) : (s.updSlice p f).bezels = s.bezels := rfl
@[simp] theorem State.updSlice_rings (p : Nat) (f : Slice → Slice) : (s.updSlice p f).rings = s.rings := rfl
@[simp] theorem State.updSlice_posted (p : Nat) (f : Slice → Slice) : (s.updSlice p f).posted = s.posted := rfl
@[simp] theorem State.updSlice_postNo (p : Nat) (f : Slice → Slice) : (s.updSlice p f).postNo = s.postNo := rfl
@[simp] theorem State.updSlice_out (p : Nat) (f : Slice → Slice) : (s.updSlice p f).out = s.out := rfl
@[simp] theorem State.updSlice_pending (p : Nat) (f : Slice → Slice) : (s.updSlice p f).pending = s.pending := rfl

/-! ## State.updStack -/

@[simp] theorem State.updStack_now (p : Nat) (f : Stack → Stack) : (s.updStack p f).now = s.now := rfl
@[simp] theorem State.updStack_fv (p : Nat) (f : Stack → Stack) : (s.updStack p f).fv = s.fv := rfl
@[simp] theorem State.updStack_part (p : Nat) (f : Stack → Stack) : (s.updStack p f).part = s.part := rfl
@[simp] theorem State.updStack_supply (p : Nat) (f : Stack → Stack) : (s.updStack p f).supply = s.supply := rfl
@[simp] theorem State.updStack_stroke (p : Nat) (f : Stack → Stack) : (s.updStack p f).stroke = s.stroke := rfl
@[simp] theorem State.updStack_hubs (p : Nat) (f : Stack → Stack) : (s.updStack p f).hubs = s.hubs := rfl
@[simp] theorem State.updStack_bring (p : Nat) (f : Stack → Stack) : (s.updStack p f).bring = s.bring := rfl
@[simp] theorem State.updStack_defects (p : Nat) (f : Stack → Stack) : (s.updStack p f).defects = s.defects := rfl
@[simp] theorem State.updStack_colMaps (p : Nat) (f : Stack → Stack) : (s.updStack p f).colMaps = s.colMaps := rfl
@[simp] theorem State.updStack_coxes (p : Nat) (f : Stack → Stack) : (s.updStack p f).coxes = s.coxes := rfl
@[simp] theorem State.updStack_regions (p : Nat) (f : Stack → Stack) : (s.updStack p f).regions = s.regions := rfl
@[simp] theorem State.updStack_cores (p : Nat) (f : Stack → Stack) : (s.updStack p f).cores = s.cores := rfl
@[simp] theorem State.updStack_lcidAt (p : Nat) (f : Stack → Stack) : (s.updStack p f).lcidAt = s.lcidAt := rfl
@[simp] theorem State.updStack_crews (p : Nat) (f : Stack → Stack) : (s.updStack p f).crews = s.crews := rfl
@[simp] theorem State.updStack_syncs (p : Nat) (f : Stack → Stack) : (s.updStack p f).syncs = s.syncs := rfl
@[simp] theorem State.updStack_trees (p : Nat) (f : Stack → Stack) : (s.updStack p f).trees = s.trees := rfl
@[simp] theorem State.updStack_admits (p : Nat) (f : Stack → Stack) : (s.updStack p f).admits = s.admits := rfl
@[simp] theorem State.updStack_net (p : Nat) (f : Stack → Stack) : (s.updStack p f).net = s.net := rfl
@[simp] theorem State.updStack_links (p : Nat) (f : Stack → Stack) : (s.updStack p f).links = s.links := rfl
@[simp] theorem State.updStack_offs (p : Nat) (f : Stack → Stack) : (s.updStack p f).offs = s.offs := rfl
@[simp] theorem State.updStack_arbs (p : Nat) (f : Stack → Stack) : (s.updStack p f).arbs = s.arbs := rfl
@[simp] theorem State.updStack_sram (p : Nat) (f : Stack → Stack) : (s.updStack p f).sram = s.sram := rfl
@[simp] theorem State.updStack_sramUe (p : Nat) (f : Stack → Stack) : (s.updStack p f).sramUe = s.sramUe := rfl
@[simp] theorem State.updStack_sramCe (p : Nat) (f : Stack → Stack) : (s.updStack p f).sramCe = s.sramCe := rfl
@[simp] theorem State.updStack_hbm (p : Nat) (f : Stack → Stack) : (s.updStack p f).hbm = s.hbm := rfl
@[simp] theorem State.updStack_hbmUe (p : Nat) (f : Stack → Stack) : (s.updStack p f).hbmUe = s.hbmUe := rfl
@[simp] theorem State.updStack_hbmCe (p : Nat) (f : Stack → Stack) : (s.updStack p f).hbmCe = s.hbmCe := rfl
@[simp] theorem State.updStack_slices (p : Nat) (f : Stack → Stack) : (s.updStack p f).slices = s.slices := rfl
@[simp] theorem State.updStack_tallies (p : Nat) (f : Stack → Stack) : (s.updStack p f).tallies = s.tallies := rfl
@[simp] theorem State.updStack_power (p : Nat) (f : Stack → Stack) : (s.updStack p f).power = s.power := rfl
@[simp] theorem State.updStack_cool (p : Nat) (f : Stack → Stack) : (s.updStack p f).cool = s.cool := rfl
@[simp] theorem State.updStack_fports (p : Nat) (f : Stack → Stack) : (s.updStack p f).fports = s.fports := rfl
@[simp] theorem State.updStack_sec (p : Nat) (f : Stack → Stack) : (s.updStack p f).sec = s.sec := rfl
@[simp] theorem State.updStack_bezels (p : Nat) (f : Stack → Stack) : (s.updStack p f).bezels = s.bezels := rfl
@[simp] theorem State.updStack_rings (p : Nat) (f : Stack → Stack) : (s.updStack p f).rings = s.rings := rfl
@[simp] theorem State.updStack_posted (p : Nat) (f : Stack → Stack) : (s.updStack p f).posted = s.posted := rfl
@[simp] theorem State.updStack_postNo (p : Nat) (f : Stack → Stack) : (s.updStack p f).postNo = s.postNo := rfl
@[simp] theorem State.updStack_out (p : Nat) (f : Stack → Stack) : (s.updStack p f).out = s.out := rfl
@[simp] theorem State.updStack_pending (p : Nat) (f : Stack → Stack) : (s.updStack p f).pending = s.pending := rfl

/-! ## State.updFport -/

@[simp] theorem State.updFport_now (p : Nat) (f : FPort → FPort) : (s.updFport p f).now = s.now := rfl
@[simp] theorem State.updFport_fv (p : Nat) (f : FPort → FPort) : (s.updFport p f).fv = s.fv := rfl
@[simp] theorem State.updFport_part (p : Nat) (f : FPort → FPort) : (s.updFport p f).part = s.part := rfl
@[simp] theorem State.updFport_supply (p : Nat) (f : FPort → FPort) : (s.updFport p f).supply = s.supply := rfl
@[simp] theorem State.updFport_stroke (p : Nat) (f : FPort → FPort) : (s.updFport p f).stroke = s.stroke := rfl
@[simp] theorem State.updFport_hubs (p : Nat) (f : FPort → FPort) : (s.updFport p f).hubs = s.hubs := rfl
@[simp] theorem State.updFport_bring (p : Nat) (f : FPort → FPort) : (s.updFport p f).bring = s.bring := rfl
@[simp] theorem State.updFport_defects (p : Nat) (f : FPort → FPort) : (s.updFport p f).defects = s.defects := rfl
@[simp] theorem State.updFport_colMaps (p : Nat) (f : FPort → FPort) : (s.updFport p f).colMaps = s.colMaps := rfl
@[simp] theorem State.updFport_coxes (p : Nat) (f : FPort → FPort) : (s.updFport p f).coxes = s.coxes := rfl
@[simp] theorem State.updFport_regions (p : Nat) (f : FPort → FPort) : (s.updFport p f).regions = s.regions := rfl
@[simp] theorem State.updFport_cores (p : Nat) (f : FPort → FPort) : (s.updFport p f).cores = s.cores := rfl
@[simp] theorem State.updFport_lcidAt (p : Nat) (f : FPort → FPort) : (s.updFport p f).lcidAt = s.lcidAt := rfl
@[simp] theorem State.updFport_crews (p : Nat) (f : FPort → FPort) : (s.updFport p f).crews = s.crews := rfl
@[simp] theorem State.updFport_syncs (p : Nat) (f : FPort → FPort) : (s.updFport p f).syncs = s.syncs := rfl
@[simp] theorem State.updFport_trees (p : Nat) (f : FPort → FPort) : (s.updFport p f).trees = s.trees := rfl
@[simp] theorem State.updFport_admits (p : Nat) (f : FPort → FPort) : (s.updFport p f).admits = s.admits := rfl
@[simp] theorem State.updFport_net (p : Nat) (f : FPort → FPort) : (s.updFport p f).net = s.net := rfl
@[simp] theorem State.updFport_links (p : Nat) (f : FPort → FPort) : (s.updFport p f).links = s.links := rfl
@[simp] theorem State.updFport_offs (p : Nat) (f : FPort → FPort) : (s.updFport p f).offs = s.offs := rfl
@[simp] theorem State.updFport_arbs (p : Nat) (f : FPort → FPort) : (s.updFport p f).arbs = s.arbs := rfl
@[simp] theorem State.updFport_sram (p : Nat) (f : FPort → FPort) : (s.updFport p f).sram = s.sram := rfl
@[simp] theorem State.updFport_sramUe (p : Nat) (f : FPort → FPort) : (s.updFport p f).sramUe = s.sramUe := rfl
@[simp] theorem State.updFport_sramCe (p : Nat) (f : FPort → FPort) : (s.updFport p f).sramCe = s.sramCe := rfl
@[simp] theorem State.updFport_hbm (p : Nat) (f : FPort → FPort) : (s.updFport p f).hbm = s.hbm := rfl
@[simp] theorem State.updFport_hbmUe (p : Nat) (f : FPort → FPort) : (s.updFport p f).hbmUe = s.hbmUe := rfl
@[simp] theorem State.updFport_hbmCe (p : Nat) (f : FPort → FPort) : (s.updFport p f).hbmCe = s.hbmCe := rfl
@[simp] theorem State.updFport_slices (p : Nat) (f : FPort → FPort) : (s.updFport p f).slices = s.slices := rfl
@[simp] theorem State.updFport_stackTab (p : Nat) (f : FPort → FPort) : (s.updFport p f).stackTab = s.stackTab := rfl
@[simp] theorem State.updFport_tallies (p : Nat) (f : FPort → FPort) : (s.updFport p f).tallies = s.tallies := rfl
@[simp] theorem State.updFport_power (p : Nat) (f : FPort → FPort) : (s.updFport p f).power = s.power := rfl
@[simp] theorem State.updFport_cool (p : Nat) (f : FPort → FPort) : (s.updFport p f).cool = s.cool := rfl
@[simp] theorem State.updFport_sec (p : Nat) (f : FPort → FPort) : (s.updFport p f).sec = s.sec := rfl
@[simp] theorem State.updFport_bezels (p : Nat) (f : FPort → FPort) : (s.updFport p f).bezels = s.bezels := rfl
@[simp] theorem State.updFport_rings (p : Nat) (f : FPort → FPort) : (s.updFport p f).rings = s.rings := rfl
@[simp] theorem State.updFport_posted (p : Nat) (f : FPort → FPort) : (s.updFport p f).posted = s.posted := rfl
@[simp] theorem State.updFport_postNo (p : Nat) (f : FPort → FPort) : (s.updFport p f).postNo = s.postNo := rfl
@[simp] theorem State.updFport_out (p : Nat) (f : FPort → FPort) : (s.updFport p f).out = s.out := rfl
@[simp] theorem State.updFport_pending (p : Nat) (f : FPort → FPort) : (s.updFport p f).pending = s.pending := rfl

/-! ## State.updBezel -/

@[simp] theorem State.updBezel_now (p : Nat) (f : Bezel → Bezel) : (s.updBezel p f).now = s.now := rfl
@[simp] theorem State.updBezel_fv (p : Nat) (f : Bezel → Bezel) : (s.updBezel p f).fv = s.fv := rfl
@[simp] theorem State.updBezel_part (p : Nat) (f : Bezel → Bezel) : (s.updBezel p f).part = s.part := rfl
@[simp] theorem State.updBezel_supply (p : Nat) (f : Bezel → Bezel) : (s.updBezel p f).supply = s.supply := rfl
@[simp] theorem State.updBezel_stroke (p : Nat) (f : Bezel → Bezel) : (s.updBezel p f).stroke = s.stroke := rfl
@[simp] theorem State.updBezel_hubs (p : Nat) (f : Bezel → Bezel) : (s.updBezel p f).hubs = s.hubs := rfl
@[simp] theorem State.updBezel_bring (p : Nat) (f : Bezel → Bezel) : (s.updBezel p f).bring = s.bring := rfl
@[simp] theorem State.updBezel_defects (p : Nat) (f : Bezel → Bezel) : (s.updBezel p f).defects = s.defects := rfl
@[simp] theorem State.updBezel_colMaps (p : Nat) (f : Bezel → Bezel) : (s.updBezel p f).colMaps = s.colMaps := rfl
@[simp] theorem State.updBezel_coxes (p : Nat) (f : Bezel → Bezel) : (s.updBezel p f).coxes = s.coxes := rfl
@[simp] theorem State.updBezel_regions (p : Nat) (f : Bezel → Bezel) : (s.updBezel p f).regions = s.regions := rfl
@[simp] theorem State.updBezel_cores (p : Nat) (f : Bezel → Bezel) : (s.updBezel p f).cores = s.cores := rfl
@[simp] theorem State.updBezel_lcidAt (p : Nat) (f : Bezel → Bezel) : (s.updBezel p f).lcidAt = s.lcidAt := rfl
@[simp] theorem State.updBezel_crews (p : Nat) (f : Bezel → Bezel) : (s.updBezel p f).crews = s.crews := rfl
@[simp] theorem State.updBezel_syncs (p : Nat) (f : Bezel → Bezel) : (s.updBezel p f).syncs = s.syncs := rfl
@[simp] theorem State.updBezel_trees (p : Nat) (f : Bezel → Bezel) : (s.updBezel p f).trees = s.trees := rfl
@[simp] theorem State.updBezel_admits (p : Nat) (f : Bezel → Bezel) : (s.updBezel p f).admits = s.admits := rfl
@[simp] theorem State.updBezel_net (p : Nat) (f : Bezel → Bezel) : (s.updBezel p f).net = s.net := rfl
@[simp] theorem State.updBezel_links (p : Nat) (f : Bezel → Bezel) : (s.updBezel p f).links = s.links := rfl
@[simp] theorem State.updBezel_offs (p : Nat) (f : Bezel → Bezel) : (s.updBezel p f).offs = s.offs := rfl
@[simp] theorem State.updBezel_arbs (p : Nat) (f : Bezel → Bezel) : (s.updBezel p f).arbs = s.arbs := rfl
@[simp] theorem State.updBezel_sram (p : Nat) (f : Bezel → Bezel) : (s.updBezel p f).sram = s.sram := rfl
@[simp] theorem State.updBezel_sramUe (p : Nat) (f : Bezel → Bezel) : (s.updBezel p f).sramUe = s.sramUe := rfl
@[simp] theorem State.updBezel_sramCe (p : Nat) (f : Bezel → Bezel) : (s.updBezel p f).sramCe = s.sramCe := rfl
@[simp] theorem State.updBezel_hbm (p : Nat) (f : Bezel → Bezel) : (s.updBezel p f).hbm = s.hbm := rfl
@[simp] theorem State.updBezel_hbmUe (p : Nat) (f : Bezel → Bezel) : (s.updBezel p f).hbmUe = s.hbmUe := rfl
@[simp] theorem State.updBezel_hbmCe (p : Nat) (f : Bezel → Bezel) : (s.updBezel p f).hbmCe = s.hbmCe := rfl
@[simp] theorem State.updBezel_slices (p : Nat) (f : Bezel → Bezel) : (s.updBezel p f).slices = s.slices := rfl
@[simp] theorem State.updBezel_stackTab (p : Nat) (f : Bezel → Bezel) : (s.updBezel p f).stackTab = s.stackTab := rfl
@[simp] theorem State.updBezel_tallies (p : Nat) (f : Bezel → Bezel) : (s.updBezel p f).tallies = s.tallies := rfl
@[simp] theorem State.updBezel_power (p : Nat) (f : Bezel → Bezel) : (s.updBezel p f).power = s.power := rfl
@[simp] theorem State.updBezel_cool (p : Nat) (f : Bezel → Bezel) : (s.updBezel p f).cool = s.cool := rfl
@[simp] theorem State.updBezel_fports (p : Nat) (f : Bezel → Bezel) : (s.updBezel p f).fports = s.fports := rfl
@[simp] theorem State.updBezel_sec (p : Nat) (f : Bezel → Bezel) : (s.updBezel p f).sec = s.sec := rfl
@[simp] theorem State.updBezel_rings (p : Nat) (f : Bezel → Bezel) : (s.updBezel p f).rings = s.rings := rfl
@[simp] theorem State.updBezel_posted (p : Nat) (f : Bezel → Bezel) : (s.updBezel p f).posted = s.posted := rfl
@[simp] theorem State.updBezel_postNo (p : Nat) (f : Bezel → Bezel) : (s.updBezel p f).postNo = s.postNo := rfl
@[simp] theorem State.updBezel_out (p : Nat) (f : Bezel → Bezel) : (s.updBezel p f).out = s.out := rfl
@[simp] theorem State.updBezel_pending (p : Nat) (f : Bezel → Bezel) : (s.updBezel p f).pending = s.pending := rfl

/-! ## State.updColMap -/

@[simp] theorem State.updColMap_now (p : Nat) (f : ColMap → ColMap) : (s.updColMap p f).now = s.now := rfl
@[simp] theorem State.updColMap_fv (p : Nat) (f : ColMap → ColMap) : (s.updColMap p f).fv = s.fv := rfl
@[simp] theorem State.updColMap_part (p : Nat) (f : ColMap → ColMap) : (s.updColMap p f).part = s.part := rfl
@[simp] theorem State.updColMap_supply (p : Nat) (f : ColMap → ColMap) : (s.updColMap p f).supply = s.supply := rfl
@[simp] theorem State.updColMap_stroke (p : Nat) (f : ColMap → ColMap) : (s.updColMap p f).stroke = s.stroke := rfl
@[simp] theorem State.updColMap_hubs (p : Nat) (f : ColMap → ColMap) : (s.updColMap p f).hubs = s.hubs := rfl
@[simp] theorem State.updColMap_bring (p : Nat) (f : ColMap → ColMap) : (s.updColMap p f).bring = s.bring := rfl
@[simp] theorem State.updColMap_defects (p : Nat) (f : ColMap → ColMap) : (s.updColMap p f).defects = s.defects := rfl
@[simp] theorem State.updColMap_coxes (p : Nat) (f : ColMap → ColMap) : (s.updColMap p f).coxes = s.coxes := rfl
@[simp] theorem State.updColMap_regions (p : Nat) (f : ColMap → ColMap) : (s.updColMap p f).regions = s.regions := rfl
@[simp] theorem State.updColMap_cores (p : Nat) (f : ColMap → ColMap) : (s.updColMap p f).cores = s.cores := rfl
@[simp] theorem State.updColMap_lcidAt (p : Nat) (f : ColMap → ColMap) : (s.updColMap p f).lcidAt = s.lcidAt := rfl
@[simp] theorem State.updColMap_crews (p : Nat) (f : ColMap → ColMap) : (s.updColMap p f).crews = s.crews := rfl
@[simp] theorem State.updColMap_syncs (p : Nat) (f : ColMap → ColMap) : (s.updColMap p f).syncs = s.syncs := rfl
@[simp] theorem State.updColMap_trees (p : Nat) (f : ColMap → ColMap) : (s.updColMap p f).trees = s.trees := rfl
@[simp] theorem State.updColMap_admits (p : Nat) (f : ColMap → ColMap) : (s.updColMap p f).admits = s.admits := rfl
@[simp] theorem State.updColMap_net (p : Nat) (f : ColMap → ColMap) : (s.updColMap p f).net = s.net := rfl
@[simp] theorem State.updColMap_links (p : Nat) (f : ColMap → ColMap) : (s.updColMap p f).links = s.links := rfl
@[simp] theorem State.updColMap_offs (p : Nat) (f : ColMap → ColMap) : (s.updColMap p f).offs = s.offs := rfl
@[simp] theorem State.updColMap_arbs (p : Nat) (f : ColMap → ColMap) : (s.updColMap p f).arbs = s.arbs := rfl
@[simp] theorem State.updColMap_sram (p : Nat) (f : ColMap → ColMap) : (s.updColMap p f).sram = s.sram := rfl
@[simp] theorem State.updColMap_sramUe (p : Nat) (f : ColMap → ColMap) : (s.updColMap p f).sramUe = s.sramUe := rfl
@[simp] theorem State.updColMap_sramCe (p : Nat) (f : ColMap → ColMap) : (s.updColMap p f).sramCe = s.sramCe := rfl
@[simp] theorem State.updColMap_hbm (p : Nat) (f : ColMap → ColMap) : (s.updColMap p f).hbm = s.hbm := rfl
@[simp] theorem State.updColMap_hbmUe (p : Nat) (f : ColMap → ColMap) : (s.updColMap p f).hbmUe = s.hbmUe := rfl
@[simp] theorem State.updColMap_hbmCe (p : Nat) (f : ColMap → ColMap) : (s.updColMap p f).hbmCe = s.hbmCe := rfl
@[simp] theorem State.updColMap_slices (p : Nat) (f : ColMap → ColMap) : (s.updColMap p f).slices = s.slices := rfl
@[simp] theorem State.updColMap_stackTab (p : Nat) (f : ColMap → ColMap) : (s.updColMap p f).stackTab = s.stackTab := rfl
@[simp] theorem State.updColMap_tallies (p : Nat) (f : ColMap → ColMap) : (s.updColMap p f).tallies = s.tallies := rfl
@[simp] theorem State.updColMap_power (p : Nat) (f : ColMap → ColMap) : (s.updColMap p f).power = s.power := rfl
@[simp] theorem State.updColMap_cool (p : Nat) (f : ColMap → ColMap) : (s.updColMap p f).cool = s.cool := rfl
@[simp] theorem State.updColMap_fports (p : Nat) (f : ColMap → ColMap) : (s.updColMap p f).fports = s.fports := rfl
@[simp] theorem State.updColMap_sec (p : Nat) (f : ColMap → ColMap) : (s.updColMap p f).sec = s.sec := rfl
@[simp] theorem State.updColMap_bezels (p : Nat) (f : ColMap → ColMap) : (s.updColMap p f).bezels = s.bezels := rfl
@[simp] theorem State.updColMap_rings (p : Nat) (f : ColMap → ColMap) : (s.updColMap p f).rings = s.rings := rfl
@[simp] theorem State.updColMap_posted (p : Nat) (f : ColMap → ColMap) : (s.updColMap p f).posted = s.posted := rfl
@[simp] theorem State.updColMap_postNo (p : Nat) (f : ColMap → ColMap) : (s.updColMap p f).postNo = s.postNo := rfl
@[simp] theorem State.updColMap_out (p : Nat) (f : ColMap → ColMap) : (s.updColMap p f).out = s.out := rfl
@[simp] theorem State.updColMap_pending (p : Nat) (f : ColMap → ColMap) : (s.updColMap p f).pending = s.pending := rfl

/-! ## State.updGroup -/

@[simp] theorem State.updGroup_now (p : Nat) (f : Group → Group) : (s.updGroup p f).now = s.now := rfl
@[simp] theorem State.updGroup_fv (p : Nat) (f : Group → Group) : (s.updGroup p f).fv = s.fv := rfl
@[simp] theorem State.updGroup_part (p : Nat) (f : Group → Group) : (s.updGroup p f).part = s.part := rfl
@[simp] theorem State.updGroup_supply (p : Nat) (f : Group → Group) : (s.updGroup p f).supply = s.supply := rfl
@[simp] theorem State.updGroup_stroke (p : Nat) (f : Group → Group) : (s.updGroup p f).stroke = s.stroke := rfl
@[simp] theorem State.updGroup_hubs (p : Nat) (f : Group → Group) : (s.updGroup p f).hubs = s.hubs := rfl
@[simp] theorem State.updGroup_bring (p : Nat) (f : Group → Group) : (s.updGroup p f).bring = s.bring := rfl
@[simp] theorem State.updGroup_defects (p : Nat) (f : Group → Group) : (s.updGroup p f).defects = s.defects := rfl
@[simp] theorem State.updGroup_colMaps (p : Nat) (f : Group → Group) : (s.updGroup p f).colMaps = s.colMaps := rfl
@[simp] theorem State.updGroup_coxes (p : Nat) (f : Group → Group) : (s.updGroup p f).coxes = s.coxes := rfl
@[simp] theorem State.updGroup_regions (p : Nat) (f : Group → Group) : (s.updGroup p f).regions = s.regions := rfl
@[simp] theorem State.updGroup_cores (p : Nat) (f : Group → Group) : (s.updGroup p f).cores = s.cores := rfl
@[simp] theorem State.updGroup_lcidAt (p : Nat) (f : Group → Group) : (s.updGroup p f).lcidAt = s.lcidAt := rfl
@[simp] theorem State.updGroup_crews (p : Nat) (f : Group → Group) : (s.updGroup p f).crews = s.crews := rfl
@[simp] theorem State.updGroup_syncs (p : Nat) (f : Group → Group) : (s.updGroup p f).syncs = s.syncs := rfl
@[simp] theorem State.updGroup_trees (p : Nat) (f : Group → Group) : (s.updGroup p f).trees = s.trees := rfl
@[simp] theorem State.updGroup_admits (p : Nat) (f : Group → Group) : (s.updGroup p f).admits = s.admits := rfl
@[simp] theorem State.updGroup_net (p : Nat) (f : Group → Group) : (s.updGroup p f).net = s.net := rfl
@[simp] theorem State.updGroup_links (p : Nat) (f : Group → Group) : (s.updGroup p f).links = s.links := rfl
@[simp] theorem State.updGroup_offs (p : Nat) (f : Group → Group) : (s.updGroup p f).offs = s.offs := rfl
@[simp] theorem State.updGroup_arbs (p : Nat) (f : Group → Group) : (s.updGroup p f).arbs = s.arbs := rfl
@[simp] theorem State.updGroup_sram (p : Nat) (f : Group → Group) : (s.updGroup p f).sram = s.sram := rfl
@[simp] theorem State.updGroup_sramUe (p : Nat) (f : Group → Group) : (s.updGroup p f).sramUe = s.sramUe := rfl
@[simp] theorem State.updGroup_sramCe (p : Nat) (f : Group → Group) : (s.updGroup p f).sramCe = s.sramCe := rfl
@[simp] theorem State.updGroup_hbm (p : Nat) (f : Group → Group) : (s.updGroup p f).hbm = s.hbm := rfl
@[simp] theorem State.updGroup_hbmUe (p : Nat) (f : Group → Group) : (s.updGroup p f).hbmUe = s.hbmUe := rfl
@[simp] theorem State.updGroup_hbmCe (p : Nat) (f : Group → Group) : (s.updGroup p f).hbmCe = s.hbmCe := rfl
@[simp] theorem State.updGroup_slices (p : Nat) (f : Group → Group) : (s.updGroup p f).slices = s.slices := rfl
@[simp] theorem State.updGroup_stackTab (p : Nat) (f : Group → Group) : (s.updGroup p f).stackTab = s.stackTab := rfl
@[simp] theorem State.updGroup_tallies (p : Nat) (f : Group → Group) : (s.updGroup p f).tallies = s.tallies := rfl
@[simp] theorem State.updGroup_cool (p : Nat) (f : Group → Group) : (s.updGroup p f).cool = s.cool := rfl
@[simp] theorem State.updGroup_fports (p : Nat) (f : Group → Group) : (s.updGroup p f).fports = s.fports := rfl
@[simp] theorem State.updGroup_sec (p : Nat) (f : Group → Group) : (s.updGroup p f).sec = s.sec := rfl
@[simp] theorem State.updGroup_bezels (p : Nat) (f : Group → Group) : (s.updGroup p f).bezels = s.bezels := rfl
@[simp] theorem State.updGroup_rings (p : Nat) (f : Group → Group) : (s.updGroup p f).rings = s.rings := rfl
@[simp] theorem State.updGroup_posted (p : Nat) (f : Group → Group) : (s.updGroup p f).posted = s.posted := rfl
@[simp] theorem State.updGroup_postNo (p : Nat) (f : Group → Group) : (s.updGroup p f).postNo = s.postNo := rfl
@[simp] theorem State.updGroup_out (p : Nat) (f : Group → Group) : (s.updGroup p f).out = s.out := rfl
@[simp] theorem State.updGroup_pending (p : Nat) (f : Group → Group) : (s.updGroup p f).pending = s.pending := rfl

/-! ## State.updPower -/

@[simp] theorem State.updPower_now (f : Power → Power) : (s.updPower f).now = s.now := rfl
@[simp] theorem State.updPower_fv (f : Power → Power) : (s.updPower f).fv = s.fv := rfl
@[simp] theorem State.updPower_part (f : Power → Power) : (s.updPower f).part = s.part := rfl
@[simp] theorem State.updPower_supply (f : Power → Power) : (s.updPower f).supply = s.supply := rfl
@[simp] theorem State.updPower_stroke (f : Power → Power) : (s.updPower f).stroke = s.stroke := rfl
@[simp] theorem State.updPower_hubs (f : Power → Power) : (s.updPower f).hubs = s.hubs := rfl
@[simp] theorem State.updPower_bring (f : Power → Power) : (s.updPower f).bring = s.bring := rfl
@[simp] theorem State.updPower_defects (f : Power → Power) : (s.updPower f).defects = s.defects := rfl
@[simp] theorem State.updPower_colMaps (f : Power → Power) : (s.updPower f).colMaps = s.colMaps := rfl
@[simp] theorem State.updPower_coxes (f : Power → Power) : (s.updPower f).coxes = s.coxes := rfl
@[simp] theorem State.updPower_regions (f : Power → Power) : (s.updPower f).regions = s.regions := rfl
@[simp] theorem State.updPower_cores (f : Power → Power) : (s.updPower f).cores = s.cores := rfl
@[simp] theorem State.updPower_lcidAt (f : Power → Power) : (s.updPower f).lcidAt = s.lcidAt := rfl
@[simp] theorem State.updPower_crews (f : Power → Power) : (s.updPower f).crews = s.crews := rfl
@[simp] theorem State.updPower_syncs (f : Power → Power) : (s.updPower f).syncs = s.syncs := rfl
@[simp] theorem State.updPower_trees (f : Power → Power) : (s.updPower f).trees = s.trees := rfl
@[simp] theorem State.updPower_admits (f : Power → Power) : (s.updPower f).admits = s.admits := rfl
@[simp] theorem State.updPower_net (f : Power → Power) : (s.updPower f).net = s.net := rfl
@[simp] theorem State.updPower_links (f : Power → Power) : (s.updPower f).links = s.links := rfl
@[simp] theorem State.updPower_offs (f : Power → Power) : (s.updPower f).offs = s.offs := rfl
@[simp] theorem State.updPower_arbs (f : Power → Power) : (s.updPower f).arbs = s.arbs := rfl
@[simp] theorem State.updPower_sram (f : Power → Power) : (s.updPower f).sram = s.sram := rfl
@[simp] theorem State.updPower_sramUe (f : Power → Power) : (s.updPower f).sramUe = s.sramUe := rfl
@[simp] theorem State.updPower_sramCe (f : Power → Power) : (s.updPower f).sramCe = s.sramCe := rfl
@[simp] theorem State.updPower_hbm (f : Power → Power) : (s.updPower f).hbm = s.hbm := rfl
@[simp] theorem State.updPower_hbmUe (f : Power → Power) : (s.updPower f).hbmUe = s.hbmUe := rfl
@[simp] theorem State.updPower_hbmCe (f : Power → Power) : (s.updPower f).hbmCe = s.hbmCe := rfl
@[simp] theorem State.updPower_slices (f : Power → Power) : (s.updPower f).slices = s.slices := rfl
@[simp] theorem State.updPower_stackTab (f : Power → Power) : (s.updPower f).stackTab = s.stackTab := rfl
@[simp] theorem State.updPower_tallies (f : Power → Power) : (s.updPower f).tallies = s.tallies := rfl
@[simp] theorem State.updPower_cool (f : Power → Power) : (s.updPower f).cool = s.cool := rfl
@[simp] theorem State.updPower_fports (f : Power → Power) : (s.updPower f).fports = s.fports := rfl
@[simp] theorem State.updPower_sec (f : Power → Power) : (s.updPower f).sec = s.sec := rfl
@[simp] theorem State.updPower_bezels (f : Power → Power) : (s.updPower f).bezels = s.bezels := rfl
@[simp] theorem State.updPower_rings (f : Power → Power) : (s.updPower f).rings = s.rings := rfl
@[simp] theorem State.updPower_posted (f : Power → Power) : (s.updPower f).posted = s.posted := rfl
@[simp] theorem State.updPower_postNo (f : Power → Power) : (s.updPower f).postNo = s.postNo := rfl
@[simp] theorem State.updPower_out (f : Power → Power) : (s.updPower f).out = s.out := rfl
@[simp] theorem State.updPower_pending (f : Power → Power) : (s.updPower f).pending = s.pending := rfl
@[simp] theorem State.updPower_power (f : Power → Power) : (s.updPower f).power = f s.power := rfl

/-! ## State.updCool -/

@[simp] theorem State.updCool_now (f : Cooling → Cooling) : (s.updCool f).now = s.now := rfl
@[simp] theorem State.updCool_fv (f : Cooling → Cooling) : (s.updCool f).fv = s.fv := rfl
@[simp] theorem State.updCool_part (f : Cooling → Cooling) : (s.updCool f).part = s.part := rfl
@[simp] theorem State.updCool_supply (f : Cooling → Cooling) : (s.updCool f).supply = s.supply := rfl
@[simp] theorem State.updCool_stroke (f : Cooling → Cooling) : (s.updCool f).stroke = s.stroke := rfl
@[simp] theorem State.updCool_hubs (f : Cooling → Cooling) : (s.updCool f).hubs = s.hubs := rfl
@[simp] theorem State.updCool_bring (f : Cooling → Cooling) : (s.updCool f).bring = s.bring := rfl
@[simp] theorem State.updCool_defects (f : Cooling → Cooling) : (s.updCool f).defects = s.defects := rfl
@[simp] theorem State.updCool_colMaps (f : Cooling → Cooling) : (s.updCool f).colMaps = s.colMaps := rfl
@[simp] theorem State.updCool_coxes (f : Cooling → Cooling) : (s.updCool f).coxes = s.coxes := rfl
@[simp] theorem State.updCool_regions (f : Cooling → Cooling) : (s.updCool f).regions = s.regions := rfl
@[simp] theorem State.updCool_cores (f : Cooling → Cooling) : (s.updCool f).cores = s.cores := rfl
@[simp] theorem State.updCool_lcidAt (f : Cooling → Cooling) : (s.updCool f).lcidAt = s.lcidAt := rfl
@[simp] theorem State.updCool_crews (f : Cooling → Cooling) : (s.updCool f).crews = s.crews := rfl
@[simp] theorem State.updCool_syncs (f : Cooling → Cooling) : (s.updCool f).syncs = s.syncs := rfl
@[simp] theorem State.updCool_trees (f : Cooling → Cooling) : (s.updCool f).trees = s.trees := rfl
@[simp] theorem State.updCool_admits (f : Cooling → Cooling) : (s.updCool f).admits = s.admits := rfl
@[simp] theorem State.updCool_net (f : Cooling → Cooling) : (s.updCool f).net = s.net := rfl
@[simp] theorem State.updCool_links (f : Cooling → Cooling) : (s.updCool f).links = s.links := rfl
@[simp] theorem State.updCool_offs (f : Cooling → Cooling) : (s.updCool f).offs = s.offs := rfl
@[simp] theorem State.updCool_arbs (f : Cooling → Cooling) : (s.updCool f).arbs = s.arbs := rfl
@[simp] theorem State.updCool_sram (f : Cooling → Cooling) : (s.updCool f).sram = s.sram := rfl
@[simp] theorem State.updCool_sramUe (f : Cooling → Cooling) : (s.updCool f).sramUe = s.sramUe := rfl
@[simp] theorem State.updCool_sramCe (f : Cooling → Cooling) : (s.updCool f).sramCe = s.sramCe := rfl
@[simp] theorem State.updCool_hbm (f : Cooling → Cooling) : (s.updCool f).hbm = s.hbm := rfl
@[simp] theorem State.updCool_hbmUe (f : Cooling → Cooling) : (s.updCool f).hbmUe = s.hbmUe := rfl
@[simp] theorem State.updCool_hbmCe (f : Cooling → Cooling) : (s.updCool f).hbmCe = s.hbmCe := rfl
@[simp] theorem State.updCool_slices (f : Cooling → Cooling) : (s.updCool f).slices = s.slices := rfl
@[simp] theorem State.updCool_stackTab (f : Cooling → Cooling) : (s.updCool f).stackTab = s.stackTab := rfl
@[simp] theorem State.updCool_tallies (f : Cooling → Cooling) : (s.updCool f).tallies = s.tallies := rfl
@[simp] theorem State.updCool_power (f : Cooling → Cooling) : (s.updCool f).power = s.power := rfl
@[simp] theorem State.updCool_fports (f : Cooling → Cooling) : (s.updCool f).fports = s.fports := rfl
@[simp] theorem State.updCool_sec (f : Cooling → Cooling) : (s.updCool f).sec = s.sec := rfl
@[simp] theorem State.updCool_bezels (f : Cooling → Cooling) : (s.updCool f).bezels = s.bezels := rfl
@[simp] theorem State.updCool_rings (f : Cooling → Cooling) : (s.updCool f).rings = s.rings := rfl
@[simp] theorem State.updCool_posted (f : Cooling → Cooling) : (s.updCool f).posted = s.posted := rfl
@[simp] theorem State.updCool_postNo (f : Cooling → Cooling) : (s.updCool f).postNo = s.postNo := rfl
@[simp] theorem State.updCool_out (f : Cooling → Cooling) : (s.updCool f).out = s.out := rfl
@[simp] theorem State.updCool_pending (f : Cooling → Cooling) : (s.updCool f).pending = s.pending := rfl
@[simp] theorem State.updCool_cool (f : Cooling → Cooling) : (s.updCool f).cool = f s.cool := rfl

/-! ## State.updBring -/

@[simp] theorem State.updBring_now (f : BringUp → BringUp) : (s.updBring f).now = s.now := rfl
@[simp] theorem State.updBring_fv (f : BringUp → BringUp) : (s.updBring f).fv = s.fv := rfl
@[simp] theorem State.updBring_part (f : BringUp → BringUp) : (s.updBring f).part = s.part := rfl
@[simp] theorem State.updBring_supply (f : BringUp → BringUp) : (s.updBring f).supply = s.supply := rfl
@[simp] theorem State.updBring_stroke (f : BringUp → BringUp) : (s.updBring f).stroke = s.stroke := rfl
@[simp] theorem State.updBring_hubs (f : BringUp → BringUp) : (s.updBring f).hubs = s.hubs := rfl
@[simp] theorem State.updBring_defects (f : BringUp → BringUp) : (s.updBring f).defects = s.defects := rfl
@[simp] theorem State.updBring_colMaps (f : BringUp → BringUp) : (s.updBring f).colMaps = s.colMaps := rfl
@[simp] theorem State.updBring_coxes (f : BringUp → BringUp) : (s.updBring f).coxes = s.coxes := rfl
@[simp] theorem State.updBring_regions (f : BringUp → BringUp) : (s.updBring f).regions = s.regions := rfl
@[simp] theorem State.updBring_cores (f : BringUp → BringUp) : (s.updBring f).cores = s.cores := rfl
@[simp] theorem State.updBring_lcidAt (f : BringUp → BringUp) : (s.updBring f).lcidAt = s.lcidAt := rfl
@[simp] theorem State.updBring_crews (f : BringUp → BringUp) : (s.updBring f).crews = s.crews := rfl
@[simp] theorem State.updBring_syncs (f : BringUp → BringUp) : (s.updBring f).syncs = s.syncs := rfl
@[simp] theorem State.updBring_trees (f : BringUp → BringUp) : (s.updBring f).trees = s.trees := rfl
@[simp] theorem State.updBring_admits (f : BringUp → BringUp) : (s.updBring f).admits = s.admits := rfl
@[simp] theorem State.updBring_net (f : BringUp → BringUp) : (s.updBring f).net = s.net := rfl
@[simp] theorem State.updBring_links (f : BringUp → BringUp) : (s.updBring f).links = s.links := rfl
@[simp] theorem State.updBring_offs (f : BringUp → BringUp) : (s.updBring f).offs = s.offs := rfl
@[simp] theorem State.updBring_arbs (f : BringUp → BringUp) : (s.updBring f).arbs = s.arbs := rfl
@[simp] theorem State.updBring_sram (f : BringUp → BringUp) : (s.updBring f).sram = s.sram := rfl
@[simp] theorem State.updBring_sramUe (f : BringUp → BringUp) : (s.updBring f).sramUe = s.sramUe := rfl
@[simp] theorem State.updBring_sramCe (f : BringUp → BringUp) : (s.updBring f).sramCe = s.sramCe := rfl
@[simp] theorem State.updBring_hbm (f : BringUp → BringUp) : (s.updBring f).hbm = s.hbm := rfl
@[simp] theorem State.updBring_hbmUe (f : BringUp → BringUp) : (s.updBring f).hbmUe = s.hbmUe := rfl
@[simp] theorem State.updBring_hbmCe (f : BringUp → BringUp) : (s.updBring f).hbmCe = s.hbmCe := rfl
@[simp] theorem State.updBring_slices (f : BringUp → BringUp) : (s.updBring f).slices = s.slices := rfl
@[simp] theorem State.updBring_stackTab (f : BringUp → BringUp) : (s.updBring f).stackTab = s.stackTab := rfl
@[simp] theorem State.updBring_tallies (f : BringUp → BringUp) : (s.updBring f).tallies = s.tallies := rfl
@[simp] theorem State.updBring_power (f : BringUp → BringUp) : (s.updBring f).power = s.power := rfl
@[simp] theorem State.updBring_cool (f : BringUp → BringUp) : (s.updBring f).cool = s.cool := rfl
@[simp] theorem State.updBring_fports (f : BringUp → BringUp) : (s.updBring f).fports = s.fports := rfl
@[simp] theorem State.updBring_sec (f : BringUp → BringUp) : (s.updBring f).sec = s.sec := rfl
@[simp] theorem State.updBring_bezels (f : BringUp → BringUp) : (s.updBring f).bezels = s.bezels := rfl
@[simp] theorem State.updBring_rings (f : BringUp → BringUp) : (s.updBring f).rings = s.rings := rfl
@[simp] theorem State.updBring_posted (f : BringUp → BringUp) : (s.updBring f).posted = s.posted := rfl
@[simp] theorem State.updBring_postNo (f : BringUp → BringUp) : (s.updBring f).postNo = s.postNo := rfl
@[simp] theorem State.updBring_out (f : BringUp → BringUp) : (s.updBring f).out = s.out := rfl
@[simp] theorem State.updBring_pending (f : BringUp → BringUp) : (s.updBring f).pending = s.pending := rfl
@[simp] theorem State.updBring_bring (f : BringUp → BringUp) : (s.updBring f).bring = f s.bring := rfl

/-! ## State.updStroke -/

@[simp] theorem State.updStroke_now (f : Stroke → Stroke) : (s.updStroke f).now = s.now := rfl
@[simp] theorem State.updStroke_fv (f : Stroke → Stroke) : (s.updStroke f).fv = s.fv := rfl
@[simp] theorem State.updStroke_part (f : Stroke → Stroke) : (s.updStroke f).part = s.part := rfl
@[simp] theorem State.updStroke_supply (f : Stroke → Stroke) : (s.updStroke f).supply = s.supply := rfl
@[simp] theorem State.updStroke_hubs (f : Stroke → Stroke) : (s.updStroke f).hubs = s.hubs := rfl
@[simp] theorem State.updStroke_bring (f : Stroke → Stroke) : (s.updStroke f).bring = s.bring := rfl
@[simp] theorem State.updStroke_defects (f : Stroke → Stroke) : (s.updStroke f).defects = s.defects := rfl
@[simp] theorem State.updStroke_colMaps (f : Stroke → Stroke) : (s.updStroke f).colMaps = s.colMaps := rfl
@[simp] theorem State.updStroke_coxes (f : Stroke → Stroke) : (s.updStroke f).coxes = s.coxes := rfl
@[simp] theorem State.updStroke_regions (f : Stroke → Stroke) : (s.updStroke f).regions = s.regions := rfl
@[simp] theorem State.updStroke_cores (f : Stroke → Stroke) : (s.updStroke f).cores = s.cores := rfl
@[simp] theorem State.updStroke_lcidAt (f : Stroke → Stroke) : (s.updStroke f).lcidAt = s.lcidAt := rfl
@[simp] theorem State.updStroke_crews (f : Stroke → Stroke) : (s.updStroke f).crews = s.crews := rfl
@[simp] theorem State.updStroke_syncs (f : Stroke → Stroke) : (s.updStroke f).syncs = s.syncs := rfl
@[simp] theorem State.updStroke_trees (f : Stroke → Stroke) : (s.updStroke f).trees = s.trees := rfl
@[simp] theorem State.updStroke_admits (f : Stroke → Stroke) : (s.updStroke f).admits = s.admits := rfl
@[simp] theorem State.updStroke_net (f : Stroke → Stroke) : (s.updStroke f).net = s.net := rfl
@[simp] theorem State.updStroke_links (f : Stroke → Stroke) : (s.updStroke f).links = s.links := rfl
@[simp] theorem State.updStroke_offs (f : Stroke → Stroke) : (s.updStroke f).offs = s.offs := rfl
@[simp] theorem State.updStroke_arbs (f : Stroke → Stroke) : (s.updStroke f).arbs = s.arbs := rfl
@[simp] theorem State.updStroke_sram (f : Stroke → Stroke) : (s.updStroke f).sram = s.sram := rfl
@[simp] theorem State.updStroke_sramUe (f : Stroke → Stroke) : (s.updStroke f).sramUe = s.sramUe := rfl
@[simp] theorem State.updStroke_sramCe (f : Stroke → Stroke) : (s.updStroke f).sramCe = s.sramCe := rfl
@[simp] theorem State.updStroke_hbm (f : Stroke → Stroke) : (s.updStroke f).hbm = s.hbm := rfl
@[simp] theorem State.updStroke_hbmUe (f : Stroke → Stroke) : (s.updStroke f).hbmUe = s.hbmUe := rfl
@[simp] theorem State.updStroke_hbmCe (f : Stroke → Stroke) : (s.updStroke f).hbmCe = s.hbmCe := rfl
@[simp] theorem State.updStroke_slices (f : Stroke → Stroke) : (s.updStroke f).slices = s.slices := rfl
@[simp] theorem State.updStroke_stackTab (f : Stroke → Stroke) : (s.updStroke f).stackTab = s.stackTab := rfl
@[simp] theorem State.updStroke_tallies (f : Stroke → Stroke) : (s.updStroke f).tallies = s.tallies := rfl
@[simp] theorem State.updStroke_power (f : Stroke → Stroke) : (s.updStroke f).power = s.power := rfl
@[simp] theorem State.updStroke_cool (f : Stroke → Stroke) : (s.updStroke f).cool = s.cool := rfl
@[simp] theorem State.updStroke_fports (f : Stroke → Stroke) : (s.updStroke f).fports = s.fports := rfl
@[simp] theorem State.updStroke_sec (f : Stroke → Stroke) : (s.updStroke f).sec = s.sec := rfl
@[simp] theorem State.updStroke_bezels (f : Stroke → Stroke) : (s.updStroke f).bezels = s.bezels := rfl
@[simp] theorem State.updStroke_rings (f : Stroke → Stroke) : (s.updStroke f).rings = s.rings := rfl
@[simp] theorem State.updStroke_posted (f : Stroke → Stroke) : (s.updStroke f).posted = s.posted := rfl
@[simp] theorem State.updStroke_postNo (f : Stroke → Stroke) : (s.updStroke f).postNo = s.postNo := rfl
@[simp] theorem State.updStroke_out (f : Stroke → Stroke) : (s.updStroke f).out = s.out := rfl
@[simp] theorem State.updStroke_pending (f : Stroke → Stroke) : (s.updStroke f).pending = s.pending := rfl
@[simp] theorem State.updStroke_stroke (f : Stroke → Stroke) : (s.updStroke f).stroke = f s.stroke := rfl

/-! ## State.updSec -/

@[simp] theorem State.updSec_now (f : Security → Security) : (s.updSec f).now = s.now := rfl
@[simp] theorem State.updSec_fv (f : Security → Security) : (s.updSec f).fv = s.fv := rfl
@[simp] theorem State.updSec_part (f : Security → Security) : (s.updSec f).part = s.part := rfl
@[simp] theorem State.updSec_supply (f : Security → Security) : (s.updSec f).supply = s.supply := rfl
@[simp] theorem State.updSec_stroke (f : Security → Security) : (s.updSec f).stroke = s.stroke := rfl
@[simp] theorem State.updSec_hubs (f : Security → Security) : (s.updSec f).hubs = s.hubs := rfl
@[simp] theorem State.updSec_bring (f : Security → Security) : (s.updSec f).bring = s.bring := rfl
@[simp] theorem State.updSec_defects (f : Security → Security) : (s.updSec f).defects = s.defects := rfl
@[simp] theorem State.updSec_colMaps (f : Security → Security) : (s.updSec f).colMaps = s.colMaps := rfl
@[simp] theorem State.updSec_coxes (f : Security → Security) : (s.updSec f).coxes = s.coxes := rfl
@[simp] theorem State.updSec_regions (f : Security → Security) : (s.updSec f).regions = s.regions := rfl
@[simp] theorem State.updSec_cores (f : Security → Security) : (s.updSec f).cores = s.cores := rfl
@[simp] theorem State.updSec_lcidAt (f : Security → Security) : (s.updSec f).lcidAt = s.lcidAt := rfl
@[simp] theorem State.updSec_crews (f : Security → Security) : (s.updSec f).crews = s.crews := rfl
@[simp] theorem State.updSec_syncs (f : Security → Security) : (s.updSec f).syncs = s.syncs := rfl
@[simp] theorem State.updSec_trees (f : Security → Security) : (s.updSec f).trees = s.trees := rfl
@[simp] theorem State.updSec_admits (f : Security → Security) : (s.updSec f).admits = s.admits := rfl
@[simp] theorem State.updSec_net (f : Security → Security) : (s.updSec f).net = s.net := rfl
@[simp] theorem State.updSec_links (f : Security → Security) : (s.updSec f).links = s.links := rfl
@[simp] theorem State.updSec_offs (f : Security → Security) : (s.updSec f).offs = s.offs := rfl
@[simp] theorem State.updSec_arbs (f : Security → Security) : (s.updSec f).arbs = s.arbs := rfl
@[simp] theorem State.updSec_sram (f : Security → Security) : (s.updSec f).sram = s.sram := rfl
@[simp] theorem State.updSec_sramUe (f : Security → Security) : (s.updSec f).sramUe = s.sramUe := rfl
@[simp] theorem State.updSec_sramCe (f : Security → Security) : (s.updSec f).sramCe = s.sramCe := rfl
@[simp] theorem State.updSec_hbm (f : Security → Security) : (s.updSec f).hbm = s.hbm := rfl
@[simp] theorem State.updSec_hbmUe (f : Security → Security) : (s.updSec f).hbmUe = s.hbmUe := rfl
@[simp] theorem State.updSec_hbmCe (f : Security → Security) : (s.updSec f).hbmCe = s.hbmCe := rfl
@[simp] theorem State.updSec_slices (f : Security → Security) : (s.updSec f).slices = s.slices := rfl
@[simp] theorem State.updSec_stackTab (f : Security → Security) : (s.updSec f).stackTab = s.stackTab := rfl
@[simp] theorem State.updSec_tallies (f : Security → Security) : (s.updSec f).tallies = s.tallies := rfl
@[simp] theorem State.updSec_power (f : Security → Security) : (s.updSec f).power = s.power := rfl
@[simp] theorem State.updSec_cool (f : Security → Security) : (s.updSec f).cool = s.cool := rfl
@[simp] theorem State.updSec_fports (f : Security → Security) : (s.updSec f).fports = s.fports := rfl
@[simp] theorem State.updSec_bezels (f : Security → Security) : (s.updSec f).bezels = s.bezels := rfl
@[simp] theorem State.updSec_rings (f : Security → Security) : (s.updSec f).rings = s.rings := rfl
@[simp] theorem State.updSec_posted (f : Security → Security) : (s.updSec f).posted = s.posted := rfl
@[simp] theorem State.updSec_postNo (f : Security → Security) : (s.updSec f).postNo = s.postNo := rfl
@[simp] theorem State.updSec_out (f : Security → Security) : (s.updSec f).out = s.out := rfl
@[simp] theorem State.updSec_pending (f : Security → Security) : (s.updSec f).pending = s.pending := rfl
@[simp] theorem State.updSec_sec (f : Security → Security) : (s.updSec f).sec = f s.sec := rfl

/-! ## State.updSupply -/

@[simp] theorem State.updSupply_now (f : Supply → Supply) : (s.updSupply f).now = s.now := rfl
@[simp] theorem State.updSupply_fv (f : Supply → Supply) : (s.updSupply f).fv = s.fv := rfl
@[simp] theorem State.updSupply_part (f : Supply → Supply) : (s.updSupply f).part = s.part := rfl
@[simp] theorem State.updSupply_stroke (f : Supply → Supply) : (s.updSupply f).stroke = s.stroke := rfl
@[simp] theorem State.updSupply_hubs (f : Supply → Supply) : (s.updSupply f).hubs = s.hubs := rfl
@[simp] theorem State.updSupply_bring (f : Supply → Supply) : (s.updSupply f).bring = s.bring := rfl
@[simp] theorem State.updSupply_defects (f : Supply → Supply) : (s.updSupply f).defects = s.defects := rfl
@[simp] theorem State.updSupply_colMaps (f : Supply → Supply) : (s.updSupply f).colMaps = s.colMaps := rfl
@[simp] theorem State.updSupply_coxes (f : Supply → Supply) : (s.updSupply f).coxes = s.coxes := rfl
@[simp] theorem State.updSupply_regions (f : Supply → Supply) : (s.updSupply f).regions = s.regions := rfl
@[simp] theorem State.updSupply_cores (f : Supply → Supply) : (s.updSupply f).cores = s.cores := rfl
@[simp] theorem State.updSupply_lcidAt (f : Supply → Supply) : (s.updSupply f).lcidAt = s.lcidAt := rfl
@[simp] theorem State.updSupply_crews (f : Supply → Supply) : (s.updSupply f).crews = s.crews := rfl
@[simp] theorem State.updSupply_syncs (f : Supply → Supply) : (s.updSupply f).syncs = s.syncs := rfl
@[simp] theorem State.updSupply_trees (f : Supply → Supply) : (s.updSupply f).trees = s.trees := rfl
@[simp] theorem State.updSupply_admits (f : Supply → Supply) : (s.updSupply f).admits = s.admits := rfl
@[simp] theorem State.updSupply_net (f : Supply → Supply) : (s.updSupply f).net = s.net := rfl
@[simp] theorem State.updSupply_links (f : Supply → Supply) : (s.updSupply f).links = s.links := rfl
@[simp] theorem State.updSupply_offs (f : Supply → Supply) : (s.updSupply f).offs = s.offs := rfl
@[simp] theorem State.updSupply_arbs (f : Supply → Supply) : (s.updSupply f).arbs = s.arbs := rfl
@[simp] theorem State.updSupply_sram (f : Supply → Supply) : (s.updSupply f).sram = s.sram := rfl
@[simp] theorem State.updSupply_sramUe (f : Supply → Supply) : (s.updSupply f).sramUe = s.sramUe := rfl
@[simp] theorem State.updSupply_sramCe (f : Supply → Supply) : (s.updSupply f).sramCe = s.sramCe := rfl
@[simp] theorem State.updSupply_hbm (f : Supply → Supply) : (s.updSupply f).hbm = s.hbm := rfl
@[simp] theorem State.updSupply_hbmUe (f : Supply → Supply) : (s.updSupply f).hbmUe = s.hbmUe := rfl
@[simp] theorem State.updSupply_hbmCe (f : Supply → Supply) : (s.updSupply f).hbmCe = s.hbmCe := rfl
@[simp] theorem State.updSupply_slices (f : Supply → Supply) : (s.updSupply f).slices = s.slices := rfl
@[simp] theorem State.updSupply_stackTab (f : Supply → Supply) : (s.updSupply f).stackTab = s.stackTab := rfl
@[simp] theorem State.updSupply_tallies (f : Supply → Supply) : (s.updSupply f).tallies = s.tallies := rfl
@[simp] theorem State.updSupply_power (f : Supply → Supply) : (s.updSupply f).power = s.power := rfl
@[simp] theorem State.updSupply_cool (f : Supply → Supply) : (s.updSupply f).cool = s.cool := rfl
@[simp] theorem State.updSupply_fports (f : Supply → Supply) : (s.updSupply f).fports = s.fports := rfl
@[simp] theorem State.updSupply_sec (f : Supply → Supply) : (s.updSupply f).sec = s.sec := rfl
@[simp] theorem State.updSupply_bezels (f : Supply → Supply) : (s.updSupply f).bezels = s.bezels := rfl
@[simp] theorem State.updSupply_rings (f : Supply → Supply) : (s.updSupply f).rings = s.rings := rfl
@[simp] theorem State.updSupply_posted (f : Supply → Supply) : (s.updSupply f).posted = s.posted := rfl
@[simp] theorem State.updSupply_postNo (f : Supply → Supply) : (s.updSupply f).postNo = s.postNo := rfl
@[simp] theorem State.updSupply_out (f : Supply → Supply) : (s.updSupply f).out = s.out := rfl
@[simp] theorem State.updSupply_pending (f : Supply → Supply) : (s.updSupply f).pending = s.pending := rfl
@[simp] theorem State.updSupply_supply (f : Supply → Supply) : (s.updSupply f).supply = f s.supply := rfl

/-! ## State.updDefects -/

@[simp] theorem State.updDefects_now (f : Defects → Defects) : (s.updDefects f).now = s.now := rfl
@[simp] theorem State.updDefects_fv (f : Defects → Defects) : (s.updDefects f).fv = s.fv := rfl
@[simp] theorem State.updDefects_part (f : Defects → Defects) : (s.updDefects f).part = s.part := rfl
@[simp] theorem State.updDefects_supply (f : Defects → Defects) : (s.updDefects f).supply = s.supply := rfl
@[simp] theorem State.updDefects_stroke (f : Defects → Defects) : (s.updDefects f).stroke = s.stroke := rfl
@[simp] theorem State.updDefects_hubs (f : Defects → Defects) : (s.updDefects f).hubs = s.hubs := rfl
@[simp] theorem State.updDefects_bring (f : Defects → Defects) : (s.updDefects f).bring = s.bring := rfl
@[simp] theorem State.updDefects_colMaps (f : Defects → Defects) : (s.updDefects f).colMaps = s.colMaps := rfl
@[simp] theorem State.updDefects_coxes (f : Defects → Defects) : (s.updDefects f).coxes = s.coxes := rfl
@[simp] theorem State.updDefects_regions (f : Defects → Defects) : (s.updDefects f).regions = s.regions := rfl
@[simp] theorem State.updDefects_cores (f : Defects → Defects) : (s.updDefects f).cores = s.cores := rfl
@[simp] theorem State.updDefects_lcidAt (f : Defects → Defects) : (s.updDefects f).lcidAt = s.lcidAt := rfl
@[simp] theorem State.updDefects_crews (f : Defects → Defects) : (s.updDefects f).crews = s.crews := rfl
@[simp] theorem State.updDefects_syncs (f : Defects → Defects) : (s.updDefects f).syncs = s.syncs := rfl
@[simp] theorem State.updDefects_trees (f : Defects → Defects) : (s.updDefects f).trees = s.trees := rfl
@[simp] theorem State.updDefects_admits (f : Defects → Defects) : (s.updDefects f).admits = s.admits := rfl
@[simp] theorem State.updDefects_net (f : Defects → Defects) : (s.updDefects f).net = s.net := rfl
@[simp] theorem State.updDefects_links (f : Defects → Defects) : (s.updDefects f).links = s.links := rfl
@[simp] theorem State.updDefects_offs (f : Defects → Defects) : (s.updDefects f).offs = s.offs := rfl
@[simp] theorem State.updDefects_arbs (f : Defects → Defects) : (s.updDefects f).arbs = s.arbs := rfl
@[simp] theorem State.updDefects_sram (f : Defects → Defects) : (s.updDefects f).sram = s.sram := rfl
@[simp] theorem State.updDefects_sramUe (f : Defects → Defects) : (s.updDefects f).sramUe = s.sramUe := rfl
@[simp] theorem State.updDefects_sramCe (f : Defects → Defects) : (s.updDefects f).sramCe = s.sramCe := rfl
@[simp] theorem State.updDefects_hbm (f : Defects → Defects) : (s.updDefects f).hbm = s.hbm := rfl
@[simp] theorem State.updDefects_hbmUe (f : Defects → Defects) : (s.updDefects f).hbmUe = s.hbmUe := rfl
@[simp] theorem State.updDefects_hbmCe (f : Defects → Defects) : (s.updDefects f).hbmCe = s.hbmCe := rfl
@[simp] theorem State.updDefects_slices (f : Defects → Defects) : (s.updDefects f).slices = s.slices := rfl
@[simp] theorem State.updDefects_stackTab (f : Defects → Defects) : (s.updDefects f).stackTab = s.stackTab := rfl
@[simp] theorem State.updDefects_tallies (f : Defects → Defects) : (s.updDefects f).tallies = s.tallies := rfl
@[simp] theorem State.updDefects_power (f : Defects → Defects) : (s.updDefects f).power = s.power := rfl
@[simp] theorem State.updDefects_cool (f : Defects → Defects) : (s.updDefects f).cool = s.cool := rfl
@[simp] theorem State.updDefects_fports (f : Defects → Defects) : (s.updDefects f).fports = s.fports := rfl
@[simp] theorem State.updDefects_sec (f : Defects → Defects) : (s.updDefects f).sec = s.sec := rfl
@[simp] theorem State.updDefects_bezels (f : Defects → Defects) : (s.updDefects f).bezels = s.bezels := rfl
@[simp] theorem State.updDefects_rings (f : Defects → Defects) : (s.updDefects f).rings = s.rings := rfl
@[simp] theorem State.updDefects_posted (f : Defects → Defects) : (s.updDefects f).posted = s.posted := rfl
@[simp] theorem State.updDefects_postNo (f : Defects → Defects) : (s.updDefects f).postNo = s.postNo := rfl
@[simp] theorem State.updDefects_out (f : Defects → Defects) : (s.updDefects f).out = s.out := rfl
@[simp] theorem State.updDefects_pending (f : Defects → Defects) : (s.updDefects f).pending = s.pending := rfl
@[simp] theorem State.updDefects_defects (f : Defects → Defects) : (s.updDefects f).defects = f s.defects := rfl

/-! ## State.updLay -/

@[simp] theorem State.updLay_now (p : Nat) (f : LayPort → LayPort) : (s.updLay p f).now = s.now := rfl
@[simp] theorem State.updLay_fv (p : Nat) (f : LayPort → LayPort) : (s.updLay p f).fv = s.fv := rfl
@[simp] theorem State.updLay_part (p : Nat) (f : LayPort → LayPort) : (s.updLay p f).part = s.part := rfl
@[simp] theorem State.updLay_supply (p : Nat) (f : LayPort → LayPort) : (s.updLay p f).supply = s.supply := rfl
@[simp] theorem State.updLay_stroke (p : Nat) (f : LayPort → LayPort) : (s.updLay p f).stroke = s.stroke := rfl
@[simp] theorem State.updLay_bring (p : Nat) (f : LayPort → LayPort) : (s.updLay p f).bring = s.bring := rfl
@[simp] theorem State.updLay_defects (p : Nat) (f : LayPort → LayPort) : (s.updLay p f).defects = s.defects := rfl
@[simp] theorem State.updLay_colMaps (p : Nat) (f : LayPort → LayPort) : (s.updLay p f).colMaps = s.colMaps := rfl
@[simp] theorem State.updLay_coxes (p : Nat) (f : LayPort → LayPort) : (s.updLay p f).coxes = s.coxes := rfl
@[simp] theorem State.updLay_regions (p : Nat) (f : LayPort → LayPort) : (s.updLay p f).regions = s.regions := rfl
@[simp] theorem State.updLay_cores (p : Nat) (f : LayPort → LayPort) : (s.updLay p f).cores = s.cores := rfl
@[simp] theorem State.updLay_lcidAt (p : Nat) (f : LayPort → LayPort) : (s.updLay p f).lcidAt = s.lcidAt := rfl
@[simp] theorem State.updLay_crews (p : Nat) (f : LayPort → LayPort) : (s.updLay p f).crews = s.crews := rfl
@[simp] theorem State.updLay_syncs (p : Nat) (f : LayPort → LayPort) : (s.updLay p f).syncs = s.syncs := rfl
@[simp] theorem State.updLay_trees (p : Nat) (f : LayPort → LayPort) : (s.updLay p f).trees = s.trees := rfl
@[simp] theorem State.updLay_admits (p : Nat) (f : LayPort → LayPort) : (s.updLay p f).admits = s.admits := rfl
@[simp] theorem State.updLay_net (p : Nat) (f : LayPort → LayPort) : (s.updLay p f).net = s.net := rfl
@[simp] theorem State.updLay_links (p : Nat) (f : LayPort → LayPort) : (s.updLay p f).links = s.links := rfl
@[simp] theorem State.updLay_offs (p : Nat) (f : LayPort → LayPort) : (s.updLay p f).offs = s.offs := rfl
@[simp] theorem State.updLay_arbs (p : Nat) (f : LayPort → LayPort) : (s.updLay p f).arbs = s.arbs := rfl
@[simp] theorem State.updLay_sram (p : Nat) (f : LayPort → LayPort) : (s.updLay p f).sram = s.sram := rfl
@[simp] theorem State.updLay_sramUe (p : Nat) (f : LayPort → LayPort) : (s.updLay p f).sramUe = s.sramUe := rfl
@[simp] theorem State.updLay_sramCe (p : Nat) (f : LayPort → LayPort) : (s.updLay p f).sramCe = s.sramCe := rfl
@[simp] theorem State.updLay_hbm (p : Nat) (f : LayPort → LayPort) : (s.updLay p f).hbm = s.hbm := rfl
@[simp] theorem State.updLay_hbmUe (p : Nat) (f : LayPort → LayPort) : (s.updLay p f).hbmUe = s.hbmUe := rfl
@[simp] theorem State.updLay_hbmCe (p : Nat) (f : LayPort → LayPort) : (s.updLay p f).hbmCe = s.hbmCe := rfl
@[simp] theorem State.updLay_slices (p : Nat) (f : LayPort → LayPort) : (s.updLay p f).slices = s.slices := rfl
@[simp] theorem State.updLay_stackTab (p : Nat) (f : LayPort → LayPort) : (s.updLay p f).stackTab = s.stackTab := rfl
@[simp] theorem State.updLay_tallies (p : Nat) (f : LayPort → LayPort) : (s.updLay p f).tallies = s.tallies := rfl
@[simp] theorem State.updLay_power (p : Nat) (f : LayPort → LayPort) : (s.updLay p f).power = s.power := rfl
@[simp] theorem State.updLay_cool (p : Nat) (f : LayPort → LayPort) : (s.updLay p f).cool = s.cool := rfl
@[simp] theorem State.updLay_fports (p : Nat) (f : LayPort → LayPort) : (s.updLay p f).fports = s.fports := rfl
@[simp] theorem State.updLay_sec (p : Nat) (f : LayPort → LayPort) : (s.updLay p f).sec = s.sec := rfl
@[simp] theorem State.updLay_bezels (p : Nat) (f : LayPort → LayPort) : (s.updLay p f).bezels = s.bezels := rfl
@[simp] theorem State.updLay_rings (p : Nat) (f : LayPort → LayPort) : (s.updLay p f).rings = s.rings := rfl
@[simp] theorem State.updLay_posted (p : Nat) (f : LayPort → LayPort) : (s.updLay p f).posted = s.posted := rfl
@[simp] theorem State.updLay_postNo (p : Nat) (f : LayPort → LayPort) : (s.updLay p f).postNo = s.postNo := rfl
@[simp] theorem State.updLay_out (p : Nat) (f : LayPort → LayPort) : (s.updLay p f).out = s.out := rfl
@[simp] theorem State.updLay_pending (p : Nat) (f : LayPort → LayPort) : (s.updLay p f).pending = s.pending := rfl

/-! ## State.updFab -/

@[simp] theorem State.updFab_now (p : Nat) (f : FabPort → FabPort) : (s.updFab p f).now = s.now := rfl
@[simp] theorem State.updFab_fv (p : Nat) (f : FabPort → FabPort) : (s.updFab p f).fv = s.fv := rfl
@[simp] theorem State.updFab_part (p : Nat) (f : FabPort → FabPort) : (s.updFab p f).part = s.part := rfl
@[simp] theorem State.updFab_supply (p : Nat) (f : FabPort → FabPort) : (s.updFab p f).supply = s.supply := rfl
@[simp] theorem State.updFab_stroke (p : Nat) (f : FabPort → FabPort) : (s.updFab p f).stroke = s.stroke := rfl
@[simp] theorem State.updFab_bring (p : Nat) (f : FabPort → FabPort) : (s.updFab p f).bring = s.bring := rfl
@[simp] theorem State.updFab_defects (p : Nat) (f : FabPort → FabPort) : (s.updFab p f).defects = s.defects := rfl
@[simp] theorem State.updFab_colMaps (p : Nat) (f : FabPort → FabPort) : (s.updFab p f).colMaps = s.colMaps := rfl
@[simp] theorem State.updFab_coxes (p : Nat) (f : FabPort → FabPort) : (s.updFab p f).coxes = s.coxes := rfl
@[simp] theorem State.updFab_regions (p : Nat) (f : FabPort → FabPort) : (s.updFab p f).regions = s.regions := rfl
@[simp] theorem State.updFab_cores (p : Nat) (f : FabPort → FabPort) : (s.updFab p f).cores = s.cores := rfl
@[simp] theorem State.updFab_lcidAt (p : Nat) (f : FabPort → FabPort) : (s.updFab p f).lcidAt = s.lcidAt := rfl
@[simp] theorem State.updFab_crews (p : Nat) (f : FabPort → FabPort) : (s.updFab p f).crews = s.crews := rfl
@[simp] theorem State.updFab_syncs (p : Nat) (f : FabPort → FabPort) : (s.updFab p f).syncs = s.syncs := rfl
@[simp] theorem State.updFab_trees (p : Nat) (f : FabPort → FabPort) : (s.updFab p f).trees = s.trees := rfl
@[simp] theorem State.updFab_admits (p : Nat) (f : FabPort → FabPort) : (s.updFab p f).admits = s.admits := rfl
@[simp] theorem State.updFab_net (p : Nat) (f : FabPort → FabPort) : (s.updFab p f).net = s.net := rfl
@[simp] theorem State.updFab_links (p : Nat) (f : FabPort → FabPort) : (s.updFab p f).links = s.links := rfl
@[simp] theorem State.updFab_offs (p : Nat) (f : FabPort → FabPort) : (s.updFab p f).offs = s.offs := rfl
@[simp] theorem State.updFab_arbs (p : Nat) (f : FabPort → FabPort) : (s.updFab p f).arbs = s.arbs := rfl
@[simp] theorem State.updFab_sram (p : Nat) (f : FabPort → FabPort) : (s.updFab p f).sram = s.sram := rfl
@[simp] theorem State.updFab_sramUe (p : Nat) (f : FabPort → FabPort) : (s.updFab p f).sramUe = s.sramUe := rfl
@[simp] theorem State.updFab_sramCe (p : Nat) (f : FabPort → FabPort) : (s.updFab p f).sramCe = s.sramCe := rfl
@[simp] theorem State.updFab_hbm (p : Nat) (f : FabPort → FabPort) : (s.updFab p f).hbm = s.hbm := rfl
@[simp] theorem State.updFab_hbmUe (p : Nat) (f : FabPort → FabPort) : (s.updFab p f).hbmUe = s.hbmUe := rfl
@[simp] theorem State.updFab_hbmCe (p : Nat) (f : FabPort → FabPort) : (s.updFab p f).hbmCe = s.hbmCe := rfl
@[simp] theorem State.updFab_slices (p : Nat) (f : FabPort → FabPort) : (s.updFab p f).slices = s.slices := rfl
@[simp] theorem State.updFab_stackTab (p : Nat) (f : FabPort → FabPort) : (s.updFab p f).stackTab = s.stackTab := rfl
@[simp] theorem State.updFab_tallies (p : Nat) (f : FabPort → FabPort) : (s.updFab p f).tallies = s.tallies := rfl
@[simp] theorem State.updFab_power (p : Nat) (f : FabPort → FabPort) : (s.updFab p f).power = s.power := rfl
@[simp] theorem State.updFab_cool (p : Nat) (f : FabPort → FabPort) : (s.updFab p f).cool = s.cool := rfl
@[simp] theorem State.updFab_fports (p : Nat) (f : FabPort → FabPort) : (s.updFab p f).fports = s.fports := rfl
@[simp] theorem State.updFab_sec (p : Nat) (f : FabPort → FabPort) : (s.updFab p f).sec = s.sec := rfl
@[simp] theorem State.updFab_bezels (p : Nat) (f : FabPort → FabPort) : (s.updFab p f).bezels = s.bezels := rfl
@[simp] theorem State.updFab_rings (p : Nat) (f : FabPort → FabPort) : (s.updFab p f).rings = s.rings := rfl
@[simp] theorem State.updFab_posted (p : Nat) (f : FabPort → FabPort) : (s.updFab p f).posted = s.posted := rfl
@[simp] theorem State.updFab_postNo (p : Nat) (f : FabPort → FabPort) : (s.updFab p f).postNo = s.postNo := rfl
@[simp] theorem State.updFab_out (p : Nat) (f : FabPort → FabPort) : (s.updFab p f).out = s.out := rfl
@[simp] theorem State.updFab_pending (p : Nat) (f : FabPort → FabPort) : (s.updFab p f).pending = s.pending := rfl

/-! ## State.updCmd -/

@[simp] theorem State.updCmd_now (p : Nat) (f : CmdPort → CmdPort) : (s.updCmd p f).now = s.now := rfl
@[simp] theorem State.updCmd_fv (p : Nat) (f : CmdPort → CmdPort) : (s.updCmd p f).fv = s.fv := rfl
@[simp] theorem State.updCmd_part (p : Nat) (f : CmdPort → CmdPort) : (s.updCmd p f).part = s.part := rfl
@[simp] theorem State.updCmd_supply (p : Nat) (f : CmdPort → CmdPort) : (s.updCmd p f).supply = s.supply := rfl
@[simp] theorem State.updCmd_stroke (p : Nat) (f : CmdPort → CmdPort) : (s.updCmd p f).stroke = s.stroke := rfl
@[simp] theorem State.updCmd_bring (p : Nat) (f : CmdPort → CmdPort) : (s.updCmd p f).bring = s.bring := rfl
@[simp] theorem State.updCmd_defects (p : Nat) (f : CmdPort → CmdPort) : (s.updCmd p f).defects = s.defects := rfl
@[simp] theorem State.updCmd_colMaps (p : Nat) (f : CmdPort → CmdPort) : (s.updCmd p f).colMaps = s.colMaps := rfl
@[simp] theorem State.updCmd_coxes (p : Nat) (f : CmdPort → CmdPort) : (s.updCmd p f).coxes = s.coxes := rfl
@[simp] theorem State.updCmd_regions (p : Nat) (f : CmdPort → CmdPort) : (s.updCmd p f).regions = s.regions := rfl
@[simp] theorem State.updCmd_cores (p : Nat) (f : CmdPort → CmdPort) : (s.updCmd p f).cores = s.cores := rfl
@[simp] theorem State.updCmd_lcidAt (p : Nat) (f : CmdPort → CmdPort) : (s.updCmd p f).lcidAt = s.lcidAt := rfl
@[simp] theorem State.updCmd_crews (p : Nat) (f : CmdPort → CmdPort) : (s.updCmd p f).crews = s.crews := rfl
@[simp] theorem State.updCmd_syncs (p : Nat) (f : CmdPort → CmdPort) : (s.updCmd p f).syncs = s.syncs := rfl
@[simp] theorem State.updCmd_trees (p : Nat) (f : CmdPort → CmdPort) : (s.updCmd p f).trees = s.trees := rfl
@[simp] theorem State.updCmd_admits (p : Nat) (f : CmdPort → CmdPort) : (s.updCmd p f).admits = s.admits := rfl
@[simp] theorem State.updCmd_net (p : Nat) (f : CmdPort → CmdPort) : (s.updCmd p f).net = s.net := rfl
@[simp] theorem State.updCmd_links (p : Nat) (f : CmdPort → CmdPort) : (s.updCmd p f).links = s.links := rfl
@[simp] theorem State.updCmd_offs (p : Nat) (f : CmdPort → CmdPort) : (s.updCmd p f).offs = s.offs := rfl
@[simp] theorem State.updCmd_arbs (p : Nat) (f : CmdPort → CmdPort) : (s.updCmd p f).arbs = s.arbs := rfl
@[simp] theorem State.updCmd_sram (p : Nat) (f : CmdPort → CmdPort) : (s.updCmd p f).sram = s.sram := rfl
@[simp] theorem State.updCmd_sramUe (p : Nat) (f : CmdPort → CmdPort) : (s.updCmd p f).sramUe = s.sramUe := rfl
@[simp] theorem State.updCmd_sramCe (p : Nat) (f : CmdPort → CmdPort) : (s.updCmd p f).sramCe = s.sramCe := rfl
@[simp] theorem State.updCmd_hbm (p : Nat) (f : CmdPort → CmdPort) : (s.updCmd p f).hbm = s.hbm := rfl
@[simp] theorem State.updCmd_hbmUe (p : Nat) (f : CmdPort → CmdPort) : (s.updCmd p f).hbmUe = s.hbmUe := rfl
@[simp] theorem State.updCmd_hbmCe (p : Nat) (f : CmdPort → CmdPort) : (s.updCmd p f).hbmCe = s.hbmCe := rfl
@[simp] theorem State.updCmd_slices (p : Nat) (f : CmdPort → CmdPort) : (s.updCmd p f).slices = s.slices := rfl
@[simp] theorem State.updCmd_stackTab (p : Nat) (f : CmdPort → CmdPort) : (s.updCmd p f).stackTab = s.stackTab := rfl
@[simp] theorem State.updCmd_tallies (p : Nat) (f : CmdPort → CmdPort) : (s.updCmd p f).tallies = s.tallies := rfl
@[simp] theorem State.updCmd_power (p : Nat) (f : CmdPort → CmdPort) : (s.updCmd p f).power = s.power := rfl
@[simp] theorem State.updCmd_cool (p : Nat) (f : CmdPort → CmdPort) : (s.updCmd p f).cool = s.cool := rfl
@[simp] theorem State.updCmd_fports (p : Nat) (f : CmdPort → CmdPort) : (s.updCmd p f).fports = s.fports := rfl
@[simp] theorem State.updCmd_sec (p : Nat) (f : CmdPort → CmdPort) : (s.updCmd p f).sec = s.sec := rfl
@[simp] theorem State.updCmd_bezels (p : Nat) (f : CmdPort → CmdPort) : (s.updCmd p f).bezels = s.bezels := rfl
@[simp] theorem State.updCmd_rings (p : Nat) (f : CmdPort → CmdPort) : (s.updCmd p f).rings = s.rings := rfl
@[simp] theorem State.updCmd_posted (p : Nat) (f : CmdPort → CmdPort) : (s.updCmd p f).posted = s.posted := rfl
@[simp] theorem State.updCmd_postNo (p : Nat) (f : CmdPort → CmdPort) : (s.updCmd p f).postNo = s.postNo := rfl
@[simp] theorem State.updCmd_out (p : Nat) (f : CmdPort → CmdPort) : (s.updCmd p f).out = s.out := rfl
@[simp] theorem State.updCmd_pending (p : Nat) (f : CmdPort → CmdPort) : (s.updCmd p f).pending = s.pending := rfl

/-! ## State.updSecPort -/

@[simp] theorem State.updSecPort_now (p : Nat) (f : SecPort → SecPort) : (s.updSecPort p f).now = s.now := rfl
@[simp] theorem State.updSecPort_fv (p : Nat) (f : SecPort → SecPort) : (s.updSecPort p f).fv = s.fv := rfl
@[simp] theorem State.updSecPort_part (p : Nat) (f : SecPort → SecPort) : (s.updSecPort p f).part = s.part := rfl
@[simp] theorem State.updSecPort_supply (p : Nat) (f : SecPort → SecPort) : (s.updSecPort p f).supply = s.supply := rfl
@[simp] theorem State.updSecPort_stroke (p : Nat) (f : SecPort → SecPort) : (s.updSecPort p f).stroke = s.stroke := rfl
@[simp] theorem State.updSecPort_bring (p : Nat) (f : SecPort → SecPort) : (s.updSecPort p f).bring = s.bring := rfl
@[simp] theorem State.updSecPort_defects (p : Nat) (f : SecPort → SecPort) : (s.updSecPort p f).defects = s.defects := rfl
@[simp] theorem State.updSecPort_colMaps (p : Nat) (f : SecPort → SecPort) : (s.updSecPort p f).colMaps = s.colMaps := rfl
@[simp] theorem State.updSecPort_coxes (p : Nat) (f : SecPort → SecPort) : (s.updSecPort p f).coxes = s.coxes := rfl
@[simp] theorem State.updSecPort_regions (p : Nat) (f : SecPort → SecPort) : (s.updSecPort p f).regions = s.regions := rfl
@[simp] theorem State.updSecPort_cores (p : Nat) (f : SecPort → SecPort) : (s.updSecPort p f).cores = s.cores := rfl
@[simp] theorem State.updSecPort_lcidAt (p : Nat) (f : SecPort → SecPort) : (s.updSecPort p f).lcidAt = s.lcidAt := rfl
@[simp] theorem State.updSecPort_crews (p : Nat) (f : SecPort → SecPort) : (s.updSecPort p f).crews = s.crews := rfl
@[simp] theorem State.updSecPort_syncs (p : Nat) (f : SecPort → SecPort) : (s.updSecPort p f).syncs = s.syncs := rfl
@[simp] theorem State.updSecPort_trees (p : Nat) (f : SecPort → SecPort) : (s.updSecPort p f).trees = s.trees := rfl
@[simp] theorem State.updSecPort_admits (p : Nat) (f : SecPort → SecPort) : (s.updSecPort p f).admits = s.admits := rfl
@[simp] theorem State.updSecPort_net (p : Nat) (f : SecPort → SecPort) : (s.updSecPort p f).net = s.net := rfl
@[simp] theorem State.updSecPort_links (p : Nat) (f : SecPort → SecPort) : (s.updSecPort p f).links = s.links := rfl
@[simp] theorem State.updSecPort_offs (p : Nat) (f : SecPort → SecPort) : (s.updSecPort p f).offs = s.offs := rfl
@[simp] theorem State.updSecPort_arbs (p : Nat) (f : SecPort → SecPort) : (s.updSecPort p f).arbs = s.arbs := rfl
@[simp] theorem State.updSecPort_sram (p : Nat) (f : SecPort → SecPort) : (s.updSecPort p f).sram = s.sram := rfl
@[simp] theorem State.updSecPort_sramUe (p : Nat) (f : SecPort → SecPort) : (s.updSecPort p f).sramUe = s.sramUe := rfl
@[simp] theorem State.updSecPort_sramCe (p : Nat) (f : SecPort → SecPort) : (s.updSecPort p f).sramCe = s.sramCe := rfl
@[simp] theorem State.updSecPort_hbm (p : Nat) (f : SecPort → SecPort) : (s.updSecPort p f).hbm = s.hbm := rfl
@[simp] theorem State.updSecPort_hbmUe (p : Nat) (f : SecPort → SecPort) : (s.updSecPort p f).hbmUe = s.hbmUe := rfl
@[simp] theorem State.updSecPort_hbmCe (p : Nat) (f : SecPort → SecPort) : (s.updSecPort p f).hbmCe = s.hbmCe := rfl
@[simp] theorem State.updSecPort_slices (p : Nat) (f : SecPort → SecPort) : (s.updSecPort p f).slices = s.slices := rfl
@[simp] theorem State.updSecPort_stackTab (p : Nat) (f : SecPort → SecPort) : (s.updSecPort p f).stackTab = s.stackTab := rfl
@[simp] theorem State.updSecPort_tallies (p : Nat) (f : SecPort → SecPort) : (s.updSecPort p f).tallies = s.tallies := rfl
@[simp] theorem State.updSecPort_power (p : Nat) (f : SecPort → SecPort) : (s.updSecPort p f).power = s.power := rfl
@[simp] theorem State.updSecPort_cool (p : Nat) (f : SecPort → SecPort) : (s.updSecPort p f).cool = s.cool := rfl
@[simp] theorem State.updSecPort_fports (p : Nat) (f : SecPort → SecPort) : (s.updSecPort p f).fports = s.fports := rfl
@[simp] theorem State.updSecPort_sec (p : Nat) (f : SecPort → SecPort) : (s.updSecPort p f).sec = s.sec := rfl
@[simp] theorem State.updSecPort_bezels (p : Nat) (f : SecPort → SecPort) : (s.updSecPort p f).bezels = s.bezels := rfl
@[simp] theorem State.updSecPort_rings (p : Nat) (f : SecPort → SecPort) : (s.updSecPort p f).rings = s.rings := rfl
@[simp] theorem State.updSecPort_posted (p : Nat) (f : SecPort → SecPort) : (s.updSecPort p f).posted = s.posted := rfl
@[simp] theorem State.updSecPort_postNo (p : Nat) (f : SecPort → SecPort) : (s.updSecPort p f).postNo = s.postNo := rfl
@[simp] theorem State.updSecPort_out (p : Nat) (f : SecPort → SecPort) : (s.updSecPort p f).out = s.out := rfl
@[simp] theorem State.updSecPort_pending (p : Nat) (f : SecPort → SecPort) : (s.updSecPort p f).pending = s.pending := rfl

/-! ## State.setNet -/

@[simp] theorem State.setNet_now (v : List Packet) : (s.setNet v).now = s.now := rfl
@[simp] theorem State.setNet_fv (v : List Packet) : (s.setNet v).fv = s.fv := rfl
@[simp] theorem State.setNet_part (v : List Packet) : (s.setNet v).part = s.part := rfl
@[simp] theorem State.setNet_supply (v : List Packet) : (s.setNet v).supply = s.supply := rfl
@[simp] theorem State.setNet_stroke (v : List Packet) : (s.setNet v).stroke = s.stroke := rfl
@[simp] theorem State.setNet_hubs (v : List Packet) : (s.setNet v).hubs = s.hubs := rfl
@[simp] theorem State.setNet_bring (v : List Packet) : (s.setNet v).bring = s.bring := rfl
@[simp] theorem State.setNet_defects (v : List Packet) : (s.setNet v).defects = s.defects := rfl
@[simp] theorem State.setNet_colMaps (v : List Packet) : (s.setNet v).colMaps = s.colMaps := rfl
@[simp] theorem State.setNet_coxes (v : List Packet) : (s.setNet v).coxes = s.coxes := rfl
@[simp] theorem State.setNet_regions (v : List Packet) : (s.setNet v).regions = s.regions := rfl
@[simp] theorem State.setNet_cores (v : List Packet) : (s.setNet v).cores = s.cores := rfl
@[simp] theorem State.setNet_lcidAt (v : List Packet) : (s.setNet v).lcidAt = s.lcidAt := rfl
@[simp] theorem State.setNet_crews (v : List Packet) : (s.setNet v).crews = s.crews := rfl
@[simp] theorem State.setNet_syncs (v : List Packet) : (s.setNet v).syncs = s.syncs := rfl
@[simp] theorem State.setNet_trees (v : List Packet) : (s.setNet v).trees = s.trees := rfl
@[simp] theorem State.setNet_admits (v : List Packet) : (s.setNet v).admits = s.admits := rfl
@[simp] theorem State.setNet_links (v : List Packet) : (s.setNet v).links = s.links := rfl
@[simp] theorem State.setNet_offs (v : List Packet) : (s.setNet v).offs = s.offs := rfl
@[simp] theorem State.setNet_arbs (v : List Packet) : (s.setNet v).arbs = s.arbs := rfl
@[simp] theorem State.setNet_sram (v : List Packet) : (s.setNet v).sram = s.sram := rfl
@[simp] theorem State.setNet_sramUe (v : List Packet) : (s.setNet v).sramUe = s.sramUe := rfl
@[simp] theorem State.setNet_sramCe (v : List Packet) : (s.setNet v).sramCe = s.sramCe := rfl
@[simp] theorem State.setNet_hbm (v : List Packet) : (s.setNet v).hbm = s.hbm := rfl
@[simp] theorem State.setNet_hbmUe (v : List Packet) : (s.setNet v).hbmUe = s.hbmUe := rfl
@[simp] theorem State.setNet_hbmCe (v : List Packet) : (s.setNet v).hbmCe = s.hbmCe := rfl
@[simp] theorem State.setNet_slices (v : List Packet) : (s.setNet v).slices = s.slices := rfl
@[simp] theorem State.setNet_stackTab (v : List Packet) : (s.setNet v).stackTab = s.stackTab := rfl
@[simp] theorem State.setNet_tallies (v : List Packet) : (s.setNet v).tallies = s.tallies := rfl
@[simp] theorem State.setNet_power (v : List Packet) : (s.setNet v).power = s.power := rfl
@[simp] theorem State.setNet_cool (v : List Packet) : (s.setNet v).cool = s.cool := rfl
@[simp] theorem State.setNet_fports (v : List Packet) : (s.setNet v).fports = s.fports := rfl
@[simp] theorem State.setNet_sec (v : List Packet) : (s.setNet v).sec = s.sec := rfl
@[simp] theorem State.setNet_bezels (v : List Packet) : (s.setNet v).bezels = s.bezels := rfl
@[simp] theorem State.setNet_rings (v : List Packet) : (s.setNet v).rings = s.rings := rfl
@[simp] theorem State.setNet_posted (v : List Packet) : (s.setNet v).posted = s.posted := rfl
@[simp] theorem State.setNet_postNo (v : List Packet) : (s.setNet v).postNo = s.postNo := rfl
@[simp] theorem State.setNet_out (v : List Packet) : (s.setNet v).out = s.out := rfl
@[simp] theorem State.setNet_pending (v : List Packet) : (s.setNet v).pending = s.pending := rfl
@[simp] theorem State.setNet_net (v : List Packet) : (s.setNet v).net = v := rfl

/-! ## State.setOffs -/

@[simp] theorem State.setOffs_now (v : Tab Nat) : (s.setOffs v).now = s.now := rfl
@[simp] theorem State.setOffs_fv (v : Tab Nat) : (s.setOffs v).fv = s.fv := rfl
@[simp] theorem State.setOffs_part (v : Tab Nat) : (s.setOffs v).part = s.part := rfl
@[simp] theorem State.setOffs_supply (v : Tab Nat) : (s.setOffs v).supply = s.supply := rfl
@[simp] theorem State.setOffs_stroke (v : Tab Nat) : (s.setOffs v).stroke = s.stroke := rfl
@[simp] theorem State.setOffs_hubs (v : Tab Nat) : (s.setOffs v).hubs = s.hubs := rfl
@[simp] theorem State.setOffs_bring (v : Tab Nat) : (s.setOffs v).bring = s.bring := rfl
@[simp] theorem State.setOffs_defects (v : Tab Nat) : (s.setOffs v).defects = s.defects := rfl
@[simp] theorem State.setOffs_colMaps (v : Tab Nat) : (s.setOffs v).colMaps = s.colMaps := rfl
@[simp] theorem State.setOffs_coxes (v : Tab Nat) : (s.setOffs v).coxes = s.coxes := rfl
@[simp] theorem State.setOffs_regions (v : Tab Nat) : (s.setOffs v).regions = s.regions := rfl
@[simp] theorem State.setOffs_cores (v : Tab Nat) : (s.setOffs v).cores = s.cores := rfl
@[simp] theorem State.setOffs_lcidAt (v : Tab Nat) : (s.setOffs v).lcidAt = s.lcidAt := rfl
@[simp] theorem State.setOffs_crews (v : Tab Nat) : (s.setOffs v).crews = s.crews := rfl
@[simp] theorem State.setOffs_syncs (v : Tab Nat) : (s.setOffs v).syncs = s.syncs := rfl
@[simp] theorem State.setOffs_trees (v : Tab Nat) : (s.setOffs v).trees = s.trees := rfl
@[simp] theorem State.setOffs_admits (v : Tab Nat) : (s.setOffs v).admits = s.admits := rfl
@[simp] theorem State.setOffs_net (v : Tab Nat) : (s.setOffs v).net = s.net := rfl
@[simp] theorem State.setOffs_links (v : Tab Nat) : (s.setOffs v).links = s.links := rfl
@[simp] theorem State.setOffs_arbs (v : Tab Nat) : (s.setOffs v).arbs = s.arbs := rfl
@[simp] theorem State.setOffs_sram (v : Tab Nat) : (s.setOffs v).sram = s.sram := rfl
@[simp] theorem State.setOffs_sramUe (v : Tab Nat) : (s.setOffs v).sramUe = s.sramUe := rfl
@[simp] theorem State.setOffs_sramCe (v : Tab Nat) : (s.setOffs v).sramCe = s.sramCe := rfl
@[simp] theorem State.setOffs_hbm (v : Tab Nat) : (s.setOffs v).hbm = s.hbm := rfl
@[simp] theorem State.setOffs_hbmUe (v : Tab Nat) : (s.setOffs v).hbmUe = s.hbmUe := rfl
@[simp] theorem State.setOffs_hbmCe (v : Tab Nat) : (s.setOffs v).hbmCe = s.hbmCe := rfl
@[simp] theorem State.setOffs_slices (v : Tab Nat) : (s.setOffs v).slices = s.slices := rfl
@[simp] theorem State.setOffs_stackTab (v : Tab Nat) : (s.setOffs v).stackTab = s.stackTab := rfl
@[simp] theorem State.setOffs_tallies (v : Tab Nat) : (s.setOffs v).tallies = s.tallies := rfl
@[simp] theorem State.setOffs_power (v : Tab Nat) : (s.setOffs v).power = s.power := rfl
@[simp] theorem State.setOffs_cool (v : Tab Nat) : (s.setOffs v).cool = s.cool := rfl
@[simp] theorem State.setOffs_fports (v : Tab Nat) : (s.setOffs v).fports = s.fports := rfl
@[simp] theorem State.setOffs_sec (v : Tab Nat) : (s.setOffs v).sec = s.sec := rfl
@[simp] theorem State.setOffs_bezels (v : Tab Nat) : (s.setOffs v).bezels = s.bezels := rfl
@[simp] theorem State.setOffs_rings (v : Tab Nat) : (s.setOffs v).rings = s.rings := rfl
@[simp] theorem State.setOffs_posted (v : Tab Nat) : (s.setOffs v).posted = s.posted := rfl
@[simp] theorem State.setOffs_postNo (v : Tab Nat) : (s.setOffs v).postNo = s.postNo := rfl
@[simp] theorem State.setOffs_out (v : Tab Nat) : (s.setOffs v).out = s.out := rfl
@[simp] theorem State.setOffs_pending (v : Tab Nat) : (s.setOffs v).pending = s.pending := rfl
@[simp] theorem State.setOffs_offs (v : Tab Nat) : (s.setOffs v).offs = v := rfl

/-! ## State.setArbs -/

@[simp] theorem State.setArbs_now (v : Tab Arb) : (s.setArbs v).now = s.now := rfl
@[simp] theorem State.setArbs_fv (v : Tab Arb) : (s.setArbs v).fv = s.fv := rfl
@[simp] theorem State.setArbs_part (v : Tab Arb) : (s.setArbs v).part = s.part := rfl
@[simp] theorem State.setArbs_supply (v : Tab Arb) : (s.setArbs v).supply = s.supply := rfl
@[simp] theorem State.setArbs_stroke (v : Tab Arb) : (s.setArbs v).stroke = s.stroke := rfl
@[simp] theorem State.setArbs_hubs (v : Tab Arb) : (s.setArbs v).hubs = s.hubs := rfl
@[simp] theorem State.setArbs_bring (v : Tab Arb) : (s.setArbs v).bring = s.bring := rfl
@[simp] theorem State.setArbs_defects (v : Tab Arb) : (s.setArbs v).defects = s.defects := rfl
@[simp] theorem State.setArbs_colMaps (v : Tab Arb) : (s.setArbs v).colMaps = s.colMaps := rfl
@[simp] theorem State.setArbs_coxes (v : Tab Arb) : (s.setArbs v).coxes = s.coxes := rfl
@[simp] theorem State.setArbs_regions (v : Tab Arb) : (s.setArbs v).regions = s.regions := rfl
@[simp] theorem State.setArbs_cores (v : Tab Arb) : (s.setArbs v).cores = s.cores := rfl
@[simp] theorem State.setArbs_lcidAt (v : Tab Arb) : (s.setArbs v).lcidAt = s.lcidAt := rfl
@[simp] theorem State.setArbs_crews (v : Tab Arb) : (s.setArbs v).crews = s.crews := rfl
@[simp] theorem State.setArbs_syncs (v : Tab Arb) : (s.setArbs v).syncs = s.syncs := rfl
@[simp] theorem State.setArbs_trees (v : Tab Arb) : (s.setArbs v).trees = s.trees := rfl
@[simp] theorem State.setArbs_admits (v : Tab Arb) : (s.setArbs v).admits = s.admits := rfl
@[simp] theorem State.setArbs_net (v : Tab Arb) : (s.setArbs v).net = s.net := rfl
@[simp] theorem State.setArbs_links (v : Tab Arb) : (s.setArbs v).links = s.links := rfl
@[simp] theorem State.setArbs_offs (v : Tab Arb) : (s.setArbs v).offs = s.offs := rfl
@[simp] theorem State.setArbs_sram (v : Tab Arb) : (s.setArbs v).sram = s.sram := rfl
@[simp] theorem State.setArbs_sramUe (v : Tab Arb) : (s.setArbs v).sramUe = s.sramUe := rfl
@[simp] theorem State.setArbs_sramCe (v : Tab Arb) : (s.setArbs v).sramCe = s.sramCe := rfl
@[simp] theorem State.setArbs_hbm (v : Tab Arb) : (s.setArbs v).hbm = s.hbm := rfl
@[simp] theorem State.setArbs_hbmUe (v : Tab Arb) : (s.setArbs v).hbmUe = s.hbmUe := rfl
@[simp] theorem State.setArbs_hbmCe (v : Tab Arb) : (s.setArbs v).hbmCe = s.hbmCe := rfl
@[simp] theorem State.setArbs_slices (v : Tab Arb) : (s.setArbs v).slices = s.slices := rfl
@[simp] theorem State.setArbs_stackTab (v : Tab Arb) : (s.setArbs v).stackTab = s.stackTab := rfl
@[simp] theorem State.setArbs_tallies (v : Tab Arb) : (s.setArbs v).tallies = s.tallies := rfl
@[simp] theorem State.setArbs_power (v : Tab Arb) : (s.setArbs v).power = s.power := rfl
@[simp] theorem State.setArbs_cool (v : Tab Arb) : (s.setArbs v).cool = s.cool := rfl
@[simp] theorem State.setArbs_fports (v : Tab Arb) : (s.setArbs v).fports = s.fports := rfl
@[simp] theorem State.setArbs_sec (v : Tab Arb) : (s.setArbs v).sec = s.sec := rfl
@[simp] theorem State.setArbs_bezels (v : Tab Arb) : (s.setArbs v).bezels = s.bezels := rfl
@[simp] theorem State.setArbs_rings (v : Tab Arb) : (s.setArbs v).rings = s.rings := rfl
@[simp] theorem State.setArbs_posted (v : Tab Arb) : (s.setArbs v).posted = s.posted := rfl
@[simp] theorem State.setArbs_postNo (v : Tab Arb) : (s.setArbs v).postNo = s.postNo := rfl
@[simp] theorem State.setArbs_out (v : Tab Arb) : (s.setArbs v).out = s.out := rfl
@[simp] theorem State.setArbs_pending (v : Tab Arb) : (s.setArbs v).pending = s.pending := rfl
@[simp] theorem State.setArbs_arbs (v : Tab Arb) : (s.setArbs v).arbs = v := rfl

/-! ## State.setRings -/

@[simp] theorem State.setRings_now (v : List RingReport) : (s.setRings v).now = s.now := rfl
@[simp] theorem State.setRings_fv (v : List RingReport) : (s.setRings v).fv = s.fv := rfl
@[simp] theorem State.setRings_part (v : List RingReport) : (s.setRings v).part = s.part := rfl
@[simp] theorem State.setRings_supply (v : List RingReport) : (s.setRings v).supply = s.supply := rfl
@[simp] theorem State.setRings_stroke (v : List RingReport) : (s.setRings v).stroke = s.stroke := rfl
@[simp] theorem State.setRings_hubs (v : List RingReport) : (s.setRings v).hubs = s.hubs := rfl
@[simp] theorem State.setRings_bring (v : List RingReport) : (s.setRings v).bring = s.bring := rfl
@[simp] theorem State.setRings_defects (v : List RingReport) : (s.setRings v).defects = s.defects := rfl
@[simp] theorem State.setRings_colMaps (v : List RingReport) : (s.setRings v).colMaps = s.colMaps := rfl
@[simp] theorem State.setRings_coxes (v : List RingReport) : (s.setRings v).coxes = s.coxes := rfl
@[simp] theorem State.setRings_regions (v : List RingReport) : (s.setRings v).regions = s.regions := rfl
@[simp] theorem State.setRings_cores (v : List RingReport) : (s.setRings v).cores = s.cores := rfl
@[simp] theorem State.setRings_lcidAt (v : List RingReport) : (s.setRings v).lcidAt = s.lcidAt := rfl
@[simp] theorem State.setRings_crews (v : List RingReport) : (s.setRings v).crews = s.crews := rfl
@[simp] theorem State.setRings_syncs (v : List RingReport) : (s.setRings v).syncs = s.syncs := rfl
@[simp] theorem State.setRings_trees (v : List RingReport) : (s.setRings v).trees = s.trees := rfl
@[simp] theorem State.setRings_admits (v : List RingReport) : (s.setRings v).admits = s.admits := rfl
@[simp] theorem State.setRings_net (v : List RingReport) : (s.setRings v).net = s.net := rfl
@[simp] theorem State.setRings_links (v : List RingReport) : (s.setRings v).links = s.links := rfl
@[simp] theorem State.setRings_offs (v : List RingReport) : (s.setRings v).offs = s.offs := rfl
@[simp] theorem State.setRings_arbs (v : List RingReport) : (s.setRings v).arbs = s.arbs := rfl
@[simp] theorem State.setRings_sram (v : List RingReport) : (s.setRings v).sram = s.sram := rfl
@[simp] theorem State.setRings_sramUe (v : List RingReport) : (s.setRings v).sramUe = s.sramUe := rfl
@[simp] theorem State.setRings_sramCe (v : List RingReport) : (s.setRings v).sramCe = s.sramCe := rfl
@[simp] theorem State.setRings_hbm (v : List RingReport) : (s.setRings v).hbm = s.hbm := rfl
@[simp] theorem State.setRings_hbmUe (v : List RingReport) : (s.setRings v).hbmUe = s.hbmUe := rfl
@[simp] theorem State.setRings_hbmCe (v : List RingReport) : (s.setRings v).hbmCe = s.hbmCe := rfl
@[simp] theorem State.setRings_slices (v : List RingReport) : (s.setRings v).slices = s.slices := rfl
@[simp] theorem State.setRings_stackTab (v : List RingReport) : (s.setRings v).stackTab = s.stackTab := rfl
@[simp] theorem State.setRings_tallies (v : List RingReport) : (s.setRings v).tallies = s.tallies := rfl
@[simp] theorem State.setRings_power (v : List RingReport) : (s.setRings v).power = s.power := rfl
@[simp] theorem State.setRings_cool (v : List RingReport) : (s.setRings v).cool = s.cool := rfl
@[simp] theorem State.setRings_fports (v : List RingReport) : (s.setRings v).fports = s.fports := rfl
@[simp] theorem State.setRings_sec (v : List RingReport) : (s.setRings v).sec = s.sec := rfl
@[simp] theorem State.setRings_bezels (v : List RingReport) : (s.setRings v).bezels = s.bezels := rfl
@[simp] theorem State.setRings_posted (v : List RingReport) : (s.setRings v).posted = s.posted := rfl
@[simp] theorem State.setRings_postNo (v : List RingReport) : (s.setRings v).postNo = s.postNo := rfl
@[simp] theorem State.setRings_out (v : List RingReport) : (s.setRings v).out = s.out := rfl
@[simp] theorem State.setRings_pending (v : List RingReport) : (s.setRings v).pending = s.pending := rfl
@[simp] theorem State.setRings_rings (v : List RingReport) : (s.setRings v).rings = v := rfl

/-! ## State.setPosted -/

@[simp] theorem State.setPosted_now (v : PostResult) : (s.setPosted v).now = s.now := rfl
@[simp] theorem State.setPosted_fv (v : PostResult) : (s.setPosted v).fv = s.fv := rfl
@[simp] theorem State.setPosted_part (v : PostResult) : (s.setPosted v).part = s.part := rfl
@[simp] theorem State.setPosted_supply (v : PostResult) : (s.setPosted v).supply = s.supply := rfl
@[simp] theorem State.setPosted_stroke (v : PostResult) : (s.setPosted v).stroke = s.stroke := rfl
@[simp] theorem State.setPosted_hubs (v : PostResult) : (s.setPosted v).hubs = s.hubs := rfl
@[simp] theorem State.setPosted_bring (v : PostResult) : (s.setPosted v).bring = s.bring := rfl
@[simp] theorem State.setPosted_defects (v : PostResult) : (s.setPosted v).defects = s.defects := rfl
@[simp] theorem State.setPosted_colMaps (v : PostResult) : (s.setPosted v).colMaps = s.colMaps := rfl
@[simp] theorem State.setPosted_coxes (v : PostResult) : (s.setPosted v).coxes = s.coxes := rfl
@[simp] theorem State.setPosted_regions (v : PostResult) : (s.setPosted v).regions = s.regions := rfl
@[simp] theorem State.setPosted_cores (v : PostResult) : (s.setPosted v).cores = s.cores := rfl
@[simp] theorem State.setPosted_lcidAt (v : PostResult) : (s.setPosted v).lcidAt = s.lcidAt := rfl
@[simp] theorem State.setPosted_crews (v : PostResult) : (s.setPosted v).crews = s.crews := rfl
@[simp] theorem State.setPosted_syncs (v : PostResult) : (s.setPosted v).syncs = s.syncs := rfl
@[simp] theorem State.setPosted_trees (v : PostResult) : (s.setPosted v).trees = s.trees := rfl
@[simp] theorem State.setPosted_admits (v : PostResult) : (s.setPosted v).admits = s.admits := rfl
@[simp] theorem State.setPosted_net (v : PostResult) : (s.setPosted v).net = s.net := rfl
@[simp] theorem State.setPosted_links (v : PostResult) : (s.setPosted v).links = s.links := rfl
@[simp] theorem State.setPosted_offs (v : PostResult) : (s.setPosted v).offs = s.offs := rfl
@[simp] theorem State.setPosted_arbs (v : PostResult) : (s.setPosted v).arbs = s.arbs := rfl
@[simp] theorem State.setPosted_sram (v : PostResult) : (s.setPosted v).sram = s.sram := rfl
@[simp] theorem State.setPosted_sramUe (v : PostResult) : (s.setPosted v).sramUe = s.sramUe := rfl
@[simp] theorem State.setPosted_sramCe (v : PostResult) : (s.setPosted v).sramCe = s.sramCe := rfl
@[simp] theorem State.setPosted_hbm (v : PostResult) : (s.setPosted v).hbm = s.hbm := rfl
@[simp] theorem State.setPosted_hbmUe (v : PostResult) : (s.setPosted v).hbmUe = s.hbmUe := rfl
@[simp] theorem State.setPosted_hbmCe (v : PostResult) : (s.setPosted v).hbmCe = s.hbmCe := rfl
@[simp] theorem State.setPosted_slices (v : PostResult) : (s.setPosted v).slices = s.slices := rfl
@[simp] theorem State.setPosted_stackTab (v : PostResult) : (s.setPosted v).stackTab = s.stackTab := rfl
@[simp] theorem State.setPosted_tallies (v : PostResult) : (s.setPosted v).tallies = s.tallies := rfl
@[simp] theorem State.setPosted_power (v : PostResult) : (s.setPosted v).power = s.power := rfl
@[simp] theorem State.setPosted_cool (v : PostResult) : (s.setPosted v).cool = s.cool := rfl
@[simp] theorem State.setPosted_fports (v : PostResult) : (s.setPosted v).fports = s.fports := rfl
@[simp] theorem State.setPosted_sec (v : PostResult) : (s.setPosted v).sec = s.sec := rfl
@[simp] theorem State.setPosted_bezels (v : PostResult) : (s.setPosted v).bezels = s.bezels := rfl
@[simp] theorem State.setPosted_rings (v : PostResult) : (s.setPosted v).rings = s.rings := rfl
@[simp] theorem State.setPosted_postNo (v : PostResult) : (s.setPosted v).postNo = s.postNo := rfl
@[simp] theorem State.setPosted_out (v : PostResult) : (s.setPosted v).out = s.out := rfl
@[simp] theorem State.setPosted_pending (v : PostResult) : (s.setPosted v).pending = s.pending := rfl
@[simp] theorem State.setPosted_posted (v : PostResult) : (s.setPosted v).posted = v := rfl

/-! ## State.setPostNo -/

@[simp] theorem State.setPostNo_now (v : Nat) : (s.setPostNo v).now = s.now := rfl
@[simp] theorem State.setPostNo_fv (v : Nat) : (s.setPostNo v).fv = s.fv := rfl
@[simp] theorem State.setPostNo_part (v : Nat) : (s.setPostNo v).part = s.part := rfl
@[simp] theorem State.setPostNo_supply (v : Nat) : (s.setPostNo v).supply = s.supply := rfl
@[simp] theorem State.setPostNo_stroke (v : Nat) : (s.setPostNo v).stroke = s.stroke := rfl
@[simp] theorem State.setPostNo_hubs (v : Nat) : (s.setPostNo v).hubs = s.hubs := rfl
@[simp] theorem State.setPostNo_bring (v : Nat) : (s.setPostNo v).bring = s.bring := rfl
@[simp] theorem State.setPostNo_defects (v : Nat) : (s.setPostNo v).defects = s.defects := rfl
@[simp] theorem State.setPostNo_colMaps (v : Nat) : (s.setPostNo v).colMaps = s.colMaps := rfl
@[simp] theorem State.setPostNo_coxes (v : Nat) : (s.setPostNo v).coxes = s.coxes := rfl
@[simp] theorem State.setPostNo_regions (v : Nat) : (s.setPostNo v).regions = s.regions := rfl
@[simp] theorem State.setPostNo_cores (v : Nat) : (s.setPostNo v).cores = s.cores := rfl
@[simp] theorem State.setPostNo_lcidAt (v : Nat) : (s.setPostNo v).lcidAt = s.lcidAt := rfl
@[simp] theorem State.setPostNo_crews (v : Nat) : (s.setPostNo v).crews = s.crews := rfl
@[simp] theorem State.setPostNo_syncs (v : Nat) : (s.setPostNo v).syncs = s.syncs := rfl
@[simp] theorem State.setPostNo_trees (v : Nat) : (s.setPostNo v).trees = s.trees := rfl
@[simp] theorem State.setPostNo_admits (v : Nat) : (s.setPostNo v).admits = s.admits := rfl
@[simp] theorem State.setPostNo_net (v : Nat) : (s.setPostNo v).net = s.net := rfl
@[simp] theorem State.setPostNo_links (v : Nat) : (s.setPostNo v).links = s.links := rfl
@[simp] theorem State.setPostNo_offs (v : Nat) : (s.setPostNo v).offs = s.offs := rfl
@[simp] theorem State.setPostNo_arbs (v : Nat) : (s.setPostNo v).arbs = s.arbs := rfl
@[simp] theorem State.setPostNo_sram (v : Nat) : (s.setPostNo v).sram = s.sram := rfl
@[simp] theorem State.setPostNo_sramUe (v : Nat) : (s.setPostNo v).sramUe = s.sramUe := rfl
@[simp] theorem State.setPostNo_sramCe (v : Nat) : (s.setPostNo v).sramCe = s.sramCe := rfl
@[simp] theorem State.setPostNo_hbm (v : Nat) : (s.setPostNo v).hbm = s.hbm := rfl
@[simp] theorem State.setPostNo_hbmUe (v : Nat) : (s.setPostNo v).hbmUe = s.hbmUe := rfl
@[simp] theorem State.setPostNo_hbmCe (v : Nat) : (s.setPostNo v).hbmCe = s.hbmCe := rfl
@[simp] theorem State.setPostNo_slices (v : Nat) : (s.setPostNo v).slices = s.slices := rfl
@[simp] theorem State.setPostNo_stackTab (v : Nat) : (s.setPostNo v).stackTab = s.stackTab := rfl
@[simp] theorem State.setPostNo_tallies (v : Nat) : (s.setPostNo v).tallies = s.tallies := rfl
@[simp] theorem State.setPostNo_power (v : Nat) : (s.setPostNo v).power = s.power := rfl
@[simp] theorem State.setPostNo_cool (v : Nat) : (s.setPostNo v).cool = s.cool := rfl
@[simp] theorem State.setPostNo_fports (v : Nat) : (s.setPostNo v).fports = s.fports := rfl
@[simp] theorem State.setPostNo_sec (v : Nat) : (s.setPostNo v).sec = s.sec := rfl
@[simp] theorem State.setPostNo_bezels (v : Nat) : (s.setPostNo v).bezels = s.bezels := rfl
@[simp] theorem State.setPostNo_rings (v : Nat) : (s.setPostNo v).rings = s.rings := rfl
@[simp] theorem State.setPostNo_posted (v : Nat) : (s.setPostNo v).posted = s.posted := rfl
@[simp] theorem State.setPostNo_out (v : Nat) : (s.setPostNo v).out = s.out := rfl
@[simp] theorem State.setPostNo_pending (v : Nat) : (s.setPostNo v).pending = s.pending := rfl
@[simp] theorem State.setPostNo_postNo (v : Nat) : (s.setPostNo v).postNo = v := rfl

/-! ## State.setTallies -/

@[simp] theorem State.setTallies_now (v : Tab (List (Nat × Nat))) : (s.setTallies v).now = s.now := rfl
@[simp] theorem State.setTallies_fv (v : Tab (List (Nat × Nat))) : (s.setTallies v).fv = s.fv := rfl
@[simp] theorem State.setTallies_part (v : Tab (List (Nat × Nat))) : (s.setTallies v).part = s.part := rfl
@[simp] theorem State.setTallies_supply (v : Tab (List (Nat × Nat))) : (s.setTallies v).supply = s.supply := rfl
@[simp] theorem State.setTallies_stroke (v : Tab (List (Nat × Nat))) : (s.setTallies v).stroke = s.stroke := rfl
@[simp] theorem State.setTallies_hubs (v : Tab (List (Nat × Nat))) : (s.setTallies v).hubs = s.hubs := rfl
@[simp] theorem State.setTallies_bring (v : Tab (List (Nat × Nat))) : (s.setTallies v).bring = s.bring := rfl
@[simp] theorem State.setTallies_defects (v : Tab (List (Nat × Nat))) : (s.setTallies v).defects = s.defects := rfl
@[simp] theorem State.setTallies_colMaps (v : Tab (List (Nat × Nat))) : (s.setTallies v).colMaps = s.colMaps := rfl
@[simp] theorem State.setTallies_coxes (v : Tab (List (Nat × Nat))) : (s.setTallies v).coxes = s.coxes := rfl
@[simp] theorem State.setTallies_regions (v : Tab (List (Nat × Nat))) : (s.setTallies v).regions = s.regions := rfl
@[simp] theorem State.setTallies_cores (v : Tab (List (Nat × Nat))) : (s.setTallies v).cores = s.cores := rfl
@[simp] theorem State.setTallies_lcidAt (v : Tab (List (Nat × Nat))) : (s.setTallies v).lcidAt = s.lcidAt := rfl
@[simp] theorem State.setTallies_crews (v : Tab (List (Nat × Nat))) : (s.setTallies v).crews = s.crews := rfl
@[simp] theorem State.setTallies_syncs (v : Tab (List (Nat × Nat))) : (s.setTallies v).syncs = s.syncs := rfl
@[simp] theorem State.setTallies_trees (v : Tab (List (Nat × Nat))) : (s.setTallies v).trees = s.trees := rfl
@[simp] theorem State.setTallies_admits (v : Tab (List (Nat × Nat))) : (s.setTallies v).admits = s.admits := rfl
@[simp] theorem State.setTallies_net (v : Tab (List (Nat × Nat))) : (s.setTallies v).net = s.net := rfl
@[simp] theorem State.setTallies_links (v : Tab (List (Nat × Nat))) : (s.setTallies v).links = s.links := rfl
@[simp] theorem State.setTallies_offs (v : Tab (List (Nat × Nat))) : (s.setTallies v).offs = s.offs := rfl
@[simp] theorem State.setTallies_arbs (v : Tab (List (Nat × Nat))) : (s.setTallies v).arbs = s.arbs := rfl
@[simp] theorem State.setTallies_sram (v : Tab (List (Nat × Nat))) : (s.setTallies v).sram = s.sram := rfl
@[simp] theorem State.setTallies_sramUe (v : Tab (List (Nat × Nat))) : (s.setTallies v).sramUe = s.sramUe := rfl
@[simp] theorem State.setTallies_sramCe (v : Tab (List (Nat × Nat))) : (s.setTallies v).sramCe = s.sramCe := rfl
@[simp] theorem State.setTallies_hbm (v : Tab (List (Nat × Nat))) : (s.setTallies v).hbm = s.hbm := rfl
@[simp] theorem State.setTallies_hbmUe (v : Tab (List (Nat × Nat))) : (s.setTallies v).hbmUe = s.hbmUe := rfl
@[simp] theorem State.setTallies_hbmCe (v : Tab (List (Nat × Nat))) : (s.setTallies v).hbmCe = s.hbmCe := rfl
@[simp] theorem State.setTallies_slices (v : Tab (List (Nat × Nat))) : (s.setTallies v).slices = s.slices := rfl
@[simp] theorem State.setTallies_stackTab (v : Tab (List (Nat × Nat))) : (s.setTallies v).stackTab = s.stackTab := rfl
@[simp] theorem State.setTallies_power (v : Tab (List (Nat × Nat))) : (s.setTallies v).power = s.power := rfl
@[simp] theorem State.setTallies_cool (v : Tab (List (Nat × Nat))) : (s.setTallies v).cool = s.cool := rfl
@[simp] theorem State.setTallies_fports (v : Tab (List (Nat × Nat))) : (s.setTallies v).fports = s.fports := rfl
@[simp] theorem State.setTallies_sec (v : Tab (List (Nat × Nat))) : (s.setTallies v).sec = s.sec := rfl
@[simp] theorem State.setTallies_bezels (v : Tab (List (Nat × Nat))) : (s.setTallies v).bezels = s.bezels := rfl
@[simp] theorem State.setTallies_rings (v : Tab (List (Nat × Nat))) : (s.setTallies v).rings = s.rings := rfl
@[simp] theorem State.setTallies_posted (v : Tab (List (Nat × Nat))) : (s.setTallies v).posted = s.posted := rfl
@[simp] theorem State.setTallies_postNo (v : Tab (List (Nat × Nat))) : (s.setTallies v).postNo = s.postNo := rfl
@[simp] theorem State.setTallies_out (v : Tab (List (Nat × Nat))) : (s.setTallies v).out = s.out := rfl
@[simp] theorem State.setTallies_pending (v : Tab (List (Nat × Nat))) : (s.setTallies v).pending = s.pending := rfl
@[simp] theorem State.setTallies_tallies (v : Tab (List (Nat × Nat))) : (s.setTallies v).tallies = v := rfl

/-! ## State.setSram -/

@[simp] theorem State.setSram_now (v : List Host.Cell) : (s.setSram v).now = s.now := rfl
@[simp] theorem State.setSram_fv (v : List Host.Cell) : (s.setSram v).fv = s.fv := rfl
@[simp] theorem State.setSram_part (v : List Host.Cell) : (s.setSram v).part = s.part := rfl
@[simp] theorem State.setSram_supply (v : List Host.Cell) : (s.setSram v).supply = s.supply := rfl
@[simp] theorem State.setSram_stroke (v : List Host.Cell) : (s.setSram v).stroke = s.stroke := rfl
@[simp] theorem State.setSram_hubs (v : List Host.Cell) : (s.setSram v).hubs = s.hubs := rfl
@[simp] theorem State.setSram_bring (v : List Host.Cell) : (s.setSram v).bring = s.bring := rfl
@[simp] theorem State.setSram_defects (v : List Host.Cell) : (s.setSram v).defects = s.defects := rfl
@[simp] theorem State.setSram_colMaps (v : List Host.Cell) : (s.setSram v).colMaps = s.colMaps := rfl
@[simp] theorem State.setSram_coxes (v : List Host.Cell) : (s.setSram v).coxes = s.coxes := rfl
@[simp] theorem State.setSram_regions (v : List Host.Cell) : (s.setSram v).regions = s.regions := rfl
@[simp] theorem State.setSram_cores (v : List Host.Cell) : (s.setSram v).cores = s.cores := rfl
@[simp] theorem State.setSram_lcidAt (v : List Host.Cell) : (s.setSram v).lcidAt = s.lcidAt := rfl
@[simp] theorem State.setSram_crews (v : List Host.Cell) : (s.setSram v).crews = s.crews := rfl
@[simp] theorem State.setSram_syncs (v : List Host.Cell) : (s.setSram v).syncs = s.syncs := rfl
@[simp] theorem State.setSram_trees (v : List Host.Cell) : (s.setSram v).trees = s.trees := rfl
@[simp] theorem State.setSram_admits (v : List Host.Cell) : (s.setSram v).admits = s.admits := rfl
@[simp] theorem State.setSram_net (v : List Host.Cell) : (s.setSram v).net = s.net := rfl
@[simp] theorem State.setSram_links (v : List Host.Cell) : (s.setSram v).links = s.links := rfl
@[simp] theorem State.setSram_offs (v : List Host.Cell) : (s.setSram v).offs = s.offs := rfl
@[simp] theorem State.setSram_arbs (v : List Host.Cell) : (s.setSram v).arbs = s.arbs := rfl
@[simp] theorem State.setSram_sramUe (v : List Host.Cell) : (s.setSram v).sramUe = s.sramUe := rfl
@[simp] theorem State.setSram_sramCe (v : List Host.Cell) : (s.setSram v).sramCe = s.sramCe := rfl
@[simp] theorem State.setSram_hbm (v : List Host.Cell) : (s.setSram v).hbm = s.hbm := rfl
@[simp] theorem State.setSram_hbmUe (v : List Host.Cell) : (s.setSram v).hbmUe = s.hbmUe := rfl
@[simp] theorem State.setSram_hbmCe (v : List Host.Cell) : (s.setSram v).hbmCe = s.hbmCe := rfl
@[simp] theorem State.setSram_slices (v : List Host.Cell) : (s.setSram v).slices = s.slices := rfl
@[simp] theorem State.setSram_stackTab (v : List Host.Cell) : (s.setSram v).stackTab = s.stackTab := rfl
@[simp] theorem State.setSram_tallies (v : List Host.Cell) : (s.setSram v).tallies = s.tallies := rfl
@[simp] theorem State.setSram_power (v : List Host.Cell) : (s.setSram v).power = s.power := rfl
@[simp] theorem State.setSram_cool (v : List Host.Cell) : (s.setSram v).cool = s.cool := rfl
@[simp] theorem State.setSram_fports (v : List Host.Cell) : (s.setSram v).fports = s.fports := rfl
@[simp] theorem State.setSram_sec (v : List Host.Cell) : (s.setSram v).sec = s.sec := rfl
@[simp] theorem State.setSram_bezels (v : List Host.Cell) : (s.setSram v).bezels = s.bezels := rfl
@[simp] theorem State.setSram_rings (v : List Host.Cell) : (s.setSram v).rings = s.rings := rfl
@[simp] theorem State.setSram_posted (v : List Host.Cell) : (s.setSram v).posted = s.posted := rfl
@[simp] theorem State.setSram_postNo (v : List Host.Cell) : (s.setSram v).postNo = s.postNo := rfl
@[simp] theorem State.setSram_out (v : List Host.Cell) : (s.setSram v).out = s.out := rfl
@[simp] theorem State.setSram_pending (v : List Host.Cell) : (s.setSram v).pending = s.pending := rfl
@[simp] theorem State.setSram_sram (v : List Host.Cell) : (s.setSram v).sram = v := rfl

/-! ## State.setSramUe -/

@[simp] theorem State.setSramUe_now (v : NSet) : (s.setSramUe v).now = s.now := rfl
@[simp] theorem State.setSramUe_fv (v : NSet) : (s.setSramUe v).fv = s.fv := rfl
@[simp] theorem State.setSramUe_part (v : NSet) : (s.setSramUe v).part = s.part := rfl
@[simp] theorem State.setSramUe_supply (v : NSet) : (s.setSramUe v).supply = s.supply := rfl
@[simp] theorem State.setSramUe_stroke (v : NSet) : (s.setSramUe v).stroke = s.stroke := rfl
@[simp] theorem State.setSramUe_hubs (v : NSet) : (s.setSramUe v).hubs = s.hubs := rfl
@[simp] theorem State.setSramUe_bring (v : NSet) : (s.setSramUe v).bring = s.bring := rfl
@[simp] theorem State.setSramUe_defects (v : NSet) : (s.setSramUe v).defects = s.defects := rfl
@[simp] theorem State.setSramUe_colMaps (v : NSet) : (s.setSramUe v).colMaps = s.colMaps := rfl
@[simp] theorem State.setSramUe_coxes (v : NSet) : (s.setSramUe v).coxes = s.coxes := rfl
@[simp] theorem State.setSramUe_regions (v : NSet) : (s.setSramUe v).regions = s.regions := rfl
@[simp] theorem State.setSramUe_cores (v : NSet) : (s.setSramUe v).cores = s.cores := rfl
@[simp] theorem State.setSramUe_lcidAt (v : NSet) : (s.setSramUe v).lcidAt = s.lcidAt := rfl
@[simp] theorem State.setSramUe_crews (v : NSet) : (s.setSramUe v).crews = s.crews := rfl
@[simp] theorem State.setSramUe_syncs (v : NSet) : (s.setSramUe v).syncs = s.syncs := rfl
@[simp] theorem State.setSramUe_trees (v : NSet) : (s.setSramUe v).trees = s.trees := rfl
@[simp] theorem State.setSramUe_admits (v : NSet) : (s.setSramUe v).admits = s.admits := rfl
@[simp] theorem State.setSramUe_net (v : NSet) : (s.setSramUe v).net = s.net := rfl
@[simp] theorem State.setSramUe_links (v : NSet) : (s.setSramUe v).links = s.links := rfl
@[simp] theorem State.setSramUe_offs (v : NSet) : (s.setSramUe v).offs = s.offs := rfl
@[simp] theorem State.setSramUe_arbs (v : NSet) : (s.setSramUe v).arbs = s.arbs := rfl
@[simp] theorem State.setSramUe_sram (v : NSet) : (s.setSramUe v).sram = s.sram := rfl
@[simp] theorem State.setSramUe_sramCe (v : NSet) : (s.setSramUe v).sramCe = s.sramCe := rfl
@[simp] theorem State.setSramUe_hbm (v : NSet) : (s.setSramUe v).hbm = s.hbm := rfl
@[simp] theorem State.setSramUe_hbmUe (v : NSet) : (s.setSramUe v).hbmUe = s.hbmUe := rfl
@[simp] theorem State.setSramUe_hbmCe (v : NSet) : (s.setSramUe v).hbmCe = s.hbmCe := rfl
@[simp] theorem State.setSramUe_slices (v : NSet) : (s.setSramUe v).slices = s.slices := rfl
@[simp] theorem State.setSramUe_stackTab (v : NSet) : (s.setSramUe v).stackTab = s.stackTab := rfl
@[simp] theorem State.setSramUe_tallies (v : NSet) : (s.setSramUe v).tallies = s.tallies := rfl
@[simp] theorem State.setSramUe_power (v : NSet) : (s.setSramUe v).power = s.power := rfl
@[simp] theorem State.setSramUe_cool (v : NSet) : (s.setSramUe v).cool = s.cool := rfl
@[simp] theorem State.setSramUe_fports (v : NSet) : (s.setSramUe v).fports = s.fports := rfl
@[simp] theorem State.setSramUe_sec (v : NSet) : (s.setSramUe v).sec = s.sec := rfl
@[simp] theorem State.setSramUe_bezels (v : NSet) : (s.setSramUe v).bezels = s.bezels := rfl
@[simp] theorem State.setSramUe_rings (v : NSet) : (s.setSramUe v).rings = s.rings := rfl
@[simp] theorem State.setSramUe_posted (v : NSet) : (s.setSramUe v).posted = s.posted := rfl
@[simp] theorem State.setSramUe_postNo (v : NSet) : (s.setSramUe v).postNo = s.postNo := rfl
@[simp] theorem State.setSramUe_out (v : NSet) : (s.setSramUe v).out = s.out := rfl
@[simp] theorem State.setSramUe_pending (v : NSet) : (s.setSramUe v).pending = s.pending := rfl
@[simp] theorem State.setSramUe_sramUe (v : NSet) : (s.setSramUe v).sramUe = v := rfl

/-! ## State.setSramCe -/

@[simp] theorem State.setSramCe_now (v : NSet) : (s.setSramCe v).now = s.now := rfl
@[simp] theorem State.setSramCe_fv (v : NSet) : (s.setSramCe v).fv = s.fv := rfl
@[simp] theorem State.setSramCe_part (v : NSet) : (s.setSramCe v).part = s.part := rfl
@[simp] theorem State.setSramCe_supply (v : NSet) : (s.setSramCe v).supply = s.supply := rfl
@[simp] theorem State.setSramCe_stroke (v : NSet) : (s.setSramCe v).stroke = s.stroke := rfl
@[simp] theorem State.setSramCe_hubs (v : NSet) : (s.setSramCe v).hubs = s.hubs := rfl
@[simp] theorem State.setSramCe_bring (v : NSet) : (s.setSramCe v).bring = s.bring := rfl
@[simp] theorem State.setSramCe_defects (v : NSet) : (s.setSramCe v).defects = s.defects := rfl
@[simp] theorem State.setSramCe_colMaps (v : NSet) : (s.setSramCe v).colMaps = s.colMaps := rfl
@[simp] theorem State.setSramCe_coxes (v : NSet) : (s.setSramCe v).coxes = s.coxes := rfl
@[simp] theorem State.setSramCe_regions (v : NSet) : (s.setSramCe v).regions = s.regions := rfl
@[simp] theorem State.setSramCe_cores (v : NSet) : (s.setSramCe v).cores = s.cores := rfl
@[simp] theorem State.setSramCe_lcidAt (v : NSet) : (s.setSramCe v).lcidAt = s.lcidAt := rfl
@[simp] theorem State.setSramCe_crews (v : NSet) : (s.setSramCe v).crews = s.crews := rfl
@[simp] theorem State.setSramCe_syncs (v : NSet) : (s.setSramCe v).syncs = s.syncs := rfl
@[simp] theorem State.setSramCe_trees (v : NSet) : (s.setSramCe v).trees = s.trees := rfl
@[simp] theorem State.setSramCe_admits (v : NSet) : (s.setSramCe v).admits = s.admits := rfl
@[simp] theorem State.setSramCe_net (v : NSet) : (s.setSramCe v).net = s.net := rfl
@[simp] theorem State.setSramCe_links (v : NSet) : (s.setSramCe v).links = s.links := rfl
@[simp] theorem State.setSramCe_offs (v : NSet) : (s.setSramCe v).offs = s.offs := rfl
@[simp] theorem State.setSramCe_arbs (v : NSet) : (s.setSramCe v).arbs = s.arbs := rfl
@[simp] theorem State.setSramCe_sram (v : NSet) : (s.setSramCe v).sram = s.sram := rfl
@[simp] theorem State.setSramCe_sramUe (v : NSet) : (s.setSramCe v).sramUe = s.sramUe := rfl
@[simp] theorem State.setSramCe_hbm (v : NSet) : (s.setSramCe v).hbm = s.hbm := rfl
@[simp] theorem State.setSramCe_hbmUe (v : NSet) : (s.setSramCe v).hbmUe = s.hbmUe := rfl
@[simp] theorem State.setSramCe_hbmCe (v : NSet) : (s.setSramCe v).hbmCe = s.hbmCe := rfl
@[simp] theorem State.setSramCe_slices (v : NSet) : (s.setSramCe v).slices = s.slices := rfl
@[simp] theorem State.setSramCe_stackTab (v : NSet) : (s.setSramCe v).stackTab = s.stackTab := rfl
@[simp] theorem State.setSramCe_tallies (v : NSet) : (s.setSramCe v).tallies = s.tallies := rfl
@[simp] theorem State.setSramCe_power (v : NSet) : (s.setSramCe v).power = s.power := rfl
@[simp] theorem State.setSramCe_cool (v : NSet) : (s.setSramCe v).cool = s.cool := rfl
@[simp] theorem State.setSramCe_fports (v : NSet) : (s.setSramCe v).fports = s.fports := rfl
@[simp] theorem State.setSramCe_sec (v : NSet) : (s.setSramCe v).sec = s.sec := rfl
@[simp] theorem State.setSramCe_bezels (v : NSet) : (s.setSramCe v).bezels = s.bezels := rfl
@[simp] theorem State.setSramCe_rings (v : NSet) : (s.setSramCe v).rings = s.rings := rfl
@[simp] theorem State.setSramCe_posted (v : NSet) : (s.setSramCe v).posted = s.posted := rfl
@[simp] theorem State.setSramCe_postNo (v : NSet) : (s.setSramCe v).postNo = s.postNo := rfl
@[simp] theorem State.setSramCe_out (v : NSet) : (s.setSramCe v).out = s.out := rfl
@[simp] theorem State.setSramCe_pending (v : NSet) : (s.setSramCe v).pending = s.pending := rfl
@[simp] theorem State.setSramCe_sramCe (v : NSet) : (s.setSramCe v).sramCe = v := rfl

/-! ## State.setHbm -/

@[simp] theorem State.setHbm_now (v : List Host.Cell) : (s.setHbm v).now = s.now := rfl
@[simp] theorem State.setHbm_fv (v : List Host.Cell) : (s.setHbm v).fv = s.fv := rfl
@[simp] theorem State.setHbm_part (v : List Host.Cell) : (s.setHbm v).part = s.part := rfl
@[simp] theorem State.setHbm_supply (v : List Host.Cell) : (s.setHbm v).supply = s.supply := rfl
@[simp] theorem State.setHbm_stroke (v : List Host.Cell) : (s.setHbm v).stroke = s.stroke := rfl
@[simp] theorem State.setHbm_hubs (v : List Host.Cell) : (s.setHbm v).hubs = s.hubs := rfl
@[simp] theorem State.setHbm_bring (v : List Host.Cell) : (s.setHbm v).bring = s.bring := rfl
@[simp] theorem State.setHbm_defects (v : List Host.Cell) : (s.setHbm v).defects = s.defects := rfl
@[simp] theorem State.setHbm_colMaps (v : List Host.Cell) : (s.setHbm v).colMaps = s.colMaps := rfl
@[simp] theorem State.setHbm_coxes (v : List Host.Cell) : (s.setHbm v).coxes = s.coxes := rfl
@[simp] theorem State.setHbm_regions (v : List Host.Cell) : (s.setHbm v).regions = s.regions := rfl
@[simp] theorem State.setHbm_cores (v : List Host.Cell) : (s.setHbm v).cores = s.cores := rfl
@[simp] theorem State.setHbm_lcidAt (v : List Host.Cell) : (s.setHbm v).lcidAt = s.lcidAt := rfl
@[simp] theorem State.setHbm_crews (v : List Host.Cell) : (s.setHbm v).crews = s.crews := rfl
@[simp] theorem State.setHbm_syncs (v : List Host.Cell) : (s.setHbm v).syncs = s.syncs := rfl
@[simp] theorem State.setHbm_trees (v : List Host.Cell) : (s.setHbm v).trees = s.trees := rfl
@[simp] theorem State.setHbm_admits (v : List Host.Cell) : (s.setHbm v).admits = s.admits := rfl
@[simp] theorem State.setHbm_net (v : List Host.Cell) : (s.setHbm v).net = s.net := rfl
@[simp] theorem State.setHbm_links (v : List Host.Cell) : (s.setHbm v).links = s.links := rfl
@[simp] theorem State.setHbm_offs (v : List Host.Cell) : (s.setHbm v).offs = s.offs := rfl
@[simp] theorem State.setHbm_arbs (v : List Host.Cell) : (s.setHbm v).arbs = s.arbs := rfl
@[simp] theorem State.setHbm_sram (v : List Host.Cell) : (s.setHbm v).sram = s.sram := rfl
@[simp] theorem State.setHbm_sramUe (v : List Host.Cell) : (s.setHbm v).sramUe = s.sramUe := rfl
@[simp] theorem State.setHbm_sramCe (v : List Host.Cell) : (s.setHbm v).sramCe = s.sramCe := rfl
@[simp] theorem State.setHbm_hbmUe (v : List Host.Cell) : (s.setHbm v).hbmUe = s.hbmUe := rfl
@[simp] theorem State.setHbm_hbmCe (v : List Host.Cell) : (s.setHbm v).hbmCe = s.hbmCe := rfl
@[simp] theorem State.setHbm_slices (v : List Host.Cell) : (s.setHbm v).slices = s.slices := rfl
@[simp] theorem State.setHbm_stackTab (v : List Host.Cell) : (s.setHbm v).stackTab = s.stackTab := rfl
@[simp] theorem State.setHbm_tallies (v : List Host.Cell) : (s.setHbm v).tallies = s.tallies := rfl
@[simp] theorem State.setHbm_power (v : List Host.Cell) : (s.setHbm v).power = s.power := rfl
@[simp] theorem State.setHbm_cool (v : List Host.Cell) : (s.setHbm v).cool = s.cool := rfl
@[simp] theorem State.setHbm_fports (v : List Host.Cell) : (s.setHbm v).fports = s.fports := rfl
@[simp] theorem State.setHbm_sec (v : List Host.Cell) : (s.setHbm v).sec = s.sec := rfl
@[simp] theorem State.setHbm_bezels (v : List Host.Cell) : (s.setHbm v).bezels = s.bezels := rfl
@[simp] theorem State.setHbm_rings (v : List Host.Cell) : (s.setHbm v).rings = s.rings := rfl
@[simp] theorem State.setHbm_posted (v : List Host.Cell) : (s.setHbm v).posted = s.posted := rfl
@[simp] theorem State.setHbm_postNo (v : List Host.Cell) : (s.setHbm v).postNo = s.postNo := rfl
@[simp] theorem State.setHbm_out (v : List Host.Cell) : (s.setHbm v).out = s.out := rfl
@[simp] theorem State.setHbm_pending (v : List Host.Cell) : (s.setHbm v).pending = s.pending := rfl
@[simp] theorem State.setHbm_hbm (v : List Host.Cell) : (s.setHbm v).hbm = v := rfl

/-! ## State.setHbmUe -/

@[simp] theorem State.setHbmUe_now (v : NSet) : (s.setHbmUe v).now = s.now := rfl
@[simp] theorem State.setHbmUe_fv (v : NSet) : (s.setHbmUe v).fv = s.fv := rfl
@[simp] theorem State.setHbmUe_part (v : NSet) : (s.setHbmUe v).part = s.part := rfl
@[simp] theorem State.setHbmUe_supply (v : NSet) : (s.setHbmUe v).supply = s.supply := rfl
@[simp] theorem State.setHbmUe_stroke (v : NSet) : (s.setHbmUe v).stroke = s.stroke := rfl
@[simp] theorem State.setHbmUe_hubs (v : NSet) : (s.setHbmUe v).hubs = s.hubs := rfl
@[simp] theorem State.setHbmUe_bring (v : NSet) : (s.setHbmUe v).bring = s.bring := rfl
@[simp] theorem State.setHbmUe_defects (v : NSet) : (s.setHbmUe v).defects = s.defects := rfl
@[simp] theorem State.setHbmUe_colMaps (v : NSet) : (s.setHbmUe v).colMaps = s.colMaps := rfl
@[simp] theorem State.setHbmUe_coxes (v : NSet) : (s.setHbmUe v).coxes = s.coxes := rfl
@[simp] theorem State.setHbmUe_regions (v : NSet) : (s.setHbmUe v).regions = s.regions := rfl
@[simp] theorem State.setHbmUe_cores (v : NSet) : (s.setHbmUe v).cores = s.cores := rfl
@[simp] theorem State.setHbmUe_lcidAt (v : NSet) : (s.setHbmUe v).lcidAt = s.lcidAt := rfl
@[simp] theorem State.setHbmUe_crews (v : NSet) : (s.setHbmUe v).crews = s.crews := rfl
@[simp] theorem State.setHbmUe_syncs (v : NSet) : (s.setHbmUe v).syncs = s.syncs := rfl
@[simp] theorem State.setHbmUe_trees (v : NSet) : (s.setHbmUe v).trees = s.trees := rfl
@[simp] theorem State.setHbmUe_admits (v : NSet) : (s.setHbmUe v).admits = s.admits := rfl
@[simp] theorem State.setHbmUe_net (v : NSet) : (s.setHbmUe v).net = s.net := rfl
@[simp] theorem State.setHbmUe_links (v : NSet) : (s.setHbmUe v).links = s.links := rfl
@[simp] theorem State.setHbmUe_offs (v : NSet) : (s.setHbmUe v).offs = s.offs := rfl
@[simp] theorem State.setHbmUe_arbs (v : NSet) : (s.setHbmUe v).arbs = s.arbs := rfl
@[simp] theorem State.setHbmUe_sram (v : NSet) : (s.setHbmUe v).sram = s.sram := rfl
@[simp] theorem State.setHbmUe_sramUe (v : NSet) : (s.setHbmUe v).sramUe = s.sramUe := rfl
@[simp] theorem State.setHbmUe_sramCe (v : NSet) : (s.setHbmUe v).sramCe = s.sramCe := rfl
@[simp] theorem State.setHbmUe_hbm (v : NSet) : (s.setHbmUe v).hbm = s.hbm := rfl
@[simp] theorem State.setHbmUe_hbmCe (v : NSet) : (s.setHbmUe v).hbmCe = s.hbmCe := rfl
@[simp] theorem State.setHbmUe_slices (v : NSet) : (s.setHbmUe v).slices = s.slices := rfl
@[simp] theorem State.setHbmUe_stackTab (v : NSet) : (s.setHbmUe v).stackTab = s.stackTab := rfl
@[simp] theorem State.setHbmUe_tallies (v : NSet) : (s.setHbmUe v).tallies = s.tallies := rfl
@[simp] theorem State.setHbmUe_power (v : NSet) : (s.setHbmUe v).power = s.power := rfl
@[simp] theorem State.setHbmUe_cool (v : NSet) : (s.setHbmUe v).cool = s.cool := rfl
@[simp] theorem State.setHbmUe_fports (v : NSet) : (s.setHbmUe v).fports = s.fports := rfl
@[simp] theorem State.setHbmUe_sec (v : NSet) : (s.setHbmUe v).sec = s.sec := rfl
@[simp] theorem State.setHbmUe_bezels (v : NSet) : (s.setHbmUe v).bezels = s.bezels := rfl
@[simp] theorem State.setHbmUe_rings (v : NSet) : (s.setHbmUe v).rings = s.rings := rfl
@[simp] theorem State.setHbmUe_posted (v : NSet) : (s.setHbmUe v).posted = s.posted := rfl
@[simp] theorem State.setHbmUe_postNo (v : NSet) : (s.setHbmUe v).postNo = s.postNo := rfl
@[simp] theorem State.setHbmUe_out (v : NSet) : (s.setHbmUe v).out = s.out := rfl
@[simp] theorem State.setHbmUe_pending (v : NSet) : (s.setHbmUe v).pending = s.pending := rfl
@[simp] theorem State.setHbmUe_hbmUe (v : NSet) : (s.setHbmUe v).hbmUe = v := rfl

/-! ## State.setHbmCe -/

@[simp] theorem State.setHbmCe_now (v : NSet) : (s.setHbmCe v).now = s.now := rfl
@[simp] theorem State.setHbmCe_fv (v : NSet) : (s.setHbmCe v).fv = s.fv := rfl
@[simp] theorem State.setHbmCe_part (v : NSet) : (s.setHbmCe v).part = s.part := rfl
@[simp] theorem State.setHbmCe_supply (v : NSet) : (s.setHbmCe v).supply = s.supply := rfl
@[simp] theorem State.setHbmCe_stroke (v : NSet) : (s.setHbmCe v).stroke = s.stroke := rfl
@[simp] theorem State.setHbmCe_hubs (v : NSet) : (s.setHbmCe v).hubs = s.hubs := rfl
@[simp] theorem State.setHbmCe_bring (v : NSet) : (s.setHbmCe v).bring = s.bring := rfl
@[simp] theorem State.setHbmCe_defects (v : NSet) : (s.setHbmCe v).defects = s.defects := rfl
@[simp] theorem State.setHbmCe_colMaps (v : NSet) : (s.setHbmCe v).colMaps = s.colMaps := rfl
@[simp] theorem State.setHbmCe_coxes (v : NSet) : (s.setHbmCe v).coxes = s.coxes := rfl
@[simp] theorem State.setHbmCe_regions (v : NSet) : (s.setHbmCe v).regions = s.regions := rfl
@[simp] theorem State.setHbmCe_cores (v : NSet) : (s.setHbmCe v).cores = s.cores := rfl
@[simp] theorem State.setHbmCe_lcidAt (v : NSet) : (s.setHbmCe v).lcidAt = s.lcidAt := rfl
@[simp] theorem State.setHbmCe_crews (v : NSet) : (s.setHbmCe v).crews = s.crews := rfl
@[simp] theorem State.setHbmCe_syncs (v : NSet) : (s.setHbmCe v).syncs = s.syncs := rfl
@[simp] theorem State.setHbmCe_trees (v : NSet) : (s.setHbmCe v).trees = s.trees := rfl
@[simp] theorem State.setHbmCe_admits (v : NSet) : (s.setHbmCe v).admits = s.admits := rfl
@[simp] theorem State.setHbmCe_net (v : NSet) : (s.setHbmCe v).net = s.net := rfl
@[simp] theorem State.setHbmCe_links (v : NSet) : (s.setHbmCe v).links = s.links := rfl
@[simp] theorem State.setHbmCe_offs (v : NSet) : (s.setHbmCe v).offs = s.offs := rfl
@[simp] theorem State.setHbmCe_arbs (v : NSet) : (s.setHbmCe v).arbs = s.arbs := rfl
@[simp] theorem State.setHbmCe_sram (v : NSet) : (s.setHbmCe v).sram = s.sram := rfl
@[simp] theorem State.setHbmCe_sramUe (v : NSet) : (s.setHbmCe v).sramUe = s.sramUe := rfl
@[simp] theorem State.setHbmCe_sramCe (v : NSet) : (s.setHbmCe v).sramCe = s.sramCe := rfl
@[simp] theorem State.setHbmCe_hbm (v : NSet) : (s.setHbmCe v).hbm = s.hbm := rfl
@[simp] theorem State.setHbmCe_hbmUe (v : NSet) : (s.setHbmCe v).hbmUe = s.hbmUe := rfl
@[simp] theorem State.setHbmCe_slices (v : NSet) : (s.setHbmCe v).slices = s.slices := rfl
@[simp] theorem State.setHbmCe_stackTab (v : NSet) : (s.setHbmCe v).stackTab = s.stackTab := rfl
@[simp] theorem State.setHbmCe_tallies (v : NSet) : (s.setHbmCe v).tallies = s.tallies := rfl
@[simp] theorem State.setHbmCe_power (v : NSet) : (s.setHbmCe v).power = s.power := rfl
@[simp] theorem State.setHbmCe_cool (v : NSet) : (s.setHbmCe v).cool = s.cool := rfl
@[simp] theorem State.setHbmCe_fports (v : NSet) : (s.setHbmCe v).fports = s.fports := rfl
@[simp] theorem State.setHbmCe_sec (v : NSet) : (s.setHbmCe v).sec = s.sec := rfl
@[simp] theorem State.setHbmCe_bezels (v : NSet) : (s.setHbmCe v).bezels = s.bezels := rfl
@[simp] theorem State.setHbmCe_rings (v : NSet) : (s.setHbmCe v).rings = s.rings := rfl
@[simp] theorem State.setHbmCe_posted (v : NSet) : (s.setHbmCe v).posted = s.posted := rfl
@[simp] theorem State.setHbmCe_postNo (v : NSet) : (s.setHbmCe v).postNo = s.postNo := rfl
@[simp] theorem State.setHbmCe_out (v : NSet) : (s.setHbmCe v).out = s.out := rfl
@[simp] theorem State.setHbmCe_pending (v : NSet) : (s.setHbmCe v).pending = s.pending := rfl
@[simp] theorem State.setHbmCe_hbmCe (v : NSet) : (s.setHbmCe v).hbmCe = v := rfl

/-! ## State.emit -/

@[simp] theorem State.emit_now (o : Out) : (s.emit o).now = s.now := rfl
@[simp] theorem State.emit_fv (o : Out) : (s.emit o).fv = s.fv := rfl
@[simp] theorem State.emit_part (o : Out) : (s.emit o).part = s.part := rfl
@[simp] theorem State.emit_supply (o : Out) : (s.emit o).supply = s.supply := rfl
@[simp] theorem State.emit_stroke (o : Out) : (s.emit o).stroke = s.stroke := rfl
@[simp] theorem State.emit_hubs (o : Out) : (s.emit o).hubs = s.hubs := rfl
@[simp] theorem State.emit_bring (o : Out) : (s.emit o).bring = s.bring := rfl
@[simp] theorem State.emit_defects (o : Out) : (s.emit o).defects = s.defects := rfl
@[simp] theorem State.emit_colMaps (o : Out) : (s.emit o).colMaps = s.colMaps := rfl
@[simp] theorem State.emit_coxes (o : Out) : (s.emit o).coxes = s.coxes := rfl
@[simp] theorem State.emit_regions (o : Out) : (s.emit o).regions = s.regions := rfl
@[simp] theorem State.emit_cores (o : Out) : (s.emit o).cores = s.cores := rfl
@[simp] theorem State.emit_lcidAt (o : Out) : (s.emit o).lcidAt = s.lcidAt := rfl
@[simp] theorem State.emit_crews (o : Out) : (s.emit o).crews = s.crews := rfl
@[simp] theorem State.emit_syncs (o : Out) : (s.emit o).syncs = s.syncs := rfl
@[simp] theorem State.emit_trees (o : Out) : (s.emit o).trees = s.trees := rfl
@[simp] theorem State.emit_admits (o : Out) : (s.emit o).admits = s.admits := rfl
@[simp] theorem State.emit_net (o : Out) : (s.emit o).net = s.net := rfl
@[simp] theorem State.emit_links (o : Out) : (s.emit o).links = s.links := rfl
@[simp] theorem State.emit_offs (o : Out) : (s.emit o).offs = s.offs := rfl
@[simp] theorem State.emit_arbs (o : Out) : (s.emit o).arbs = s.arbs := rfl
@[simp] theorem State.emit_sram (o : Out) : (s.emit o).sram = s.sram := rfl
@[simp] theorem State.emit_sramUe (o : Out) : (s.emit o).sramUe = s.sramUe := rfl
@[simp] theorem State.emit_sramCe (o : Out) : (s.emit o).sramCe = s.sramCe := rfl
@[simp] theorem State.emit_hbm (o : Out) : (s.emit o).hbm = s.hbm := rfl
@[simp] theorem State.emit_hbmUe (o : Out) : (s.emit o).hbmUe = s.hbmUe := rfl
@[simp] theorem State.emit_hbmCe (o : Out) : (s.emit o).hbmCe = s.hbmCe := rfl
@[simp] theorem State.emit_slices (o : Out) : (s.emit o).slices = s.slices := rfl
@[simp] theorem State.emit_stackTab (o : Out) : (s.emit o).stackTab = s.stackTab := rfl
@[simp] theorem State.emit_tallies (o : Out) : (s.emit o).tallies = s.tallies := rfl
@[simp] theorem State.emit_power (o : Out) : (s.emit o).power = s.power := rfl
@[simp] theorem State.emit_cool (o : Out) : (s.emit o).cool = s.cool := rfl
@[simp] theorem State.emit_fports (o : Out) : (s.emit o).fports = s.fports := rfl
@[simp] theorem State.emit_sec (o : Out) : (s.emit o).sec = s.sec := rfl
@[simp] theorem State.emit_bezels (o : Out) : (s.emit o).bezels = s.bezels := rfl
@[simp] theorem State.emit_rings (o : Out) : (s.emit o).rings = s.rings := rfl
@[simp] theorem State.emit_posted (o : Out) : (s.emit o).posted = s.posted := rfl
@[simp] theorem State.emit_postNo (o : Out) : (s.emit o).postNo = s.postNo := rfl
@[simp] theorem State.emit_pending (o : Out) : (s.emit o).pending = s.pending := rfl
@[simp] theorem State.emit_out (o : Out) : (s.emit o).out = s.out ++ [o] := rfl

/-! ## State.place -/

@[simp] theorem State.place_now (o : Packet) : (s.place o).now = s.now := rfl
@[simp] theorem State.place_fv (o : Packet) : (s.place o).fv = s.fv := rfl
@[simp] theorem State.place_part (o : Packet) : (s.place o).part = s.part := rfl
@[simp] theorem State.place_supply (o : Packet) : (s.place o).supply = s.supply := rfl
@[simp] theorem State.place_stroke (o : Packet) : (s.place o).stroke = s.stroke := rfl
@[simp] theorem State.place_hubs (o : Packet) : (s.place o).hubs = s.hubs := rfl
@[simp] theorem State.place_bring (o : Packet) : (s.place o).bring = s.bring := rfl
@[simp] theorem State.place_defects (o : Packet) : (s.place o).defects = s.defects := rfl
@[simp] theorem State.place_colMaps (o : Packet) : (s.place o).colMaps = s.colMaps := rfl
@[simp] theorem State.place_coxes (o : Packet) : (s.place o).coxes = s.coxes := rfl
@[simp] theorem State.place_regions (o : Packet) : (s.place o).regions = s.regions := rfl
@[simp] theorem State.place_cores (o : Packet) : (s.place o).cores = s.cores := rfl
@[simp] theorem State.place_lcidAt (o : Packet) : (s.place o).lcidAt = s.lcidAt := rfl
@[simp] theorem State.place_crews (o : Packet) : (s.place o).crews = s.crews := rfl
@[simp] theorem State.place_syncs (o : Packet) : (s.place o).syncs = s.syncs := rfl
@[simp] theorem State.place_trees (o : Packet) : (s.place o).trees = s.trees := rfl
@[simp] theorem State.place_admits (o : Packet) : (s.place o).admits = s.admits := rfl
@[simp] theorem State.place_links (o : Packet) : (s.place o).links = s.links := rfl
@[simp] theorem State.place_offs (o : Packet) : (s.place o).offs = s.offs := rfl
@[simp] theorem State.place_arbs (o : Packet) : (s.place o).arbs = s.arbs := rfl
@[simp] theorem State.place_sram (o : Packet) : (s.place o).sram = s.sram := rfl
@[simp] theorem State.place_sramUe (o : Packet) : (s.place o).sramUe = s.sramUe := rfl
@[simp] theorem State.place_sramCe (o : Packet) : (s.place o).sramCe = s.sramCe := rfl
@[simp] theorem State.place_hbm (o : Packet) : (s.place o).hbm = s.hbm := rfl
@[simp] theorem State.place_hbmUe (o : Packet) : (s.place o).hbmUe = s.hbmUe := rfl
@[simp] theorem State.place_hbmCe (o : Packet) : (s.place o).hbmCe = s.hbmCe := rfl
@[simp] theorem State.place_slices (o : Packet) : (s.place o).slices = s.slices := rfl
@[simp] theorem State.place_stackTab (o : Packet) : (s.place o).stackTab = s.stackTab := rfl
@[simp] theorem State.place_tallies (o : Packet) : (s.place o).tallies = s.tallies := rfl
@[simp] theorem State.place_power (o : Packet) : (s.place o).power = s.power := rfl
@[simp] theorem State.place_cool (o : Packet) : (s.place o).cool = s.cool := rfl
@[simp] theorem State.place_fports (o : Packet) : (s.place o).fports = s.fports := rfl
@[simp] theorem State.place_sec (o : Packet) : (s.place o).sec = s.sec := rfl
@[simp] theorem State.place_bezels (o : Packet) : (s.place o).bezels = s.bezels := rfl
@[simp] theorem State.place_rings (o : Packet) : (s.place o).rings = s.rings := rfl
@[simp] theorem State.place_posted (o : Packet) : (s.place o).posted = s.posted := rfl
@[simp] theorem State.place_postNo (o : Packet) : (s.place o).postNo = s.postNo := rfl
@[simp] theorem State.place_out (o : Packet) : (s.place o).out = s.out := rfl
@[simp] theorem State.place_pending (o : Packet) : (s.place o).pending = s.pending := rfl
@[simp] theorem State.place_net (o : Packet) : (s.place o).net = s.net ++ [o] := rfl

/-! ## State.dropPacket -/

@[simp] theorem State.dropPacket_now (i : Nat) : (s.dropPacket i).now = s.now := rfl
@[simp] theorem State.dropPacket_fv (i : Nat) : (s.dropPacket i).fv = s.fv := rfl
@[simp] theorem State.dropPacket_part (i : Nat) : (s.dropPacket i).part = s.part := rfl
@[simp] theorem State.dropPacket_supply (i : Nat) : (s.dropPacket i).supply = s.supply := rfl
@[simp] theorem State.dropPacket_stroke (i : Nat) : (s.dropPacket i).stroke = s.stroke := rfl
@[simp] theorem State.dropPacket_hubs (i : Nat) : (s.dropPacket i).hubs = s.hubs := rfl
@[simp] theorem State.dropPacket_bring (i : Nat) : (s.dropPacket i).bring = s.bring := rfl
@[simp] theorem State.dropPacket_defects (i : Nat) : (s.dropPacket i).defects = s.defects := rfl
@[simp] theorem State.dropPacket_colMaps (i : Nat) : (s.dropPacket i).colMaps = s.colMaps := rfl
@[simp] theorem State.dropPacket_coxes (i : Nat) : (s.dropPacket i).coxes = s.coxes := rfl
@[simp] theorem State.dropPacket_regions (i : Nat) : (s.dropPacket i).regions = s.regions := rfl
@[simp] theorem State.dropPacket_cores (i : Nat) : (s.dropPacket i).cores = s.cores := rfl
@[simp] theorem State.dropPacket_lcidAt (i : Nat) : (s.dropPacket i).lcidAt = s.lcidAt := rfl
@[simp] theorem State.dropPacket_crews (i : Nat) : (s.dropPacket i).crews = s.crews := rfl
@[simp] theorem State.dropPacket_syncs (i : Nat) : (s.dropPacket i).syncs = s.syncs := rfl
@[simp] theorem State.dropPacket_trees (i : Nat) : (s.dropPacket i).trees = s.trees := rfl
@[simp] theorem State.dropPacket_admits (i : Nat) : (s.dropPacket i).admits = s.admits := rfl
@[simp] theorem State.dropPacket_links (i : Nat) : (s.dropPacket i).links = s.links := rfl
@[simp] theorem State.dropPacket_offs (i : Nat) : (s.dropPacket i).offs = s.offs := rfl
@[simp] theorem State.dropPacket_arbs (i : Nat) : (s.dropPacket i).arbs = s.arbs := rfl
@[simp] theorem State.dropPacket_sram (i : Nat) : (s.dropPacket i).sram = s.sram := rfl
@[simp] theorem State.dropPacket_sramUe (i : Nat) : (s.dropPacket i).sramUe = s.sramUe := rfl
@[simp] theorem State.dropPacket_sramCe (i : Nat) : (s.dropPacket i).sramCe = s.sramCe := rfl
@[simp] theorem State.dropPacket_hbm (i : Nat) : (s.dropPacket i).hbm = s.hbm := rfl
@[simp] theorem State.dropPacket_hbmUe (i : Nat) : (s.dropPacket i).hbmUe = s.hbmUe := rfl
@[simp] theorem State.dropPacket_hbmCe (i : Nat) : (s.dropPacket i).hbmCe = s.hbmCe := rfl
@[simp] theorem State.dropPacket_slices (i : Nat) : (s.dropPacket i).slices = s.slices := rfl
@[simp] theorem State.dropPacket_stackTab (i : Nat) : (s.dropPacket i).stackTab = s.stackTab := rfl
@[simp] theorem State.dropPacket_tallies (i : Nat) : (s.dropPacket i).tallies = s.tallies := rfl
@[simp] theorem State.dropPacket_power (i : Nat) : (s.dropPacket i).power = s.power := rfl
@[simp] theorem State.dropPacket_cool (i : Nat) : (s.dropPacket i).cool = s.cool := rfl
@[simp] theorem State.dropPacket_fports (i : Nat) : (s.dropPacket i).fports = s.fports := rfl
@[simp] theorem State.dropPacket_sec (i : Nat) : (s.dropPacket i).sec = s.sec := rfl
@[simp] theorem State.dropPacket_bezels (i : Nat) : (s.dropPacket i).bezels = s.bezels := rfl
@[simp] theorem State.dropPacket_rings (i : Nat) : (s.dropPacket i).rings = s.rings := rfl
@[simp] theorem State.dropPacket_posted (i : Nat) : (s.dropPacket i).posted = s.posted := rfl
@[simp] theorem State.dropPacket_postNo (i : Nat) : (s.dropPacket i).postNo = s.postNo := rfl
@[simp] theorem State.dropPacket_out (i : Nat) : (s.dropPacket i).out = s.out := rfl
@[simp] theorem State.dropPacket_pending (i : Nat) : (s.dropPacket i).pending = s.pending := rfl
@[simp] theorem State.dropPacket_net (i : Nat) : (s.dropPacket i).net = s.net.eraseIdx i := rfl

/-! ## State.draw -/

@[simp] theorem State.draw_now : (s.draw).now = s.now := rfl
@[simp] theorem State.draw_part : (s.draw).part = s.part := rfl
@[simp] theorem State.draw_supply : (s.draw).supply = s.supply := rfl
@[simp] theorem State.draw_stroke : (s.draw).stroke = s.stroke := rfl
@[simp] theorem State.draw_hubs : (s.draw).hubs = s.hubs := rfl
@[simp] theorem State.draw_bring : (s.draw).bring = s.bring := rfl
@[simp] theorem State.draw_defects : (s.draw).defects = s.defects := rfl
@[simp] theorem State.draw_colMaps : (s.draw).colMaps = s.colMaps := rfl
@[simp] theorem State.draw_coxes : (s.draw).coxes = s.coxes := rfl
@[simp] theorem State.draw_regions : (s.draw).regions = s.regions := rfl
@[simp] theorem State.draw_cores : (s.draw).cores = s.cores := rfl
@[simp] theorem State.draw_lcidAt : (s.draw).lcidAt = s.lcidAt := rfl
@[simp] theorem State.draw_crews : (s.draw).crews = s.crews := rfl
@[simp] theorem State.draw_syncs : (s.draw).syncs = s.syncs := rfl
@[simp] theorem State.draw_trees : (s.draw).trees = s.trees := rfl
@[simp] theorem State.draw_admits : (s.draw).admits = s.admits := rfl
@[simp] theorem State.draw_net : (s.draw).net = s.net := rfl
@[simp] theorem State.draw_links : (s.draw).links = s.links := rfl
@[simp] theorem State.draw_offs : (s.draw).offs = s.offs := rfl
@[simp] theorem State.draw_arbs : (s.draw).arbs = s.arbs := rfl
@[simp] theorem State.draw_sram : (s.draw).sram = s.sram := rfl
@[simp] theorem State.draw_sramUe : (s.draw).sramUe = s.sramUe := rfl
@[simp] theorem State.draw_sramCe : (s.draw).sramCe = s.sramCe := rfl
@[simp] theorem State.draw_hbm : (s.draw).hbm = s.hbm := rfl
@[simp] theorem State.draw_hbmUe : (s.draw).hbmUe = s.hbmUe := rfl
@[simp] theorem State.draw_hbmCe : (s.draw).hbmCe = s.hbmCe := rfl
@[simp] theorem State.draw_slices : (s.draw).slices = s.slices := rfl
@[simp] theorem State.draw_stackTab : (s.draw).stackTab = s.stackTab := rfl
@[simp] theorem State.draw_tallies : (s.draw).tallies = s.tallies := rfl
@[simp] theorem State.draw_power : (s.draw).power = s.power := rfl
@[simp] theorem State.draw_cool : (s.draw).cool = s.cool := rfl
@[simp] theorem State.draw_fports : (s.draw).fports = s.fports := rfl
@[simp] theorem State.draw_sec : (s.draw).sec = s.sec := rfl
@[simp] theorem State.draw_bezels : (s.draw).bezels = s.bezels := rfl
@[simp] theorem State.draw_rings : (s.draw).rings = s.rings := rfl
@[simp] theorem State.draw_posted : (s.draw).posted = s.posted := rfl
@[simp] theorem State.draw_postNo : (s.draw).postNo = s.postNo := rfl
@[simp] theorem State.draw_out : (s.draw).out = s.out := rfl
@[simp] theorem State.draw_pending : (s.draw).pending = s.pending := rfl
@[simp] theorem State.draw_fv : s.draw.fv = s.fv + 1 := rfl

/-! ## State.send: a packet of a paused partition waits at its source -/

@[simp] theorem State.send_now (p : Packet) : (s.send p).now = s.now := by unfold State.send; split <;> rfl
@[simp] theorem State.send_fv (p : Packet) : (s.send p).fv = s.fv := by unfold State.send; split <;> rfl
@[simp] theorem State.send_part (p : Packet) : (s.send p).part = s.part := by unfold State.send; split <;> rfl
@[simp] theorem State.send_supply (p : Packet) : (s.send p).supply = s.supply := by unfold State.send; split <;> rfl
@[simp] theorem State.send_stroke (p : Packet) : (s.send p).stroke = s.stroke := by unfold State.send; split <;> rfl
@[simp] theorem State.send_bring (p : Packet) : (s.send p).bring = s.bring := by unfold State.send; split <;> rfl
@[simp] theorem State.send_defects (p : Packet) : (s.send p).defects = s.defects := by unfold State.send; split <;> rfl
@[simp] theorem State.send_colMaps (p : Packet) : (s.send p).colMaps = s.colMaps := by unfold State.send; split <;> rfl
@[simp] theorem State.send_coxes (p : Packet) : (s.send p).coxes = s.coxes := by unfold State.send; split <;> rfl
@[simp] theorem State.send_regions (p : Packet) : (s.send p).regions = s.regions := by unfold State.send; split <;> rfl
@[simp] theorem State.send_cores (p : Packet) : (s.send p).cores = s.cores := by unfold State.send; split <;> rfl
@[simp] theorem State.send_lcidAt (p : Packet) : (s.send p).lcidAt = s.lcidAt := by unfold State.send; split <;> rfl
@[simp] theorem State.send_crews (p : Packet) : (s.send p).crews = s.crews := by unfold State.send; split <;> rfl
@[simp] theorem State.send_syncs (p : Packet) : (s.send p).syncs = s.syncs := by unfold State.send; split <;> rfl
@[simp] theorem State.send_trees (p : Packet) : (s.send p).trees = s.trees := by unfold State.send; split <;> rfl
@[simp] theorem State.send_admits (p : Packet) : (s.send p).admits = s.admits := by unfold State.send; split <;> rfl
@[simp] theorem State.send_links (p : Packet) : (s.send p).links = s.links := by unfold State.send; split <;> rfl
@[simp] theorem State.send_offs (p : Packet) : (s.send p).offs = s.offs := by unfold State.send; split <;> rfl
@[simp] theorem State.send_arbs (p : Packet) : (s.send p).arbs = s.arbs := by unfold State.send; split <;> rfl
@[simp] theorem State.send_sram (p : Packet) : (s.send p).sram = s.sram := by unfold State.send; split <;> rfl
@[simp] theorem State.send_sramUe (p : Packet) : (s.send p).sramUe = s.sramUe := by unfold State.send; split <;> rfl
@[simp] theorem State.send_sramCe (p : Packet) : (s.send p).sramCe = s.sramCe := by unfold State.send; split <;> rfl
@[simp] theorem State.send_hbm (p : Packet) : (s.send p).hbm = s.hbm := by unfold State.send; split <;> rfl
@[simp] theorem State.send_hbmUe (p : Packet) : (s.send p).hbmUe = s.hbmUe := by unfold State.send; split <;> rfl
@[simp] theorem State.send_hbmCe (p : Packet) : (s.send p).hbmCe = s.hbmCe := by unfold State.send; split <;> rfl
@[simp] theorem State.send_slices (p : Packet) : (s.send p).slices = s.slices := by unfold State.send; split <;> rfl
@[simp] theorem State.send_stackTab (p : Packet) : (s.send p).stackTab = s.stackTab := by unfold State.send; split <;> rfl
@[simp] theorem State.send_tallies (p : Packet) : (s.send p).tallies = s.tallies := by unfold State.send; split <;> rfl
@[simp] theorem State.send_power (p : Packet) : (s.send p).power = s.power := by unfold State.send; split <;> rfl
@[simp] theorem State.send_cool (p : Packet) : (s.send p).cool = s.cool := by unfold State.send; split <;> rfl
@[simp] theorem State.send_fports (p : Packet) : (s.send p).fports = s.fports := by unfold State.send; split <;> rfl
@[simp] theorem State.send_sec (p : Packet) : (s.send p).sec = s.sec := by unfold State.send; split <;> rfl
@[simp] theorem State.send_bezels (p : Packet) : (s.send p).bezels = s.bezels := by unfold State.send; split <;> rfl
@[simp] theorem State.send_rings (p : Packet) : (s.send p).rings = s.rings := by unfold State.send; split <;> rfl
@[simp] theorem State.send_posted (p : Packet) : (s.send p).posted = s.posted := by unfold State.send; split <;> rfl
@[simp] theorem State.send_postNo (p : Packet) : (s.send p).postNo = s.postNo := by unfold State.send; split <;> rfl
@[simp] theorem State.send_out (p : Packet) : (s.send p).out = s.out := by unfold State.send; split <;> rfl
@[simp] theorem State.send_pending (p : Packet) : (s.send p).pending = s.pending := by unfold State.send; split <;> rfl
theorem State.send_running (p : Packet) (h : (s.hub p.part).fab.paused = false) : s.send p = s.place p := by
  simp [State.send, h]
theorem State.send_response (p : Packet) (h : p.cls = 2) : s.send p = s.place p := by
  simp [State.send, h]

/-! ## Units that an updater of another table leaves -/

@[simp] theorem State.updHub_cox (p : Nat) (f : Hub → Hub) (q : Nat) : (s.updHub p f).cox q = s.cox q := rfl
@[simp] theorem State.updHub_region (p : Nat) (f : Hub → Hub) (q : Nat) : (s.updHub p f).region q = s.region q := rfl
@[simp] theorem State.updHub_core (p : Nat) (f : Hub → Hub) (q : Nat) : (s.updHub p f).core q = s.core q := rfl
@[simp] theorem State.updHub_coreOf (p : Nat) (f : Hub → Hub) (q : Nat) : (s.updHub p f).coreOf q = s.coreOf q := rfl
@[simp] theorem State.updHub_crew (p : Nat) (f : Hub → Hub) (q d : Nat) : (s.updHub p f).crew q d = s.crew q d := rfl
@[simp] theorem State.updHub_sync (p : Nat) (f : Hub → Hub) (q : Nat) : (s.updHub p f).sync q = s.sync q := rfl
@[simp] theorem State.updHub_tree (p : Nat) (f : Hub → Hub) (q : Nat) : (s.updHub p f).tree q = s.tree q := rfl
@[simp] theorem State.updHub_admUnit (p : Nat) (f : Hub → Hub) (q : Nat) : (s.updHub p f).admUnit q = s.admUnit q := rfl
@[simp] theorem State.updHub_link (p : Nat) (f : Hub → Hub) (q : Nat) : (s.updHub p f).link q = s.link q := rfl
@[simp] theorem State.updHub_arb (p : Nat) (f : Hub → Hub) (q : Nat) : (s.updHub p f).arb q = s.arb q := rfl
@[simp] theorem State.updHub_slice (p : Nat) (f : Hub → Hub) (q : Nat) : (s.updHub p f).slice q = s.slice q := rfl
@[simp] theorem State.updHub_stack (p : Nat) (f : Hub → Hub) (q : Nat) : (s.updHub p f).stack q = s.stack q := rfl
@[simp] theorem State.updHub_fport (p : Nat) (f : Hub → Hub) (q : Nat) : (s.updHub p f).fport q = s.fport q := rfl
@[simp] theorem State.updHub_bezel (p : Nat) (f : Hub → Hub) (q : Nat) : (s.updHub p f).bezel q = s.bezel q := rfl
@[simp] theorem State.updHub_colMap (p : Nat) (f : Hub → Hub) (q : Nat) : (s.updHub p f).colMap q = s.colMap q := rfl
@[simp] theorem State.updHub_group (p : Nat) (f : Hub → Hub) (q : Nat) : (s.updHub p f).group q = s.group q := rfl
@[simp] theorem State.updCox_hub (p : Nat) (f : Cox → Cox) (q : Nat) : (s.updCox p f).hub q = s.hub q := rfl
@[simp] theorem State.updCox_region (p : Nat) (f : Cox → Cox) (q : Nat) : (s.updCox p f).region q = s.region q := rfl
@[simp] theorem State.updCox_core (p : Nat) (f : Cox → Cox) (q : Nat) : (s.updCox p f).core q = s.core q := rfl
@[simp] theorem State.updCox_coreOf (p : Nat) (f : Cox → Cox) (q : Nat) : (s.updCox p f).coreOf q = s.coreOf q := rfl
@[simp] theorem State.updCox_crew (p : Nat) (f : Cox → Cox) (q d : Nat) : (s.updCox p f).crew q d = s.crew q d := rfl
@[simp] theorem State.updCox_sync (p : Nat) (f : Cox → Cox) (q : Nat) : (s.updCox p f).sync q = s.sync q := rfl
@[simp] theorem State.updCox_tree (p : Nat) (f : Cox → Cox) (q : Nat) : (s.updCox p f).tree q = s.tree q := rfl
@[simp] theorem State.updCox_admUnit (p : Nat) (f : Cox → Cox) (q : Nat) : (s.updCox p f).admUnit q = s.admUnit q := rfl
@[simp] theorem State.updCox_link (p : Nat) (f : Cox → Cox) (q : Nat) : (s.updCox p f).link q = s.link q := rfl
@[simp] theorem State.updCox_arb (p : Nat) (f : Cox → Cox) (q : Nat) : (s.updCox p f).arb q = s.arb q := rfl
@[simp] theorem State.updCox_slice (p : Nat) (f : Cox → Cox) (q : Nat) : (s.updCox p f).slice q = s.slice q := rfl
@[simp] theorem State.updCox_stack (p : Nat) (f : Cox → Cox) (q : Nat) : (s.updCox p f).stack q = s.stack q := rfl
@[simp] theorem State.updCox_fport (p : Nat) (f : Cox → Cox) (q : Nat) : (s.updCox p f).fport q = s.fport q := rfl
@[simp] theorem State.updCox_bezel (p : Nat) (f : Cox → Cox) (q : Nat) : (s.updCox p f).bezel q = s.bezel q := rfl
@[simp] theorem State.updCox_colMap (p : Nat) (f : Cox → Cox) (q : Nat) : (s.updCox p f).colMap q = s.colMap q := rfl
@[simp] theorem State.updCox_group (p : Nat) (f : Cox → Cox) (q : Nat) : (s.updCox p f).group q = s.group q := rfl
@[simp] theorem State.updRegion_hub (p : Nat) (f : Region → Region) (q : Nat) : (s.updRegion p f).hub q = s.hub q := rfl
@[simp] theorem State.updRegion_cox (p : Nat) (f : Region → Region) (q : Nat) : (s.updRegion p f).cox q = s.cox q := rfl
@[simp] theorem State.updRegion_core (p : Nat) (f : Region → Region) (q : Nat) : (s.updRegion p f).core q = s.core q := rfl
@[simp] theorem State.updRegion_coreOf (p : Nat) (f : Region → Region) (q : Nat) : (s.updRegion p f).coreOf q = s.coreOf q := rfl
@[simp] theorem State.updRegion_crew (p : Nat) (f : Region → Region) (q d : Nat) : (s.updRegion p f).crew q d = s.crew q d := rfl
@[simp] theorem State.updRegion_sync (p : Nat) (f : Region → Region) (q : Nat) : (s.updRegion p f).sync q = s.sync q := rfl
@[simp] theorem State.updRegion_tree (p : Nat) (f : Region → Region) (q : Nat) : (s.updRegion p f).tree q = s.tree q := rfl
@[simp] theorem State.updRegion_admUnit (p : Nat) (f : Region → Region) (q : Nat) : (s.updRegion p f).admUnit q = s.admUnit q := rfl
@[simp] theorem State.updRegion_link (p : Nat) (f : Region → Region) (q : Nat) : (s.updRegion p f).link q = s.link q := rfl
@[simp] theorem State.updRegion_arb (p : Nat) (f : Region → Region) (q : Nat) : (s.updRegion p f).arb q = s.arb q := rfl
@[simp] theorem State.updRegion_slice (p : Nat) (f : Region → Region) (q : Nat) : (s.updRegion p f).slice q = s.slice q := rfl
@[simp] theorem State.updRegion_stack (p : Nat) (f : Region → Region) (q : Nat) : (s.updRegion p f).stack q = s.stack q := rfl
@[simp] theorem State.updRegion_fport (p : Nat) (f : Region → Region) (q : Nat) : (s.updRegion p f).fport q = s.fport q := rfl
@[simp] theorem State.updRegion_bezel (p : Nat) (f : Region → Region) (q : Nat) : (s.updRegion p f).bezel q = s.bezel q := rfl
@[simp] theorem State.updRegion_colMap (p : Nat) (f : Region → Region) (q : Nat) : (s.updRegion p f).colMap q = s.colMap q := rfl
@[simp] theorem State.updRegion_group (p : Nat) (f : Region → Region) (q : Nat) : (s.updRegion p f).group q = s.group q := rfl
@[simp] theorem State.updCore_hub (p : Nat) (f : Core → Core) (q : Nat) : (s.updCore p f).hub q = s.hub q := rfl
@[simp] theorem State.updCore_cox (p : Nat) (f : Core → Core) (q : Nat) : (s.updCore p f).cox q = s.cox q := rfl
@[simp] theorem State.updCore_region (p : Nat) (f : Core → Core) (q : Nat) : (s.updCore p f).region q = s.region q := rfl
@[simp] theorem State.updCore_coreOf (p : Nat) (f : Core → Core) (q : Nat) : (s.updCore p f).coreOf q = s.coreOf q := rfl
@[simp] theorem State.updCore_crew (p : Nat) (f : Core → Core) (q d : Nat) : (s.updCore p f).crew q d = s.crew q d := rfl
@[simp] theorem State.updCore_sync (p : Nat) (f : Core → Core) (q : Nat) : (s.updCore p f).sync q = s.sync q := rfl
@[simp] theorem State.updCore_tree (p : Nat) (f : Core → Core) (q : Nat) : (s.updCore p f).tree q = s.tree q := rfl
@[simp] theorem State.updCore_admUnit (p : Nat) (f : Core → Core) (q : Nat) : (s.updCore p f).admUnit q = s.admUnit q := rfl
@[simp] theorem State.updCore_link (p : Nat) (f : Core → Core) (q : Nat) : (s.updCore p f).link q = s.link q := rfl
@[simp] theorem State.updCore_arb (p : Nat) (f : Core → Core) (q : Nat) : (s.updCore p f).arb q = s.arb q := rfl
@[simp] theorem State.updCore_slice (p : Nat) (f : Core → Core) (q : Nat) : (s.updCore p f).slice q = s.slice q := rfl
@[simp] theorem State.updCore_stack (p : Nat) (f : Core → Core) (q : Nat) : (s.updCore p f).stack q = s.stack q := rfl
@[simp] theorem State.updCore_fport (p : Nat) (f : Core → Core) (q : Nat) : (s.updCore p f).fport q = s.fport q := rfl
@[simp] theorem State.updCore_bezel (p : Nat) (f : Core → Core) (q : Nat) : (s.updCore p f).bezel q = s.bezel q := rfl
@[simp] theorem State.updCore_colMap (p : Nat) (f : Core → Core) (q : Nat) : (s.updCore p f).colMap q = s.colMap q := rfl
@[simp] theorem State.updCore_group (p : Nat) (f : Core → Core) (q : Nat) : (s.updCore p f).group q = s.group q := rfl
@[simp] theorem State.setCoreOf_hub (p : Nat) (f : Option Nat) (q : Nat) : (s.setCoreOf p f).hub q = s.hub q := rfl
@[simp] theorem State.setCoreOf_cox (p : Nat) (f : Option Nat) (q : Nat) : (s.setCoreOf p f).cox q = s.cox q := rfl
@[simp] theorem State.setCoreOf_region (p : Nat) (f : Option Nat) (q : Nat) : (s.setCoreOf p f).region q = s.region q := rfl
@[simp] theorem State.setCoreOf_core (p : Nat) (f : Option Nat) (q : Nat) : (s.setCoreOf p f).core q = s.core q := rfl
@[simp] theorem State.setCoreOf_crew (p : Nat) (f : Option Nat) (q d : Nat) : (s.setCoreOf p f).crew q d = s.crew q d := rfl
@[simp] theorem State.setCoreOf_sync (p : Nat) (f : Option Nat) (q : Nat) : (s.setCoreOf p f).sync q = s.sync q := rfl
@[simp] theorem State.setCoreOf_tree (p : Nat) (f : Option Nat) (q : Nat) : (s.setCoreOf p f).tree q = s.tree q := rfl
@[simp] theorem State.setCoreOf_admUnit (p : Nat) (f : Option Nat) (q : Nat) : (s.setCoreOf p f).admUnit q = s.admUnit q := rfl
@[simp] theorem State.setCoreOf_link (p : Nat) (f : Option Nat) (q : Nat) : (s.setCoreOf p f).link q = s.link q := rfl
@[simp] theorem State.setCoreOf_arb (p : Nat) (f : Option Nat) (q : Nat) : (s.setCoreOf p f).arb q = s.arb q := rfl
@[simp] theorem State.setCoreOf_slice (p : Nat) (f : Option Nat) (q : Nat) : (s.setCoreOf p f).slice q = s.slice q := rfl
@[simp] theorem State.setCoreOf_stack (p : Nat) (f : Option Nat) (q : Nat) : (s.setCoreOf p f).stack q = s.stack q := rfl
@[simp] theorem State.setCoreOf_fport (p : Nat) (f : Option Nat) (q : Nat) : (s.setCoreOf p f).fport q = s.fport q := rfl
@[simp] theorem State.setCoreOf_bezel (p : Nat) (f : Option Nat) (q : Nat) : (s.setCoreOf p f).bezel q = s.bezel q := rfl
@[simp] theorem State.setCoreOf_colMap (p : Nat) (f : Option Nat) (q : Nat) : (s.setCoreOf p f).colMap q = s.colMap q := rfl
@[simp] theorem State.setCoreOf_group (p : Nat) (f : Option Nat) (q : Nat) : (s.setCoreOf p f).group q = s.group q := rfl
@[simp] theorem State.updCrew_hub (p c : Nat) (f : Crew → Crew) (q : Nat) : (s.updCrew p c f).hub q = s.hub q := rfl
@[simp] theorem State.updCrew_cox (p c : Nat) (f : Crew → Crew) (q : Nat) : (s.updCrew p c f).cox q = s.cox q := rfl
@[simp] theorem State.updCrew_region (p c : Nat) (f : Crew → Crew) (q : Nat) : (s.updCrew p c f).region q = s.region q := rfl
@[simp] theorem State.updCrew_core (p c : Nat) (f : Crew → Crew) (q : Nat) : (s.updCrew p c f).core q = s.core q := rfl
@[simp] theorem State.updCrew_coreOf (p c : Nat) (f : Crew → Crew) (q : Nat) : (s.updCrew p c f).coreOf q = s.coreOf q := rfl
@[simp] theorem State.updCrew_sync (p c : Nat) (f : Crew → Crew) (q : Nat) : (s.updCrew p c f).sync q = s.sync q := rfl
@[simp] theorem State.updCrew_tree (p c : Nat) (f : Crew → Crew) (q : Nat) : (s.updCrew p c f).tree q = s.tree q := rfl
@[simp] theorem State.updCrew_admUnit (p c : Nat) (f : Crew → Crew) (q : Nat) : (s.updCrew p c f).admUnit q = s.admUnit q := rfl
@[simp] theorem State.updCrew_link (p c : Nat) (f : Crew → Crew) (q : Nat) : (s.updCrew p c f).link q = s.link q := rfl
@[simp] theorem State.updCrew_arb (p c : Nat) (f : Crew → Crew) (q : Nat) : (s.updCrew p c f).arb q = s.arb q := rfl
@[simp] theorem State.updCrew_slice (p c : Nat) (f : Crew → Crew) (q : Nat) : (s.updCrew p c f).slice q = s.slice q := rfl
@[simp] theorem State.updCrew_stack (p c : Nat) (f : Crew → Crew) (q : Nat) : (s.updCrew p c f).stack q = s.stack q := rfl
@[simp] theorem State.updCrew_fport (p c : Nat) (f : Crew → Crew) (q : Nat) : (s.updCrew p c f).fport q = s.fport q := rfl
@[simp] theorem State.updCrew_bezel (p c : Nat) (f : Crew → Crew) (q : Nat) : (s.updCrew p c f).bezel q = s.bezel q := rfl
@[simp] theorem State.updCrew_colMap (p c : Nat) (f : Crew → Crew) (q : Nat) : (s.updCrew p c f).colMap q = s.colMap q := rfl
@[simp] theorem State.updCrew_group (p c : Nat) (f : Crew → Crew) (q : Nat) : (s.updCrew p c f).group q = s.group q := rfl
@[simp] theorem State.updSync_hub (p : Nat) (f : SyncObj → SyncObj) (q : Nat) : (s.updSync p f).hub q = s.hub q := rfl
@[simp] theorem State.updSync_cox (p : Nat) (f : SyncObj → SyncObj) (q : Nat) : (s.updSync p f).cox q = s.cox q := rfl
@[simp] theorem State.updSync_region (p : Nat) (f : SyncObj → SyncObj) (q : Nat) : (s.updSync p f).region q = s.region q := rfl
@[simp] theorem State.updSync_core (p : Nat) (f : SyncObj → SyncObj) (q : Nat) : (s.updSync p f).core q = s.core q := rfl
@[simp] theorem State.updSync_coreOf (p : Nat) (f : SyncObj → SyncObj) (q : Nat) : (s.updSync p f).coreOf q = s.coreOf q := rfl
@[simp] theorem State.updSync_crew (p : Nat) (f : SyncObj → SyncObj) (q d : Nat) : (s.updSync p f).crew q d = s.crew q d := rfl
@[simp] theorem State.updSync_tree (p : Nat) (f : SyncObj → SyncObj) (q : Nat) : (s.updSync p f).tree q = s.tree q := rfl
@[simp] theorem State.updSync_admUnit (p : Nat) (f : SyncObj → SyncObj) (q : Nat) : (s.updSync p f).admUnit q = s.admUnit q := rfl
@[simp] theorem State.updSync_link (p : Nat) (f : SyncObj → SyncObj) (q : Nat) : (s.updSync p f).link q = s.link q := rfl
@[simp] theorem State.updSync_arb (p : Nat) (f : SyncObj → SyncObj) (q : Nat) : (s.updSync p f).arb q = s.arb q := rfl
@[simp] theorem State.updSync_slice (p : Nat) (f : SyncObj → SyncObj) (q : Nat) : (s.updSync p f).slice q = s.slice q := rfl
@[simp] theorem State.updSync_stack (p : Nat) (f : SyncObj → SyncObj) (q : Nat) : (s.updSync p f).stack q = s.stack q := rfl
@[simp] theorem State.updSync_fport (p : Nat) (f : SyncObj → SyncObj) (q : Nat) : (s.updSync p f).fport q = s.fport q := rfl
@[simp] theorem State.updSync_bezel (p : Nat) (f : SyncObj → SyncObj) (q : Nat) : (s.updSync p f).bezel q = s.bezel q := rfl
@[simp] theorem State.updSync_colMap (p : Nat) (f : SyncObj → SyncObj) (q : Nat) : (s.updSync p f).colMap q = s.colMap q := rfl
@[simp] theorem State.updSync_group (p : Nat) (f : SyncObj → SyncObj) (q : Nat) : (s.updSync p f).group q = s.group q := rfl
@[simp] theorem State.updTree_hub (p : Nat) (f : Tree → Tree) (q : Nat) : (s.updTree p f).hub q = s.hub q := rfl
@[simp] theorem State.updTree_cox (p : Nat) (f : Tree → Tree) (q : Nat) : (s.updTree p f).cox q = s.cox q := rfl
@[simp] theorem State.updTree_region (p : Nat) (f : Tree → Tree) (q : Nat) : (s.updTree p f).region q = s.region q := rfl
@[simp] theorem State.updTree_core (p : Nat) (f : Tree → Tree) (q : Nat) : (s.updTree p f).core q = s.core q := rfl
@[simp] theorem State.updTree_coreOf (p : Nat) (f : Tree → Tree) (q : Nat) : (s.updTree p f).coreOf q = s.coreOf q := rfl
@[simp] theorem State.updTree_crew (p : Nat) (f : Tree → Tree) (q d : Nat) : (s.updTree p f).crew q d = s.crew q d := rfl
@[simp] theorem State.updTree_sync (p : Nat) (f : Tree → Tree) (q : Nat) : (s.updTree p f).sync q = s.sync q := rfl
@[simp] theorem State.updTree_admUnit (p : Nat) (f : Tree → Tree) (q : Nat) : (s.updTree p f).admUnit q = s.admUnit q := rfl
@[simp] theorem State.updTree_link (p : Nat) (f : Tree → Tree) (q : Nat) : (s.updTree p f).link q = s.link q := rfl
@[simp] theorem State.updTree_arb (p : Nat) (f : Tree → Tree) (q : Nat) : (s.updTree p f).arb q = s.arb q := rfl
@[simp] theorem State.updTree_slice (p : Nat) (f : Tree → Tree) (q : Nat) : (s.updTree p f).slice q = s.slice q := rfl
@[simp] theorem State.updTree_stack (p : Nat) (f : Tree → Tree) (q : Nat) : (s.updTree p f).stack q = s.stack q := rfl
@[simp] theorem State.updTree_fport (p : Nat) (f : Tree → Tree) (q : Nat) : (s.updTree p f).fport q = s.fport q := rfl
@[simp] theorem State.updTree_bezel (p : Nat) (f : Tree → Tree) (q : Nat) : (s.updTree p f).bezel q = s.bezel q := rfl
@[simp] theorem State.updTree_colMap (p : Nat) (f : Tree → Tree) (q : Nat) : (s.updTree p f).colMap q = s.colMap q := rfl
@[simp] theorem State.updTree_group (p : Nat) (f : Tree → Tree) (q : Nat) : (s.updTree p f).group q = s.group q := rfl
@[simp] theorem State.updAdmit_hub (p : Nat) (f : Admit → Admit) (q : Nat) : (s.updAdmit p f).hub q = s.hub q := rfl
@[simp] theorem State.updAdmit_cox (p : Nat) (f : Admit → Admit) (q : Nat) : (s.updAdmit p f).cox q = s.cox q := rfl
@[simp] theorem State.updAdmit_region (p : Nat) (f : Admit → Admit) (q : Nat) : (s.updAdmit p f).region q = s.region q := rfl
@[simp] theorem State.updAdmit_core (p : Nat) (f : Admit → Admit) (q : Nat) : (s.updAdmit p f).core q = s.core q := rfl
@[simp] theorem State.updAdmit_coreOf (p : Nat) (f : Admit → Admit) (q : Nat) : (s.updAdmit p f).coreOf q = s.coreOf q := rfl
@[simp] theorem State.updAdmit_crew (p : Nat) (f : Admit → Admit) (q d : Nat) : (s.updAdmit p f).crew q d = s.crew q d := rfl
@[simp] theorem State.updAdmit_sync (p : Nat) (f : Admit → Admit) (q : Nat) : (s.updAdmit p f).sync q = s.sync q := rfl
@[simp] theorem State.updAdmit_tree (p : Nat) (f : Admit → Admit) (q : Nat) : (s.updAdmit p f).tree q = s.tree q := rfl
@[simp] theorem State.updAdmit_link (p : Nat) (f : Admit → Admit) (q : Nat) : (s.updAdmit p f).link q = s.link q := rfl
@[simp] theorem State.updAdmit_arb (p : Nat) (f : Admit → Admit) (q : Nat) : (s.updAdmit p f).arb q = s.arb q := rfl
@[simp] theorem State.updAdmit_slice (p : Nat) (f : Admit → Admit) (q : Nat) : (s.updAdmit p f).slice q = s.slice q := rfl
@[simp] theorem State.updAdmit_stack (p : Nat) (f : Admit → Admit) (q : Nat) : (s.updAdmit p f).stack q = s.stack q := rfl
@[simp] theorem State.updAdmit_fport (p : Nat) (f : Admit → Admit) (q : Nat) : (s.updAdmit p f).fport q = s.fport q := rfl
@[simp] theorem State.updAdmit_bezel (p : Nat) (f : Admit → Admit) (q : Nat) : (s.updAdmit p f).bezel q = s.bezel q := rfl
@[simp] theorem State.updAdmit_colMap (p : Nat) (f : Admit → Admit) (q : Nat) : (s.updAdmit p f).colMap q = s.colMap q := rfl
@[simp] theorem State.updAdmit_group (p : Nat) (f : Admit → Admit) (q : Nat) : (s.updAdmit p f).group q = s.group q := rfl
@[simp] theorem State.updLink_hub (p : Nat) (f : LinkEnd → LinkEnd) (q : Nat) : (s.updLink p f).hub q = s.hub q := rfl
@[simp] theorem State.updLink_cox (p : Nat) (f : LinkEnd → LinkEnd) (q : Nat) : (s.updLink p f).cox q = s.cox q := rfl
@[simp] theorem State.updLink_region (p : Nat) (f : LinkEnd → LinkEnd) (q : Nat) : (s.updLink p f).region q = s.region q := rfl
@[simp] theorem State.updLink_core (p : Nat) (f : LinkEnd → LinkEnd) (q : Nat) : (s.updLink p f).core q = s.core q := rfl
@[simp] theorem State.updLink_coreOf (p : Nat) (f : LinkEnd → LinkEnd) (q : Nat) : (s.updLink p f).coreOf q = s.coreOf q := rfl
@[simp] theorem State.updLink_crew (p : Nat) (f : LinkEnd → LinkEnd) (q d : Nat) : (s.updLink p f).crew q d = s.crew q d := rfl
@[simp] theorem State.updLink_sync (p : Nat) (f : LinkEnd → LinkEnd) (q : Nat) : (s.updLink p f).sync q = s.sync q := rfl
@[simp] theorem State.updLink_tree (p : Nat) (f : LinkEnd → LinkEnd) (q : Nat) : (s.updLink p f).tree q = s.tree q := rfl
@[simp] theorem State.updLink_admUnit (p : Nat) (f : LinkEnd → LinkEnd) (q : Nat) : (s.updLink p f).admUnit q = s.admUnit q := rfl
@[simp] theorem State.updLink_arb (p : Nat) (f : LinkEnd → LinkEnd) (q : Nat) : (s.updLink p f).arb q = s.arb q := rfl
@[simp] theorem State.updLink_slice (p : Nat) (f : LinkEnd → LinkEnd) (q : Nat) : (s.updLink p f).slice q = s.slice q := rfl
@[simp] theorem State.updLink_stack (p : Nat) (f : LinkEnd → LinkEnd) (q : Nat) : (s.updLink p f).stack q = s.stack q := rfl
@[simp] theorem State.updLink_fport (p : Nat) (f : LinkEnd → LinkEnd) (q : Nat) : (s.updLink p f).fport q = s.fport q := rfl
@[simp] theorem State.updLink_bezel (p : Nat) (f : LinkEnd → LinkEnd) (q : Nat) : (s.updLink p f).bezel q = s.bezel q := rfl
@[simp] theorem State.updLink_colMap (p : Nat) (f : LinkEnd → LinkEnd) (q : Nat) : (s.updLink p f).colMap q = s.colMap q := rfl
@[simp] theorem State.updLink_group (p : Nat) (f : LinkEnd → LinkEnd) (q : Nat) : (s.updLink p f).group q = s.group q := rfl
@[simp] theorem State.updArb_hub (p : Nat) (f : Arb → Arb) (q : Nat) : (s.updArb p f).hub q = s.hub q := rfl
@[simp] theorem State.updArb_cox (p : Nat) (f : Arb → Arb) (q : Nat) : (s.updArb p f).cox q = s.cox q := rfl
@[simp] theorem State.updArb_region (p : Nat) (f : Arb → Arb) (q : Nat) : (s.updArb p f).region q = s.region q := rfl
@[simp] theorem State.updArb_core (p : Nat) (f : Arb → Arb) (q : Nat) : (s.updArb p f).core q = s.core q := rfl
@[simp] theorem State.updArb_coreOf (p : Nat) (f : Arb → Arb) (q : Nat) : (s.updArb p f).coreOf q = s.coreOf q := rfl
@[simp] theorem State.updArb_crew (p : Nat) (f : Arb → Arb) (q d : Nat) : (s.updArb p f).crew q d = s.crew q d := rfl
@[simp] theorem State.updArb_sync (p : Nat) (f : Arb → Arb) (q : Nat) : (s.updArb p f).sync q = s.sync q := rfl
@[simp] theorem State.updArb_tree (p : Nat) (f : Arb → Arb) (q : Nat) : (s.updArb p f).tree q = s.tree q := rfl
@[simp] theorem State.updArb_admUnit (p : Nat) (f : Arb → Arb) (q : Nat) : (s.updArb p f).admUnit q = s.admUnit q := rfl
@[simp] theorem State.updArb_link (p : Nat) (f : Arb → Arb) (q : Nat) : (s.updArb p f).link q = s.link q := rfl
@[simp] theorem State.updArb_slice (p : Nat) (f : Arb → Arb) (q : Nat) : (s.updArb p f).slice q = s.slice q := rfl
@[simp] theorem State.updArb_stack (p : Nat) (f : Arb → Arb) (q : Nat) : (s.updArb p f).stack q = s.stack q := rfl
@[simp] theorem State.updArb_fport (p : Nat) (f : Arb → Arb) (q : Nat) : (s.updArb p f).fport q = s.fport q := rfl
@[simp] theorem State.updArb_bezel (p : Nat) (f : Arb → Arb) (q : Nat) : (s.updArb p f).bezel q = s.bezel q := rfl
@[simp] theorem State.updArb_colMap (p : Nat) (f : Arb → Arb) (q : Nat) : (s.updArb p f).colMap q = s.colMap q := rfl
@[simp] theorem State.updArb_group (p : Nat) (f : Arb → Arb) (q : Nat) : (s.updArb p f).group q = s.group q := rfl
@[simp] theorem State.updSlice_hub (p : Nat) (f : Slice → Slice) (q : Nat) : (s.updSlice p f).hub q = s.hub q := rfl
@[simp] theorem State.updSlice_cox (p : Nat) (f : Slice → Slice) (q : Nat) : (s.updSlice p f).cox q = s.cox q := rfl
@[simp] theorem State.updSlice_region (p : Nat) (f : Slice → Slice) (q : Nat) : (s.updSlice p f).region q = s.region q := rfl
@[simp] theorem State.updSlice_core (p : Nat) (f : Slice → Slice) (q : Nat) : (s.updSlice p f).core q = s.core q := rfl
@[simp] theorem State.updSlice_coreOf (p : Nat) (f : Slice → Slice) (q : Nat) : (s.updSlice p f).coreOf q = s.coreOf q := rfl
@[simp] theorem State.updSlice_crew (p : Nat) (f : Slice → Slice) (q d : Nat) : (s.updSlice p f).crew q d = s.crew q d := rfl
@[simp] theorem State.updSlice_sync (p : Nat) (f : Slice → Slice) (q : Nat) : (s.updSlice p f).sync q = s.sync q := rfl
@[simp] theorem State.updSlice_tree (p : Nat) (f : Slice → Slice) (q : Nat) : (s.updSlice p f).tree q = s.tree q := rfl
@[simp] theorem State.updSlice_admUnit (p : Nat) (f : Slice → Slice) (q : Nat) : (s.updSlice p f).admUnit q = s.admUnit q := rfl
@[simp] theorem State.updSlice_link (p : Nat) (f : Slice → Slice) (q : Nat) : (s.updSlice p f).link q = s.link q := rfl
@[simp] theorem State.updSlice_arb (p : Nat) (f : Slice → Slice) (q : Nat) : (s.updSlice p f).arb q = s.arb q := rfl
@[simp] theorem State.updSlice_stack (p : Nat) (f : Slice → Slice) (q : Nat) : (s.updSlice p f).stack q = s.stack q := rfl
@[simp] theorem State.updSlice_fport (p : Nat) (f : Slice → Slice) (q : Nat) : (s.updSlice p f).fport q = s.fport q := rfl
@[simp] theorem State.updSlice_bezel (p : Nat) (f : Slice → Slice) (q : Nat) : (s.updSlice p f).bezel q = s.bezel q := rfl
@[simp] theorem State.updSlice_colMap (p : Nat) (f : Slice → Slice) (q : Nat) : (s.updSlice p f).colMap q = s.colMap q := rfl
@[simp] theorem State.updSlice_group (p : Nat) (f : Slice → Slice) (q : Nat) : (s.updSlice p f).group q = s.group q := rfl
@[simp] theorem State.updStack_hub (p : Nat) (f : Stack → Stack) (q : Nat) : (s.updStack p f).hub q = s.hub q := rfl
@[simp] theorem State.updStack_cox (p : Nat) (f : Stack → Stack) (q : Nat) : (s.updStack p f).cox q = s.cox q := rfl
@[simp] theorem State.updStack_region (p : Nat) (f : Stack → Stack) (q : Nat) : (s.updStack p f).region q = s.region q := rfl
@[simp] theorem State.updStack_core (p : Nat) (f : Stack → Stack) (q : Nat) : (s.updStack p f).core q = s.core q := rfl
@[simp] theorem State.updStack_coreOf (p : Nat) (f : Stack → Stack) (q : Nat) : (s.updStack p f).coreOf q = s.coreOf q := rfl
@[simp] theorem State.updStack_crew (p : Nat) (f : Stack → Stack) (q d : Nat) : (s.updStack p f).crew q d = s.crew q d := rfl
@[simp] theorem State.updStack_sync (p : Nat) (f : Stack → Stack) (q : Nat) : (s.updStack p f).sync q = s.sync q := rfl
@[simp] theorem State.updStack_tree (p : Nat) (f : Stack → Stack) (q : Nat) : (s.updStack p f).tree q = s.tree q := rfl
@[simp] theorem State.updStack_admUnit (p : Nat) (f : Stack → Stack) (q : Nat) : (s.updStack p f).admUnit q = s.admUnit q := rfl
@[simp] theorem State.updStack_link (p : Nat) (f : Stack → Stack) (q : Nat) : (s.updStack p f).link q = s.link q := rfl
@[simp] theorem State.updStack_arb (p : Nat) (f : Stack → Stack) (q : Nat) : (s.updStack p f).arb q = s.arb q := rfl
@[simp] theorem State.updStack_slice (p : Nat) (f : Stack → Stack) (q : Nat) : (s.updStack p f).slice q = s.slice q := rfl
@[simp] theorem State.updStack_fport (p : Nat) (f : Stack → Stack) (q : Nat) : (s.updStack p f).fport q = s.fport q := rfl
@[simp] theorem State.updStack_bezel (p : Nat) (f : Stack → Stack) (q : Nat) : (s.updStack p f).bezel q = s.bezel q := rfl
@[simp] theorem State.updStack_colMap (p : Nat) (f : Stack → Stack) (q : Nat) : (s.updStack p f).colMap q = s.colMap q := rfl
@[simp] theorem State.updStack_group (p : Nat) (f : Stack → Stack) (q : Nat) : (s.updStack p f).group q = s.group q := rfl
@[simp] theorem State.updFport_hub (p : Nat) (f : FPort → FPort) (q : Nat) : (s.updFport p f).hub q = s.hub q := rfl
@[simp] theorem State.updFport_cox (p : Nat) (f : FPort → FPort) (q : Nat) : (s.updFport p f).cox q = s.cox q := rfl
@[simp] theorem State.updFport_region (p : Nat) (f : FPort → FPort) (q : Nat) : (s.updFport p f).region q = s.region q := rfl
@[simp] theorem State.updFport_core (p : Nat) (f : FPort → FPort) (q : Nat) : (s.updFport p f).core q = s.core q := rfl
@[simp] theorem State.updFport_coreOf (p : Nat) (f : FPort → FPort) (q : Nat) : (s.updFport p f).coreOf q = s.coreOf q := rfl
@[simp] theorem State.updFport_crew (p : Nat) (f : FPort → FPort) (q d : Nat) : (s.updFport p f).crew q d = s.crew q d := rfl
@[simp] theorem State.updFport_sync (p : Nat) (f : FPort → FPort) (q : Nat) : (s.updFport p f).sync q = s.sync q := rfl
@[simp] theorem State.updFport_tree (p : Nat) (f : FPort → FPort) (q : Nat) : (s.updFport p f).tree q = s.tree q := rfl
@[simp] theorem State.updFport_admUnit (p : Nat) (f : FPort → FPort) (q : Nat) : (s.updFport p f).admUnit q = s.admUnit q := rfl
@[simp] theorem State.updFport_link (p : Nat) (f : FPort → FPort) (q : Nat) : (s.updFport p f).link q = s.link q := rfl
@[simp] theorem State.updFport_arb (p : Nat) (f : FPort → FPort) (q : Nat) : (s.updFport p f).arb q = s.arb q := rfl
@[simp] theorem State.updFport_slice (p : Nat) (f : FPort → FPort) (q : Nat) : (s.updFport p f).slice q = s.slice q := rfl
@[simp] theorem State.updFport_stack (p : Nat) (f : FPort → FPort) (q : Nat) : (s.updFport p f).stack q = s.stack q := rfl
@[simp] theorem State.updFport_bezel (p : Nat) (f : FPort → FPort) (q : Nat) : (s.updFport p f).bezel q = s.bezel q := rfl
@[simp] theorem State.updFport_colMap (p : Nat) (f : FPort → FPort) (q : Nat) : (s.updFport p f).colMap q = s.colMap q := rfl
@[simp] theorem State.updFport_group (p : Nat) (f : FPort → FPort) (q : Nat) : (s.updFport p f).group q = s.group q := rfl
@[simp] theorem State.updBezel_hub (p : Nat) (f : Bezel → Bezel) (q : Nat) : (s.updBezel p f).hub q = s.hub q := rfl
@[simp] theorem State.updBezel_cox (p : Nat) (f : Bezel → Bezel) (q : Nat) : (s.updBezel p f).cox q = s.cox q := rfl
@[simp] theorem State.updBezel_region (p : Nat) (f : Bezel → Bezel) (q : Nat) : (s.updBezel p f).region q = s.region q := rfl
@[simp] theorem State.updBezel_core (p : Nat) (f : Bezel → Bezel) (q : Nat) : (s.updBezel p f).core q = s.core q := rfl
@[simp] theorem State.updBezel_coreOf (p : Nat) (f : Bezel → Bezel) (q : Nat) : (s.updBezel p f).coreOf q = s.coreOf q := rfl
@[simp] theorem State.updBezel_crew (p : Nat) (f : Bezel → Bezel) (q d : Nat) : (s.updBezel p f).crew q d = s.crew q d := rfl
@[simp] theorem State.updBezel_sync (p : Nat) (f : Bezel → Bezel) (q : Nat) : (s.updBezel p f).sync q = s.sync q := rfl
@[simp] theorem State.updBezel_tree (p : Nat) (f : Bezel → Bezel) (q : Nat) : (s.updBezel p f).tree q = s.tree q := rfl
@[simp] theorem State.updBezel_admUnit (p : Nat) (f : Bezel → Bezel) (q : Nat) : (s.updBezel p f).admUnit q = s.admUnit q := rfl
@[simp] theorem State.updBezel_link (p : Nat) (f : Bezel → Bezel) (q : Nat) : (s.updBezel p f).link q = s.link q := rfl
@[simp] theorem State.updBezel_arb (p : Nat) (f : Bezel → Bezel) (q : Nat) : (s.updBezel p f).arb q = s.arb q := rfl
@[simp] theorem State.updBezel_slice (p : Nat) (f : Bezel → Bezel) (q : Nat) : (s.updBezel p f).slice q = s.slice q := rfl
@[simp] theorem State.updBezel_stack (p : Nat) (f : Bezel → Bezel) (q : Nat) : (s.updBezel p f).stack q = s.stack q := rfl
@[simp] theorem State.updBezel_fport (p : Nat) (f : Bezel → Bezel) (q : Nat) : (s.updBezel p f).fport q = s.fport q := rfl
@[simp] theorem State.updBezel_colMap (p : Nat) (f : Bezel → Bezel) (q : Nat) : (s.updBezel p f).colMap q = s.colMap q := rfl
@[simp] theorem State.updBezel_group (p : Nat) (f : Bezel → Bezel) (q : Nat) : (s.updBezel p f).group q = s.group q := rfl
@[simp] theorem State.updColMap_hub (p : Nat) (f : ColMap → ColMap) (q : Nat) : (s.updColMap p f).hub q = s.hub q := rfl
@[simp] theorem State.updColMap_cox (p : Nat) (f : ColMap → ColMap) (q : Nat) : (s.updColMap p f).cox q = s.cox q := rfl
@[simp] theorem State.updColMap_region (p : Nat) (f : ColMap → ColMap) (q : Nat) : (s.updColMap p f).region q = s.region q := rfl
@[simp] theorem State.updColMap_core (p : Nat) (f : ColMap → ColMap) (q : Nat) : (s.updColMap p f).core q = s.core q := rfl
@[simp] theorem State.updColMap_coreOf (p : Nat) (f : ColMap → ColMap) (q : Nat) : (s.updColMap p f).coreOf q = s.coreOf q := rfl
@[simp] theorem State.updColMap_crew (p : Nat) (f : ColMap → ColMap) (q d : Nat) : (s.updColMap p f).crew q d = s.crew q d := rfl
@[simp] theorem State.updColMap_sync (p : Nat) (f : ColMap → ColMap) (q : Nat) : (s.updColMap p f).sync q = s.sync q := rfl
@[simp] theorem State.updColMap_tree (p : Nat) (f : ColMap → ColMap) (q : Nat) : (s.updColMap p f).tree q = s.tree q := rfl
@[simp] theorem State.updColMap_admUnit (p : Nat) (f : ColMap → ColMap) (q : Nat) : (s.updColMap p f).admUnit q = s.admUnit q := rfl
@[simp] theorem State.updColMap_link (p : Nat) (f : ColMap → ColMap) (q : Nat) : (s.updColMap p f).link q = s.link q := rfl
@[simp] theorem State.updColMap_arb (p : Nat) (f : ColMap → ColMap) (q : Nat) : (s.updColMap p f).arb q = s.arb q := rfl
@[simp] theorem State.updColMap_slice (p : Nat) (f : ColMap → ColMap) (q : Nat) : (s.updColMap p f).slice q = s.slice q := rfl
@[simp] theorem State.updColMap_stack (p : Nat) (f : ColMap → ColMap) (q : Nat) : (s.updColMap p f).stack q = s.stack q := rfl
@[simp] theorem State.updColMap_fport (p : Nat) (f : ColMap → ColMap) (q : Nat) : (s.updColMap p f).fport q = s.fport q := rfl
@[simp] theorem State.updColMap_bezel (p : Nat) (f : ColMap → ColMap) (q : Nat) : (s.updColMap p f).bezel q = s.bezel q := rfl
@[simp] theorem State.updColMap_group (p : Nat) (f : ColMap → ColMap) (q : Nat) : (s.updColMap p f).group q = s.group q := rfl
@[simp] theorem State.updGroup_hub (p : Nat) (f : Group → Group) (q : Nat) : (s.updGroup p f).hub q = s.hub q := rfl
@[simp] theorem State.updGroup_cox (p : Nat) (f : Group → Group) (q : Nat) : (s.updGroup p f).cox q = s.cox q := rfl
@[simp] theorem State.updGroup_region (p : Nat) (f : Group → Group) (q : Nat) : (s.updGroup p f).region q = s.region q := rfl
@[simp] theorem State.updGroup_core (p : Nat) (f : Group → Group) (q : Nat) : (s.updGroup p f).core q = s.core q := rfl
@[simp] theorem State.updGroup_coreOf (p : Nat) (f : Group → Group) (q : Nat) : (s.updGroup p f).coreOf q = s.coreOf q := rfl
@[simp] theorem State.updGroup_crew (p : Nat) (f : Group → Group) (q d : Nat) : (s.updGroup p f).crew q d = s.crew q d := rfl
@[simp] theorem State.updGroup_sync (p : Nat) (f : Group → Group) (q : Nat) : (s.updGroup p f).sync q = s.sync q := rfl
@[simp] theorem State.updGroup_tree (p : Nat) (f : Group → Group) (q : Nat) : (s.updGroup p f).tree q = s.tree q := rfl
@[simp] theorem State.updGroup_admUnit (p : Nat) (f : Group → Group) (q : Nat) : (s.updGroup p f).admUnit q = s.admUnit q := rfl
@[simp] theorem State.updGroup_link (p : Nat) (f : Group → Group) (q : Nat) : (s.updGroup p f).link q = s.link q := rfl
@[simp] theorem State.updGroup_arb (p : Nat) (f : Group → Group) (q : Nat) : (s.updGroup p f).arb q = s.arb q := rfl
@[simp] theorem State.updGroup_slice (p : Nat) (f : Group → Group) (q : Nat) : (s.updGroup p f).slice q = s.slice q := rfl
@[simp] theorem State.updGroup_stack (p : Nat) (f : Group → Group) (q : Nat) : (s.updGroup p f).stack q = s.stack q := rfl
@[simp] theorem State.updGroup_fport (p : Nat) (f : Group → Group) (q : Nat) : (s.updGroup p f).fport q = s.fport q := rfl
@[simp] theorem State.updGroup_bezel (p : Nat) (f : Group → Group) (q : Nat) : (s.updGroup p f).bezel q = s.bezel q := rfl
@[simp] theorem State.updGroup_colMap (p : Nat) (f : Group → Group) (q : Nat) : (s.updGroup p f).colMap q = s.colMap q := rfl
@[simp] theorem State.updPower_hub (f : Power → Power) (q : Nat) : (s.updPower f).hub q = s.hub q := rfl
@[simp] theorem State.updPower_cox (f : Power → Power) (q : Nat) : (s.updPower f).cox q = s.cox q := rfl
@[simp] theorem State.updPower_region (f : Power → Power) (q : Nat) : (s.updPower f).region q = s.region q := rfl
@[simp] theorem State.updPower_core (f : Power → Power) (q : Nat) : (s.updPower f).core q = s.core q := rfl
@[simp] theorem State.updPower_coreOf (f : Power → Power) (q : Nat) : (s.updPower f).coreOf q = s.coreOf q := rfl
@[simp] theorem State.updPower_crew (f : Power → Power) (q d : Nat) : (s.updPower f).crew q d = s.crew q d := rfl
@[simp] theorem State.updPower_sync (f : Power → Power) (q : Nat) : (s.updPower f).sync q = s.sync q := rfl
@[simp] theorem State.updPower_tree (f : Power → Power) (q : Nat) : (s.updPower f).tree q = s.tree q := rfl
@[simp] theorem State.updPower_admUnit (f : Power → Power) (q : Nat) : (s.updPower f).admUnit q = s.admUnit q := rfl
@[simp] theorem State.updPower_link (f : Power → Power) (q : Nat) : (s.updPower f).link q = s.link q := rfl
@[simp] theorem State.updPower_arb (f : Power → Power) (q : Nat) : (s.updPower f).arb q = s.arb q := rfl
@[simp] theorem State.updPower_slice (f : Power → Power) (q : Nat) : (s.updPower f).slice q = s.slice q := rfl
@[simp] theorem State.updPower_stack (f : Power → Power) (q : Nat) : (s.updPower f).stack q = s.stack q := rfl
@[simp] theorem State.updPower_fport (f : Power → Power) (q : Nat) : (s.updPower f).fport q = s.fport q := rfl
@[simp] theorem State.updPower_bezel (f : Power → Power) (q : Nat) : (s.updPower f).bezel q = s.bezel q := rfl
@[simp] theorem State.updPower_colMap (f : Power → Power) (q : Nat) : (s.updPower f).colMap q = s.colMap q := rfl
@[simp] theorem State.updCool_hub (f : Cooling → Cooling) (q : Nat) : (s.updCool f).hub q = s.hub q := rfl
@[simp] theorem State.updCool_cox (f : Cooling → Cooling) (q : Nat) : (s.updCool f).cox q = s.cox q := rfl
@[simp] theorem State.updCool_region (f : Cooling → Cooling) (q : Nat) : (s.updCool f).region q = s.region q := rfl
@[simp] theorem State.updCool_core (f : Cooling → Cooling) (q : Nat) : (s.updCool f).core q = s.core q := rfl
@[simp] theorem State.updCool_coreOf (f : Cooling → Cooling) (q : Nat) : (s.updCool f).coreOf q = s.coreOf q := rfl
@[simp] theorem State.updCool_crew (f : Cooling → Cooling) (q d : Nat) : (s.updCool f).crew q d = s.crew q d := rfl
@[simp] theorem State.updCool_sync (f : Cooling → Cooling) (q : Nat) : (s.updCool f).sync q = s.sync q := rfl
@[simp] theorem State.updCool_tree (f : Cooling → Cooling) (q : Nat) : (s.updCool f).tree q = s.tree q := rfl
@[simp] theorem State.updCool_admUnit (f : Cooling → Cooling) (q : Nat) : (s.updCool f).admUnit q = s.admUnit q := rfl
@[simp] theorem State.updCool_link (f : Cooling → Cooling) (q : Nat) : (s.updCool f).link q = s.link q := rfl
@[simp] theorem State.updCool_arb (f : Cooling → Cooling) (q : Nat) : (s.updCool f).arb q = s.arb q := rfl
@[simp] theorem State.updCool_slice (f : Cooling → Cooling) (q : Nat) : (s.updCool f).slice q = s.slice q := rfl
@[simp] theorem State.updCool_stack (f : Cooling → Cooling) (q : Nat) : (s.updCool f).stack q = s.stack q := rfl
@[simp] theorem State.updCool_fport (f : Cooling → Cooling) (q : Nat) : (s.updCool f).fport q = s.fport q := rfl
@[simp] theorem State.updCool_bezel (f : Cooling → Cooling) (q : Nat) : (s.updCool f).bezel q = s.bezel q := rfl
@[simp] theorem State.updCool_colMap (f : Cooling → Cooling) (q : Nat) : (s.updCool f).colMap q = s.colMap q := rfl
@[simp] theorem State.updCool_group (f : Cooling → Cooling) (q : Nat) : (s.updCool f).group q = s.group q := rfl
@[simp] theorem State.updBring_hub (f : BringUp → BringUp) (q : Nat) : (s.updBring f).hub q = s.hub q := rfl
@[simp] theorem State.updBring_cox (f : BringUp → BringUp) (q : Nat) : (s.updBring f).cox q = s.cox q := rfl
@[simp] theorem State.updBring_region (f : BringUp → BringUp) (q : Nat) : (s.updBring f).region q = s.region q := rfl
@[simp] theorem State.updBring_core (f : BringUp → BringUp) (q : Nat) : (s.updBring f).core q = s.core q := rfl
@[simp] theorem State.updBring_coreOf (f : BringUp → BringUp) (q : Nat) : (s.updBring f).coreOf q = s.coreOf q := rfl
@[simp] theorem State.updBring_crew (f : BringUp → BringUp) (q d : Nat) : (s.updBring f).crew q d = s.crew q d := rfl
@[simp] theorem State.updBring_sync (f : BringUp → BringUp) (q : Nat) : (s.updBring f).sync q = s.sync q := rfl
@[simp] theorem State.updBring_tree (f : BringUp → BringUp) (q : Nat) : (s.updBring f).tree q = s.tree q := rfl
@[simp] theorem State.updBring_admUnit (f : BringUp → BringUp) (q : Nat) : (s.updBring f).admUnit q = s.admUnit q := rfl
@[simp] theorem State.updBring_link (f : BringUp → BringUp) (q : Nat) : (s.updBring f).link q = s.link q := rfl
@[simp] theorem State.updBring_arb (f : BringUp → BringUp) (q : Nat) : (s.updBring f).arb q = s.arb q := rfl
@[simp] theorem State.updBring_slice (f : BringUp → BringUp) (q : Nat) : (s.updBring f).slice q = s.slice q := rfl
@[simp] theorem State.updBring_stack (f : BringUp → BringUp) (q : Nat) : (s.updBring f).stack q = s.stack q := rfl
@[simp] theorem State.updBring_fport (f : BringUp → BringUp) (q : Nat) : (s.updBring f).fport q = s.fport q := rfl
@[simp] theorem State.updBring_bezel (f : BringUp → BringUp) (q : Nat) : (s.updBring f).bezel q = s.bezel q := rfl
@[simp] theorem State.updBring_colMap (f : BringUp → BringUp) (q : Nat) : (s.updBring f).colMap q = s.colMap q := rfl
@[simp] theorem State.updBring_group (f : BringUp → BringUp) (q : Nat) : (s.updBring f).group q = s.group q := rfl
@[simp] theorem State.updStroke_hub (f : Stroke → Stroke) (q : Nat) : (s.updStroke f).hub q = s.hub q := rfl
@[simp] theorem State.updStroke_cox (f : Stroke → Stroke) (q : Nat) : (s.updStroke f).cox q = s.cox q := rfl
@[simp] theorem State.updStroke_region (f : Stroke → Stroke) (q : Nat) : (s.updStroke f).region q = s.region q := rfl
@[simp] theorem State.updStroke_core (f : Stroke → Stroke) (q : Nat) : (s.updStroke f).core q = s.core q := rfl
@[simp] theorem State.updStroke_coreOf (f : Stroke → Stroke) (q : Nat) : (s.updStroke f).coreOf q = s.coreOf q := rfl
@[simp] theorem State.updStroke_crew (f : Stroke → Stroke) (q d : Nat) : (s.updStroke f).crew q d = s.crew q d := rfl
@[simp] theorem State.updStroke_sync (f : Stroke → Stroke) (q : Nat) : (s.updStroke f).sync q = s.sync q := rfl
@[simp] theorem State.updStroke_tree (f : Stroke → Stroke) (q : Nat) : (s.updStroke f).tree q = s.tree q := rfl
@[simp] theorem State.updStroke_admUnit (f : Stroke → Stroke) (q : Nat) : (s.updStroke f).admUnit q = s.admUnit q := rfl
@[simp] theorem State.updStroke_link (f : Stroke → Stroke) (q : Nat) : (s.updStroke f).link q = s.link q := rfl
@[simp] theorem State.updStroke_arb (f : Stroke → Stroke) (q : Nat) : (s.updStroke f).arb q = s.arb q := rfl
@[simp] theorem State.updStroke_slice (f : Stroke → Stroke) (q : Nat) : (s.updStroke f).slice q = s.slice q := rfl
@[simp] theorem State.updStroke_stack (f : Stroke → Stroke) (q : Nat) : (s.updStroke f).stack q = s.stack q := rfl
@[simp] theorem State.updStroke_fport (f : Stroke → Stroke) (q : Nat) : (s.updStroke f).fport q = s.fport q := rfl
@[simp] theorem State.updStroke_bezel (f : Stroke → Stroke) (q : Nat) : (s.updStroke f).bezel q = s.bezel q := rfl
@[simp] theorem State.updStroke_colMap (f : Stroke → Stroke) (q : Nat) : (s.updStroke f).colMap q = s.colMap q := rfl
@[simp] theorem State.updStroke_group (f : Stroke → Stroke) (q : Nat) : (s.updStroke f).group q = s.group q := rfl
@[simp] theorem State.updSec_hub (f : Security → Security) (q : Nat) : (s.updSec f).hub q = s.hub q := rfl
@[simp] theorem State.updSec_cox (f : Security → Security) (q : Nat) : (s.updSec f).cox q = s.cox q := rfl
@[simp] theorem State.updSec_region (f : Security → Security) (q : Nat) : (s.updSec f).region q = s.region q := rfl
@[simp] theorem State.updSec_core (f : Security → Security) (q : Nat) : (s.updSec f).core q = s.core q := rfl
@[simp] theorem State.updSec_coreOf (f : Security → Security) (q : Nat) : (s.updSec f).coreOf q = s.coreOf q := rfl
@[simp] theorem State.updSec_crew (f : Security → Security) (q d : Nat) : (s.updSec f).crew q d = s.crew q d := rfl
@[simp] theorem State.updSec_sync (f : Security → Security) (q : Nat) : (s.updSec f).sync q = s.sync q := rfl
@[simp] theorem State.updSec_tree (f : Security → Security) (q : Nat) : (s.updSec f).tree q = s.tree q := rfl
@[simp] theorem State.updSec_admUnit (f : Security → Security) (q : Nat) : (s.updSec f).admUnit q = s.admUnit q := rfl
@[simp] theorem State.updSec_link (f : Security → Security) (q : Nat) : (s.updSec f).link q = s.link q := rfl
@[simp] theorem State.updSec_arb (f : Security → Security) (q : Nat) : (s.updSec f).arb q = s.arb q := rfl
@[simp] theorem State.updSec_slice (f : Security → Security) (q : Nat) : (s.updSec f).slice q = s.slice q := rfl
@[simp] theorem State.updSec_stack (f : Security → Security) (q : Nat) : (s.updSec f).stack q = s.stack q := rfl
@[simp] theorem State.updSec_fport (f : Security → Security) (q : Nat) : (s.updSec f).fport q = s.fport q := rfl
@[simp] theorem State.updSec_bezel (f : Security → Security) (q : Nat) : (s.updSec f).bezel q = s.bezel q := rfl
@[simp] theorem State.updSec_colMap (f : Security → Security) (q : Nat) : (s.updSec f).colMap q = s.colMap q := rfl
@[simp] theorem State.updSec_group (f : Security → Security) (q : Nat) : (s.updSec f).group q = s.group q := rfl
@[simp] theorem State.updSupply_hub (f : Supply → Supply) (q : Nat) : (s.updSupply f).hub q = s.hub q := rfl
@[simp] theorem State.updSupply_cox (f : Supply → Supply) (q : Nat) : (s.updSupply f).cox q = s.cox q := rfl
@[simp] theorem State.updSupply_region (f : Supply → Supply) (q : Nat) : (s.updSupply f).region q = s.region q := rfl
@[simp] theorem State.updSupply_core (f : Supply → Supply) (q : Nat) : (s.updSupply f).core q = s.core q := rfl
@[simp] theorem State.updSupply_coreOf (f : Supply → Supply) (q : Nat) : (s.updSupply f).coreOf q = s.coreOf q := rfl
@[simp] theorem State.updSupply_crew (f : Supply → Supply) (q d : Nat) : (s.updSupply f).crew q d = s.crew q d := rfl
@[simp] theorem State.updSupply_sync (f : Supply → Supply) (q : Nat) : (s.updSupply f).sync q = s.sync q := rfl
@[simp] theorem State.updSupply_tree (f : Supply → Supply) (q : Nat) : (s.updSupply f).tree q = s.tree q := rfl
@[simp] theorem State.updSupply_admUnit (f : Supply → Supply) (q : Nat) : (s.updSupply f).admUnit q = s.admUnit q := rfl
@[simp] theorem State.updSupply_link (f : Supply → Supply) (q : Nat) : (s.updSupply f).link q = s.link q := rfl
@[simp] theorem State.updSupply_arb (f : Supply → Supply) (q : Nat) : (s.updSupply f).arb q = s.arb q := rfl
@[simp] theorem State.updSupply_slice (f : Supply → Supply) (q : Nat) : (s.updSupply f).slice q = s.slice q := rfl
@[simp] theorem State.updSupply_stack (f : Supply → Supply) (q : Nat) : (s.updSupply f).stack q = s.stack q := rfl
@[simp] theorem State.updSupply_fport (f : Supply → Supply) (q : Nat) : (s.updSupply f).fport q = s.fport q := rfl
@[simp] theorem State.updSupply_bezel (f : Supply → Supply) (q : Nat) : (s.updSupply f).bezel q = s.bezel q := rfl
@[simp] theorem State.updSupply_colMap (f : Supply → Supply) (q : Nat) : (s.updSupply f).colMap q = s.colMap q := rfl
@[simp] theorem State.updSupply_group (f : Supply → Supply) (q : Nat) : (s.updSupply f).group q = s.group q := rfl
@[simp] theorem State.updDefects_hub (f : Defects → Defects) (q : Nat) : (s.updDefects f).hub q = s.hub q := rfl
@[simp] theorem State.updDefects_cox (f : Defects → Defects) (q : Nat) : (s.updDefects f).cox q = s.cox q := rfl
@[simp] theorem State.updDefects_region (f : Defects → Defects) (q : Nat) : (s.updDefects f).region q = s.region q := rfl
@[simp] theorem State.updDefects_core (f : Defects → Defects) (q : Nat) : (s.updDefects f).core q = s.core q := rfl
@[simp] theorem State.updDefects_coreOf (f : Defects → Defects) (q : Nat) : (s.updDefects f).coreOf q = s.coreOf q := rfl
@[simp] theorem State.updDefects_crew (f : Defects → Defects) (q d : Nat) : (s.updDefects f).crew q d = s.crew q d := rfl
@[simp] theorem State.updDefects_sync (f : Defects → Defects) (q : Nat) : (s.updDefects f).sync q = s.sync q := rfl
@[simp] theorem State.updDefects_tree (f : Defects → Defects) (q : Nat) : (s.updDefects f).tree q = s.tree q := rfl
@[simp] theorem State.updDefects_admUnit (f : Defects → Defects) (q : Nat) : (s.updDefects f).admUnit q = s.admUnit q := rfl
@[simp] theorem State.updDefects_link (f : Defects → Defects) (q : Nat) : (s.updDefects f).link q = s.link q := rfl
@[simp] theorem State.updDefects_arb (f : Defects → Defects) (q : Nat) : (s.updDefects f).arb q = s.arb q := rfl
@[simp] theorem State.updDefects_slice (f : Defects → Defects) (q : Nat) : (s.updDefects f).slice q = s.slice q := rfl
@[simp] theorem State.updDefects_stack (f : Defects → Defects) (q : Nat) : (s.updDefects f).stack q = s.stack q := rfl
@[simp] theorem State.updDefects_fport (f : Defects → Defects) (q : Nat) : (s.updDefects f).fport q = s.fport q := rfl
@[simp] theorem State.updDefects_bezel (f : Defects → Defects) (q : Nat) : (s.updDefects f).bezel q = s.bezel q := rfl
@[simp] theorem State.updDefects_colMap (f : Defects → Defects) (q : Nat) : (s.updDefects f).colMap q = s.colMap q := rfl
@[simp] theorem State.updDefects_group (f : Defects → Defects) (q : Nat) : (s.updDefects f).group q = s.group q := rfl
@[simp] theorem State.updLay_cox (p : Nat) (f : LayPort → LayPort) (q : Nat) : (s.updLay p f).cox q = s.cox q := rfl
@[simp] theorem State.updLay_region (p : Nat) (f : LayPort → LayPort) (q : Nat) : (s.updLay p f).region q = s.region q := rfl
@[simp] theorem State.updLay_core (p : Nat) (f : LayPort → LayPort) (q : Nat) : (s.updLay p f).core q = s.core q := rfl
@[simp] theorem State.updLay_coreOf (p : Nat) (f : LayPort → LayPort) (q : Nat) : (s.updLay p f).coreOf q = s.coreOf q := rfl
@[simp] theorem State.updLay_crew (p : Nat) (f : LayPort → LayPort) (q d : Nat) : (s.updLay p f).crew q d = s.crew q d := rfl
@[simp] theorem State.updLay_sync (p : Nat) (f : LayPort → LayPort) (q : Nat) : (s.updLay p f).sync q = s.sync q := rfl
@[simp] theorem State.updLay_tree (p : Nat) (f : LayPort → LayPort) (q : Nat) : (s.updLay p f).tree q = s.tree q := rfl
@[simp] theorem State.updLay_admUnit (p : Nat) (f : LayPort → LayPort) (q : Nat) : (s.updLay p f).admUnit q = s.admUnit q := rfl
@[simp] theorem State.updLay_link (p : Nat) (f : LayPort → LayPort) (q : Nat) : (s.updLay p f).link q = s.link q := rfl
@[simp] theorem State.updLay_arb (p : Nat) (f : LayPort → LayPort) (q : Nat) : (s.updLay p f).arb q = s.arb q := rfl
@[simp] theorem State.updLay_slice (p : Nat) (f : LayPort → LayPort) (q : Nat) : (s.updLay p f).slice q = s.slice q := rfl
@[simp] theorem State.updLay_stack (p : Nat) (f : LayPort → LayPort) (q : Nat) : (s.updLay p f).stack q = s.stack q := rfl
@[simp] theorem State.updLay_fport (p : Nat) (f : LayPort → LayPort) (q : Nat) : (s.updLay p f).fport q = s.fport q := rfl
@[simp] theorem State.updLay_bezel (p : Nat) (f : LayPort → LayPort) (q : Nat) : (s.updLay p f).bezel q = s.bezel q := rfl
@[simp] theorem State.updLay_colMap (p : Nat) (f : LayPort → LayPort) (q : Nat) : (s.updLay p f).colMap q = s.colMap q := rfl
@[simp] theorem State.updLay_group (p : Nat) (f : LayPort → LayPort) (q : Nat) : (s.updLay p f).group q = s.group q := rfl
@[simp] theorem State.updFab_cox (p : Nat) (f : FabPort → FabPort) (q : Nat) : (s.updFab p f).cox q = s.cox q := rfl
@[simp] theorem State.updFab_region (p : Nat) (f : FabPort → FabPort) (q : Nat) : (s.updFab p f).region q = s.region q := rfl
@[simp] theorem State.updFab_core (p : Nat) (f : FabPort → FabPort) (q : Nat) : (s.updFab p f).core q = s.core q := rfl
@[simp] theorem State.updFab_coreOf (p : Nat) (f : FabPort → FabPort) (q : Nat) : (s.updFab p f).coreOf q = s.coreOf q := rfl
@[simp] theorem State.updFab_crew (p : Nat) (f : FabPort → FabPort) (q d : Nat) : (s.updFab p f).crew q d = s.crew q d := rfl
@[simp] theorem State.updFab_sync (p : Nat) (f : FabPort → FabPort) (q : Nat) : (s.updFab p f).sync q = s.sync q := rfl
@[simp] theorem State.updFab_tree (p : Nat) (f : FabPort → FabPort) (q : Nat) : (s.updFab p f).tree q = s.tree q := rfl
@[simp] theorem State.updFab_admUnit (p : Nat) (f : FabPort → FabPort) (q : Nat) : (s.updFab p f).admUnit q = s.admUnit q := rfl
@[simp] theorem State.updFab_link (p : Nat) (f : FabPort → FabPort) (q : Nat) : (s.updFab p f).link q = s.link q := rfl
@[simp] theorem State.updFab_arb (p : Nat) (f : FabPort → FabPort) (q : Nat) : (s.updFab p f).arb q = s.arb q := rfl
@[simp] theorem State.updFab_slice (p : Nat) (f : FabPort → FabPort) (q : Nat) : (s.updFab p f).slice q = s.slice q := rfl
@[simp] theorem State.updFab_stack (p : Nat) (f : FabPort → FabPort) (q : Nat) : (s.updFab p f).stack q = s.stack q := rfl
@[simp] theorem State.updFab_fport (p : Nat) (f : FabPort → FabPort) (q : Nat) : (s.updFab p f).fport q = s.fport q := rfl
@[simp] theorem State.updFab_bezel (p : Nat) (f : FabPort → FabPort) (q : Nat) : (s.updFab p f).bezel q = s.bezel q := rfl
@[simp] theorem State.updFab_colMap (p : Nat) (f : FabPort → FabPort) (q : Nat) : (s.updFab p f).colMap q = s.colMap q := rfl
@[simp] theorem State.updFab_group (p : Nat) (f : FabPort → FabPort) (q : Nat) : (s.updFab p f).group q = s.group q := rfl
@[simp] theorem State.updCmd_cox (p : Nat) (f : CmdPort → CmdPort) (q : Nat) : (s.updCmd p f).cox q = s.cox q := rfl
@[simp] theorem State.updCmd_region (p : Nat) (f : CmdPort → CmdPort) (q : Nat) : (s.updCmd p f).region q = s.region q := rfl
@[simp] theorem State.updCmd_core (p : Nat) (f : CmdPort → CmdPort) (q : Nat) : (s.updCmd p f).core q = s.core q := rfl
@[simp] theorem State.updCmd_coreOf (p : Nat) (f : CmdPort → CmdPort) (q : Nat) : (s.updCmd p f).coreOf q = s.coreOf q := rfl
@[simp] theorem State.updCmd_crew (p : Nat) (f : CmdPort → CmdPort) (q d : Nat) : (s.updCmd p f).crew q d = s.crew q d := rfl
@[simp] theorem State.updCmd_sync (p : Nat) (f : CmdPort → CmdPort) (q : Nat) : (s.updCmd p f).sync q = s.sync q := rfl
@[simp] theorem State.updCmd_tree (p : Nat) (f : CmdPort → CmdPort) (q : Nat) : (s.updCmd p f).tree q = s.tree q := rfl
@[simp] theorem State.updCmd_admUnit (p : Nat) (f : CmdPort → CmdPort) (q : Nat) : (s.updCmd p f).admUnit q = s.admUnit q := rfl
@[simp] theorem State.updCmd_link (p : Nat) (f : CmdPort → CmdPort) (q : Nat) : (s.updCmd p f).link q = s.link q := rfl
@[simp] theorem State.updCmd_arb (p : Nat) (f : CmdPort → CmdPort) (q : Nat) : (s.updCmd p f).arb q = s.arb q := rfl
@[simp] theorem State.updCmd_slice (p : Nat) (f : CmdPort → CmdPort) (q : Nat) : (s.updCmd p f).slice q = s.slice q := rfl
@[simp] theorem State.updCmd_stack (p : Nat) (f : CmdPort → CmdPort) (q : Nat) : (s.updCmd p f).stack q = s.stack q := rfl
@[simp] theorem State.updCmd_fport (p : Nat) (f : CmdPort → CmdPort) (q : Nat) : (s.updCmd p f).fport q = s.fport q := rfl
@[simp] theorem State.updCmd_bezel (p : Nat) (f : CmdPort → CmdPort) (q : Nat) : (s.updCmd p f).bezel q = s.bezel q := rfl
@[simp] theorem State.updCmd_colMap (p : Nat) (f : CmdPort → CmdPort) (q : Nat) : (s.updCmd p f).colMap q = s.colMap q := rfl
@[simp] theorem State.updCmd_group (p : Nat) (f : CmdPort → CmdPort) (q : Nat) : (s.updCmd p f).group q = s.group q := rfl
@[simp] theorem State.updSecPort_cox (p : Nat) (f : SecPort → SecPort) (q : Nat) : (s.updSecPort p f).cox q = s.cox q := rfl
@[simp] theorem State.updSecPort_region (p : Nat) (f : SecPort → SecPort) (q : Nat) : (s.updSecPort p f).region q = s.region q := rfl
@[simp] theorem State.updSecPort_core (p : Nat) (f : SecPort → SecPort) (q : Nat) : (s.updSecPort p f).core q = s.core q := rfl
@[simp] theorem State.updSecPort_coreOf (p : Nat) (f : SecPort → SecPort) (q : Nat) : (s.updSecPort p f).coreOf q = s.coreOf q := rfl
@[simp] theorem State.updSecPort_crew (p : Nat) (f : SecPort → SecPort) (q d : Nat) : (s.updSecPort p f).crew q d = s.crew q d := rfl
@[simp] theorem State.updSecPort_sync (p : Nat) (f : SecPort → SecPort) (q : Nat) : (s.updSecPort p f).sync q = s.sync q := rfl
@[simp] theorem State.updSecPort_tree (p : Nat) (f : SecPort → SecPort) (q : Nat) : (s.updSecPort p f).tree q = s.tree q := rfl
@[simp] theorem State.updSecPort_admUnit (p : Nat) (f : SecPort → SecPort) (q : Nat) : (s.updSecPort p f).admUnit q = s.admUnit q := rfl
@[simp] theorem State.updSecPort_link (p : Nat) (f : SecPort → SecPort) (q : Nat) : (s.updSecPort p f).link q = s.link q := rfl
@[simp] theorem State.updSecPort_arb (p : Nat) (f : SecPort → SecPort) (q : Nat) : (s.updSecPort p f).arb q = s.arb q := rfl
@[simp] theorem State.updSecPort_slice (p : Nat) (f : SecPort → SecPort) (q : Nat) : (s.updSecPort p f).slice q = s.slice q := rfl
@[simp] theorem State.updSecPort_stack (p : Nat) (f : SecPort → SecPort) (q : Nat) : (s.updSecPort p f).stack q = s.stack q := rfl
@[simp] theorem State.updSecPort_fport (p : Nat) (f : SecPort → SecPort) (q : Nat) : (s.updSecPort p f).fport q = s.fport q := rfl
@[simp] theorem State.updSecPort_bezel (p : Nat) (f : SecPort → SecPort) (q : Nat) : (s.updSecPort p f).bezel q = s.bezel q := rfl
@[simp] theorem State.updSecPort_colMap (p : Nat) (f : SecPort → SecPort) (q : Nat) : (s.updSecPort p f).colMap q = s.colMap q := rfl
@[simp] theorem State.updSecPort_group (p : Nat) (f : SecPort → SecPort) (q : Nat) : (s.updSecPort p f).group q = s.group q := rfl
@[simp] theorem State.setNet_hub (v : List Packet) (q : Nat) : (s.setNet v).hub q = s.hub q := rfl
@[simp] theorem State.setNet_cox (v : List Packet) (q : Nat) : (s.setNet v).cox q = s.cox q := rfl
@[simp] theorem State.setNet_region (v : List Packet) (q : Nat) : (s.setNet v).region q = s.region q := rfl
@[simp] theorem State.setNet_core (v : List Packet) (q : Nat) : (s.setNet v).core q = s.core q := rfl
@[simp] theorem State.setNet_coreOf (v : List Packet) (q : Nat) : (s.setNet v).coreOf q = s.coreOf q := rfl
@[simp] theorem State.setNet_crew (v : List Packet) (q d : Nat) : (s.setNet v).crew q d = s.crew q d := rfl
@[simp] theorem State.setNet_sync (v : List Packet) (q : Nat) : (s.setNet v).sync q = s.sync q := rfl
@[simp] theorem State.setNet_tree (v : List Packet) (q : Nat) : (s.setNet v).tree q = s.tree q := rfl
@[simp] theorem State.setNet_admUnit (v : List Packet) (q : Nat) : (s.setNet v).admUnit q = s.admUnit q := rfl
@[simp] theorem State.setNet_link (v : List Packet) (q : Nat) : (s.setNet v).link q = s.link q := rfl
@[simp] theorem State.setNet_arb (v : List Packet) (q : Nat) : (s.setNet v).arb q = s.arb q := rfl
@[simp] theorem State.setNet_slice (v : List Packet) (q : Nat) : (s.setNet v).slice q = s.slice q := rfl
@[simp] theorem State.setNet_stack (v : List Packet) (q : Nat) : (s.setNet v).stack q = s.stack q := rfl
@[simp] theorem State.setNet_fport (v : List Packet) (q : Nat) : (s.setNet v).fport q = s.fport q := rfl
@[simp] theorem State.setNet_bezel (v : List Packet) (q : Nat) : (s.setNet v).bezel q = s.bezel q := rfl
@[simp] theorem State.setNet_colMap (v : List Packet) (q : Nat) : (s.setNet v).colMap q = s.colMap q := rfl
@[simp] theorem State.setNet_group (v : List Packet) (q : Nat) : (s.setNet v).group q = s.group q := rfl
@[simp] theorem State.setOffs_hub (v : Tab Nat) (q : Nat) : (s.setOffs v).hub q = s.hub q := rfl
@[simp] theorem State.setOffs_cox (v : Tab Nat) (q : Nat) : (s.setOffs v).cox q = s.cox q := rfl
@[simp] theorem State.setOffs_region (v : Tab Nat) (q : Nat) : (s.setOffs v).region q = s.region q := rfl
@[simp] theorem State.setOffs_core (v : Tab Nat) (q : Nat) : (s.setOffs v).core q = s.core q := rfl
@[simp] theorem State.setOffs_coreOf (v : Tab Nat) (q : Nat) : (s.setOffs v).coreOf q = s.coreOf q := rfl
@[simp] theorem State.setOffs_crew (v : Tab Nat) (q d : Nat) : (s.setOffs v).crew q d = s.crew q d := rfl
@[simp] theorem State.setOffs_sync (v : Tab Nat) (q : Nat) : (s.setOffs v).sync q = s.sync q := rfl
@[simp] theorem State.setOffs_tree (v : Tab Nat) (q : Nat) : (s.setOffs v).tree q = s.tree q := rfl
@[simp] theorem State.setOffs_admUnit (v : Tab Nat) (q : Nat) : (s.setOffs v).admUnit q = s.admUnit q := rfl
@[simp] theorem State.setOffs_link (v : Tab Nat) (q : Nat) : (s.setOffs v).link q = s.link q := rfl
@[simp] theorem State.setOffs_arb (v : Tab Nat) (q : Nat) : (s.setOffs v).arb q = s.arb q := rfl
@[simp] theorem State.setOffs_slice (v : Tab Nat) (q : Nat) : (s.setOffs v).slice q = s.slice q := rfl
@[simp] theorem State.setOffs_stack (v : Tab Nat) (q : Nat) : (s.setOffs v).stack q = s.stack q := rfl
@[simp] theorem State.setOffs_fport (v : Tab Nat) (q : Nat) : (s.setOffs v).fport q = s.fport q := rfl
@[simp] theorem State.setOffs_bezel (v : Tab Nat) (q : Nat) : (s.setOffs v).bezel q = s.bezel q := rfl
@[simp] theorem State.setOffs_colMap (v : Tab Nat) (q : Nat) : (s.setOffs v).colMap q = s.colMap q := rfl
@[simp] theorem State.setOffs_group (v : Tab Nat) (q : Nat) : (s.setOffs v).group q = s.group q := rfl
@[simp] theorem State.setArbs_hub (v : Tab Arb) (q : Nat) : (s.setArbs v).hub q = s.hub q := rfl
@[simp] theorem State.setArbs_cox (v : Tab Arb) (q : Nat) : (s.setArbs v).cox q = s.cox q := rfl
@[simp] theorem State.setArbs_region (v : Tab Arb) (q : Nat) : (s.setArbs v).region q = s.region q := rfl
@[simp] theorem State.setArbs_core (v : Tab Arb) (q : Nat) : (s.setArbs v).core q = s.core q := rfl
@[simp] theorem State.setArbs_coreOf (v : Tab Arb) (q : Nat) : (s.setArbs v).coreOf q = s.coreOf q := rfl
@[simp] theorem State.setArbs_crew (v : Tab Arb) (q d : Nat) : (s.setArbs v).crew q d = s.crew q d := rfl
@[simp] theorem State.setArbs_sync (v : Tab Arb) (q : Nat) : (s.setArbs v).sync q = s.sync q := rfl
@[simp] theorem State.setArbs_tree (v : Tab Arb) (q : Nat) : (s.setArbs v).tree q = s.tree q := rfl
@[simp] theorem State.setArbs_admUnit (v : Tab Arb) (q : Nat) : (s.setArbs v).admUnit q = s.admUnit q := rfl
@[simp] theorem State.setArbs_link (v : Tab Arb) (q : Nat) : (s.setArbs v).link q = s.link q := rfl
@[simp] theorem State.setArbs_slice (v : Tab Arb) (q : Nat) : (s.setArbs v).slice q = s.slice q := rfl
@[simp] theorem State.setArbs_stack (v : Tab Arb) (q : Nat) : (s.setArbs v).stack q = s.stack q := rfl
@[simp] theorem State.setArbs_fport (v : Tab Arb) (q : Nat) : (s.setArbs v).fport q = s.fport q := rfl
@[simp] theorem State.setArbs_bezel (v : Tab Arb) (q : Nat) : (s.setArbs v).bezel q = s.bezel q := rfl
@[simp] theorem State.setArbs_colMap (v : Tab Arb) (q : Nat) : (s.setArbs v).colMap q = s.colMap q := rfl
@[simp] theorem State.setArbs_group (v : Tab Arb) (q : Nat) : (s.setArbs v).group q = s.group q := rfl
@[simp] theorem State.setRings_hub (v : List RingReport) (q : Nat) : (s.setRings v).hub q = s.hub q := rfl
@[simp] theorem State.setRings_cox (v : List RingReport) (q : Nat) : (s.setRings v).cox q = s.cox q := rfl
@[simp] theorem State.setRings_region (v : List RingReport) (q : Nat) : (s.setRings v).region q = s.region q := rfl
@[simp] theorem State.setRings_core (v : List RingReport) (q : Nat) : (s.setRings v).core q = s.core q := rfl
@[simp] theorem State.setRings_coreOf (v : List RingReport) (q : Nat) : (s.setRings v).coreOf q = s.coreOf q := rfl
@[simp] theorem State.setRings_crew (v : List RingReport) (q d : Nat) : (s.setRings v).crew q d = s.crew q d := rfl
@[simp] theorem State.setRings_sync (v : List RingReport) (q : Nat) : (s.setRings v).sync q = s.sync q := rfl
@[simp] theorem State.setRings_tree (v : List RingReport) (q : Nat) : (s.setRings v).tree q = s.tree q := rfl
@[simp] theorem State.setRings_admUnit (v : List RingReport) (q : Nat) : (s.setRings v).admUnit q = s.admUnit q := rfl
@[simp] theorem State.setRings_link (v : List RingReport) (q : Nat) : (s.setRings v).link q = s.link q := rfl
@[simp] theorem State.setRings_arb (v : List RingReport) (q : Nat) : (s.setRings v).arb q = s.arb q := rfl
@[simp] theorem State.setRings_slice (v : List RingReport) (q : Nat) : (s.setRings v).slice q = s.slice q := rfl
@[simp] theorem State.setRings_stack (v : List RingReport) (q : Nat) : (s.setRings v).stack q = s.stack q := rfl
@[simp] theorem State.setRings_fport (v : List RingReport) (q : Nat) : (s.setRings v).fport q = s.fport q := rfl
@[simp] theorem State.setRings_bezel (v : List RingReport) (q : Nat) : (s.setRings v).bezel q = s.bezel q := rfl
@[simp] theorem State.setRings_colMap (v : List RingReport) (q : Nat) : (s.setRings v).colMap q = s.colMap q := rfl
@[simp] theorem State.setRings_group (v : List RingReport) (q : Nat) : (s.setRings v).group q = s.group q := rfl
@[simp] theorem State.setPosted_hub (v : PostResult) (q : Nat) : (s.setPosted v).hub q = s.hub q := rfl
@[simp] theorem State.setPosted_cox (v : PostResult) (q : Nat) : (s.setPosted v).cox q = s.cox q := rfl
@[simp] theorem State.setPosted_region (v : PostResult) (q : Nat) : (s.setPosted v).region q = s.region q := rfl
@[simp] theorem State.setPosted_core (v : PostResult) (q : Nat) : (s.setPosted v).core q = s.core q := rfl
@[simp] theorem State.setPosted_coreOf (v : PostResult) (q : Nat) : (s.setPosted v).coreOf q = s.coreOf q := rfl
@[simp] theorem State.setPosted_crew (v : PostResult) (q d : Nat) : (s.setPosted v).crew q d = s.crew q d := rfl
@[simp] theorem State.setPosted_sync (v : PostResult) (q : Nat) : (s.setPosted v).sync q = s.sync q := rfl
@[simp] theorem State.setPosted_tree (v : PostResult) (q : Nat) : (s.setPosted v).tree q = s.tree q := rfl
@[simp] theorem State.setPosted_admUnit (v : PostResult) (q : Nat) : (s.setPosted v).admUnit q = s.admUnit q := rfl
@[simp] theorem State.setPosted_link (v : PostResult) (q : Nat) : (s.setPosted v).link q = s.link q := rfl
@[simp] theorem State.setPosted_arb (v : PostResult) (q : Nat) : (s.setPosted v).arb q = s.arb q := rfl
@[simp] theorem State.setPosted_slice (v : PostResult) (q : Nat) : (s.setPosted v).slice q = s.slice q := rfl
@[simp] theorem State.setPosted_stack (v : PostResult) (q : Nat) : (s.setPosted v).stack q = s.stack q := rfl
@[simp] theorem State.setPosted_fport (v : PostResult) (q : Nat) : (s.setPosted v).fport q = s.fport q := rfl
@[simp] theorem State.setPosted_bezel (v : PostResult) (q : Nat) : (s.setPosted v).bezel q = s.bezel q := rfl
@[simp] theorem State.setPosted_colMap (v : PostResult) (q : Nat) : (s.setPosted v).colMap q = s.colMap q := rfl
@[simp] theorem State.setPosted_group (v : PostResult) (q : Nat) : (s.setPosted v).group q = s.group q := rfl
@[simp] theorem State.setPostNo_hub (v : Nat) (q : Nat) : (s.setPostNo v).hub q = s.hub q := rfl
@[simp] theorem State.setPostNo_cox (v : Nat) (q : Nat) : (s.setPostNo v).cox q = s.cox q := rfl
@[simp] theorem State.setPostNo_region (v : Nat) (q : Nat) : (s.setPostNo v).region q = s.region q := rfl
@[simp] theorem State.setPostNo_core (v : Nat) (q : Nat) : (s.setPostNo v).core q = s.core q := rfl
@[simp] theorem State.setPostNo_coreOf (v : Nat) (q : Nat) : (s.setPostNo v).coreOf q = s.coreOf q := rfl
@[simp] theorem State.setPostNo_crew (v : Nat) (q d : Nat) : (s.setPostNo v).crew q d = s.crew q d := rfl
@[simp] theorem State.setPostNo_sync (v : Nat) (q : Nat) : (s.setPostNo v).sync q = s.sync q := rfl
@[simp] theorem State.setPostNo_tree (v : Nat) (q : Nat) : (s.setPostNo v).tree q = s.tree q := rfl
@[simp] theorem State.setPostNo_admUnit (v : Nat) (q : Nat) : (s.setPostNo v).admUnit q = s.admUnit q := rfl
@[simp] theorem State.setPostNo_link (v : Nat) (q : Nat) : (s.setPostNo v).link q = s.link q := rfl
@[simp] theorem State.setPostNo_arb (v : Nat) (q : Nat) : (s.setPostNo v).arb q = s.arb q := rfl
@[simp] theorem State.setPostNo_slice (v : Nat) (q : Nat) : (s.setPostNo v).slice q = s.slice q := rfl
@[simp] theorem State.setPostNo_stack (v : Nat) (q : Nat) : (s.setPostNo v).stack q = s.stack q := rfl
@[simp] theorem State.setPostNo_fport (v : Nat) (q : Nat) : (s.setPostNo v).fport q = s.fport q := rfl
@[simp] theorem State.setPostNo_bezel (v : Nat) (q : Nat) : (s.setPostNo v).bezel q = s.bezel q := rfl
@[simp] theorem State.setPostNo_colMap (v : Nat) (q : Nat) : (s.setPostNo v).colMap q = s.colMap q := rfl
@[simp] theorem State.setPostNo_group (v : Nat) (q : Nat) : (s.setPostNo v).group q = s.group q := rfl
@[simp] theorem State.setTallies_hub (v : Tab (List (Nat × Nat))) (q : Nat) : (s.setTallies v).hub q = s.hub q := rfl
@[simp] theorem State.setTallies_cox (v : Tab (List (Nat × Nat))) (q : Nat) : (s.setTallies v).cox q = s.cox q := rfl
@[simp] theorem State.setTallies_region (v : Tab (List (Nat × Nat))) (q : Nat) : (s.setTallies v).region q = s.region q := rfl
@[simp] theorem State.setTallies_core (v : Tab (List (Nat × Nat))) (q : Nat) : (s.setTallies v).core q = s.core q := rfl
@[simp] theorem State.setTallies_coreOf (v : Tab (List (Nat × Nat))) (q : Nat) : (s.setTallies v).coreOf q = s.coreOf q := rfl
@[simp] theorem State.setTallies_crew (v : Tab (List (Nat × Nat))) (q d : Nat) : (s.setTallies v).crew q d = s.crew q d := rfl
@[simp] theorem State.setTallies_sync (v : Tab (List (Nat × Nat))) (q : Nat) : (s.setTallies v).sync q = s.sync q := rfl
@[simp] theorem State.setTallies_tree (v : Tab (List (Nat × Nat))) (q : Nat) : (s.setTallies v).tree q = s.tree q := rfl
@[simp] theorem State.setTallies_admUnit (v : Tab (List (Nat × Nat))) (q : Nat) : (s.setTallies v).admUnit q = s.admUnit q := rfl
@[simp] theorem State.setTallies_link (v : Tab (List (Nat × Nat))) (q : Nat) : (s.setTallies v).link q = s.link q := rfl
@[simp] theorem State.setTallies_arb (v : Tab (List (Nat × Nat))) (q : Nat) : (s.setTallies v).arb q = s.arb q := rfl
@[simp] theorem State.setTallies_slice (v : Tab (List (Nat × Nat))) (q : Nat) : (s.setTallies v).slice q = s.slice q := rfl
@[simp] theorem State.setTallies_stack (v : Tab (List (Nat × Nat))) (q : Nat) : (s.setTallies v).stack q = s.stack q := rfl
@[simp] theorem State.setTallies_fport (v : Tab (List (Nat × Nat))) (q : Nat) : (s.setTallies v).fport q = s.fport q := rfl
@[simp] theorem State.setTallies_bezel (v : Tab (List (Nat × Nat))) (q : Nat) : (s.setTallies v).bezel q = s.bezel q := rfl
@[simp] theorem State.setTallies_colMap (v : Tab (List (Nat × Nat))) (q : Nat) : (s.setTallies v).colMap q = s.colMap q := rfl
@[simp] theorem State.setTallies_group (v : Tab (List (Nat × Nat))) (q : Nat) : (s.setTallies v).group q = s.group q := rfl
@[simp] theorem State.setSram_hub (v : List Host.Cell) (q : Nat) : (s.setSram v).hub q = s.hub q := rfl
@[simp] theorem State.setSram_cox (v : List Host.Cell) (q : Nat) : (s.setSram v).cox q = s.cox q := rfl
@[simp] theorem State.setSram_region (v : List Host.Cell) (q : Nat) : (s.setSram v).region q = s.region q := rfl
@[simp] theorem State.setSram_core (v : List Host.Cell) (q : Nat) : (s.setSram v).core q = s.core q := rfl
@[simp] theorem State.setSram_coreOf (v : List Host.Cell) (q : Nat) : (s.setSram v).coreOf q = s.coreOf q := rfl
@[simp] theorem State.setSram_crew (v : List Host.Cell) (q d : Nat) : (s.setSram v).crew q d = s.crew q d := rfl
@[simp] theorem State.setSram_sync (v : List Host.Cell) (q : Nat) : (s.setSram v).sync q = s.sync q := rfl
@[simp] theorem State.setSram_tree (v : List Host.Cell) (q : Nat) : (s.setSram v).tree q = s.tree q := rfl
@[simp] theorem State.setSram_admUnit (v : List Host.Cell) (q : Nat) : (s.setSram v).admUnit q = s.admUnit q := rfl
@[simp] theorem State.setSram_link (v : List Host.Cell) (q : Nat) : (s.setSram v).link q = s.link q := rfl
@[simp] theorem State.setSram_arb (v : List Host.Cell) (q : Nat) : (s.setSram v).arb q = s.arb q := rfl
@[simp] theorem State.setSram_slice (v : List Host.Cell) (q : Nat) : (s.setSram v).slice q = s.slice q := rfl
@[simp] theorem State.setSram_stack (v : List Host.Cell) (q : Nat) : (s.setSram v).stack q = s.stack q := rfl
@[simp] theorem State.setSram_fport (v : List Host.Cell) (q : Nat) : (s.setSram v).fport q = s.fport q := rfl
@[simp] theorem State.setSram_bezel (v : List Host.Cell) (q : Nat) : (s.setSram v).bezel q = s.bezel q := rfl
@[simp] theorem State.setSram_colMap (v : List Host.Cell) (q : Nat) : (s.setSram v).colMap q = s.colMap q := rfl
@[simp] theorem State.setSram_group (v : List Host.Cell) (q : Nat) : (s.setSram v).group q = s.group q := rfl
@[simp] theorem State.setSramUe_hub (v : NSet) (q : Nat) : (s.setSramUe v).hub q = s.hub q := rfl
@[simp] theorem State.setSramUe_cox (v : NSet) (q : Nat) : (s.setSramUe v).cox q = s.cox q := rfl
@[simp] theorem State.setSramUe_region (v : NSet) (q : Nat) : (s.setSramUe v).region q = s.region q := rfl
@[simp] theorem State.setSramUe_core (v : NSet) (q : Nat) : (s.setSramUe v).core q = s.core q := rfl
@[simp] theorem State.setSramUe_coreOf (v : NSet) (q : Nat) : (s.setSramUe v).coreOf q = s.coreOf q := rfl
@[simp] theorem State.setSramUe_crew (v : NSet) (q d : Nat) : (s.setSramUe v).crew q d = s.crew q d := rfl
@[simp] theorem State.setSramUe_sync (v : NSet) (q : Nat) : (s.setSramUe v).sync q = s.sync q := rfl
@[simp] theorem State.setSramUe_tree (v : NSet) (q : Nat) : (s.setSramUe v).tree q = s.tree q := rfl
@[simp] theorem State.setSramUe_admUnit (v : NSet) (q : Nat) : (s.setSramUe v).admUnit q = s.admUnit q := rfl
@[simp] theorem State.setSramUe_link (v : NSet) (q : Nat) : (s.setSramUe v).link q = s.link q := rfl
@[simp] theorem State.setSramUe_arb (v : NSet) (q : Nat) : (s.setSramUe v).arb q = s.arb q := rfl
@[simp] theorem State.setSramUe_slice (v : NSet) (q : Nat) : (s.setSramUe v).slice q = s.slice q := rfl
@[simp] theorem State.setSramUe_stack (v : NSet) (q : Nat) : (s.setSramUe v).stack q = s.stack q := rfl
@[simp] theorem State.setSramUe_fport (v : NSet) (q : Nat) : (s.setSramUe v).fport q = s.fport q := rfl
@[simp] theorem State.setSramUe_bezel (v : NSet) (q : Nat) : (s.setSramUe v).bezel q = s.bezel q := rfl
@[simp] theorem State.setSramUe_colMap (v : NSet) (q : Nat) : (s.setSramUe v).colMap q = s.colMap q := rfl
@[simp] theorem State.setSramUe_group (v : NSet) (q : Nat) : (s.setSramUe v).group q = s.group q := rfl
@[simp] theorem State.setSramCe_hub (v : NSet) (q : Nat) : (s.setSramCe v).hub q = s.hub q := rfl
@[simp] theorem State.setSramCe_cox (v : NSet) (q : Nat) : (s.setSramCe v).cox q = s.cox q := rfl
@[simp] theorem State.setSramCe_region (v : NSet) (q : Nat) : (s.setSramCe v).region q = s.region q := rfl
@[simp] theorem State.setSramCe_core (v : NSet) (q : Nat) : (s.setSramCe v).core q = s.core q := rfl
@[simp] theorem State.setSramCe_coreOf (v : NSet) (q : Nat) : (s.setSramCe v).coreOf q = s.coreOf q := rfl
@[simp] theorem State.setSramCe_crew (v : NSet) (q d : Nat) : (s.setSramCe v).crew q d = s.crew q d := rfl
@[simp] theorem State.setSramCe_sync (v : NSet) (q : Nat) : (s.setSramCe v).sync q = s.sync q := rfl
@[simp] theorem State.setSramCe_tree (v : NSet) (q : Nat) : (s.setSramCe v).tree q = s.tree q := rfl
@[simp] theorem State.setSramCe_admUnit (v : NSet) (q : Nat) : (s.setSramCe v).admUnit q = s.admUnit q := rfl
@[simp] theorem State.setSramCe_link (v : NSet) (q : Nat) : (s.setSramCe v).link q = s.link q := rfl
@[simp] theorem State.setSramCe_arb (v : NSet) (q : Nat) : (s.setSramCe v).arb q = s.arb q := rfl
@[simp] theorem State.setSramCe_slice (v : NSet) (q : Nat) : (s.setSramCe v).slice q = s.slice q := rfl
@[simp] theorem State.setSramCe_stack (v : NSet) (q : Nat) : (s.setSramCe v).stack q = s.stack q := rfl
@[simp] theorem State.setSramCe_fport (v : NSet) (q : Nat) : (s.setSramCe v).fport q = s.fport q := rfl
@[simp] theorem State.setSramCe_bezel (v : NSet) (q : Nat) : (s.setSramCe v).bezel q = s.bezel q := rfl
@[simp] theorem State.setSramCe_colMap (v : NSet) (q : Nat) : (s.setSramCe v).colMap q = s.colMap q := rfl
@[simp] theorem State.setSramCe_group (v : NSet) (q : Nat) : (s.setSramCe v).group q = s.group q := rfl
@[simp] theorem State.setHbm_hub (v : List Host.Cell) (q : Nat) : (s.setHbm v).hub q = s.hub q := rfl
@[simp] theorem State.setHbm_cox (v : List Host.Cell) (q : Nat) : (s.setHbm v).cox q = s.cox q := rfl
@[simp] theorem State.setHbm_region (v : List Host.Cell) (q : Nat) : (s.setHbm v).region q = s.region q := rfl
@[simp] theorem State.setHbm_core (v : List Host.Cell) (q : Nat) : (s.setHbm v).core q = s.core q := rfl
@[simp] theorem State.setHbm_coreOf (v : List Host.Cell) (q : Nat) : (s.setHbm v).coreOf q = s.coreOf q := rfl
@[simp] theorem State.setHbm_crew (v : List Host.Cell) (q d : Nat) : (s.setHbm v).crew q d = s.crew q d := rfl
@[simp] theorem State.setHbm_sync (v : List Host.Cell) (q : Nat) : (s.setHbm v).sync q = s.sync q := rfl
@[simp] theorem State.setHbm_tree (v : List Host.Cell) (q : Nat) : (s.setHbm v).tree q = s.tree q := rfl
@[simp] theorem State.setHbm_admUnit (v : List Host.Cell) (q : Nat) : (s.setHbm v).admUnit q = s.admUnit q := rfl
@[simp] theorem State.setHbm_link (v : List Host.Cell) (q : Nat) : (s.setHbm v).link q = s.link q := rfl
@[simp] theorem State.setHbm_arb (v : List Host.Cell) (q : Nat) : (s.setHbm v).arb q = s.arb q := rfl
@[simp] theorem State.setHbm_slice (v : List Host.Cell) (q : Nat) : (s.setHbm v).slice q = s.slice q := rfl
@[simp] theorem State.setHbm_stack (v : List Host.Cell) (q : Nat) : (s.setHbm v).stack q = s.stack q := rfl
@[simp] theorem State.setHbm_fport (v : List Host.Cell) (q : Nat) : (s.setHbm v).fport q = s.fport q := rfl
@[simp] theorem State.setHbm_bezel (v : List Host.Cell) (q : Nat) : (s.setHbm v).bezel q = s.bezel q := rfl
@[simp] theorem State.setHbm_colMap (v : List Host.Cell) (q : Nat) : (s.setHbm v).colMap q = s.colMap q := rfl
@[simp] theorem State.setHbm_group (v : List Host.Cell) (q : Nat) : (s.setHbm v).group q = s.group q := rfl
@[simp] theorem State.setHbmUe_hub (v : NSet) (q : Nat) : (s.setHbmUe v).hub q = s.hub q := rfl
@[simp] theorem State.setHbmUe_cox (v : NSet) (q : Nat) : (s.setHbmUe v).cox q = s.cox q := rfl
@[simp] theorem State.setHbmUe_region (v : NSet) (q : Nat) : (s.setHbmUe v).region q = s.region q := rfl
@[simp] theorem State.setHbmUe_core (v : NSet) (q : Nat) : (s.setHbmUe v).core q = s.core q := rfl
@[simp] theorem State.setHbmUe_coreOf (v : NSet) (q : Nat) : (s.setHbmUe v).coreOf q = s.coreOf q := rfl
@[simp] theorem State.setHbmUe_crew (v : NSet) (q d : Nat) : (s.setHbmUe v).crew q d = s.crew q d := rfl
@[simp] theorem State.setHbmUe_sync (v : NSet) (q : Nat) : (s.setHbmUe v).sync q = s.sync q := rfl
@[simp] theorem State.setHbmUe_tree (v : NSet) (q : Nat) : (s.setHbmUe v).tree q = s.tree q := rfl
@[simp] theorem State.setHbmUe_admUnit (v : NSet) (q : Nat) : (s.setHbmUe v).admUnit q = s.admUnit q := rfl
@[simp] theorem State.setHbmUe_link (v : NSet) (q : Nat) : (s.setHbmUe v).link q = s.link q := rfl
@[simp] theorem State.setHbmUe_arb (v : NSet) (q : Nat) : (s.setHbmUe v).arb q = s.arb q := rfl
@[simp] theorem State.setHbmUe_slice (v : NSet) (q : Nat) : (s.setHbmUe v).slice q = s.slice q := rfl
@[simp] theorem State.setHbmUe_stack (v : NSet) (q : Nat) : (s.setHbmUe v).stack q = s.stack q := rfl
@[simp] theorem State.setHbmUe_fport (v : NSet) (q : Nat) : (s.setHbmUe v).fport q = s.fport q := rfl
@[simp] theorem State.setHbmUe_bezel (v : NSet) (q : Nat) : (s.setHbmUe v).bezel q = s.bezel q := rfl
@[simp] theorem State.setHbmUe_colMap (v : NSet) (q : Nat) : (s.setHbmUe v).colMap q = s.colMap q := rfl
@[simp] theorem State.setHbmUe_group (v : NSet) (q : Nat) : (s.setHbmUe v).group q = s.group q := rfl
@[simp] theorem State.setHbmCe_hub (v : NSet) (q : Nat) : (s.setHbmCe v).hub q = s.hub q := rfl
@[simp] theorem State.setHbmCe_cox (v : NSet) (q : Nat) : (s.setHbmCe v).cox q = s.cox q := rfl
@[simp] theorem State.setHbmCe_region (v : NSet) (q : Nat) : (s.setHbmCe v).region q = s.region q := rfl
@[simp] theorem State.setHbmCe_core (v : NSet) (q : Nat) : (s.setHbmCe v).core q = s.core q := rfl
@[simp] theorem State.setHbmCe_coreOf (v : NSet) (q : Nat) : (s.setHbmCe v).coreOf q = s.coreOf q := rfl
@[simp] theorem State.setHbmCe_crew (v : NSet) (q d : Nat) : (s.setHbmCe v).crew q d = s.crew q d := rfl
@[simp] theorem State.setHbmCe_sync (v : NSet) (q : Nat) : (s.setHbmCe v).sync q = s.sync q := rfl
@[simp] theorem State.setHbmCe_tree (v : NSet) (q : Nat) : (s.setHbmCe v).tree q = s.tree q := rfl
@[simp] theorem State.setHbmCe_admUnit (v : NSet) (q : Nat) : (s.setHbmCe v).admUnit q = s.admUnit q := rfl
@[simp] theorem State.setHbmCe_link (v : NSet) (q : Nat) : (s.setHbmCe v).link q = s.link q := rfl
@[simp] theorem State.setHbmCe_arb (v : NSet) (q : Nat) : (s.setHbmCe v).arb q = s.arb q := rfl
@[simp] theorem State.setHbmCe_slice (v : NSet) (q : Nat) : (s.setHbmCe v).slice q = s.slice q := rfl
@[simp] theorem State.setHbmCe_stack (v : NSet) (q : Nat) : (s.setHbmCe v).stack q = s.stack q := rfl
@[simp] theorem State.setHbmCe_fport (v : NSet) (q : Nat) : (s.setHbmCe v).fport q = s.fport q := rfl
@[simp] theorem State.setHbmCe_bezel (v : NSet) (q : Nat) : (s.setHbmCe v).bezel q = s.bezel q := rfl
@[simp] theorem State.setHbmCe_colMap (v : NSet) (q : Nat) : (s.setHbmCe v).colMap q = s.colMap q := rfl
@[simp] theorem State.setHbmCe_group (v : NSet) (q : Nat) : (s.setHbmCe v).group q = s.group q := rfl
@[simp] theorem State.emit_hub (o : Out) (q : Nat) : (s.emit o).hub q = s.hub q := rfl
@[simp] theorem State.emit_cox (o : Out) (q : Nat) : (s.emit o).cox q = s.cox q := rfl
@[simp] theorem State.emit_region (o : Out) (q : Nat) : (s.emit o).region q = s.region q := rfl
@[simp] theorem State.emit_core (o : Out) (q : Nat) : (s.emit o).core q = s.core q := rfl
@[simp] theorem State.emit_coreOf (o : Out) (q : Nat) : (s.emit o).coreOf q = s.coreOf q := rfl
@[simp] theorem State.emit_crew (o : Out) (q d : Nat) : (s.emit o).crew q d = s.crew q d := rfl
@[simp] theorem State.emit_sync (o : Out) (q : Nat) : (s.emit o).sync q = s.sync q := rfl
@[simp] theorem State.emit_tree (o : Out) (q : Nat) : (s.emit o).tree q = s.tree q := rfl
@[simp] theorem State.emit_admUnit (o : Out) (q : Nat) : (s.emit o).admUnit q = s.admUnit q := rfl
@[simp] theorem State.emit_link (o : Out) (q : Nat) : (s.emit o).link q = s.link q := rfl
@[simp] theorem State.emit_arb (o : Out) (q : Nat) : (s.emit o).arb q = s.arb q := rfl
@[simp] theorem State.emit_slice (o : Out) (q : Nat) : (s.emit o).slice q = s.slice q := rfl
@[simp] theorem State.emit_stack (o : Out) (q : Nat) : (s.emit o).stack q = s.stack q := rfl
@[simp] theorem State.emit_fport (o : Out) (q : Nat) : (s.emit o).fport q = s.fport q := rfl
@[simp] theorem State.emit_bezel (o : Out) (q : Nat) : (s.emit o).bezel q = s.bezel q := rfl
@[simp] theorem State.emit_colMap (o : Out) (q : Nat) : (s.emit o).colMap q = s.colMap q := rfl
@[simp] theorem State.emit_group (o : Out) (q : Nat) : (s.emit o).group q = s.group q := rfl
@[simp] theorem State.place_hub (o : Packet) (q : Nat) : (s.place o).hub q = s.hub q := rfl
@[simp] theorem State.place_cox (o : Packet) (q : Nat) : (s.place o).cox q = s.cox q := rfl
@[simp] theorem State.place_region (o : Packet) (q : Nat) : (s.place o).region q = s.region q := rfl
@[simp] theorem State.place_core (o : Packet) (q : Nat) : (s.place o).core q = s.core q := rfl
@[simp] theorem State.place_coreOf (o : Packet) (q : Nat) : (s.place o).coreOf q = s.coreOf q := rfl
@[simp] theorem State.place_crew (o : Packet) (q d : Nat) : (s.place o).crew q d = s.crew q d := rfl
@[simp] theorem State.place_sync (o : Packet) (q : Nat) : (s.place o).sync q = s.sync q := rfl
@[simp] theorem State.place_tree (o : Packet) (q : Nat) : (s.place o).tree q = s.tree q := rfl
@[simp] theorem State.place_admUnit (o : Packet) (q : Nat) : (s.place o).admUnit q = s.admUnit q := rfl
@[simp] theorem State.place_link (o : Packet) (q : Nat) : (s.place o).link q = s.link q := rfl
@[simp] theorem State.place_arb (o : Packet) (q : Nat) : (s.place o).arb q = s.arb q := rfl
@[simp] theorem State.place_slice (o : Packet) (q : Nat) : (s.place o).slice q = s.slice q := rfl
@[simp] theorem State.place_stack (o : Packet) (q : Nat) : (s.place o).stack q = s.stack q := rfl
@[simp] theorem State.place_fport (o : Packet) (q : Nat) : (s.place o).fport q = s.fport q := rfl
@[simp] theorem State.place_bezel (o : Packet) (q : Nat) : (s.place o).bezel q = s.bezel q := rfl
@[simp] theorem State.place_colMap (o : Packet) (q : Nat) : (s.place o).colMap q = s.colMap q := rfl
@[simp] theorem State.place_group (o : Packet) (q : Nat) : (s.place o).group q = s.group q := rfl
@[simp] theorem State.dropPacket_hub (i : Nat) (q : Nat) : (s.dropPacket i).hub q = s.hub q := rfl
@[simp] theorem State.dropPacket_cox (i : Nat) (q : Nat) : (s.dropPacket i).cox q = s.cox q := rfl
@[simp] theorem State.dropPacket_region (i : Nat) (q : Nat) : (s.dropPacket i).region q = s.region q := rfl
@[simp] theorem State.dropPacket_core (i : Nat) (q : Nat) : (s.dropPacket i).core q = s.core q := rfl
@[simp] theorem State.dropPacket_coreOf (i : Nat) (q : Nat) : (s.dropPacket i).coreOf q = s.coreOf q := rfl
@[simp] theorem State.dropPacket_crew (i : Nat) (q d : Nat) : (s.dropPacket i).crew q d = s.crew q d := rfl
@[simp] theorem State.dropPacket_sync (i : Nat) (q : Nat) : (s.dropPacket i).sync q = s.sync q := rfl
@[simp] theorem State.dropPacket_tree (i : Nat) (q : Nat) : (s.dropPacket i).tree q = s.tree q := rfl
@[simp] theorem State.dropPacket_admUnit (i : Nat) (q : Nat) : (s.dropPacket i).admUnit q = s.admUnit q := rfl
@[simp] theorem State.dropPacket_link (i : Nat) (q : Nat) : (s.dropPacket i).link q = s.link q := rfl
@[simp] theorem State.dropPacket_arb (i : Nat) (q : Nat) : (s.dropPacket i).arb q = s.arb q := rfl
@[simp] theorem State.dropPacket_slice (i : Nat) (q : Nat) : (s.dropPacket i).slice q = s.slice q := rfl
@[simp] theorem State.dropPacket_stack (i : Nat) (q : Nat) : (s.dropPacket i).stack q = s.stack q := rfl
@[simp] theorem State.dropPacket_fport (i : Nat) (q : Nat) : (s.dropPacket i).fport q = s.fport q := rfl
@[simp] theorem State.dropPacket_bezel (i : Nat) (q : Nat) : (s.dropPacket i).bezel q = s.bezel q := rfl
@[simp] theorem State.dropPacket_colMap (i : Nat) (q : Nat) : (s.dropPacket i).colMap q = s.colMap q := rfl
@[simp] theorem State.dropPacket_group (i : Nat) (q : Nat) : (s.dropPacket i).group q = s.group q := rfl
@[simp] theorem State.draw_hub (q : Nat) : (s.draw).hub q = s.hub q := rfl
@[simp] theorem State.draw_cox (q : Nat) : (s.draw).cox q = s.cox q := rfl
@[simp] theorem State.draw_region (q : Nat) : (s.draw).region q = s.region q := rfl
@[simp] theorem State.draw_core (q : Nat) : (s.draw).core q = s.core q := rfl
@[simp] theorem State.draw_coreOf (q : Nat) : (s.draw).coreOf q = s.coreOf q := rfl
@[simp] theorem State.draw_crew (q d : Nat) : (s.draw).crew q d = s.crew q d := rfl
@[simp] theorem State.draw_sync (q : Nat) : (s.draw).sync q = s.sync q := rfl
@[simp] theorem State.draw_tree (q : Nat) : (s.draw).tree q = s.tree q := rfl
@[simp] theorem State.draw_admUnit (q : Nat) : (s.draw).admUnit q = s.admUnit q := rfl
@[simp] theorem State.draw_link (q : Nat) : (s.draw).link q = s.link q := rfl
@[simp] theorem State.draw_arb (q : Nat) : (s.draw).arb q = s.arb q := rfl
@[simp] theorem State.draw_slice (q : Nat) : (s.draw).slice q = s.slice q := rfl
@[simp] theorem State.draw_stack (q : Nat) : (s.draw).stack q = s.stack q := rfl
@[simp] theorem State.draw_fport (q : Nat) : (s.draw).fport q = s.fport q := rfl
@[simp] theorem State.draw_bezel (q : Nat) : (s.draw).bezel q = s.bezel q := rfl
@[simp] theorem State.draw_colMap (q : Nat) : (s.draw).colMap q = s.colMap q := rfl
@[simp] theorem State.draw_group (q : Nat) : (s.draw).group q = s.group q := rfl
@[simp] theorem State.send_cox (p : Packet) (q : Nat) : (s.send p).cox q = s.cox q := by unfold State.send; split <;> rfl
@[simp] theorem State.send_region (p : Packet) (q : Nat) : (s.send p).region q = s.region q := by unfold State.send; split <;> rfl
@[simp] theorem State.send_core (p : Packet) (q : Nat) : (s.send p).core q = s.core q := by unfold State.send; split <;> rfl
@[simp] theorem State.send_coreOf (p : Packet) (q : Nat) : (s.send p).coreOf q = s.coreOf q := by unfold State.send; split <;> rfl
@[simp] theorem State.send_crew (p : Packet) (q d : Nat) : (s.send p).crew q d = s.crew q d := by unfold State.send; split <;> rfl
@[simp] theorem State.send_sync (p : Packet) (q : Nat) : (s.send p).sync q = s.sync q := by unfold State.send; split <;> rfl
@[simp] theorem State.send_tree (p : Packet) (q : Nat) : (s.send p).tree q = s.tree q := by unfold State.send; split <;> rfl
@[simp] theorem State.send_admUnit (p : Packet) (q : Nat) : (s.send p).admUnit q = s.admUnit q := by unfold State.send; split <;> rfl
@[simp] theorem State.send_link (p : Packet) (q : Nat) : (s.send p).link q = s.link q := by unfold State.send; split <;> rfl
@[simp] theorem State.send_arb (p : Packet) (q : Nat) : (s.send p).arb q = s.arb q := by unfold State.send; split <;> rfl
@[simp] theorem State.send_slice (p : Packet) (q : Nat) : (s.send p).slice q = s.slice q := by unfold State.send; split <;> rfl
@[simp] theorem State.send_stack (p : Packet) (q : Nat) : (s.send p).stack q = s.stack q := by unfold State.send; split <;> rfl
@[simp] theorem State.send_fport (p : Packet) (q : Nat) : (s.send p).fport q = s.fport q := by unfold State.send; split <;> rfl
@[simp] theorem State.send_bezel (p : Packet) (q : Nat) : (s.send p).bezel q = s.bezel q := by unfold State.send; split <;> rfl
@[simp] theorem State.send_colMap (p : Packet) (q : Nat) : (s.send p).colMap q = s.colMap q := by unfold State.send; split <;> rfl
@[simp] theorem State.send_group (p : Packet) (q : Nat) : (s.send p).group q = s.group q := by unfold State.send; split <;> rfl

/-! ## The unit an updater changes: in a canonical table the read gives what was written -/

theorem State.updHub_hub (p : Nat) (f : Hub → Hub) (q : Nat) (h : Tab.wf {} s.hubs = true) : (s.updHub p f).hub q = if q = p then f (s.hub p) else s.hub q :=
  Tab.get_upd p q f h
theorem State.updCox_cox (p : Nat) (f : Cox → Cox) (q : Nat) (h : Tab.wf {} s.coxes = true) : (s.updCox p f).cox q = if q = p then f (s.cox p) else s.cox q :=
  Tab.get_upd p q f h
theorem State.updRegion_region (p : Nat) (f : Region → Region) (q : Nat) (h : Tab.wf {} s.regions = true) : (s.updRegion p f).region q = if q = p then f (s.region p) else s.region q :=
  Tab.get_upd p q f h
theorem State.updCore_core (p : Nat) (f : Core → Core) (q : Nat) (h : Tab.wf {} s.cores = true) : (s.updCore p f).core q = if q = p then f (s.core p) else s.core q :=
  Tab.get_upd p q f h
theorem State.updSync_sync (p : Nat) (f : SyncObj → SyncObj) (q : Nat) (h : Tab.wf {} s.syncs = true) : (s.updSync p f).sync q = if q = p then f (s.sync p) else s.sync q :=
  Tab.get_upd p q f h
theorem State.updTree_tree (p : Nat) (f : Tree → Tree) (q : Nat) (h : Tab.wf {} s.trees = true) : (s.updTree p f).tree q = if q = p then f (s.tree p) else s.tree q :=
  Tab.get_upd p q f h
theorem State.updAdmit_admUnit (p : Nat) (f : Admit → Admit) (q : Nat) (h : Tab.wf {} s.admits = true) : (s.updAdmit p f).admUnit q = if q = p then f (s.admUnit p) else s.admUnit q :=
  Tab.get_upd p q f h
theorem State.updLink_link (p : Nat) (f : LinkEnd → LinkEnd) (q : Nat) (h : Tab.wf {} s.links = true) : (s.updLink p f).link q = if q = p then f (s.link p) else s.link q :=
  Tab.get_upd p q f h
theorem State.updArb_arb (p : Nat) (f : Arb → Arb) (q : Nat) (h : Tab.wf {} s.arbs = true) : (s.updArb p f).arb q = if q = p then f (s.arb p) else s.arb q :=
  Tab.get_upd p q f h
theorem State.updSlice_slice (p : Nat) (f : Slice → Slice) (q : Nat) (h : Tab.wf {} s.slices = true) : (s.updSlice p f).slice q = if q = p then f (s.slice p) else s.slice q :=
  Tab.get_upd p q f h
theorem State.updStack_stack (p : Nat) (f : Stack → Stack) (q : Nat) (h : Tab.wf {} s.stackTab = true) : (s.updStack p f).stack q = if q = p then f (s.stack p) else s.stack q :=
  Tab.get_upd p q f h
theorem State.updFport_fport (p : Nat) (f : FPort → FPort) (q : Nat) (h : Tab.wf {} s.fports = true) : (s.updFport p f).fport q = if q = p then f (s.fport p) else s.fport q :=
  Tab.get_upd p q f h
theorem State.updBezel_bezel (p : Nat) (f : Bezel → Bezel) (q : Nat) (h : Tab.wf {} s.bezels = true) : (s.updBezel p f).bezel q = if q = p then f (s.bezel p) else s.bezel q :=
  Tab.get_upd p q f h
theorem State.updColMap_colMap (p : Nat) (f : ColMap → ColMap) (q : Nat) (h : Tab.wf {} s.colMaps = true) : (s.updColMap p f).colMap q = if q = p then f (s.colMap p) else s.colMap q :=
  Tab.get_upd p q f h
theorem State.setCoreOf_coreOf (l : Nat) (k : Option Nat) (q : Nat) (h : Tab.wf none s.lcidAt = true) :
    (s.setCoreOf l k).coreOf q = if q = l then k else s.coreOf q :=
  Tab.get_put l q k h
theorem State.updGroup_group (p : Nat) (f : Group → Group) (q : Nat) (h : Tab.wf {} s.power.groups = true) :
    (s.updGroup p f).group q = if q = p then f (s.group p) else s.group q :=
  Tab.get_upd p q f h

/-! ## Lists of updates -/

@[simp] theorem State.each_nil {α : Type} (f : State → α → State) : s.each [] f = s := rfl
@[simp] theorem State.each_cons {α : Type} (x : α) (l : List α) (f : State → α → State) : s.each (x :: l) f = (f s x).each l f := rfl

end Sys2Proof.Machine
end

