-- ==== Sys2Proof/Laws/Kept.lean ====
section
/-!
SUPPORT. What no command changes, and what every command keeps: the part, the factory list, the queue's rest, a floor that
does not fall, time that does not go back, and the canonical form of every table and memory. Kept x s says it of s for the
values x; one lemma for each way of changing the state.
-/
namespace Sys2Proof.Machine

/-- The values that a run of commands keeps. -/
structure Mark where
  part    : Part
  factory : List Defect
  pending : List Sys2Proof.Instr
  floor   : Nat
  now     : Nat

/-- The canonical form, table by table. -/
structure Canon (s : State) : Prop where
  sram : Tab.wf 0 s.sram = true
  hbm : Tab.wf 0 s.hbm = true
  hubs : Tab.wf {} s.hubs = true
  colMaps : Tab.wf {} s.colMaps = true
  coxes : Tab.wf {} s.coxes = true
  regions : Tab.wf {} s.regions = true
  cores : Tab.wf {} s.cores = true
  lcidAt : Tab.wf none s.lcidAt = true
  crews : Tab.wf {} s.crews = true
  syncs : Tab.wf {} s.syncs = true
  trees : Tab.wf {} s.trees = true
  admits : Tab.wf {} s.admits = true
  links : Tab.wf {} s.links = true
  offs : Tab.wf 0 s.offs = true
  arbs : Tab.wf {} s.arbs = true
  slices : Tab.wf {} s.slices = true
  stackTab : Tab.wf {} s.stackTab = true
  tallies : Tab.wf [] s.tallies = true
  fports : Tab.wf {} s.fports = true
  bezels : Tab.wf {} s.bezels = true

theorem State.canonical_iff (s : State) : s.canonical = true ↔ Canon s := by
  unfold State.canonical Memory.wf
  simp only [Bool.and_eq_true]
  constructor
  · intro h
    constructor <;> simp only [h]
  · intro h
    simp only [h.sram, h.hbm, h.hubs, h.colMaps, h.coxes, h.regions, h.cores, h.lcidAt, h.crews, h.syncs, h.trees, h.admits, h.links,
      h.offs, h.arbs, h.slices, h.stackTab, h.tallies, h.fports, h.bezels, and_self]

/-- What holds of every state that commands lead to from one with the values x. -/
structure Kept (x : Mark) (s : State) : Prop where
  part    : s.part = x.part
  factory : s.defects.factory = x.factory
  pending : s.pending = x.pending
  floor   : x.floor ≤ s.sec.floor
  now     : x.now ≤ s.now
  canon   : Canon s

/-- The mark of a state. -/
def State.mark (s : State) : Mark := { part := s.part, factory := s.defects.factory, pending := s.pending, floor := s.sec.floor, now := s.now }

theorem State.kept_mark {s : State} (h : s.canonical = true) : Kept s.mark s :=
  ⟨rfl, rfl, rfl, Nat.le_refl _, Nat.le_refl _, (State.canonical_iff s).mp h⟩

variable {x : Mark} {s : State}

/-! ## One field set -/

theorem Kept.set_fv {v : Nat} (h : Kept x s) : Kept x { s with fv := v } :=
  ⟨h.part, h.factory, h.pending, h.floor, h.now, { h.canon with sram := h.canon.sram }⟩
theorem Kept.set_supply {v : Supply} (h : Kept x s) : Kept x { s with supply := v } :=
  ⟨h.part, h.factory, h.pending, h.floor, h.now, { h.canon with sram := h.canon.sram }⟩
theorem Kept.set_stroke {v : Stroke} (h : Kept x s) : Kept x { s with stroke := v } :=
  ⟨h.part, h.factory, h.pending, h.floor, h.now, { h.canon with sram := h.canon.sram }⟩
theorem Kept.set_bring {v : BringUp} (h : Kept x s) : Kept x { s with bring := v } :=
  ⟨h.part, h.factory, h.pending, h.floor, h.now, { h.canon with sram := h.canon.sram }⟩
theorem Kept.set_net {v : List Packet} (h : Kept x s) : Kept x { s with net := v } :=
  ⟨h.part, h.factory, h.pending, h.floor, h.now, { h.canon with sram := h.canon.sram }⟩
theorem Kept.set_sramUe {v : NSet} (h : Kept x s) : Kept x { s with sramUe := v } :=
  ⟨h.part, h.factory, h.pending, h.floor, h.now, { h.canon with sram := h.canon.sram }⟩
theorem Kept.set_sramCe {v : NSet} (h : Kept x s) : Kept x { s with sramCe := v } :=
  ⟨h.part, h.factory, h.pending, h.floor, h.now, { h.canon with sram := h.canon.sram }⟩
theorem Kept.set_hbmUe {v : NSet} (h : Kept x s) : Kept x { s with hbmUe := v } :=
  ⟨h.part, h.factory, h.pending, h.floor, h.now, { h.canon with sram := h.canon.sram }⟩
theorem Kept.set_hbmCe {v : NSet} (h : Kept x s) : Kept x { s with hbmCe := v } :=
  ⟨h.part, h.factory, h.pending, h.floor, h.now, { h.canon with sram := h.canon.sram }⟩
theorem Kept.set_power {v : Power} (h : Kept x s) : Kept x { s with power := v } :=
  ⟨h.part, h.factory, h.pending, h.floor, h.now, { h.canon with sram := h.canon.sram }⟩
theorem Kept.set_cool {v : Cooling} (h : Kept x s) : Kept x { s with cool := v } :=
  ⟨h.part, h.factory, h.pending, h.floor, h.now, { h.canon with sram := h.canon.sram }⟩
theorem Kept.set_rings {v : List RingReport} (h : Kept x s) : Kept x { s with rings := v } :=
  ⟨h.part, h.factory, h.pending, h.floor, h.now, { h.canon with sram := h.canon.sram }⟩
theorem Kept.set_posted {v : PostResult} (h : Kept x s) : Kept x { s with posted := v } :=
  ⟨h.part, h.factory, h.pending, h.floor, h.now, { h.canon with sram := h.canon.sram }⟩
theorem Kept.set_postNo {v : Nat} (h : Kept x s) : Kept x { s with postNo := v } :=
  ⟨h.part, h.factory, h.pending, h.floor, h.now, { h.canon with sram := h.canon.sram }⟩
theorem Kept.set_out {v : List Out} (h : Kept x s) : Kept x { s with out := v } :=
  ⟨h.part, h.factory, h.pending, h.floor, h.now, { h.canon with sram := h.canon.sram }⟩
theorem Kept.set_sec {v : Security} (h : Kept x s) (hv : s.sec.floor ≤ v.floor) : Kept x { s with sec := v } :=
  ⟨h.part, h.factory, h.pending, Nat.le_trans h.floor hv, h.now, { h.canon with sram := h.canon.sram }⟩
theorem Kept.set_defects {v : Defects} (h : Kept x s) (hv : v.factory = s.defects.factory) : Kept x { s with defects := v } :=
  ⟨h.part, hv.trans h.factory, h.pending, h.floor, h.now, { h.canon with sram := h.canon.sram }⟩
theorem Kept.set_sram {v : List Host.Cell} (h : Kept x s) (hv : Tab.wf 0 v = true) : Kept x { s with sram := v } :=
  ⟨h.part, h.factory, h.pending, h.floor, h.now, { h.canon with sram := hv }⟩
theorem Kept.set_hbm {v : List Host.Cell} (h : Kept x s) (hv : Tab.wf 0 v = true) : Kept x { s with hbm := v } :=
  ⟨h.part, h.factory, h.pending, h.floor, h.now, { h.canon with hbm := hv }⟩
theorem Kept.set_hubs {v : Tab Hub} (h : Kept x s) (hv : Tab.wf {} v = true) : Kept x { s with hubs := v } :=
  ⟨h.part, h.factory, h.pending, h.floor, h.now, { h.canon with hubs := hv }⟩
theorem Kept.set_colMaps {v : Tab ColMap} (h : Kept x s) (hv : Tab.wf {} v = true) : Kept x { s with colMaps := v } :=
  ⟨h.part, h.factory, h.pending, h.floor, h.now, { h.canon with colMaps := hv }⟩
theorem Kept.set_coxes {v : Tab Cox} (h : Kept x s) (hv : Tab.wf {} v = true) : Kept x { s with coxes := v } :=
  ⟨h.part, h.factory, h.pending, h.floor, h.now, { h.canon with coxes := hv }⟩
theorem Kept.set_regions {v : Tab Region} (h : Kept x s) (hv : Tab.wf {} v = true) : Kept x { s with regions := v } :=
  ⟨h.part, h.factory, h.pending, h.floor, h.now, { h.canon with regions := hv }⟩
theorem Kept.set_cores {v : Tab Core} (h : Kept x s) (hv : Tab.wf {} v = true) : Kept x { s with cores := v } :=
  ⟨h.part, h.factory, h.pending, h.floor, h.now, { h.canon with cores := hv }⟩
theorem Kept.set_lcidAt {v : Tab (Option Nat)} (h : Kept x s) (hv : Tab.wf none v = true) : Kept x { s with lcidAt := v } :=
  ⟨h.part, h.factory, h.pending, h.floor, h.now, { h.canon with lcidAt := hv }⟩
theorem Kept.set_crews {v : Tab Crew} (h : Kept x s) (hv : Tab.wf {} v = true) : Kept x { s with crews := v } :=
  ⟨h.part, h.factory, h.pending, h.floor, h.now, { h.canon with crews := hv }⟩
theorem Kept.set_syncs {v : Tab SyncObj} (h : Kept x s) (hv : Tab.wf {} v = true) : Kept x { s with syncs := v } :=
  ⟨h.part, h.factory, h.pending, h.floor, h.now, { h.canon with syncs := hv }⟩
theorem Kept.set_trees {v : Tab Tree} (h : Kept x s) (hv : Tab.wf {} v = true) : Kept x { s with trees := v } :=
  ⟨h.part, h.factory, h.pending, h.floor, h.now, { h.canon with trees := hv }⟩
theorem Kept.set_admits {v : Tab Admit} (h : Kept x s) (hv : Tab.wf {} v = true) : Kept x { s with admits := v } :=
  ⟨h.part, h.factory, h.pending, h.floor, h.now, { h.canon with admits := hv }⟩
theorem Kept.set_links {v : Tab LinkEnd} (h : Kept x s) (hv : Tab.wf {} v = true) : Kept x { s with links := v } :=
  ⟨h.part, h.factory, h.pending, h.floor, h.now, { h.canon with links := hv }⟩
theorem Kept.set_offs {v : Tab Nat} (h : Kept x s) (hv : Tab.wf 0 v = true) : Kept x { s with offs := v } :=
  ⟨h.part, h.factory, h.pending, h.floor, h.now, { h.canon with offs := hv }⟩
theorem Kept.set_arbs {v : Tab Arb} (h : Kept x s) (hv : Tab.wf {} v = true) : Kept x { s with arbs := v } :=
  ⟨h.part, h.factory, h.pending, h.floor, h.now, { h.canon with arbs := hv }⟩
theorem Kept.set_slices {v : Tab Slice} (h : Kept x s) (hv : Tab.wf {} v = true) : Kept x { s with slices := v } :=
  ⟨h.part, h.factory, h.pending, h.floor, h.now, { h.canon with slices := hv }⟩
theorem Kept.set_stackTab {v : Tab Stack} (h : Kept x s) (hv : Tab.wf {} v = true) : Kept x { s with stackTab := v } :=
  ⟨h.part, h.factory, h.pending, h.floor, h.now, { h.canon with stackTab := hv }⟩
theorem Kept.set_tallies {v : Tab (List (Nat × Nat))} (h : Kept x s) (hv : Tab.wf [] v = true) : Kept x { s with tallies := v } :=
  ⟨h.part, h.factory, h.pending, h.floor, h.now, { h.canon with tallies := hv }⟩
theorem Kept.set_fports {v : Tab FPort} (h : Kept x s) (hv : Tab.wf {} v = true) : Kept x { s with fports := v } :=
  ⟨h.part, h.factory, h.pending, h.floor, h.now, { h.canon with fports := hv }⟩
theorem Kept.set_bezels {v : Tab Bezel} (h : Kept x s) (hv : Tab.wf {} v = true) : Kept x { s with bezels := v } :=
  ⟨h.part, h.factory, h.pending, h.floor, h.now, { h.canon with bezels := hv }⟩
/-- Several fields set at once. -/
theorem Kept.raw {t : State} (h : Kept x s) (hp : t.part = s.part) (hf : t.defects.factory = s.defects.factory)
    (hq : t.pending = s.pending) (hl : s.sec.floor ≤ t.sec.floor) (hn : s.now ≤ t.now) (hc : Canon s → Canon t) : Kept x t :=
  ⟨hp.trans h.part, hf.trans h.factory, hq.trans h.pending, Nat.le_trans h.floor hl, Nat.le_trans h.now hn, hc h.canon⟩

/-! ## The updaters -/

theorem Kept.updHub {p : Nat} {f : Hub → Hub} (h : Kept x s) : Kept x (s.updHub p f) := h.set_hubs (Tab.wf_upd _ _ h.canon.hubs)
theorem Kept.updCox {p : Nat} {f : Cox → Cox} (h : Kept x s) : Kept x (s.updCox p f) := h.set_coxes (Tab.wf_upd _ _ h.canon.coxes)
theorem Kept.updRegion {p : Nat} {f : Region → Region} (h : Kept x s) : Kept x (s.updRegion p f) := h.set_regions (Tab.wf_upd _ _ h.canon.regions)
theorem Kept.updCore {p : Nat} {f : Core → Core} (h : Kept x s) : Kept x (s.updCore p f) := h.set_cores (Tab.wf_upd _ _ h.canon.cores)
theorem Kept.updSync {p : Nat} {f : SyncObj → SyncObj} (h : Kept x s) : Kept x (s.updSync p f) := h.set_syncs (Tab.wf_upd _ _ h.canon.syncs)
theorem Kept.updTree {p : Nat} {f : Tree → Tree} (h : Kept x s) : Kept x (s.updTree p f) := h.set_trees (Tab.wf_upd _ _ h.canon.trees)
theorem Kept.updAdmit {p : Nat} {f : Admit → Admit} (h : Kept x s) : Kept x (s.updAdmit p f) := h.set_admits (Tab.wf_upd _ _ h.canon.admits)
theorem Kept.updLink {p : Nat} {f : LinkEnd → LinkEnd} (h : Kept x s) : Kept x (s.updLink p f) := h.set_links (Tab.wf_upd _ _ h.canon.links)
theorem Kept.updArb {p : Nat} {f : Arb → Arb} (h : Kept x s) : Kept x (s.updArb p f) := h.set_arbs (Tab.wf_upd _ _ h.canon.arbs)
theorem Kept.updSlice {p : Nat} {f : Slice → Slice} (h : Kept x s) : Kept x (s.updSlice p f) := h.set_slices (Tab.wf_upd _ _ h.canon.slices)
theorem Kept.updStack {p : Nat} {f : Stack → Stack} (h : Kept x s) : Kept x (s.updStack p f) := h.set_stackTab (Tab.wf_upd _ _ h.canon.stackTab)
theorem Kept.updFport {p : Nat} {f : FPort → FPort} (h : Kept x s) : Kept x (s.updFport p f) := h.set_fports (Tab.wf_upd _ _ h.canon.fports)
theorem Kept.updBezel {p : Nat} {f : Bezel → Bezel} (h : Kept x s) : Kept x (s.updBezel p f) := h.set_bezels (Tab.wf_upd _ _ h.canon.bezels)
theorem Kept.updColMap {p : Nat} {f : ColMap → ColMap} (h : Kept x s) : Kept x (s.updColMap p f) := h.set_colMaps (Tab.wf_upd _ _ h.canon.colMaps)
theorem Kept.updCrew {p c : Nat} {f : Crew → Crew} (h : Kept x s) : Kept x (s.updCrew p c f) := h.set_crews (Tab.wf_upd _ _ h.canon.crews)
theorem Kept.setCoreOf {p : Nat} {f : Option Nat} (h : Kept x s) : Kept x (s.setCoreOf p f) := h.set_lcidAt (Tab.wf_put _ _ h.canon.lcidAt)
theorem Kept.updGroup {p : Nat} {f : Group → Group} (h : Kept x s) : Kept x (s.updGroup p f) := h.set_power
theorem Kept.updPower {f : Power → Power} (h : Kept x s) : Kept x (s.updPower f) := h.set_power
theorem Kept.updCool {f : Cooling → Cooling} (h : Kept x s) : Kept x (s.updCool f) := h.set_cool
theorem Kept.updBring {f : BringUp → BringUp} (h : Kept x s) : Kept x (s.updBring f) := h.set_bring
theorem Kept.updStroke {f : Stroke → Stroke} (h : Kept x s) : Kept x (s.updStroke f) := h.set_stroke
theorem Kept.updSupply {f : Supply → Supply} (h : Kept x s) : Kept x (s.updSupply f) := h.set_supply
theorem Kept.updSec {f : Security → Security} (h : Kept x s) (hf : s.sec.floor ≤ (f s.sec).floor) : Kept x (s.updSec f) := h.set_sec hf
theorem Kept.updDefects {f : Defects → Defects} (h : Kept x s) (hf : (f s.defects).factory = s.defects.factory) : Kept x (s.updDefects f) := h.set_defects hf
theorem Kept.updLay {p : Nat} {f : LayPort → LayPort} (h : Kept x s) : Kept x (s.updLay p f) := h.updHub
theorem Kept.updFab {p : Nat} {f : FabPort → FabPort} (h : Kept x s) : Kept x (s.updFab p f) := h.updHub
theorem Kept.updCmd {p : Nat} {f : CmdPort → CmdPort} (h : Kept x s) : Kept x (s.updCmd p f) := h.updHub
theorem Kept.updSecPort {p : Nat} {f : SecPort → SecPort} (h : Kept x s) : Kept x (s.updSecPort p f) := h.updHub
theorem Kept.emit {v : Out} (h : Kept x s) : Kept x (s.emit v) := h.set_out
theorem Kept.place {v : Packet} (h : Kept x s) : Kept x (s.place v) := h.set_net
theorem Kept.dropPacket {i : Nat} (h : Kept x s) : Kept x (s.dropPacket i) := h.set_net
theorem Kept.draw (h : Kept x s) : Kept x s.draw := h.set_fv
theorem Kept.setNet {v : List Packet} (h : Kept x s) : Kept x (s.setNet v) := h.set_net
theorem Kept.setRings {v : List RingReport} (h : Kept x s) : Kept x (s.setRings v) := h.set_rings
theorem Kept.setPosted {v : PostResult} (h : Kept x s) : Kept x (s.setPosted v) := h.set_posted
theorem Kept.setPostNo {v : Nat} (h : Kept x s) : Kept x (s.setPostNo v) := h.set_postNo
theorem Kept.setSramUe {v : NSet} (h : Kept x s) : Kept x (s.setSramUe v) := h.set_sramUe
theorem Kept.setSramCe {v : NSet} (h : Kept x s) : Kept x (s.setSramCe v) := h.set_sramCe
theorem Kept.setHbmUe {v : NSet} (h : Kept x s) : Kept x (s.setHbmUe v) := h.set_hbmUe
theorem Kept.setHbmCe {v : NSet} (h : Kept x s) : Kept x (s.setHbmCe v) := h.set_hbmCe
theorem Kept.setSram {v : List Host.Cell} (h : Kept x s) (hv : Tab.wf 0 s.sram = true → Tab.wf 0 v = true) : Kept x (s.setSram v) := h.set_sram (hv h.canon.sram)
theorem Kept.setHbm {v : List Host.Cell} (h : Kept x s) (hv : Tab.wf 0 s.hbm = true → Tab.wf 0 v = true) : Kept x (s.setHbm v) := h.set_hbm (hv h.canon.hbm)
theorem Kept.setTallies {v : Tab (List (Nat × Nat))} (h : Kept x s) (hv : Tab.wf [] s.tallies = true → Tab.wf [] v = true) : Kept x (s.setTallies v) := h.set_tallies (hv h.canon.tallies)
theorem Kept.setOffs {v : Tab Nat} (h : Kept x s) (hv : Tab.wf 0 s.offs = true → Tab.wf 0 v = true) : Kept x (s.setOffs v) := h.set_offs (hv h.canon.offs)
theorem Kept.setArbs {v : Tab Arb} (h : Kept x s) (hv : Tab.wf {} s.arbs = true → Tab.wf {} v = true) : Kept x (s.setArbs v) := h.set_arbs (hv h.canon.arbs)

/-! ## Lists -/

theorem Kept.foldl {α : Type} {l : List α} {f : State → α → State} (h : Kept x s) (hf : ∀ s a, Kept x s → Kept x (f s a)) :
    Kept x (l.foldl f s) := by
  induction l generalizing s with
  | nil => exact h
  | cons a l ih => exact ih (hf s a h)

theorem Kept.each {α : Type} {l : List α} {f : State → α → State} (h : Kept x s) (hf : ∀ s a, Kept x s → Kept x (f s a)) :
    Kept x (s.each l f) := h.foldl hf

/-- A fold over pairs whose first part is a state. -/
theorem Kept.foldlFst {α β : Type} {l : List α} {f : State × β → α → State × β} {b : State × β} (h : Kept x b.1)
    (hf : ∀ b a, Kept x b.1 → Kept x (f b a).1) : Kept x (l.foldl f b).1 := by
  induction l generalizing b with
  | nil => exact h
  | cons a l ih => exact ih (hf b a h)

theorem Kept.ite {c : Prop} [Decidable c] {a b : State} (ha : c → Kept x a) (hb : ¬c → Kept x b) : Kept x (if c then a else b) := by
  split
  · exact ha ‹_›
  · exact hb ‹_›

theorem Kept.send {v : Packet} (h : Kept x s) : Kept x (s.send v) := by
  unfold State.send
  split
  · exact h.updFab
  · exact h.place

theorem Kept.ident (h : Kept x s) : Kept x (id s) := h

theorem Kept.iteFst {β : Type} {c : Prop} [Decidable c] {a b : State × β} (ha : c → Kept x a.1) (hb : ¬c → Kept x b.1) :
    Kept x (if c then a else b).1 := by
  split
  · exact ha ‹_›
  · exact hb ‹_›

/-- A command's outcome that is a next state keeps what its state keeps. -/
def KeptNext (x : Mark) (o : Host.Outcome State Fault Refusal) : Prop := ∀ t, o = .next t → Kept x t

theorem KeptNext.next {t : State} (h : Kept x t) : KeptNext x (.next t) := fun _ e => by cases e; exact h
theorem KeptNext.fault {f : Fault} : KeptNext x (.fault f) := fun _ e => by cases e
theorem KeptNext.ite {c : Prop} [Decidable c] {a b : Host.Outcome State Fault Refusal} (ha : c → KeptNext x a) (hb : ¬c → KeptNext x b) :
    KeptNext x (if c then a else b) := by
  split
  · exact ha ‹_›
  · exact hb ‹_›
theorem KeptNext.refused {f : Refusal} : KeptNext x (.refused f) := fun _ e => by cases e

end Sys2Proof.Machine
end

