-- ==== Sys2Proof/Laws/KeptOps.lean ====
section
/-!
SUPPORT. What Kept says, kept by the shared operations of cores, units and trees: one lemma for each operation and for each row.
-/
set_option linter.unreachableTactic false
set_option linter.unusedTactic false
set_option linter.unusedVariables false
namespace Sys2Proof.Machine

/-! ## Packets -/

theorem healWords_kept {μ : Mark} {s : State} {ws : List ℕ} (hk : Kept μ s) : Kept μ (healWords s ws) := by
  unfold healWords
  repeat' first | (with_reducible first | assumption | apply Kept.ident | apply Kept.each | apply Kept.setHbmCe | apply Kept.setHbmUe | apply Kept.updHub | apply Kept.ite) | split | intro _ | extract_lets | dsimp +zetaDelta only

/-! ## Routing -/

theorem loadMap_kept {μ : Mark} {s : State} {p : ℕ} (hk : Kept μ s) : Kept μ (loadMap s p) := by
  unfold loadMap
  repeat' first | (with_reducible first | assumption | apply Kept.ident | apply Kept.updFab | apply Kept.ite) | split | intro _ | extract_lets | dsimp +zetaDelta only

/-! ## Arbiter -/

theorem updOff_kept {μ : Mark} {s : State} {p : Packet} (hk : Kept μ s) : Kept μ (updOff s p) := by
  unfold updOff
  repeat' first | (with_reducible first | assumption | apply Kept.ident | apply Kept.updLink | apply Kept.setOffs | apply Tab.wf_put | apply Tab.wf_upd | apply Tab.wf_filter | apply Tab.wf_putList | apply Tab.wf_mapAll | exact Tab.wf_nil | apply Tab.wf_foldl | apply Kept.ite) | exact hk.canon.sram | exact hk.canon.hbm | exact hk.canon.tallies | exact hk.canon.offs | exact hk.canon.arbs | assumption | split | intro _ | extract_lets | dsimp +zetaDelta only

theorem arrive_kept {μ : Mark} {s : State} {p : Packet} (hk : Kept μ s) : Kept μ (arrive s p) := by
  unfold arrive
  repeat' first | (with_reducible first | assumption | apply Kept.ident | apply updOff_kept | apply Kept.place | apply Kept.ite) | split | intro _ | extract_lets | dsimp +zetaDelta only

theorem movePointer_kept {μ : Mark} {s : State} {i : ℕ} {p : Packet} (hk : Kept μ s) : Kept μ (movePointer s i p) := by
  unfold movePointer
  repeat' first | (with_reducible first | assumption | apply Kept.ident | apply Kept.updArb | apply Kept.ite) | split | intro _ | extract_lets | dsimp +zetaDelta only

theorem State.takePacket_kept {μ : Mark} {s : State} {i : ℕ} (hk : Kept μ s) : Kept μ (State.takePacket s i) := by
  unfold State.takePacket
  repeat' first | (with_reducible first | assumption | apply Kept.ident | apply updOff_kept | apply Kept.dropPacket | apply movePointer_kept | apply Kept.ite) | split | intro _ | extract_lets | dsimp +zetaDelta only

/-! ## Ops -/

theorem msixSend_kept {μ : Mark} {s : State} {p : ℕ} {v : ℕ} (hk : Kept μ s) : Kept μ (msixSend s p v) := by
  unfold msixSend
  repeat' first | (with_reducible first | assumption | apply Kept.ident | apply Kept.updHub | apply Kept.emit | apply Kept.ite) | split | intro _ | extract_lets | dsimp +zetaDelta only

theorem raiseEvt_kept {μ : Mark} {s : State} {p : ℕ} {n : ℕ} (hk : Kept μ s) : Kept μ (raiseEvt s p n) := by
  unfold raiseEvt
  repeat' first | (with_reducible first | assumption | apply Kept.ident | apply msixSend_kept | apply Kept.updHub | apply Kept.ite) | split | intro _ | extract_lets | dsimp +zetaDelta only

theorem raiseAll_kept {μ : Mark} {s : State} {n : ℕ} (hk : Kept μ s) : Kept μ (raiseAll s n) := by
  unfold raiseAll
  repeat' first | (with_reducible first | assumption | apply Kept.ident | apply Kept.each | apply raiseEvt_kept | apply Kept.ite) | split | intro _ | extract_lets | dsimp +zetaDelta only

theorem setStrokeRc_kept {μ : Mark} {s : State} {bit : ℕ} (hk : Kept μ s) : Kept μ (setStrokeRc s bit) := by
  unfold setStrokeRc
  repeat' first | (with_reducible first | assumption | apply Kept.ident | apply Kept.each | apply Kept.updHub | apply Kept.ite) | split | intro _ | extract_lets | dsimp +zetaDelta only

theorem setPwrRc_kept {μ : Mark} {s : State} {bit : ℕ} (hk : Kept μ s) : Kept μ (setPwrRc s bit) := by
  unfold setPwrRc
  repeat' first | (with_reducible first | assumption | apply Kept.ident | apply Kept.each | apply Kept.updHub | apply Kept.ite) | split | intro _ | extract_lets | dsimp +zetaDelta only

theorem setCoolRc_kept {μ : Mark} {s : State} {bit : ℕ} (hk : Kept μ s) : Kept μ (setCoolRc s bit) := by
  unfold setCoolRc
  repeat' first | (with_reducible first | assumption | apply Kept.ident | apply Kept.each | apply Kept.updHub | apply Kept.ite) | split | intro _ | extract_lets | dsimp +zetaDelta only

theorem setLayRc_kept {μ : Mark} {s : State} {p : ℕ} {bit : ℕ} (hk : Kept μ s) : Kept μ (setLayRc s p bit) := by
  unfold setLayRc
  repeat' first | (with_reducible first | assumption | apply Kept.ident | apply Kept.updHub | apply Kept.ite) | split | intro _ | extract_lets | dsimp +zetaDelta only

theorem setFabRc_kept {μ : Mark} {s : State} {p : ℕ} {bit : ℕ} (hk : Kept μ s) : Kept μ (setFabRc s p bit) := by
  unfold setFabRc
  repeat' first | (with_reducible first | assumption | apply Kept.ident | apply Kept.updHub | apply Kept.ite) | split | intro _ | extract_lets | dsimp +zetaDelta only

theorem setCmdRc_kept {μ : Mark} {s : State} {p : ℕ} {bit : ℕ} (hk : Kept μ s) : Kept μ (setCmdRc s p bit) := by
  unfold setCmdRc
  repeat' first | (with_reducible first | assumption | apply Kept.ident | apply Kept.updHub | apply Kept.ite) | split | intro _ | extract_lets | dsimp +zetaDelta only

theorem hubRecord_kept {μ : Mark} {s : State} {rec : FaultRec} (hk : Kept μ s) : Kept μ (hubRecord s rec) := by
  unfold hubRecord
  repeat' first | (with_reducible first | assumption | apply Kept.ident | apply Kept.each | apply Kept.updHub | apply Kept.ite) | split | intro _ | extract_lets | dsimp +zetaDelta only

theorem coxRecord_kept {μ : Mark} {s : State} {site : ℕ} {rec : FaultRec} (hk : Kept μ s) : Kept μ (coxRecord s site rec) := by
  unfold coxRecord
  repeat' first | (with_reducible first | assumption | apply Kept.ident | apply Kept.updCox | apply hubRecord_kept | apply Kept.ite) | split | intro _ | extract_lets | dsimp +zetaDelta only

theorem appendDefect_kept {μ : Mark} {s : State} {d : Defect} (hk : Kept μ s) : Kept μ (appendDefect s d) := by
  unfold appendDefect
  repeat' first | (with_reducible first | assumption | apply Kept.ident | apply Kept.updDefects | apply Kept.ite) | rfl | split | intro _ | extract_lets | dsimp +zetaDelta only

theorem sramRead_kept {μ : Mark} {s : State} {k : ℕ} {off : ℕ} {len : ℕ} (hk : Kept μ s) : Kept μ (sramRead s k off len) := by
  unfold sramRead
  repeat' first | (with_reducible first | assumption | apply Kept.ident | apply Kept.setSramCe | apply Kept.updRegion | apply Kept.updCore | apply Kept.foldl | apply Kept.foldlFst | apply Kept.ite) | split | intro _ | extract_lets | dsimp +zetaDelta only

theorem sramWrite_kept {μ : Mark} {s : State} {k : ℕ} {off : ℕ} {bytes : List Byte} (hk : Kept μ s) : Kept μ (sramWrite s k off bytes) := by
  unfold sramWrite
  repeat' first | (with_reducible first | assumption | apply Kept.ident | apply Kept.setSramCe | apply Kept.setSramUe | apply Kept.setSram | apply Kept.updRegion | apply Kept.foldl | apply Kept.foldlFst | apply Tab.wf_put | apply Tab.wf_upd | apply Tab.wf_filter | apply Tab.wf_putList | apply Tab.wf_mapAll | exact Tab.wf_nil | apply Tab.wf_foldl | apply Kept.ite) | exact hk.canon.sram | exact hk.canon.hbm | exact hk.canon.tallies | exact hk.canon.offs | exact hk.canon.arbs | assumption | split | intro _ | extract_lets | dsimp +zetaDelta only

theorem cancelGrant_kept {μ : Mark} {s : State} {u : ℕ} {g : ℕ × ℕ × ℕ × ℕ × ℕ × ℕ} (hk : Kept μ s) : Kept μ (cancelGrant s u g) := by
  unfold cancelGrant
  repeat' first | (with_reducible first | assumption | apply Kept.ident | apply Kept.updAdmit | apply Kept.send | apply Kept.ite) | split | intro _ | extract_lets | dsimp +zetaDelta only

theorem cancelGrants_kept {μ : Mark} {s : State} {l : ℕ} (hk : Kept μ s) : Kept μ (cancelGrants s l) := by
  unfold cancelGrants
  repeat' first | (with_reducible first | assumption | apply Kept.ident | apply Kept.each | apply cancelGrant_kept | apply Kept.ite) | split | intro _ | extract_lets | dsimp +zetaDelta only

theorem haltCore_kept {μ : Mark} {s : State} {k : ℕ} {cause : ℕ} {unit : ℕ} {tkv : Bool} {tkt : ℕ} {pc : ℕ} {addr : ℕ} {fails : optParam Bool false} {absent : optParam Bool false} (hk : Kept μ s) : Kept μ (haltCore s k cause unit tkv tkt pc addr fails absent) := by
  unfold haltCore
  repeat' first | (with_reducible first | assumption | apply Kept.ident | apply Kept.updCore | apply Kept.setRings | apply cancelGrants_kept | apply coxRecord_kept | apply Kept.ite) | split | intro _ | extract_lets | dsimp +zetaDelta only

theorem coreFault_kept {μ : Mark} {s : State} {k : ℕ} {cause : ℕ} {unit : ℕ} {tkv : Bool} {tkt : ℕ} {pc : ℕ} {addr : ℕ} {fails : optParam Bool false} {absent : optParam Bool false} {peer : optParam (Option (ℕ × Found)) none} (hk : Kept μ s) : Kept μ (coreFault s k cause unit tkv tkt pc addr fails absent peer) := by
  unfold coreFault
  repeat' first | (with_reducible first | assumption | apply Kept.ident | apply haltCore_kept | apply Kept.each | apply Kept.ite) | split | intro _ | extract_lets | dsimp +zetaDelta only

theorem unitFault_kept {μ : Mark} {s : State} {k : ℕ} {u : CoreUnit} {op : Op} {cause : ℕ} {addr : ℕ} (hk : Kept μ s) : Kept μ (unitFault s k u op cause addr) := by
  unfold unitFault
  repeat' first | (with_reducible first | assumption | apply Kept.ident | apply coreFault_kept | apply Kept.ite) | split | intro _ | extract_lets | dsimp +zetaDelta only

theorem coreFail_kept {μ : Mark} {s : State} {k : ℕ} {cause : ℕ} {by_ : optParam (Option Found) none} {peer : optParam (Option (ℕ × Found)) none} (hk : Kept μ s) : Kept μ (coreFail s k cause by_ peer) := by
  unfold coreFail
  repeat' first | (with_reducible first | assumption | apply Kept.ident | apply Kept.updRegion | apply Kept.updCore | apply coreFault_kept | apply Kept.setCoreOf | apply coxRecord_kept | apply Kept.setRings | apply Kept.ite) | split | intro _ | extract_lets | dsimp +zetaDelta only

theorem checkLines_kept {μ : Mark} {s : State} {k : ℕ} (hk : Kept μ s) : Kept μ (checkLines s k) := by
  unfold checkLines
  repeat' first | (with_reducible first | assumption | apply Kept.ident | apply coreFail_kept | apply Kept.ite) | split | intro _ | extract_lets | dsimp +zetaDelta only

theorem sramTouch_kept {μ : Mark} {s : State} {k : ℕ} {off : ℕ} {len : ℕ} (hk : Kept μ s) : Kept μ (sramTouch s k off len) := by
  unfold sramTouch
  repeat' first | (with_reducible first | assumption | apply Kept.ident | apply checkLines_kept | apply sramRead_kept | apply Kept.ite) | split | intro _ | extract_lets | dsimp +zetaDelta only

theorem routeChange_kept {μ : Mark} {s : State} {p : ℕ} (hk : Kept μ s) : Kept μ (routeChange s p) := by
  unfold routeChange
  repeat' first | (with_reducible first | assumption | apply Kept.ident | apply Kept.updFab | apply hubRecord_kept | apply Kept.ite) | split | intro _ | extract_lets | dsimp +zetaDelta only

theorem takeBack_kept {μ : Mark} {s : State} {key : ℕ} {j : ℕ} (hk : Kept μ s) : Kept μ (takeBack s key j) := by
  unfold takeBack
  repeat' first | (with_reducible first | assumption | apply Kept.ident | apply Kept.each | apply Kept.place | apply Kept.ite) | split | intro _ | extract_lets | dsimp +zetaDelta only

theorem cutRegion_kept {μ : Mark} {s : State} {r : ℕ} (hk : Kept μ s) : Kept μ (cutRegion s r) := by
  unfold cutRegion
  repeat' first | (with_reducible first | assumption | apply Kept.ident | apply Kept.each | apply Kept.updLink | apply takeBack_kept | apply Kept.ite) | split | intro _ | extract_lets | dsimp +zetaDelta only

theorem fenceCores_kept {μ : Mark} {s : State} {r : ℕ} (hk : Kept μ s) : Kept μ (fenceCores s r) := by
  unfold fenceCores
  repeat' first | (with_reducible first | assumption | apply Kept.ident | apply Kept.updRegion | apply Kept.setRings | apply cutRegion_kept | apply Kept.setNet | apply Kept.each | apply cancelGrants_kept | apply Kept.setCoreOf | apply Kept.updCore | apply Kept.ite) | split | intro _ | extract_lets | dsimp +zetaDelta only

theorem openFuse_kept {μ : Mark} {s : State} {site : ℕ} (hk : Kept μ s) : Kept μ (openFuse s site) := by
  unfold openFuse
  repeat' first | (with_reducible first | assumption | apply Kept.ident | apply Kept.updGroup | apply Kept.updPower | apply Kept.ite) | split | intro _ | extract_lets | dsimp +zetaDelta only

theorem fenceDie_kept {μ : Mark} {s : State} {site : ℕ} {detail : ℕ} (hk : Kept μ s) : Kept μ (fenceDie s site detail) := by
  unfold fenceDie
  repeat' first | (with_reducible first | assumption | apply Kept.ident | apply Kept.each | apply fenceCores_kept | apply hubRecord_kept | apply openFuse_kept | apply Kept.updCox | apply routeChange_kept | apply Kept.ite) | split | intro _ | extract_lets | dsimp +zetaDelta only

theorem fenceRegion_kept {μ : Mark} {s : State} {r : ℕ} {detail : ℕ} (hk : Kept μ s) : Kept μ (fenceRegion s r detail) := by
  unfold fenceRegion
  repeat' first | (with_reducible first | assumption | apply Kept.ident | apply fenceCores_kept | apply coxRecord_kept | apply routeChange_kept | apply Kept.updRegion | apply fenceDie_kept | apply Kept.ite) | split | intro _ | extract_lets | dsimp +zetaDelta only

/-! ## Units -/

theorem Res.andThen_kept {μ : Mark} {r : Res} {f : State → Res} (hk : Kept μ r.s) (hf : ∀ s, Kept μ s → Kept μ (f s).s) : Kept μ (Res.andThen r f).s := by
  unfold Res.andThen
  repeat' first | (with_reducible first | assumption | apply Kept.ident | apply hf | apply Res.ite_kept | apply Kept.ite) | split | intro _ | extract_lets | dsimp +zetaDelta only

theorem Res.ite_kept {μ : Mark} {c : Prop} [Decidable c] {a b : Res} (ha : c → Kept μ a.s) (hb : ¬c → Kept μ b.s) :
    Kept μ (if c then a else b).s := by
  split
  · exact ha ‹_›
  · exact hb ‹_›

theorem Res.foldl_kept {μ : Mark} {α : Type} {r : Res} {l : List α} {f : Res → α → Res} (h : Kept μ r.s)
    (hf : ∀ r a, Kept μ r.s → Kept μ (f r a).s) : Kept μ (l.foldl f r).s := by
  induction l generalizing r with
  | nil => exact h
  | cons a l ih => exact ih (hf r a h)

theorem Res.eachOf_kept {μ : Mark} {α : Type} {r : Res} {l : List α} {f : State → α → Res} (h : Kept μ r.s)
    (hf : ∀ s a, Kept μ s → Kept μ (f s a).s) : Kept μ (r.eachOf l f).s :=
  Res.foldl_kept h (fun _ a hr => Res.andThen_kept hr (fun s hs => hf s a hs))

theorem addDigest_kept {μ : Mark} {s : State} {k : ℕ} {record : List Byte} (hk : Kept μ s) : Kept μ (addDigest s k record) := by
  unfold addDigest
  repeat' first | (with_reducible first | assumption | apply Kept.ident | apply Kept.updCore | apply Kept.ite) | split | intro _ | extract_lets | dsimp +zetaDelta only

theorem unitReads_kept {μ : Mark} {s : State} {k : ℕ} {runs : List (ℕ × ℕ)} (hk : Kept μ s) : Kept μ (unitReads s k runs).s := by
  unfold unitReads
  repeat' first | (with_reducible first | assumption | apply Kept.ident | apply Kept.each | apply sramRead_kept | apply checkLines_kept | apply Res.ite_kept | apply Kept.ite) | split | intro _ | extract_lets | dsimp +zetaDelta only

theorem unitWrite_kept {μ : Mark} {s : State} {k : ℕ} {off : ℕ} {bytes : List Byte} (hk : Kept μ s) : Kept μ (unitWrite s k off bytes).s := by
  unfold unitWrite
  repeat' first | (with_reducible first | assumption | apply Kept.ident | apply Kept.each | apply sramRead_kept | apply addDigest_kept | apply sramWrite_kept | apply checkLines_kept | apply Kept.foldl | apply Kept.foldlFst | apply Res.foldl_kept | apply Res.ite_kept | apply Kept.ite) | split | intro _ | extract_lets | dsimp +zetaDelta only

theorem unitWrites_kept {μ : Mark} {s : State} {k : ℕ} {runs : List (ℕ × List Byte)} (hk : Kept μ s) : Kept μ (unitWrites s k runs).s := by
  unfold unitWrites
  repeat' first | (with_reducible first | assumption | apply Kept.ident | apply Res.eachOf_kept | apply unitWrite_kept | apply Res.ite_kept | apply Kept.ite) | split | intro _ | extract_lets | dsimp +zetaDelta only

theorem injectNow_kept {μ : Mark} {s : State} {k : ℕ} {p : Packet} {r : Req} (hk : Kept μ s) : Kept μ (injectNow s k p r) := by
  unfold injectNow
  repeat' first | (with_reducible first | assumption | apply Kept.ident | apply addDigest_kept | apply Kept.send | apply Kept.updCore | apply Kept.ite) | split | intro _ | extract_lets | dsimp +zetaDelta only

theorem pumpHeld_kept {μ : Mark} {s : State} {k : ℕ} (hk : Kept μ s) : Kept μ (pumpHeld s k) := by
  unfold pumpHeld
  repeat' first | (with_reducible first | assumption | apply Kept.ident | apply injectNow_kept | apply Kept.updCore | apply Kept.foldl | apply Kept.foldlFst | apply Kept.ite) | split | intro _ | extract_lets | dsimp +zetaDelta only

theorem request_kept {μ : Mark} {s : State} {k : ℕ} {p : Packet} {r : Req} (hk : Kept μ s) : Kept μ (request s k p r) := by
  unfold request
  repeat' first | (with_reducible first | assumption | apply Kept.ident | apply pumpHeld_kept | apply Kept.updCore | apply Kept.ite) | split | intro _ | extract_lets | dsimp +zetaDelta only

theorem quarantine_kept {μ : Mark} {s : State} {k : ℕ} {cause : ℕ} {by_ : Found} {peer : Option (ℕ × Found)} (hk : Kept μ s) : Kept μ (quarantine s k cause by_ peer) := by
  unfold quarantine
  repeat' first | (with_reducible first | assumption | apply Kept.ident | apply Kept.updRegion | apply Kept.updCore | apply appendDefect_kept | apply coxRecord_kept | apply coreFail_kept | apply Kept.ite) | split | intro _ | extract_lets | dsimp +zetaDelta only

theorem engineEvent_kept {μ : Mark} {s : State} {k : ℕ} {isPair : Bool} {column : Bool} {index : ℕ} {by_ : Found} {peer : optParam (Option (ℕ × Found)) none} (hk : Kept μ s) : Kept μ (engineEvent s k isPair column index by_ peer) := by
  unfold engineEvent
  repeat' first | (with_reducible first | assumption | apply Kept.ident | apply Kept.updCore | apply coxRecord_kept | apply quarantine_kept | apply Kept.ite) | split | intro _ | extract_lets | dsimp +zetaDelta only

/-! ## TreeOps -/

theorem latch_kept {μ : Mark} {s : State} {tk : ℕ} (hk : Kept μ s) : Kept μ (latch s tk) := by
  unfold latch
  repeat' first | (with_reducible first | assumption | apply Kept.ident | apply Kept.updTree | apply Kept.ite) | split | intro _ | extract_lets | dsimp +zetaDelta only

theorem mergeLoop_kept {μ : Mark} {n : ℕ} {s : State} {tk r : ℕ} (h : Kept μ s) : Kept μ (mergeLoop n s tk r) := by
  induction n generalizing s with
  | zero => exact h
  | succ n ih =>
    unfold mergeLoop
    repeat' first | (with_reducible first | assumption | apply ih | apply Kept.send | apply Kept.updTree | apply Kept.ite)  | split | intro _ | extract_lets | dsimp +zetaDelta only

theorem mergeCredits_kept {μ : Mark} {s : State} {tk : ℕ} {r : ℕ} (hk : Kept μ s) : Kept μ (mergeCredits s tk r) := by
  unfold mergeCredits
  repeat' first | (with_reducible first | assumption | apply Kept.ident | apply mergeLoop_kept | apply Kept.ite) | split | intro _ | extract_lets | dsimp +zetaDelta only

theorem tryMulticast_kept {μ : Mark} {s : State} {tk : ℕ} (hk : Kept μ s) : Kept μ (tryMulticast s tk) := by
  unfold tryMulticast
  repeat' first | (with_reducible first | assumption | apply Kept.ident | apply latch_kept | apply Kept.updCore | apply Kept.send | apply Kept.each | apply Kept.ite) | split | intro _ | extract_lets | dsimp +zetaDelta only

theorem tryReduce_kept {μ : Mark} {s : State} {tk : ℕ} (hk : Kept μ s) : Kept μ (tryReduce s tk) := by
  unfold tryReduce
  repeat' first | (with_reducible first | assumption | apply Kept.ident | apply latch_kept | apply Kept.send | apply Kept.updCore | apply Kept.ite) | split | intro _ | extract_lets | dsimp +zetaDelta only

theorem tryTree_kept {μ : Mark} {s : State} {tk : ℕ} (hk : Kept μ s) : Kept μ (tryTree s tk) := by
  unfold tryTree
  repeat' first | (with_reducible first | assumption | apply Kept.ident | apply tryReduce_kept | apply tryMulticast_kept | apply Kept.ite) | split | intro _ | extract_lets | dsimp +zetaDelta only

end Sys2Proof.Machine
end

