-- ==== Sys2Proof/Laws/KeptUnits.lean ====
section
/-!
SUPPORT. What Kept says, kept by the engines, the mover and the sync unit: one lemma for each operation and for each row.
-/
set_option linter.unreachableTactic false
set_option linter.unusedTactic false
set_option linter.unusedVariables false
namespace Sys2Proof.Machine

/-! ## Me -/

theorem State.setBank_kept {μ : Mark} {s : State} {k : ℕ} {ab : ℕ} {b : Bank} (hk : Kept μ s) : Kept μ (State.setBank s k ab b) := by
  unfold State.setBank
  repeat' first | (with_reducible first | assumption | apply Kept.ident | apply Kept.updCore | apply Kept.ite) | split | intro _ | extract_lets | dsimp +zetaDelta only

theorem mmaCheck_kept {μ : Mark} {s : State} {k : ℕ} {op : Op} {d : MmaData} {g : ℕ} {c : ℕ} (hk : Kept μ s) : Kept μ (mmaCheck s k op d g c).s := by
  unfold mmaCheck
  repeat' first | (with_reducible first | assumption | apply Kept.ident | apply Kept.updCore | apply engineEvent_kept | apply Res.ite_kept | apply Kept.ite) | split | intro _ | extract_lets | dsimp +zetaDelta only

theorem mmaStart_kept {μ : Mark} {s : State} {k : ℕ} {op : Op} (hk : Kept μ s) : Kept μ (mmaStart s k op).s := by
  unfold mmaStart
  repeat' first | (with_reducible first | assumption | apply Kept.ident | apply State.setBank_kept | apply Res.andThen_kept | apply unitReads_kept | apply mmaCheck_kept | apply Res.ite_kept | apply Kept.ite) | split | intro _ | extract_lets | dsimp +zetaDelta only

theorem mstStart_kept {μ : Mark} {s : State} {k : ℕ} {op : Op} (hk : Kept μ s) : Kept μ (mstStart s k op).s := by
  unfold mstStart
  repeat' first | (with_reducible first | assumption | apply Kept.ident | apply State.setBank_kept | apply Res.andThen_kept | apply unitWrites_kept | apply Kept.updCore | apply Res.ite_kept | apply Kept.ite) | split | intro _ | extract_lets | dsimp +zetaDelta only

theorem mldStart_kept {μ : Mark} {s : State} {k : ℕ} {op : Op} (hk : Kept μ s) : Kept μ (mldStart s k op).s := by
  unfold mldStart
  repeat' first | (with_reducible first | assumption | apply Kept.ident | apply State.setBank_kept | apply Res.andThen_kept | apply unitReads_kept | apply Res.ite_kept | apply Kept.ite) | split | intro _ | extract_lets | dsimp +zetaDelta only

theorem mzeroStart_kept {μ : Mark} {s : State} {k : ℕ} {op : Op} (hk : Kept μ s) : Kept μ (mzeroStart s k op).s := by
  unfold mzeroStart
  repeat' first | (with_reducible first | assumption | apply Kept.ident | apply State.setBank_kept | apply Res.ite_kept | apply Kept.ite) | split | intro _ | extract_lets | dsimp +zetaDelta only

/-! ## Ve -/

theorem veStore_kept {μ : Mark} {s : State} {k : ℕ} {d : Desc} {rnd : ℕ} {sat : Bool} {runs : List (List Val)} (hk : Kept μ s) : Kept μ (veStore s k d rnd sat runs).s := by
  unfold veStore
  repeat' first | (with_reducible first | assumption | apply Kept.ident | apply unitWrites_kept | apply Kept.updCore | apply Res.ite_kept | apply Kept.ite) | split | intro _ | extract_lets | dsimp +zetaDelta only

theorem ewStart_kept {μ : Mark} {s : State} {k : ℕ} {op : Op} (hk : Kept μ s) : Kept μ (ewStart s k op).s := by
  unfold ewStart
  repeat' first | (with_reducible first | assumption | apply Kept.ident | apply Res.andThen_kept | apply unitReads_kept | apply veStore_kept | apply Res.ite_kept | apply Kept.ite) | split | intro _ | extract_lets | dsimp +zetaDelta only

theorem cvtStart_kept {μ : Mark} {s : State} {k : ℕ} {op : Op} (hk : Kept μ s) : Kept μ (cvtStart s k op).s := by
  unfold cvtStart
  repeat' first | (with_reducible first | assumption | apply Kept.ident | apply Res.andThen_kept | apply unitReads_kept | apply veStore_kept | apply Res.ite_kept | apply Kept.ite) | split | intro _ | extract_lets | dsimp +zetaDelta only

theorem redStart_kept {μ : Mark} {s : State} {k : ℕ} {op : Op} (hk : Kept μ s) : Kept μ (redStart s k op).s := by
  unfold redStart
  repeat' first | (with_reducible first | assumption | apply Kept.ident | apply Res.andThen_kept | apply unitReads_kept | apply veStore_kept | apply Res.ite_kept | apply Kept.ite) | split | intro _ | extract_lets | dsimp +zetaDelta only

theorem trnStart_kept {μ : Mark} {s : State} {k : ℕ} {op : Op} (hk : Kept μ s) : Kept μ (trnStart s k op).s := by
  unfold trnStart
  repeat' first | (with_reducible first | assumption | apply Kept.ident | apply Res.andThen_kept | apply unitReads_kept | apply veStore_kept | apply Res.ite_kept | apply Kept.ite) | split | intro _ | extract_lets | dsimp +zetaDelta only

theorem smxStart_kept {μ : Mark} {s : State} {k : ℕ} {op : Op} (hk : Kept μ s) : Kept μ (smxStart s k op).s := by
  unfold smxStart
  repeat' first | (with_reducible first | assumption | apply Kept.ident | apply Res.andThen_kept | apply unitReads_kept | apply veStore_kept | apply Res.ite_kept | apply Kept.ite) | split | intro _ | extract_lets | dsimp +zetaDelta only

theorem warpStart_kept {μ : Mark} {s : State} {k : ℕ} {op : Op} (hk : Kept μ s) : Kept μ (warpStart s k op).s := by
  unfold warpStart
  repeat' first | (with_reducible first | assumption | apply Kept.ident | apply Res.andThen_kept | apply unitReads_kept | apply veStore_kept | apply Res.ite_kept | apply Kept.ite) | split | intro _ | extract_lets | dsimp +zetaDelta only

/-! ## Mover -/

theorem retireOne_kept {μ : Mark} {s : State} {k : ℕ} {u : CoreUnit} {seq : ℕ} {void : Bool} (hk : Kept μ s) : Kept μ (retireOne s k u seq void) := by
  unfold retireOne
  repeat' first | (with_reducible first | assumption | apply Kept.ident | apply Kept.updCore | apply Kept.ite) | split | intro _ | extract_lets | dsimp +zetaDelta only

theorem finish_kept {μ : Mark} {s : State} {k : ℕ} {u : CoreUnit} {seq : ℕ} {void : Bool} (hk : Kept μ s) : Kept μ (finish s k u seq void) := by
  unfold finish
  repeat' first | (with_reducible first | assumption | apply Kept.ident | apply retireOne_kept | apply Kept.updCore | apply Kept.ite) | split | intro _ | extract_lets | dsimp +zetaDelta only

theorem finishMirror_kept {μ : Mark} {s : State} {k : ℕ} {u : CoreUnit} {seq : ℕ} (hk : Kept μ s) : Kept μ (finishMirror s k u seq) := by
  unfold finishMirror
  repeat' first | (with_reducible first | assumption | apply Kept.ident | apply Kept.updCore | apply retireOne_kept | apply Kept.ite) | split | intro _ | extract_lets | dsimp +zetaDelta only

theorem State.setRun_kept {μ : Mark} {s : State} {k : ℕ} {seq : ℕ} {f : Run → Run} (hk : Kept μ s) : Kept μ (State.setRun s k seq f) := by
  unfold State.setRun
  repeat' first | (with_reducible first | assumption | apply Kept.ident | apply Kept.updCore | apply Kept.ite) | split | intro _ | extract_lets | dsimp +zetaDelta only

theorem routeRequest_kept {μ : Mark} {s : State} {k : ℕ} {p : Packet} {partnerPayload : List Byte} {r : Req} (hk : Kept μ s) : Kept μ (routeRequest s k p partnerPayload r) := by
  unfold routeRequest
  repeat' first | (with_reducible first | assumption | apply Kept.ident | apply request_kept | apply addDigest_kept | apply Kept.ite) | split | intro _ | extract_lets | dsimp +zetaDelta only

theorem pairMismatch_kept {μ : Mark} {s : State} {k : ℕ} {j : ℕ} (hk : Kept μ s) : Kept μ (pairMismatch s k j) := by
  unfold pairMismatch
  repeat' first | (with_reducible first | assumption | apply Kept.ident | apply Kept.each | apply engineEvent_kept | apply Kept.updCore | apply coreFail_kept | apply coreFault_kept | apply Kept.ite) | split | intro _ | extract_lets | dsimp +zetaDelta only

theorem sendNote_kept {μ : Mark} {s : State} {k : ℕ} {seq : ℕ} {obj : ℕ} (hk : Kept μ s) : Kept μ (sendNote s k seq obj) := by
  unfold sendNote
  repeat' first | (with_reducible first | assumption | apply Kept.ident | apply State.setRun_kept | apply routeRequest_kept | apply Kept.ite) | split | intro _ | extract_lets | dsimp +zetaDelta only

theorem compareNote_kept {μ : Mark} {s : State} {k : ℕ} (hk : Kept μ s) : Kept μ (compareNote s k) := by
  unfold compareNote
  repeat' first | (with_reducible first | assumption | apply Kept.ident | apply State.setRun_kept | apply Kept.updCore | apply sendNote_kept | apply pairMismatch_kept | apply Kept.ite) | split | intro _ | extract_lets | dsimp +zetaDelta only

theorem submitNote_kept {μ : Mark} {s : State} {k : ℕ} {seq : ℕ} (hk : Kept μ s) : Kept μ (submitNote s k seq) := by
  unfold submitNote
  repeat' first | (with_reducible first | assumption | apply Kept.ident | apply compareNote_kept | apply Kept.updCore | apply Kept.ite) | split | intro _ | extract_lets | dsimp +zetaDelta only

theorem readRun_kept {μ : Mark} {s : State} {k : ℕ} {seq : ℕ} {off : ℕ} {a : ℕ} {n : ℕ} {kind : optParam ReqKindMv ReqKindMv.read} (hk : Kept μ s) : Kept μ (readRun s k seq off a n kind).s := by
  unfold readRun
  repeat' first | (with_reducible first | assumption | apply Kept.ident | apply Res.eachOf_kept | apply request_kept | apply Res.ite_kept | apply Kept.ite) | split | intro _ | extract_lets | dsimp +zetaDelta only

theorem writeBytes_kept {μ : Mark} {s : State} {k : ℕ} {seq : ℕ} {a : ℕ} {bytes : List Byte} {both : optParam Bool false} (hk : Kept μ s) : Kept μ (writeBytes s k seq a bytes both).s := by
  unfold writeBytes
  repeat' first | (with_reducible first | assumption | apply Kept.ident | apply Res.eachOf_kept | apply routeRequest_kept | apply request_kept | apply Res.ite_kept | apply Kept.ite) | split | intro _ | extract_lets | dsimp +zetaDelta only

theorem writeRun_kept {μ : Mark} {s : State} {k : ℕ} {seq : ℕ} {a : ℕ} {off : ℕ} {n : ℕ} (hk : Kept μ s) : Kept μ (writeRun s k seq a off n).s := by
  unfold writeRun
  repeat' first | (with_reducible first | assumption | apply Kept.ident | apply Res.andThen_kept | apply unitReads_kept | apply writeBytes_kept | apply Res.ite_kept | apply Kept.ite) | split | intro _ | extract_lets | dsimp +zetaDelta only

theorem writeOutcomes_kept {μ : Mark} {s : State} {k : ℕ} {r : Run} (hk : Kept μ s) : Kept μ (writeOutcomes s k r).s := by
  unfold writeOutcomes
  repeat' first | (with_reducible first | assumption | apply Kept.ident | apply Res.eachOf_kept | apply State.setRun_kept | apply writeBytes_kept | apply Res.andThen_kept | apply unitWrites_kept | apply Res.ite_kept | apply Kept.ite) | split | intro _ | extract_lets | dsimp +zetaDelta only

theorem settle_kept {μ : Mark} {s : State} {k : ℕ} {seq : ℕ} (hk : Kept μ s) : Kept μ (settle s k seq) := by
  unfold settle
  repeat' first | (with_reducible first | assumption | apply Kept.ident | apply Kept.updCore | apply finishMirror_kept | apply unitFault_kept | apply submitNote_kept | apply sendNote_kept | apply writeOutcomes_kept | apply finish_kept | apply Kept.ite) | split | intro _ | extract_lets | dsimp +zetaDelta only

theorem tryNotes_kept {μ : Mark} {s : State} {k : ℕ} (hk : Kept μ s) : Kept μ (tryNotes s k) := by
  unfold tryNotes
  repeat' first | (with_reducible first | assumption | apply Kept.ident | apply Kept.each | apply settle_kept | apply Kept.ite) | split | intro _ | extract_lets | dsimp +zetaDelta only

theorem stageRuns_kept {μ : Mark} {s : State} {k : ℕ} {seq : ℕ} {at_ : ℕ} {runs : List (ℕ × ℕ)} (hk : Kept μ s) : Kept μ (stageRuns s k seq at_ runs).s := by
  unfold stageRuns
  repeat' first | (with_reducible first | assumption | apply Kept.ident | apply Res.eachOf_kept | apply readRun_kept | apply Res.ite_kept | apply Kept.ite) | split | intro _ | extract_lets | dsimp +zetaDelta only

theorem moveRun_kept {μ : Mark} {s : State} {k : ℕ} {seq : ℕ} {dRemote : Bool} {aRemote : Bool} {d : ℕ} {a : ℕ} {n : ℕ} {b : optParam (Option (List Byte)) none} (hk : Kept μ s) : Kept μ (moveRun s k seq dRemote aRemote d a n b).s := by
  unfold moveRun
  repeat' first | (with_reducible first | assumption | apply Kept.ident | apply writeBytes_kept | apply unitWrite_kept | apply writeRun_kept | apply readRun_kept | apply Res.andThen_kept | apply unitReads_kept | apply Res.ite_kept | apply Kept.ite) | split | intro _ | extract_lets | dsimp +zetaDelta only

theorem asked_kept {μ : Mark} {s : State} {k : ℕ} {seq : ℕ} {alone : Bool} (hk : Kept μ s) : Kept μ (asked s k seq alone) := by
  unfold asked
  repeat' first | (with_reducible first | assumption | apply Kept.ident | apply settle_kept | apply State.setRun_kept | apply Kept.ite) | split | intro _ | extract_lets | dsimp +zetaDelta only

theorem finishVoid_kept {μ : Mark} {s : State} {k : ℕ} {seq : ℕ} (hk : Kept μ s) : Kept μ (finishVoid s k seq) := by
  unfold finishVoid
  repeat' first | (with_reducible first | assumption | apply Kept.ident | apply asked_kept | apply finish_kept | apply Kept.ite) | split | intro _ | extract_lets | dsimp +zetaDelta only

theorem copyStart_kept {μ : Mark} {s : State} {k : ℕ} {op : Op} (h : Kept μ s) : Kept μ (copyStart s k op).s := by
  unfold copyStart
  repeat' first | (with_reducible first | assumption | apply finishVoid_kept | apply stageRuns_kept | apply State.setRun_kept | apply Res.andThen_kept | apply Res.eachOf_kept | apply writeBytes_kept | apply moveRun_kept | apply unitReads_kept | apply unitWrites_kept | apply asked_kept | apply Res.ite_kept | apply Kept.ite)  | split | intro _ | extract_lets | dsimp +zetaDelta only

theorem rcopyRuns_kept {μ : Mark} {s : State} {k seq : ℕ} {runs : List (ℕ × ℕ × ℕ)} {g : ℕ × ℕ × ℕ → ℕ} (h : Kept μ s) :
    Kept μ ((({ s := s } : Res).eachOf runs (fun s r => writeRun s k seq (g r) r.2.1 r.2.2)).andThen
      (fun s => { s := asked s k seq false })).s :=
  Res.andThen_kept (Res.eachOf_kept h (fun _ _ hs => writeRun_kept hs)) (fun _ hs => asked_kept hs)

theorem rcopyStart_kept {μ : Mark} {s : State} {k : ℕ} {op : Op} (h : Kept μ s) : Kept μ (rcopyStart s k op).s := by
  unfold rcopyStart
  extract_lets d a l note obj void s1
  have h1 : Kept μ s1 := Kept.ite (fun _ => State.setRun_kept h) (fun _ => h)
  exact Res.ite_kept (fun _ => h) (fun _ => Res.ite_kept (fun _ => h) (fun _ => Res.ite_kept (fun _ => asked_kept h1) (fun _ =>
    rcopyRuns_kept h1)))

theorem gsStart_kept {μ : Mark} {s : State} {k : ℕ} {op : Op} {scatter : Bool} (hk : Kept μ s) : Kept μ (gsStart s k op scatter).s := by
  unfold gsStart
  repeat' first | (with_reducible first | assumption | apply Kept.ident | apply finishVoid_kept | apply stageRuns_kept | apply State.setRun_kept | apply Res.andThen_kept | apply unitReads_kept | apply Res.eachOf_kept | apply moveRun_kept | apply asked_kept | apply Res.ite_kept | apply Kept.ite) | split | intro _ | extract_lets | dsimp +zetaDelta only

theorem pumpStream_kept {μ : Mark} {s : State} {k : ℕ} {sid : ℕ} (hk : Kept μ s) : Kept μ (pumpStream s k sid) := by
  unfold pumpStream
  repeat' first | (with_reducible first | assumption | apply Kept.ident | apply State.setRun_kept | apply Kept.updCore | apply unitFault_kept | apply Kept.each | apply addDigest_kept | apply Kept.send | apply settle_kept | apply request_kept | apply Kept.ite) | split | intro _ | extract_lets | dsimp +zetaDelta only

theorem pumpContrib_kept {μ : Mark} {s : State} {k : ℕ} {tk : ℕ} (hk : Kept μ s) : Kept μ (pumpContrib s k tk) := by
  unfold pumpContrib
  repeat' first | (with_reducible first | assumption | apply Kept.ident | apply State.setRun_kept | apply Kept.updCore | apply Kept.each | apply addDigest_kept | apply Kept.send | apply settle_kept | apply Kept.ite) | split | intro _ | extract_lets | dsimp +zetaDelta only

theorem sendWith_kept {μ : Mark} {s : State} {k : ℕ} {op : Op} {marker : Bool} {void : Bool} {bytes : List Byte} (hk : Kept μ s) : Kept μ (sendWith s k op marker void bytes).s := by
  unfold sendWith
  repeat' first | (with_reducible first | assumption | apply Kept.ident | apply State.setRun_kept | apply addDigest_kept | apply Kept.updCore | apply settle_kept | apply tryTree_kept | apply pumpContrib_kept | apply pumpStream_kept | apply Kept.foldl | apply Kept.foldlFst | apply Res.foldl_kept | apply Res.ite_kept | apply Kept.ite) | split | intro _ | extract_lets | dsimp +zetaDelta only

theorem sendStart_kept {μ : Mark} {s : State} {k : ℕ} {op : Op} {marker : Bool} (hk : Kept μ s) : Kept μ (sendStart s k op marker).s := by
  unfold sendStart
  repeat' first | (with_reducible first | assumption | apply Kept.ident | apply sendWith_kept | apply stageRuns_kept | apply State.setRun_kept | apply Res.andThen_kept | apply unitReads_kept | apply Res.ite_kept | apply Kept.ite) | split | intro _ | extract_lets | dsimp +zetaDelta only

theorem recvStart_kept {μ : Mark} {s : State} {k : ℕ} {op : Op} (hk : Kept μ s) : Kept μ (recvStart s k op).s := by
  unfold recvStart
  repeat' first | (with_reducible first | assumption | apply Kept.ident | apply State.setRun_kept | apply settle_kept | apply tryTree_kept | apply Kept.send | apply Kept.updCore | apply Res.ite_kept | apply Kept.ite) | split | intro _ | extract_lets | dsimp +zetaDelta only

theorem deliverMessage_kept {μ : Mark} {s : State} {k : ℕ} {r : Run} {void : Bool} {bytes : List Byte} (hk : Kept μ s) : Kept μ (deliverMessage s k r void bytes) := by
  unfold deliverMessage
  repeat' first | (with_reducible first | assumption | apply Kept.ident | apply finish_kept | apply unitFault_kept | apply Res.eachOf_kept | apply State.setRun_kept | apply writeBytes_kept | apply settle_kept | apply Res.andThen_kept | apply unitWrites_kept | apply Kept.foldl | apply Kept.foldlFst | apply Res.foldl_kept | apply Kept.ite) | split | intro _ | extract_lets | dsimp +zetaDelta only

theorem setOutcome_kept {μ : Mark} {s : State} {k : ℕ} {seq : ℕ} {t : ℕ} {c : ℕ} {o : W32} (hk : Kept μ s) : Kept μ (setOutcome s k seq t c o) := by
  unfold setOutcome
  repeat' first | (with_reducible first | assumption | apply Kept.ident | apply State.setRun_kept | apply Kept.ite) | split | intro _ | extract_lets | dsimp +zetaDelta only

theorem routeStop_kept {μ : Mark} {s : State} {k : ℕ} {seq : ℕ} (hk : Kept μ s) : Kept μ (routeStop s k seq) := by
  unfold routeStop
  repeat' first | (with_reducible first | assumption | apply Kept.ident | apply State.setRun_kept | apply Kept.ite) | split | intro _ | extract_lets | dsimp +zetaDelta only

theorem sendAdmit_kept {μ : Mark} {s : State} {k : ℕ} {seq : ℕ} {tab : RouteTable} {t : ℕ} {c : ℕ} {w : ℕ} (hk : Kept μ s) : Kept μ (sendAdmit s k seq tab t c w) := by
  unfold sendAdmit
  repeat' first | (with_reducible first | assumption | apply Kept.ident | apply routeStop_kept | apply routeRequest_kept | apply Kept.ite) | split | intro _ | extract_lets | dsimp +zetaDelta only

theorem routePump_kept {μ : Mark} {n : ℕ} {s : State} {k : ℕ} {seq : ℕ} {tab : RouteTable} (h : Kept μ s) :
    Kept μ (routePump n s k seq tab) := by
  induction n generalizing s with
  | zero => exact h
  | succ n ih =>
    unfold routePump
    repeat' first | (with_reducible first | assumption | apply ih | apply State.setRun_kept | apply sendAdmit_kept | apply Kept.ite)  | split | intro _ | extract_lets | dsimp +zetaDelta only

theorem routeGo_kept {μ : Mark} {s : State} {k : ℕ} {seq : ℕ} (hk : Kept μ s) : Kept μ (routeGo s k seq) := by
  unfold routeGo
  repeat' first | (with_reducible first | assumption | apply Kept.ident | apply settle_kept | apply routePump_kept | apply Kept.ite) | split | intro _ | extract_lets | dsimp +zetaDelta only

theorem routeAll_kept {μ : Mark} {s : State} {k : ℕ} {seq : ℕ} (hk : Kept μ s) : Kept μ (routeAll s k seq) := by
  unfold routeAll
  repeat' first | (with_reducible first | assumption | apply Kept.ident | apply Kept.each | apply routeGo_kept | apply Kept.ite) | split | intro _ | extract_lets | dsimp +zetaDelta only

theorem routeStart_kept {μ : Mark} {s : State} {k : ℕ} {op : Op} (hk : Kept μ s) : Kept μ (routeStart s k op).s := by
  unfold routeStart
  repeat' first | (with_reducible first | assumption | apply Kept.ident | apply finishVoid_kept | apply Res.eachOf_kept | apply State.setRun_kept | apply stageRuns_kept | apply Res.andThen_kept | apply unitReads_kept | apply asked_kept | apply routeGo_kept | apply Res.ite_kept | apply Kept.ite) | split | intro _ | extract_lets | dsimp +zetaDelta only

theorem routeRefused_kept {μ : Mark} {s : State} {k : ℕ} {seq : ℕ} {t : ℕ} {w : ℕ} (hk : Kept μ s) : Kept μ (routeRefused s k seq t w) := by
  unfold routeRefused
  repeat' first | (with_reducible first | assumption | apply Kept.ident | apply setOutcome_kept | apply sendAdmit_kept | apply State.setRun_kept | apply Kept.ite) | split | intro _ | extract_lets | dsimp +zetaDelta only

theorem routeGranted_kept {μ : Mark} {s : State} {k : ℕ} {seq : ℕ} {t : ℕ} {c : ℕ} {w : ℕ} {slot : ℕ} {half : ℕ} {win : ℕ} (hk : Kept μ s) : Kept μ (routeGranted s k seq t c w slot half win) := by
  unfold routeGranted
  repeat' first | (with_reducible first | assumption | apply Kept.ident | apply setOutcome_kept | apply State.setRun_kept | apply unitReads_kept | apply unitFault_kept | apply routeRequest_kept | apply Kept.foldl | apply Kept.foldlFst | apply Res.foldl_kept | apply Kept.ite) | split | intro _ | extract_lets | dsimp +zetaDelta only

theorem routeNext_kept {μ : Mark} {s : State} {k : ℕ} {q : Req} (hk : Kept μ s) : Kept μ (routeNext s k q) := by
  unfold routeNext
  repeat' first | (with_reducible first | assumption | apply Kept.ident | apply routeRequest_kept | apply Kept.updAdmit | apply Kept.ite) | split | intro _ | extract_lets | dsimp +zetaDelta only

theorem routeLost_kept {μ : Mark} {s : State} {k : ℕ} {q : Req} (hk : Kept μ s) : Kept μ (routeLost s k q) := by
  unfold routeLost
  repeat' first | (with_reducible first | assumption | apply Kept.ident | apply setOutcome_kept | apply cancelGrant_kept | apply Kept.ite) | split | intro _ | extract_lets | dsimp +zetaDelta only

theorem goOn_kept {μ : Mark} {s : State} {k : ℕ} {op : Op} (hk : Kept μ s) : Kept μ (goOn s k op) := by
  unfold goOn
  repeat' first | (with_reducible first | assumption | apply Kept.ident | apply copyStart_kept | apply gsStart_kept | apply sendStart_kept | apply routeStart_kept | apply unitFault_kept | apply Kept.ite) | split | intro _ | extract_lets | dsimp +zetaDelta only

theorem takeGift_kept {μ : Mark} {s : State} {k : ℕ} {seq : ℕ} (hk : Kept μ s) : Kept μ (takeGift s k seq) := by
  unfold takeGift
  repeat' first | (with_reducible first | assumption | apply Kept.ident | apply goOn_kept | apply State.setRun_kept | apply Kept.updCore | apply Kept.ite) | split | intro _ | extract_lets | dsimp +zetaDelta only

theorem stageDone_kept {μ : Mark} {s : State} {k : ℕ} {seq : ℕ} (hk : Kept μ s) : Kept μ (stageDone s k seq) := by
  unfold stageDone
  repeat' first | (with_reducible first | assumption | apply Kept.ident | apply goOn_kept | apply State.setRun_kept | apply takeGift_kept | apply Kept.updCore | apply Kept.ite) | split | intro _ | extract_lets | dsimp +zetaDelta only

/-! ## SyncUnit -/

theorem State.setSyRun_kept {μ : Mark} {s : State} {k : ℕ} {seq : ℕ} {f : Run → Run} (hk : Kept μ s) : Kept μ (State.setSyRun s k seq f) := by
  unfold State.setSyRun
  repeat' first | (with_reducible first | assumption | apply Kept.ident | apply Kept.updCore | apply Kept.ite) | split | intro _ | extract_lets | dsimp +zetaDelta only

theorem syncRequest_kept {μ : Mark} {s : State} {k : ℕ} {seq : ℕ} {obj : ℕ} {kind : ℕ} {value : ℕ} (hk : Kept μ s) : Kept μ (syncRequest s k seq obj kind value).s := by
  unfold syncRequest
  repeat' first | (with_reducible first | assumption | apply Kept.ident | apply request_kept | apply Res.ite_kept | apply Kept.ite) | split | intro _ | extract_lets | dsimp +zetaDelta only

theorem catchAt_kept {μ : Mark} {s : State} {k : ℕ} {seq : Option ℕ} (hk : Kept μ s) : Kept μ (catchAt s k seq) := by
  unfold catchAt
  repeat' first | (with_reducible first | assumption | apply Kept.ident | apply Kept.updCore | apply Kept.ite) | split | intro _ | extract_lets | dsimp +zetaDelta only

theorem comparePair_kept {μ : Mark} {s : State} {k : ℕ} (hk : Kept μ s) : Kept μ (comparePair s k) := by
  unfold comparePair
  repeat' first | (with_reducible first | assumption | apply Kept.ident | apply Kept.updCore | apply syncRequest_kept | apply unitFault_kept | apply addDigest_kept | apply pairMismatch_kept | apply Kept.ite) | split | intro _ | extract_lets | dsimp +zetaDelta only

theorem signalStart_kept {μ : Mark} {s : State} {k : ℕ} {op : Op} (hk : Kept μ s) : Kept μ (signalStart s k op).s := by
  unfold signalStart
  repeat' first | (with_reducible first | assumption | apply Kept.ident | apply comparePair_kept | apply Kept.updCore | apply syncRequest_kept | apply State.setSyRun_kept | apply Res.ite_kept | apply Kept.ite) | split | intro _ | extract_lets | dsimp +zetaDelta only

theorem syStart_kept {μ : Mark} {s : State} {k : ℕ} {op : Op} {kind : ℕ} {value : ℕ} (hk : Kept μ s) : Kept μ (syStart s k op kind value).s := by
  unfold syStart
  repeat' first | (with_reducible first | assumption | apply Kept.ident | apply Res.andThen_kept | apply syncRequest_kept | apply State.setSyRun_kept | apply finishMirror_kept | apply Res.ite_kept | apply Kept.ite) | split | intro _ | extract_lets | dsimp +zetaDelta only

theorem strokewaitStart_kept {μ : Mark} {s : State} {k : ℕ} {op : Op} (hk : Kept μ s) : Kept μ (strokewaitStart s k op).s := by
  unfold strokewaitStart
  repeat' first | (with_reducible first | assumption | apply Kept.ident | apply State.setSyRun_kept | apply catchAt_kept | apply Res.ite_kept | apply Kept.ite) | split | intro _ | extract_lets | dsimp +zetaDelta only

/-! ## Start -/

theorem startOp_kept {μ : Mark} {s : State} {k : ℕ} {op : Op} (hk : Kept μ s) : Kept μ (startOp s k op).s := by
  unfold startOp
  repeat' first | (with_reducible first | assumption | apply Kept.ident | apply mmaStart_kept | apply mstStart_kept | apply mldStart_kept | apply mzeroStart_kept | apply ewStart_kept | apply cvtStart_kept | apply redStart_kept | apply trnStart_kept | apply smxStart_kept | apply warpStart_kept | apply copyStart_kept | apply rcopyStart_kept | apply gsStart_kept | apply sendStart_kept | apply recvStart_kept | apply routeStart_kept | apply signalStart_kept | apply syStart_kept | apply strokewaitStart_kept | apply Res.ite_kept | apply Kept.ite) | split | intro _ | extract_lets | dsimp +zetaDelta only

theorem startNow_kept {μ : Mark} {s : State} {k : ℕ} {u : CoreUnit} {op : Op} (hk : Kept μ s) : Kept μ (startNow s k u op) := by
  unfold startNow
  repeat' first | (with_reducible first | assumption | apply Kept.ident | apply Kept.updCore | apply startOp_kept | apply unitFault_kept | apply Kept.ite) | split | intro _ | extract_lets | dsimp +zetaDelta only

theorem startHead_kept {μ : Mark} {s : State} {k : ℕ} {u : CoreUnit} {op : Op} (hk : Kept μ s) : Kept μ (startHead s k u op) := by
  unfold startHead
  repeat' first | (with_reducible first | assumption | apply Kept.ident | apply startNow_kept | apply Kept.updCore | apply takeGift_kept | apply Kept.ite) | split | intro _ | extract_lets | dsimp +zetaDelta only

theorem startOldest_kept {μ : Mark} {s : State} {k : ℕ} (hk : Kept μ s) : Kept μ (startOldest s k) := by
  unfold startOldest
  repeat' first | (with_reducible first | assumption | apply Kept.ident | apply startHead_kept | apply Kept.updCore | apply Kept.ite) | split | intro _ | extract_lets | dsimp +zetaDelta only

theorem advance_kept {μ : Mark} {s : State} {k : ℕ} (hk : Kept μ s) : Kept μ (advance s k) := by
  unfold advance
  repeat' first | (with_reducible first | assumption | apply Kept.ident | apply tryNotes_kept | apply Kept.each | apply startOldest_kept | apply Kept.ite) | split | intro _ | extract_lets | dsimp +zetaDelta only

theorem advancePair_kept {μ : Mark} {s : State} {k : ℕ} (hk : Kept μ s) : Kept μ (advancePair s k) := by
  unfold advancePair
  repeat' first | (with_reducible first | assumption | apply Kept.ident | apply advance_kept | apply Kept.ite) | split | intro _ | extract_lets | dsimp +zetaDelta only

end Sys2Proof.Machine
end

