-- ==== Sys2Proof/Laws/KeptFabric.lean ====
section
/-!
SUPPORT. What Kept says, kept by the fabric, sync homes, trees and slices: one lemma for each operation and for each row.
-/
set_option linter.unreachableTactic false
set_option linter.unusedTactic false
set_option linter.unusedVariables false
namespace Sys2Proof.Machine

/-! ## HostOps -/

theorem hostError_kept {μ : Mark} {s : State} {p : ℕ} {bit : ℕ} {addr : ℕ} {bar2 : Bool} (hk : Kept μ s) : Kept μ (hostError s p bit addr bar2) := by
  unfold hostError
  repeat' first | (with_reducible first | assumption | apply Kept.ident | apply Kept.updHub | apply Kept.ite) | split | intro _ | extract_lets | dsimp +zetaDelta only

theorem complete_kept {μ : Mark} {s : State} {p : ℕ} {index : ℕ} {status : ℕ} {detail : ℕ} (hk : Kept μ s) : Kept μ (complete s p index status detail) := by
  unfold complete
  repeat' first | (with_reducible first | assumption | apply Kept.ident | apply Kept.updCmd | apply Kept.ite) | split | intro _ | extract_lets | dsimp +zetaDelta only

theorem bar2Error_kept {μ : Mark} {s : State} {p : ℕ} {st : ℕ} {addr : ℕ} (hk : Kept μ s) : Kept μ (bar2Error s p st addr) := by
  unfold bar2Error
  repeat' first | (with_reducible first | assumption | apply Kept.ident | apply hostError_kept | apply Kept.ite) | split | intro _ | extract_lets | dsimp +zetaDelta only

theorem hubForward_kept {μ : Mark} {s : State} {h : ℕ} {pk : Packet} {f : Fwd} (hk : Kept μ s) : Kept μ (hubForward s h pk f) := by
  unfold hubForward
  repeat' first | (with_reducible first | assumption | apply Kept.ident | apply Kept.send | apply Kept.updHub | apply Kept.ite) | split | intro _ | extract_lets | dsimp +zetaDelta only

theorem hubReply_kept {μ : Mark} {s : State} {h : ℕ} {pk : Packet} {st : ℕ} {data : List Byte} (hk : Kept μ s) : Kept μ (hubReply s h pk st data) := by
  unfold hubReply
  repeat' first | (with_reducible first | assumption | apply Kept.ident | apply Kept.updHub | apply Kept.emit | apply bar2Error_kept | apply hostError_kept | apply complete_kept | apply Kept.ite) | split | intro _ | extract_lets | dsimp +zetaDelta only

/-! ## PortOps -/

theorem portNotice_kept {μ : Mark} {s : State} {f : ℕ} (hk : Kept μ s) : Kept μ (portNotice s f) := by
  unfold portNotice
  repeat' first | (with_reducible first | assumption | apply Kept.ident | apply raiseEvt_kept | apply Kept.ite) | split | intro _ | extract_lets | dsimp +zetaDelta only

theorem portRecord_kept {μ : Mark} {s : State} {f : ℕ} {event : ℕ} (hk : Kept μ s) : Kept μ (portRecord s f event) := by
  unfold portRecord
  repeat' first | (with_reducible first | assumption | apply Kept.ident | apply hubRecord_kept | apply Kept.ite) | split | intro _ | extract_lets | dsimp +zetaDelta only

theorem putFrame_kept {μ : Mark} {s : State} {f : ℕ} {fr : Frame} {nak : Bool} {guarded : Bool} (hk : Kept μ s) : Kept μ (putFrame s f fr nak guarded) := by
  unfold putFrame
  repeat' first | (with_reducible first | assumption | apply Kept.ident | apply Kept.emit | apply Kept.updFport | apply Kept.ite) | split | intro _ | extract_lets | dsimp +zetaDelta only

theorem sendTalk_kept {μ : Mark} {s : State} {f : ℕ} {type : ℕ} {step : ℕ} {payload : List Byte} (hk : Kept μ s) : Kept μ (sendTalk s f type step payload) := by
  unfold sendTalk
  repeat' first | (with_reducible first | assumption | apply Kept.ident | apply Kept.updFport | apply Kept.each | apply putFrame_kept | apply Kept.ite) | split | intro _ | extract_lets | dsimp +zetaDelta only

theorem pumpPort_kept {μ : Mark} {s : State} {f : ℕ} (hk : Kept μ s) : Kept μ (pumpPort s f) := by
  unfold pumpPort
  repeat' first | (with_reducible first | assumption | apply Kept.ident | apply putFrame_kept | apply Kept.updFport | apply Kept.foldl | apply Kept.foldlFst | apply Kept.ite) | split | intro _ | extract_lets | dsimp +zetaDelta only

theorem queueFrame_kept {μ : Mark} {s : State} {f : ℕ} {type : ℕ} {cls : ℕ} {first : Bool} {last : Bool} {chan : ℕ} {msgLen : ℕ} {payload : List Byte} (hk : Kept μ s) : Kept μ (queueFrame s f type cls first last chan msgLen payload) := by
  unfold queueFrame
  repeat' first | (with_reducible first | assumption | apply Kept.ident | apply pumpPort_kept | apply Kept.updFport | apply Kept.ite) | split | intro _ | extract_lets | dsimp +zetaDelta only

theorem sendPlain_kept {μ : Mark} {s : State} {f : ℕ} {type : ℕ} {payload : List Byte} {nak : Bool} (hk : Kept μ s) : Kept μ (sendPlain s f type payload nak) := by
  unfold sendPlain
  repeat' first | (with_reducible first | assumption | apply Kept.ident | apply putFrame_kept | apply Kept.ite) | split | intro _ | extract_lets | dsimp +zetaDelta only

theorem faultBound_kept {μ : Mark} {s : State} {f : ℕ} (hk : Kept μ s) : Kept μ (faultBound s f) := by
  unfold faultBound
  repeat' first | (with_reducible first | assumption | apply Kept.ident | apply Kept.each | apply unitFault_kept | apply Kept.ite) | split | intro _ | extract_lets | dsimp +zetaDelta only

theorem portClose_kept {μ : Mark} {s : State} {f : ℕ} {state : ℕ} {cause : ℕ} (hk : Kept μ s) : Kept μ (portClose s f state cause) := by
  unfold portClose
  repeat' first | (with_reducible first | assumption | apply Kept.ident | apply Kept.updFport | apply portNotice_kept | apply Kept.ite) | split | intro _ | extract_lets | dsimp +zetaDelta only

theorem portLeave_kept {μ : Mark} {s : State} {f : ℕ} {state : ℕ} {cause : ℕ} (hk : Kept μ s) : Kept μ (portLeave s f state cause) := by
  unfold portLeave
  repeat' first | (with_reducible first | assumption | apply Kept.ident | apply portClose_kept | apply Kept.updFport | apply faultBound_kept | apply Kept.ite) | split | intro _ | extract_lets | dsimp +zetaDelta only

theorem portGoDown_kept {μ : Mark} {s : State} {f : ℕ} {cause : ℕ} (hk : Kept μ s) : Kept μ (portGoDown s f cause) := by
  unfold portGoDown
  repeat' first | (with_reducible first | assumption | apply Kept.ident | apply portLeave_kept | apply portRecord_kept | apply Kept.ite) | split | intro _ | extract_lets | dsimp +zetaDelta only

theorem portQuit_kept {μ : Mark} {s : State} {f : ℕ} {cause : ℕ} (hk : Kept μ s) : Kept μ (portQuit s f cause) := by
  unfold portQuit
  repeat' first | (with_reducible first | assumption | apply Kept.ident | apply portGoDown_kept | apply sendPlain_kept | apply Kept.ite) | split | intro _ | extract_lets | dsimp +zetaDelta only

theorem portQuarantine_kept {μ : Mark} {s : State} {f : ℕ} {cause : ℕ} (hk : Kept μ s) : Kept μ (portQuarantine s f cause) := by
  unfold portQuarantine
  repeat' first | (with_reducible first | assumption | apply Kept.ident | apply portLeave_kept | apply portRecord_kept | apply sendPlain_kept | apply Kept.ite) | split | intro _ | extract_lets | dsimp +zetaDelta only

theorem portMalformed_kept {μ : Mark} {s : State} {f : ℕ} (hk : Kept μ s) : Kept μ (portMalformed s f) := by
  unfold portMalformed
  repeat' first | (with_reducible first | assumption | apply Kept.ident | apply Kept.updFport | apply portQuarantine_kept | apply Kept.ite) | split | intro _ | extract_lets | dsimp +zetaDelta only

theorem portNak_kept {μ : Mark} {s : State} {f : ℕ} (hk : Kept μ s) : Kept μ (portNak s f) := by
  unfold portNak
  repeat' first | (with_reducible first | assumption | apply Kept.ident | apply sendPlain_kept | apply Kept.updFport | apply Kept.ite) | split | intro _ | extract_lets | dsimp +zetaDelta only

theorem portTagFail_kept {μ : Mark} {s : State} {f : ℕ} (hk : Kept μ s) : Kept μ (portTagFail s f) := by
  unfold portTagFail
  repeat' first | (with_reducible first | assumption | apply Kept.ident | apply Kept.updFport | apply portQuarantine_kept | apply portNak_kept | apply Kept.ite) | split | intro _ | extract_lets | dsimp +zetaDelta only

theorem portHandshakeFail_kept {μ : Mark} {s : State} {f : ℕ} {cause : ℕ} (hk : Kept μ s) : Kept μ (portHandshakeFail s f cause) := by
  unfold portHandshakeFail
  repeat' first | (with_reducible first | assumption | apply Kept.ident | apply portRecord_kept | apply Kept.updFport | apply portQuarantine_kept | apply portQuit_kept | apply portClose_kept | apply sendPlain_kept | apply Kept.ite) | split | intro _ | extract_lets | dsimp +zetaDelta only

theorem portCredit_kept {μ : Mark} {s : State} {f : ℕ} {chan : ℕ} (hk : Kept μ s) : Kept μ (portCredit s f chan) := by
  unfold portCredit
  repeat' first | (with_reducible first | assumption | apply Kept.ident | apply queueFrame_kept | apply Kept.updFport | apply Kept.ite) | split | intro _ | extract_lets | dsimp +zetaDelta only

theorem State.updWindow_kept {μ : Mark} {s : State} {f : ℕ} {w : ℕ} {g : Window → Window} (hk : Kept μ s) : Kept μ (State.updWindow s f w g) := by
  unfold State.updWindow
  repeat' first | (with_reducible first | assumption | apply Kept.ident | apply Kept.updFport | apply Kept.ite) | split | intro _ | extract_lets | dsimp +zetaDelta only

theorem advertise_kept {μ : Mark} {s : State} {f : ℕ} {w : ℕ} (hk : Kept μ s) : Kept μ (advertise s f w) := by
  unfold advertise
  repeat' first | (with_reducible first | assumption | apply Kept.ident | apply queueFrame_kept | apply State.updWindow_kept | apply Kept.ite) | split | intro _ | extract_lets | dsimp +zetaDelta only

theorem advertiseAll_kept {μ : Mark} {s : State} {f : ℕ} (hk : Kept μ s) : Kept μ (advertiseAll s f) := by
  unfold advertiseAll
  repeat' first | (with_reducible first | assumption | apply Kept.ident | apply Kept.each | apply advertise_kept | apply Kept.ite) | split | intro _ | extract_lets | dsimp +zetaDelta only

theorem announce_kept {μ : Mark} {s : State} {f : ℕ} {gen : ℕ} (hk : Kept μ s) : Kept μ (announce s f gen) := by
  unfold announce
  repeat' first | (with_reducible first | assumption | apply Kept.ident | apply advertiseAll_kept | apply queueFrame_kept | apply Kept.updFport | apply Kept.ite) | split | intro _ | extract_lets | dsimp +zetaDelta only

theorem ingest_kept {μ : Mark} {s : State} {f : ℕ} {w : ℕ} {bytes : List Byte} (hk : Kept μ s) : Kept μ (ingest s f w bytes) := by
  unfold ingest
  repeat' first | (with_reducible first | assumption | apply Kept.ident | apply Kept.each | apply State.updWindow_kept | apply Kept.send | apply Kept.ite) | split | intro _ | extract_lets | dsimp +zetaDelta only

theorem portReply_kept {μ : Mark} {s : State} {f : ℕ} {tag : ℕ} {st : ℕ} (hk : Kept μ s) : Kept μ (portReply s f tag st) := by
  unfold portReply
  repeat' first | (with_reducible first | assumption | apply Kept.ident | apply State.updWindow_kept | apply Kept.ite) | split | intro _ | extract_lets | dsimp +zetaDelta only

/-! ## Responses -/

theorem takeReq_kept {μ : Mark} {s : State} {k : ℕ} {tag : ℕ} (hk : Kept μ s) : Kept μ (takeReq s k tag) := by
  unfold takeReq
  repeat' first | (with_reducible first | assumption | apply Kept.ident | apply pumpHeld_kept | apply Kept.updCore | apply Kept.ite) | split | intro _ | extract_lets | dsimp +zetaDelta only

theorem lateResponse_kept {μ : Mark} {s : State} {k : ℕ} (hk : Kept μ s) : Kept μ (lateResponse s k) := by
  unfold lateResponse
  repeat' first | (with_reducible first | assumption | apply Kept.ident | apply Kept.updFab | apply Kept.ite) | split | intro _ | extract_lets | dsimp +zetaDelta only

theorem failReq_kept {μ : Mark} {s : State} {k : ℕ} {q : Req} {cause : ℕ} (hk : Kept μ s) : Kept μ (failReq s k q cause) := by
  unfold failReq
  repeat' first | (with_reducible first | assumption | apply Kept.ident | apply unitFault_kept | apply Kept.ite) | split | intro _ | extract_lets | dsimp +zetaDelta only

theorem answerReq_kept {μ : Mark} {s : State} {k : ℕ} {q : Req} {st : ℕ} (hk : Kept μ s) : Kept μ (answerReq s k q st) := by
  unfold answerReq
  repeat' first | (with_reducible first | assumption | apply Kept.ident | apply finish_kept | apply routeAll_kept | apply routeNext_kept | apply settle_kept | apply routeRefused_kept | apply routeLost_kept | apply failReq_kept | apply Kept.ite) | split | intro _ | extract_lets | dsimp +zetaDelta only

theorem coreAck_kept {μ : Mark} {s : State} {k : ℕ} {p : Packet} (hk : Kept μ s) : Kept μ (coreAck s k p) := by
  unfold coreAck
  repeat' first | (with_reducible first | assumption | apply Kept.ident | apply lateResponse_kept | apply advancePair_kept | apply answerReq_kept | apply takeReq_kept | apply Kept.ite) | split | intro _ | extract_lets | dsimp +zetaDelta only

theorem readLands_kept {μ : Mark} {s : State} {k : ℕ} {p : Packet} (hk : Kept μ s) : Kept μ (readLands s k p).s := by
  unfold readLands
  repeat' first | (with_reducible first | assumption | apply Kept.ident | apply Res.eachOf_kept | apply unitWrite_kept | apply Res.ite_kept | apply Kept.ite) | split | intro _ | extract_lets | dsimp +zetaDelta only

theorem coreRdata_kept {μ : Mark} {s : State} {k : ℕ} {p : Packet} (hk : Kept μ s) : Kept μ (coreRdata s k p) := by
  unfold coreRdata
  repeat' first | (with_reducible first | assumption | apply Kept.ident | apply lateResponse_kept | apply takeReq_kept | apply advancePair_kept | apply stageDone_kept | apply settle_kept | apply State.setRun_kept | apply readLands_kept | apply failReq_kept | apply Kept.ite) | split | intro _ | extract_lets | dsimp +zetaDelta only

theorem releaseRun_kept {μ : Mark} {s : State} {k : ℕ} {seq : ℕ} {held : Bool} (hk : Kept μ s) : Kept μ (releaseRun s k seq held) := by
  unfold releaseRun
  repeat' first | (with_reducible first | assumption | apply Kept.ident | apply Kept.updCore | apply catchAt_kept | apply State.setSyRun_kept | apply retireOne_kept | apply Kept.ite) | split | intro _ | extract_lets | dsimp +zetaDelta only

theorem coreRelease_kept {μ : Mark} {s : State} {k : ℕ} {obj : ℕ} {st : ℕ} (hk : Kept μ s) : Kept μ (coreRelease s k obj st) := by
  unfold coreRelease
  repeat' first | (with_reducible first | assumption | apply Kept.ident | apply Kept.updCore | apply advancePair_kept | apply releaseRun_kept | apply unitFault_kept | apply Kept.foldl | apply Kept.foldlFst | apply Kept.ite) | split | intro _ | extract_lets | dsimp +zetaDelta only

theorem coreGrant_kept {μ : Mark} {s : State} {k : ℕ} {p : Packet} (hk : Kept μ s) : Kept μ (coreGrant s k p) := by
  unfold coreGrant
  repeat' first | (with_reducible first | assumption | apply Kept.ident | apply lateResponse_kept | apply takeReq_kept | apply Kept.each | apply cancelGrant_kept | apply advancePair_kept | apply routeAll_kept | apply routeGranted_kept | apply routeRefused_kept | apply Kept.ite) | split | intro _ | extract_lets | dsimp +zetaDelta only

theorem coreCredit_kept {μ : Mark} {s : State} {k : ℕ} {sid : ℕ} (hk : Kept μ s) : Kept μ (coreCredit s k sid) := by
  unfold coreCredit
  repeat' first | (with_reducible first | assumption | apply Kept.ident | apply advancePair_kept | apply pumpStream_kept | apply Kept.updCore | apply Kept.foldl | apply Kept.foldlFst | apply Kept.ite) | split | intro _ | extract_lets | dsimp +zetaDelta only

theorem agentAck_kept {μ : Mark} {s : State} {p : Packet} (hk : Kept μ s) : Kept μ (agentAck s p) := by
  unfold agentAck
  repeat' first | (with_reducible first | assumption | apply Kept.ident | apply Kept.updAdmit | apply Kept.send | apply Kept.ite) | split | intro _ | extract_lets | dsimp +zetaDelta only

theorem bezReply_kept {μ : Mark} {s : State} {n : ℕ} {tag : ℕ} {st : ℕ} {data : List Byte} (hk : Kept μ s) : Kept μ (bezReply s n tag st data) := by
  unfold bezReply
  repeat' first | (with_reducible first | assumption | apply Kept.ident | apply Kept.emit | apply Kept.updBezel | apply Kept.ite) | split | intro _ | extract_lets | dsimp +zetaDelta only

theorem takeResponse_kept {μ : Mark} {s : State} {i : ℕ} {p : Packet} {toCore : State → ℕ → State} {toAgent : State → State} {st : ℕ} {data : List Byte} (hk : Kept μ s) (htoCore : ∀ s n, Kept μ s → Kept μ (toCore s n)) (htoAgent : ∀ s, Kept μ s → Kept μ (toAgent s)) : Kept μ (takeResponse s i p toCore toAgent st data) := by
  unfold takeResponse
  repeat' first | (with_reducible first | assumption | apply Kept.ident | apply State.takePacket_kept | apply portReply_kept | apply bezReply_kept | apply hubReply_kept | apply htoCore | apply htoAgent | apply Kept.ite) | split | intro _ | extract_lets | dsimp +zetaDelta only

theorem execAck_kept {μ : Mark} {i : ℕ} {s : State} (hk : Kept μ s) : KeptNext μ (execAck i s) := by
  unfold execAck
  repeat' first | (with_reducible first | assumption | apply Kept.ident | apply KeptNext.next | exact KeptNext.fault | exact KeptNext.refused | apply KeptNext.ite | apply takeResponse_kept | apply coreAck_kept | apply agentAck_kept | apply Kept.ite) | split | intro _ | extract_lets | dsimp +zetaDelta only

theorem execRdata_kept {μ : Mark} {i : ℕ} {s : State} (hk : Kept μ s) : KeptNext μ (execRdata i s) := by
  unfold execRdata
  repeat' first | (with_reducible first | assumption | apply Kept.ident | apply KeptNext.next | exact KeptNext.fault | exact KeptNext.refused | apply KeptNext.ite | apply takeResponse_kept | apply coreRdata_kept | apply Kept.ite) | split | intro _ | extract_lets | dsimp +zetaDelta only

theorem execRelease_kept {μ : Mark} {i : ℕ} {s : State} (hk : Kept μ s) : KeptNext μ (execRelease i s) := by
  unfold execRelease
  repeat' first | (with_reducible first | assumption | apply Kept.ident | apply KeptNext.next | exact KeptNext.fault | exact KeptNext.refused | apply KeptNext.ite | apply takeResponse_kept | apply coreRelease_kept | apply Kept.ite) | split | intro _ | extract_lets | dsimp +zetaDelta only

theorem execGrant_kept {μ : Mark} {i : ℕ} {s : State} (hk : Kept μ s) : KeptNext μ (execGrant i s) := by
  unfold execGrant
  repeat' first | (with_reducible first | assumption | apply Kept.ident | apply KeptNext.next | exact KeptNext.fault | exact KeptNext.refused | apply KeptNext.ite | apply takeResponse_kept | apply coreGrant_kept | apply Kept.ite) | split | intro _ | extract_lets | dsimp +zetaDelta only

theorem execCredit_kept {μ : Mark} {i : ℕ} {s : State} (hk : Kept μ s) : KeptNext μ (execCredit i s) := by
  unfold execCredit
  repeat' first | (with_reducible first | assumption | apply Kept.ident | apply KeptNext.next | exact KeptNext.fault | exact KeptNext.refused | apply KeptNext.ite | apply portCredit_kept | apply State.takePacket_kept | apply takeResponse_kept | apply coreCredit_kept | apply Kept.ite) | split | intro _ | extract_lets | dsimp +zetaDelta only

theorem execAdata_kept {μ : Mark} {i : ℕ} {s : State} (hk : Kept μ s) : KeptNext μ (execAdata i s) := by
  unfold execAdata
  repeat' first | (with_reducible first | assumption | apply Kept.ident | apply KeptNext.next | exact KeptNext.fault | exact KeptNext.refused | apply KeptNext.ite | apply takeResponse_kept | apply coreAck_kept | apply Kept.ite) | split | intro _ | extract_lets | dsimp +zetaDelta only

theorem coreMessage_kept {μ : Mark} {s : State} {k : ℕ} {p : Packet} (hk : Kept μ s) : Kept μ (coreMessage s k p) := by
  unfold coreMessage
  repeat' first | (with_reducible first | assumption | apply Kept.ident | apply Kept.send | apply advancePair_kept | apply deliverMessage_kept | apply State.setRun_kept | apply Kept.ite) | split | intro _ | extract_lets | dsimp +zetaDelta only

theorem execMsgReceive_kept {μ : Mark} {i : ℕ} {s : State} (hk : Kept μ s) : KeptNext μ (execMsgReceive i s) := by
  unfold execMsgReceive
  repeat' first | (with_reducible first | assumption | apply Kept.ident | apply KeptNext.next | exact KeptNext.fault | exact KeptNext.refused | apply KeptNext.ite | apply coreMessage_kept | apply State.takePacket_kept | apply Kept.ite) | split | intro _ | extract_lets | dsimp +zetaDelta only

theorem execInstrComplete_kept {μ : Mark} {k : PCore} {u : CoreUnit} {i : ℕ} {s : State} (hk : Kept μ s) : KeptNext μ (execInstrComplete k u i s) := by
  unfold execInstrComplete
  repeat' first | (with_reducible first | assumption | apply Kept.ident | apply KeptNext.next | exact KeptNext.fault | exact KeptNext.refused | apply KeptNext.ite | apply advance_kept | apply retireOne_kept | apply Kept.ite) | split | intro _ | extract_lets | dsimp +zetaDelta only

theorem execResponseTimeout_kept {μ : Mark} {k : PCore} {tag : W16} {s : State} (hk : Kept μ s) : KeptNext μ (execResponseTimeout k tag s) := by
  unfold execResponseTimeout
  repeat' first | (with_reducible first | assumption | apply Kept.ident | apply KeptNext.next | exact KeptNext.fault | exact KeptNext.refused | apply KeptNext.ite | apply takeReq_kept | apply Kept.updFab | apply settle_kept | apply advancePair_kept | apply failReq_kept | apply Kept.ite) | split | intro _ | extract_lets | dsimp +zetaDelta only

theorem execPairSubmissionTimeout_kept {μ : Mark} {k : PCore} {s : State} (hk : Kept μ s) : KeptNext μ (execPairSubmissionTimeout k s) := by
  unfold execPairSubmissionTimeout
  repeat' first | (with_reducible first | assumption | apply Kept.ident | apply KeptNext.next | exact KeptNext.fault | exact KeptNext.refused | apply KeptNext.ite | apply pairMismatch_kept | apply Kept.ite) | split | intro _ | extract_lets | dsimp +zetaDelta only

/-! ## Home -/

theorem freeHalves_kept {μ : Mark} {s : State} {o : ℕ} (hk : Kept μ s) : Kept μ (freeHalves s o) := by
  unfold freeHalves
  repeat' first | (with_reducible first | assumption | apply Kept.ident | apply Kept.each | apply Kept.updAdmit | apply Kept.ite) | split | intro _ | extract_lets | dsimp +zetaDelta only

theorem freeRuns_kept {μ : Mark} {s : State} {o : ℕ} {l : ℕ} {pick : Run → Bool} (hk : Kept μ s) : Kept μ (freeRuns s o l pick) := by
  unfold freeRuns
  repeat' first | (with_reducible first | assumption | apply Kept.ident | apply Kept.updCore | apply Kept.foldl | apply Kept.foldlFst | apply Kept.ite) | split | intro _ | extract_lets | dsimp +zetaDelta only

theorem answerTaken_kept {μ : Mark} {s : State} {p : Packet} {o : ℕ} {l : ℕ} {st : ℕ} (hk : Kept μ s) : Kept μ (answerTaken s p o l st) := by
  unfold answerTaken
  repeat' first | (with_reducible first | assumption | apply Kept.ident | apply Kept.send | apply freeRuns_kept | apply Kept.ite) | split | intro _ | extract_lets | dsimp +zetaDelta only

theorem homeRelease_kept {μ : Mark} {s : State} {o : ℕ} {sticky : Bool} (hk : Kept μ s) : Kept μ (homeRelease s o sticky) := by
  unfold homeRelease
  repeat' first | (with_reducible first | assumption | apply Kept.ident | apply Kept.updSync | apply freeHalves_kept | apply Kept.each | apply Kept.send | apply freeRuns_kept | apply Kept.ite) | split | intro _ | extract_lets | dsimp +zetaDelta only

theorem waiterFault_kept {μ : Mark} {s : State} {o : ℕ} {l : ℕ} {cause : ℕ} (hk : Kept μ s) : Kept μ (waiterFault s o l cause) := by
  unfold waiterFault
  repeat' first | (with_reducible first | assumption | apply Kept.ident | apply unitFault_kept | apply coreFault_kept | apply Kept.ite) | split | intro _ | extract_lets | dsimp +zetaDelta only

theorem homeSignalOp_kept {μ : Mark} {s : State} {o : ℕ} {n : ℕ} (hk : Kept μ s) : Kept μ (homeSignalOp s o n) := by
  unfold homeSignalOp
  repeat' first | (with_reducible first | assumption | apply Kept.ident | apply Kept.updSync | apply homeRelease_kept | apply Kept.ite) | split | intro _ | extract_lets | dsimp +zetaDelta only

theorem homeArmOp_kept {μ : Mark} {s : State} {o : ℕ} {t : ℕ} (hk : Kept μ s) : Kept μ (homeArmOp s o t) := by
  unfold homeArmOp
  repeat' first | (with_reducible first | assumption | apply Kept.ident | apply Kept.updSync | apply homeRelease_kept | apply Kept.ite) | split | intro _ | extract_lets | dsimp +zetaDelta only

theorem homeHold_kept {μ : Mark} {s : State} {o : ℕ} {l : ℕ} (hk : Kept μ s) : Kept μ (homeHold s o l) := by
  unfold homeHold
  repeat' first | (with_reducible first | assumption | apply Kept.ident | apply Kept.updSync | apply Kept.each | apply Kept.updCore | apply Kept.ite) | split | intro _ | extract_lets | dsimp +zetaDelta only

theorem homeWaitOp_kept {μ : Mark} {s : State} {p : Packet} {o : ℕ} {l : ℕ} (hk : Kept μ s) : Kept μ (homeWaitOp s p o l) := by
  unfold homeWaitOp
  repeat' first | (with_reducible first | assumption | apply Kept.ident | apply waiterFault_kept | apply answerTaken_kept | apply homeHold_kept | apply Kept.ite) | split | intro _ | extract_lets | dsimp +zetaDelta only

theorem homeBarrierOp_kept {μ : Mark} {s : State} {p : Packet} {o : ℕ} {l : ℕ} (hk : Kept μ s) : Kept μ (homeBarrierOp s p o l) := by
  unfold homeBarrierOp
  repeat' first | (with_reducible first | assumption | apply Kept.ident | apply waiterFault_kept | apply answerTaken_kept | apply homeWaitOp_kept | apply Kept.updSync | apply homeRelease_kept | apply Kept.ite) | split | intro _ | extract_lets | dsimp +zetaDelta only

theorem execHomeSignal_kept {μ : Mark} {i : ℕ} {s : State} (hk : Kept μ s) : KeptNext μ (execHomeSignal i s) := by
  unfold execHomeSignal
  repeat' first | (with_reducible first | assumption | apply Kept.ident | apply KeptNext.next | exact KeptNext.fault | exact KeptNext.refused | apply KeptNext.ite | apply State.takePacket_kept | apply Kept.send | apply homeSignalOp_kept | apply Kept.ite) | split | intro _ | extract_lets | dsimp +zetaDelta only

theorem execHomeWait_kept {μ : Mark} {i : ℕ} {s : State} (hk : Kept μ s) : KeptNext μ (execHomeWait i s) := by
  unfold execHomeWait
  repeat' first | (with_reducible first | assumption | apply Kept.ident | apply KeptNext.next | exact KeptNext.fault | exact KeptNext.refused | apply KeptNext.ite | apply homeWaitOp_kept | apply State.takePacket_kept | apply Kept.ite) | split | intro _ | extract_lets | dsimp +zetaDelta only

theorem execHomeArm_kept {μ : Mark} {i : ℕ} {s : State} (hk : Kept μ s) : KeptNext μ (execHomeArm i s) := by
  unfold execHomeArm
  repeat' first | (with_reducible first | assumption | apply Kept.ident | apply KeptNext.next | exact KeptNext.fault | exact KeptNext.refused | apply KeptNext.ite | apply State.takePacket_kept | apply Kept.send | apply homeArmOp_kept | apply Kept.ite) | split | intro _ | extract_lets | dsimp +zetaDelta only

theorem execHomeBarrier_kept {μ : Mark} {i : ℕ} {s : State} (hk : Kept μ s) : KeptNext μ (execHomeBarrier i s) := by
  unfold execHomeBarrier
  repeat' first | (with_reducible first | assumption | apply Kept.ident | apply KeptNext.next | exact KeptNext.fault | exact KeptNext.refused | apply KeptNext.ite | apply homeBarrierOp_kept | apply State.takePacket_kept | apply Kept.ite) | split | intro _ | extract_lets | dsimp +zetaDelta only

theorem homeFault_kept {μ : Mark} {s : State} {o : ℕ} {cause : ℕ} (hk : Kept μ s) : Kept μ (homeFault s o cause) := by
  unfold homeFault
  repeat' first | (with_reducible first | assumption | apply Kept.ident | apply Kept.each | apply Kept.updSync | apply waiterFault_kept | apply Kept.ite) | split | intro _ | extract_lets | dsimp +zetaDelta only

theorem homeTakesReport_kept {μ : Mark} {s : State} {o : ℕ} (hk : Kept μ s) : Kept μ (homeTakesReport s o) := by
  unfold homeTakesReport
  repeat' first | (with_reducible first | assumption | apply Kept.ident | apply Kept.updArb | apply Kept.ite) | split | intro _ | extract_lets | dsimp +zetaDelta only

theorem execHomeFaultReport_kept {μ : Mark} {o : ObjId} {l : Lcid} {absent : Bool} {s : State} (hk : Kept μ s) : KeptNext μ (execHomeFaultReport o l absent s) := by
  unfold execHomeFaultReport
  repeat' first | (with_reducible first | assumption | apply Kept.ident | apply KeptNext.next | exact KeptNext.fault | exact KeptNext.refused | apply KeptNext.ite | apply homeFault_kept | apply homeTakesReport_kept | apply Kept.ite) | split | intro _ | extract_lets | dsimp +zetaDelta only

theorem admitTake_kept {μ : Mark} {s : State} {u : ℕ} {p : Packet} (hk : Kept μ s) : Kept μ (admitTake s u p) := by
  unfold admitTake
  repeat' first | (with_reducible first | assumption | apply Kept.ident | apply Kept.updAdmit | apply Kept.send | apply cancelGrant_kept | apply Kept.ite) | split | intro _ | extract_lets | dsimp +zetaDelta only

theorem execAdmitRequest_kept {μ : Mark} {i : ℕ} {s : State} (hk : Kept μ s) : KeptNext μ (execAdmitRequest i s) := by
  unfold execAdmitRequest
  repeat' first | (with_reducible first | assumption | apply Kept.ident | apply KeptNext.next | exact KeptNext.fault | exact KeptNext.refused | apply KeptNext.ite | apply admitTake_kept | apply State.takePacket_kept | apply Kept.ite) | split | intro _ | extract_lets | dsimp +zetaDelta only

theorem execCatchPoint_kept {μ : Mark} {k : PCore} {s : State} (hk : Kept μ s) : KeptNext μ (execCatchPoint k s) := by
  unfold execCatchPoint
  repeat' first | (with_reducible first | assumption | apply Kept.ident | apply KeptNext.next | exact KeptNext.fault | exact KeptNext.refused | apply KeptNext.ite | apply Kept.updCore | apply advance_kept | apply retireOne_kept | apply Kept.ite) | split | intro _ | extract_lets | dsimp +zetaDelta only

theorem execCatchEnd_kept {μ : Mark} {k : PCore} {s : State} (hk : Kept μ s) : KeptNext μ (execCatchEnd k s) := by
  unfold execCatchEnd
  repeat' first | (with_reducible first | assumption | apply Kept.ident | apply KeptNext.next | exact KeptNext.fault | exact KeptNext.refused | apply KeptNext.ite | apply Kept.updCore | apply Kept.ite) | split | intro _ | extract_lets | dsimp +zetaDelta only

/-! ## Trees -/

theorem State.updNode_kept {μ : Mark} {s : State} {tk : ℕ} {r : ℕ} {f : TreeNode → TreeNode} (hk : Kept μ s) : Kept μ (State.updNode s tk r f) := by
  unfold State.updNode
  repeat' first | (with_reducible first | assumption | apply Kept.ident | apply Kept.updTree | apply Kept.ite) | split | intro _ | extract_lets | dsimp +zetaDelta only

theorem freeRoom_kept {μ : Mark} {s : State} {tk : ℕ} {from_ : ℕ} {to_ : ℕ} {n : ℕ} (hk : Kept μ s) : Kept μ (freeRoom s tk from_ to_ n) := by
  unfold freeRoom
  repeat' first | (with_reducible first | assumption | apply Kept.ident | apply State.updNode_kept | apply Kept.ite) | split | intro _ | extract_lets | dsimp +zetaDelta only

theorem leaveBuffer_kept {μ : Mark} {s : State} {p : Packet} (hk : Kept μ s) : Kept μ (leaveBuffer s p) := by
  unfold leaveBuffer
  repeat' first | (with_reducible first | assumption | apply Kept.ident | apply freeRoom_kept | apply Kept.ite) | split | intro _ | extract_lets | dsimp +zetaDelta only

theorem rederiveTree_kept {μ : Mark} {s : State} {tk : ℕ} (hk : Kept μ s) : Kept μ (rederiveTree s tk) := by
  unfold rederiveTree
  repeat' first | (with_reducible first | assumption | apply Kept.ident | apply Kept.updTree | apply setFabRc_kept | apply Kept.ite) | split | intro _ | extract_lets | dsimp +zetaDelta only

theorem endCollective_kept {μ : Mark} {s : State} {tk : ℕ} (hk : Kept μ s) : Kept μ (endCollective s tk) := by
  unfold endCollective
  repeat' first | (with_reducible first | assumption | apply Kept.ident | apply Kept.updTree | apply rederiveTree_kept | apply tryTree_kept | apply mergeCredits_kept | apply Kept.ite) | split | intro _ | extract_lets | dsimp +zetaDelta only

theorem writeTreeLast_kept {μ : Mark} {s : State} {k : ℕ} {ty : ℕ} {tree : ℕ} {dropped : ℕ} {first : ℕ} (hk : Kept μ s) : Kept μ (writeTreeLast s k ty tree dropped first) := by
  unfold writeTreeLast
  repeat' first | (with_reducible first | assumption | apply Kept.ident | apply Kept.each | apply Kept.updCore | apply Kept.ite) | split | intro _ | extract_lets | dsimp +zetaDelta only

theorem checkMulticast_kept {μ : Mark} {s : State} {tk : ℕ} (hk : Kept μ s) : Kept μ (checkMulticast s tk) := by
  unfold checkMulticast
  repeat' first | (with_reducible first | assumption | apply Kept.ident | apply advancePair_kept | apply finish_kept | apply writeTreeLast_kept | apply endCollective_kept | apply Kept.ite) | split | intro _ | extract_lets | dsimp +zetaDelta only

theorem dropUp_kept {μ : Mark} {s : State} {tk : ℕ} {r : ℕ} {count : ℕ} {low : ℕ} (hk : Kept μ s) : Kept μ (dropUp s tk r count low) := by
  unfold dropUp
  repeat' first | (with_reducible first | assumption | apply Kept.ident | apply Kept.send | apply checkMulticast_kept | apply Kept.updTree | apply Kept.ite) | split | intro _ | extract_lets | dsimp +zetaDelta only

theorem mergeDone_kept {μ : Mark} {s : State} {tk : ℕ} {r : ℕ} (hk : Kept μ s) : Kept μ (mergeDone s tk r) := by
  unfold mergeDone
  repeat' first | (with_reducible first | assumption | apply Kept.ident | apply State.updNode_kept | apply Kept.send | apply checkMulticast_kept | apply Kept.updTree | apply Kept.foldl | apply Kept.foldlFst | apply Kept.ite) | split | intro _ | extract_lets | dsimp +zetaDelta only

theorem copyDown_kept {μ : Mark} {s : State} {tk : ℕ} {r : ℕ} {p : Packet} (hk : Kept μ s) : Kept μ (copyDown s tk r p) := by
  unfold copyDown
  repeat' first | (with_reducible first | assumption | apply Kept.ident | apply Kept.each | apply Kept.send | apply Kept.ite) | split | intro _ | extract_lets | dsimp +zetaDelta only

theorem judgeOwn_kept {μ : Mark} {s : State} {tk : ℕ} {r : ℕ} (hk : Kept μ s) : Kept μ (judgeOwn s tk r) := by
  unfold judgeOwn
  repeat' first | (with_reducible first | assumption | apply Kept.ident | apply State.updNode_kept | apply Kept.updTree | apply Kept.ite) | split | intro _ | extract_lets | dsimp +zetaDelta only

theorem foldOn_kept {μ : Mark} {s : State} {tk : ℕ} {r : ℕ} {ps : ℕ → ℕ → Dir → List Packet} (hk : Kept μ s) : Kept μ (foldOn s tk r ps) := by
  unfold foldOn
  repeat' first | (with_reducible first | assumption | apply Kept.ident | apply Kept.each | apply Kept.send | apply Kept.ite) | split | intro _ | extract_lets | dsimp +zetaDelta only

theorem freeFolded_kept {μ : Mark} {s : State} {tk : ℕ} {r : ℕ} {l : List Contribution} (hk : Kept μ s) : Kept μ (freeFolded s tk r l) := by
  unfold freeFolded
  repeat' first | (with_reducible first | assumption | apply Kept.ident | apply Kept.each | apply freeRoom_kept | apply Kept.ite) | split | intro _ | extract_lets | dsimp +zetaDelta only

theorem foldNode_kept {μ : Mark} {n : ℕ} {s : State} {tk : ℕ} {r : ℕ} (h : Kept μ s) : Kept μ (foldNode n s tk r) := by
  induction n generalizing s tk r with
  | zero => exact h
  | succ n ih =>
    unfold foldNode
    repeat' first | (with_reducible first | assumption | apply ih | apply foldOn_kept | apply State.updNode_kept | apply freeFolded_kept | apply Kept.updTree | apply Kept.ite)  | split | intro _ | extract_lets | dsimp +zetaDelta only

theorem takeContrib_kept {μ : Mark} {s : State} {tk : ℕ} {r : ℕ} {p : Packet} (hk : Kept μ s) : Kept μ (takeContrib s tk r p) := by
  unfold takeContrib
  repeat' first | (with_reducible first | assumption | apply Kept.ident | apply leaveBuffer_kept | apply State.updNode_kept | apply foldNode_kept | apply judgeOwn_kept | apply Kept.ite) | split | intro _ | extract_lets | dsimp +zetaDelta only

theorem reduceEnd_kept {μ : Mark} {s : State} {tk : ℕ} {k : ℕ} {run : Run} {void : Bool} {bytes : List Byte} {flags : ℕ} {count : ℕ} (hk : Kept μ s) : Kept μ (reduceEnd s tk k run void bytes flags count) := by
  unfold reduceEnd
  repeat' first | (with_reducible first | assumption | apply Kept.ident | apply unitFault_kept | apply finish_kept | apply writeTreeLast_kept | apply Res.eachOf_kept | apply unitWrites_kept | apply endCollective_kept | apply advancePair_kept | apply Kept.ite) | split | intro _ | extract_lets | dsimp +zetaDelta only

theorem memberTakes_kept {μ : Mark} {s : State} {tk : ℕ} {r : ℕ} {k : ℕ} {p : Packet} (hk : Kept μ s) : Kept μ (memberTakes s tk r k p) := by
  unfold memberTakes
  repeat' first | (with_reducible first | assumption | apply Kept.ident | apply advancePair_kept | apply deliverMessage_kept | apply State.setRun_kept | apply Kept.send | apply Kept.ite) | split | intro _ | extract_lets | dsimp +zetaDelta only

theorem rootTakes_kept {μ : Mark} {s : State} {tk : ℕ} {p : Packet} (hk : Kept μ s) : Kept μ (rootTakes s tk p) := by
  unfold rootTakes
  repeat' first | (with_reducible first | assumption | apply Kept.ident | apply reduceEnd_kept | apply State.setRun_kept | apply Kept.ite) | split | intro _ | extract_lets | dsimp +zetaDelta only

theorem creditDown_kept {μ : Mark} {s : State} {tk : ℕ} {r : ℕ} {p : Packet} (hk : Kept μ s) : Kept μ (creditDown s tk r p) := by
  unfold creditDown
  repeat' first | (with_reducible first | assumption | apply Kept.ident | apply Kept.each | apply Kept.send | apply Kept.ite) | split | intro _ | extract_lets | dsimp +zetaDelta only

theorem grantSend_kept {μ : Mark} {s : State} {tk : ℕ} {k : ℕ} (hk : Kept μ s) : Kept μ (grantSend s tk k) := by
  unfold grantSend
  repeat' first | (with_reducible first | assumption | apply Kept.ident | apply advancePair_kept | apply Kept.each | apply pumpContrib_kept | apply Kept.updCore | apply Kept.ite) | split | intro _ | extract_lets | dsimp +zetaDelta only

theorem execTreeCredit_kept {μ : Mark} {i : ℕ} {s : State} (hk : Kept μ s) : KeptNext μ (execTreeCredit i s) := by
  unfold execTreeCredit
  repeat' first | (with_reducible first | assumption | apply Kept.ident | apply KeptNext.next | exact KeptNext.fault | exact KeptNext.refused | apply KeptNext.ite | apply State.updNode_kept | apply leaveBuffer_kept | apply State.takePacket_kept | apply tryTree_kept | apply mergeCredits_kept | apply creditDown_kept | apply Kept.ite) | split | intro _ | extract_lets | dsimp +zetaDelta only

theorem execTreeMcast_kept {μ : Mark} {i : ℕ} {s : State} (hk : Kept μ s) : KeptNext μ (execTreeMcast i s) := by
  unfold execTreeMcast
  repeat' first | (with_reducible first | assumption | apply Kept.ident | apply KeptNext.next | exact KeptNext.fault | exact KeptNext.refused | apply KeptNext.ite | apply copyDown_kept | apply leaveBuffer_kept | apply State.takePacket_kept | apply Kept.ite) | split | intro _ | extract_lets | dsimp +zetaDelta only

theorem execTreeContrib_kept {μ : Mark} {i : ℕ} {s : State} (hk : Kept μ s) : KeptNext μ (execTreeContrib i s) := by
  unfold execTreeContrib
  repeat' first | (with_reducible first | assumption | apply Kept.ident | apply KeptNext.next | exact KeptNext.fault | exact KeptNext.refused | apply KeptNext.ite | apply takeContrib_kept | apply State.takePacket_kept | apply Kept.ite) | split | intro _ | extract_lets | dsimp +zetaDelta only

theorem portResult_kept {μ : Mark} {s : State} {k : ℕ} {p : Packet} (hk : Kept μ s) : Kept μ (portResult s k p) := by
  unfold portResult
  repeat' first | (with_reducible first | assumption | apply Kept.ident | apply advancePair_kept | apply deliverMessage_kept | apply State.setRun_kept | apply Kept.ite) | split | intro _ | extract_lets | dsimp +zetaDelta only

theorem execTreeResult_kept {μ : Mark} {i : ℕ} {s : State} (hk : Kept μ s) : KeptNext μ (execTreeResult i s) := by
  unfold execTreeResult
  repeat' first | (with_reducible first | assumption | apply Kept.ident | apply KeptNext.next | exact KeptNext.fault | exact KeptNext.refused | apply KeptNext.ite | apply portResult_kept | apply State.takePacket_kept | apply memberTakes_kept | apply grantSend_kept | apply rootTakes_kept | apply Kept.ite) | split | intro _ | extract_lets | dsimp +zetaDelta only

theorem execTreeDone_kept {μ : Mark} {i : ℕ} {s : State} (hk : Kept μ s) : KeptNext μ (execTreeDone i s) := by
  unfold execTreeDone
  repeat' first | (with_reducible first | assumption | apply Kept.ident | apply KeptNext.next | exact KeptNext.fault | exact KeptNext.refused | apply KeptNext.ite | apply mergeDone_kept | apply State.updNode_kept | apply leaveBuffer_kept | apply State.takePacket_kept | apply Kept.ite) | split | intro _ | extract_lets | dsimp +zetaDelta only

theorem execTreeDropped_kept {μ : Mark} {i : ℕ} {s : State} (hk : Kept μ s) : KeptNext μ (execTreeDropped i s) := by
  unfold execTreeDropped
  repeat' first | (with_reducible first | assumption | apply Kept.ident | apply KeptNext.next | exact KeptNext.fault | exact KeptNext.refused | apply KeptNext.ite | apply mergeDone_kept | apply dropUp_kept | apply leaveBuffer_kept | apply State.takePacket_kept | apply Kept.ite) | split | intro _ | extract_lets | dsimp +zetaDelta only

theorem memberFault_kept {μ : Mark} {s : State} {t : Tree} {l : ℕ} (hk : Kept μ s) : Kept μ (memberFault s t l) := by
  unfold memberFault
  repeat' first | (with_reducible first | assumption | apply Kept.ident | apply unitFault_kept | apply Kept.ite) | split | intro _ | extract_lets | dsimp +zetaDelta only

theorem cutBranches_kept {μ : Mark} {s : State} {tk : ℕ} {reg : ℕ} (hk : Kept μ s) : Kept μ (cutBranches s tk reg) := by
  unfold cutBranches
  repeat' first | (with_reducible first | assumption | apply Kept.ident | apply Kept.each | apply Kept.setNet | apply Kept.updTree | apply memberFault_kept | apply mergeDone_kept | apply dropUp_kept | apply Kept.foldl | apply Kept.foldlFst | apply Kept.ite) | split | intro _ | extract_lets | dsimp +zetaDelta only

theorem rootGone_kept {μ : Mark} {s : State} {tk : ℕ} (hk : Kept μ s) : Kept μ (rootGone s tk) := by
  unfold rootGone
  repeat' first | (with_reducible first | assumption | apply Kept.ident | apply endCollective_kept | apply memberFault_kept | apply Kept.foldl | apply Kept.foldlFst | apply Kept.ite) | split | intro _ | extract_lets | dsimp +zetaDelta only

theorem treeReport_kept {μ : Mark} {s : State} {tk : ℕ} {rep : RingReport} (hk : Kept μ s) : Kept μ (treeReport s tk rep) := by
  unfold treeReport
  repeat' first | (with_reducible first | assumption | apply Kept.ident | apply Kept.updTree | apply cutBranches_kept | apply rootGone_kept | apply tryTree_kept | apply Kept.each | apply foldNode_kept | apply mergeCredits_kept | apply Kept.foldl | apply Kept.foldlFst | apply Kept.ite) | split | intro _ | extract_lets | dsimp +zetaDelta only

theorem homeGone_kept {μ : Mark} {s : State} {o : ℕ} (hk : Kept μ s) : Kept μ (homeGone s o) := by
  unfold homeGone
  repeat' first | (with_reducible first | assumption | apply Kept.ident | apply Kept.each | apply Kept.updSync | apply waiterFault_kept | apply Kept.ite) | split | intro _ | extract_lets | dsimp +zetaDelta only

theorem takeReport_kept {μ : Mark} {s : State} {rep : RingReport} (hk : Kept μ s) : Kept μ (takeReport s rep) := by
  unfold takeReport
  repeat' first | (with_reducible first | assumption | apply Kept.ident | apply Kept.each | apply homeFault_kept | apply homeTakesReport_kept | apply homeGone_kept | apply treeReport_kept | apply cancelGrants_kept | apply Kept.ite) | split | intro _ | extract_lets | dsimp +zetaDelta only

theorem execCoxFenceReport_kept {μ : Mark} {i : ℕ} {s : State} (hk : Kept μ s) : KeptNext μ (execCoxFenceReport i s) := by
  unfold execCoxFenceReport
  repeat' first | (with_reducible first | assumption | apply Kept.ident | apply KeptNext.next | exact KeptNext.fault | exact KeptNext.refused | apply KeptNext.ite | apply takeReport_kept | apply Kept.setRings | apply Kept.ite) | split | intro _ | extract_lets | dsimp +zetaDelta only

/-! ## Fabric -/

theorem countFence_kept {μ : Mark} {s : State} {p : ℕ} (hk : Kept μ s) : Kept μ (countFence s p) := by
  unfold countFence
  repeat' first | (with_reducible first | assumption | apply Kept.ident | apply Kept.updFab | apply Kept.ite) | split | intro _ | extract_lets | dsimp +zetaDelta only

theorem countTtl_kept {μ : Mark} {s : State} {p : ℕ} (hk : Kept μ s) : Kept μ (countTtl s p) := by
  unfold countTtl
  repeat' first | (with_reducible first | assumption | apply Kept.ident | apply Kept.updFab | apply Kept.ite) | split | intro _ | extract_lets | dsimp +zetaDelta only

theorem countNoroute_kept {μ : Mark} {s : State} {p : ℕ} (hk : Kept μ s) : Kept μ (countNoroute s p) := by
  unfold countNoroute
  repeat' first | (with_reducible first | assumption | apply Kept.ident | apply setFabRc_kept | apply Kept.updFab | apply Kept.ite) | split | intro _ | extract_lets | dsimp +zetaDelta only

theorem dropAtInput_kept {μ : Mark} {s : State} {p : Packet} {ttl : Bool} (hk : Kept μ s) : Kept μ (dropAtInput s p ttl) := by
  unfold dropAtInput
  repeat' first | (with_reducible first | assumption | apply Kept.ident | apply Kept.updLink | apply Kept.ite) | split | intro _ | extract_lets | dsimp +zetaDelta only

theorem stopPacket_kept {μ : Mark} {s : State} {i : ℕ} {p : Packet} {status : ℕ} (hk : Kept μ s) : Kept μ (stopPacket s i p status) := by
  unfold stopPacket
  repeat' first | (with_reducible first | assumption | apply Kept.ident | apply State.takePacket_kept | apply countFence_kept | apply countNoroute_kept | apply dropAtInput_kept | apply Kept.send | apply Kept.ite) | split | intro _ | extract_lets | dsimp +zetaDelta only

theorem takeRoom_kept {μ : Mark} {s : State} {p : Packet} (hk : Kept μ s) : Kept μ (takeRoom s p) := by
  unfold takeRoom
  repeat' first | (with_reducible first | assumption | apply Kept.ident | apply foldNode_kept | apply State.updNode_kept | apply Kept.ite) | split | intro _ | extract_lets | dsimp +zetaDelta only

theorem hop_kept {μ : Mark} {s : State} {i : ℕ} {p : Packet} (hk : Kept μ s) : Kept μ (hop s i p) := by
  unfold hop
  repeat' first | (with_reducible first | assumption | apply Kept.ident | apply State.takePacket_kept | apply countFence_kept | apply dropAtInput_kept | apply Kept.send | apply arrive_kept | apply Kept.updLink | apply takeRoom_kept | apply Kept.ite) | split | intro _ | extract_lets | dsimp +zetaDelta only

theorem forward_kept {μ : Mark} {s : State} {i : ℕ} {p : Packet} (hk : Kept μ s) : Kept μ (forward s i p) := by
  unfold forward
  repeat' first | (with_reducible first | assumption | apply Kept.ident | apply stopPacket_kept | apply hop_kept | apply countTtl_kept | apply State.takePacket_kept | apply dropAtInput_kept | apply Kept.ite) | split | intro _ | extract_lets | dsimp +zetaDelta only

theorem execRouterForward_kept {μ : Mark} {i : ℕ} {s : State} (hk : Kept μ s) : KeptNext μ (execRouterForward i s) := by
  unfold execRouterForward
  repeat' first | (with_reducible first | assumption | apply Kept.ident | apply KeptNext.next | exact KeptNext.fault | exact KeptNext.refused | apply KeptNext.ite | apply forward_kept | apply Kept.ite) | split | intro _ | extract_lets | dsimp +zetaDelta only

theorem assemble_kept {μ : Mark} {s : State} {key : ℕ} {place : ℕ × ℕ × Dir} {l : List Flit} (h : Kept μ s) :
    Kept μ (assemble s key place l) := by
  induction l generalizing s with
  | nil => exact h
  | cons f l ih =>
    unfold assemble
    repeat' first | (with_reducible first | assumption | apply ih | apply Kept.place | apply Kept.updLink | apply Kept.ite)  | split | intro _ | extract_lets | dsimp +zetaDelta only

theorem readFrame_kept {μ : Mark} {s : State} {key : ℕ} {place : ℕ × ℕ × Dir} {b : List Byte} (hk : Kept μ s) : Kept μ (readFrame s key place b) := by
  unfold readFrame
  repeat' first | (with_reducible first | assumption | apply Kept.ident | apply Kept.updLink | apply assemble_kept | apply updOff_kept | apply Kept.ite) | split | intro _ | extract_lets | dsimp +zetaDelta only

theorem writeFrame_kept {μ : Mark} {s : State} {key : ℕ} {j : ℕ} {noise : List Byte} (hk : Kept μ s) : Kept μ (writeFrame s key j noise) := by
  unfold writeFrame
  repeat' first | (with_reducible first | assumption | apply Kept.ident | apply Kept.updLink | apply Kept.ite) | split | intro _ | extract_lets | dsimp +zetaDelta only

theorem readFifo_kept {μ : Mark} {s : State} {key : ℕ} {place : ℕ × ℕ × Dir} (hk : Kept μ s) : Kept μ (readFifo s key place) := by
  unfold readFifo
  repeat' first | (with_reducible first | assumption | apply Kept.ident | apply Kept.each | apply Kept.updLink | apply readFrame_kept | apply Kept.ite) | split | intro _ | extract_lets | dsimp +zetaDelta only

theorem execLinkFrameReceive_kept {μ : Mark} {site : SiteId} {e : Fin 24} {noise : List Byte} {s : State} (hk : Kept μ s) : KeptNext μ (execLinkFrameReceive site e noise s) := by
  unfold execLinkFrameReceive
  repeat' first | (with_reducible first | assumption | apply Kept.ident | apply KeptNext.next | exact KeptNext.fault | exact KeptNext.refused | apply KeptNext.ite | apply Kept.updLink | apply readFifo_kept | apply writeFrame_kept | apply Kept.ite) | split | intro _ | extract_lets | dsimp +zetaDelta only

theorem linkRecord_kept {μ : Mark} {s : State} {site : ℕ} {e : ℕ} {action : ℕ} (hk : Kept μ s) : Kept μ (linkRecord s site e action) := by
  unfold linkRecord
  repeat' first | (with_reducible first | assumption | apply Kept.ident | apply coxRecord_kept | apply Kept.ite) | split | intro _ | extract_lets | dsimp +zetaDelta only

theorem changeOf_kept {μ : Mark} {s : State} {site : ℕ} (hk : Kept μ s) : Kept μ (changeOf s site) := by
  unfold changeOf
  repeat' first | (with_reducible first | assumption | apply Kept.ident | apply routeChange_kept | apply Kept.ite) | split | intro _ | extract_lets | dsimp +zetaDelta only

theorem execLinkRetrainStart_kept {μ : Mark} {site : SiteId} {e : Fin 32} {cause : RetrainCause} {s : State} (hk : Kept μ s) : KeptNext μ (execLinkRetrainStart site e cause s) := by
  unfold execLinkRetrainStart
  repeat' first | (with_reducible first | assumption | apply Kept.ident | apply KeptNext.next | exact KeptNext.fault | exact KeptNext.refused | apply KeptNext.ite | apply Kept.updLink | apply Kept.ite) | split | intro _ | extract_lets | dsimp +zetaDelta only

theorem disableLink_kept {μ : Mark} {s : State} {key : ℕ} (hk : Kept μ s) : Kept μ (disableLink s key) := by
  unfold disableLink
  repeat' first | (with_reducible first | assumption | apply Kept.ident | apply Kept.updLink | apply takeBack_kept | apply Kept.ite) | split | intro _ | extract_lets | dsimp +zetaDelta only

theorem checkLinks_kept {μ : Mark} {s : State} {site : ℕ} (hk : Kept μ s) : Kept μ (checkLinks s site) := by
  unfold checkLinks
  repeat' first | (with_reducible first | assumption | apply Kept.ident | apply fenceDie_kept | apply Kept.ite) | split | intro _ | extract_lets | dsimp +zetaDelta only

theorem tapLost_kept {μ : Mark} {s : State} {r : ℕ} (hk : Kept μ s) : Kept μ (tapLost s r) := by
  unfold tapLost
  repeat' first | (with_reducible first | assumption | apply Kept.ident | apply Kept.updLink | apply Kept.updRegion | apply fenceDie_kept | apply changeOf_kept | apply linkRecord_kept | apply Kept.ite) | split | intro _ | extract_lets | dsimp +zetaDelta only

theorem execLinkRetrainDone_kept {μ : Mark} {site : SiteId} {e : Fin 32} {f0 : ℕ} {f1 : ℕ} {f2 : ℕ} {f3 : ℕ} {s : State} (hk : Kept μ s) : KeptNext μ (execLinkRetrainDone site e f0 f1 f2 f3 s) := by
  unfold execLinkRetrainDone
  repeat' first | (with_reducible first | assumption | apply Kept.ident | apply KeptNext.next | exact KeptNext.fault | exact KeptNext.refused | apply KeptNext.ite | apply disableLink_kept | apply Kept.each | apply Kept.updLink | apply linkRecord_kept | apply checkLinks_kept | apply changeOf_kept | apply tapLost_kept | apply Kept.foldl | apply Kept.foldlFst | apply Kept.ite) | split | intro _ | extract_lets | dsimp +zetaDelta only

theorem execTapOutOfService_kept {μ : Mark} {r : PRegion} {s : State} (hk : Kept μ s) : KeptNext μ (execTapOutOfService r s) := by
  unfold execTapOutOfService
  repeat' first | (with_reducible first | assumption | apply Kept.ident | apply KeptNext.next | exact KeptNext.fault | exact KeptNext.refused | apply KeptNext.ite | apply tapLost_kept | apply Kept.ite) | split | intro _ | extract_lets | dsimp +zetaDelta only

theorem emptyLink_kept {μ : Mark} {s : State} {key : ℕ} (hk : Kept μ s) : Kept μ (emptyLink s key) := by
  unfold emptyLink
  repeat' first | (with_reducible first | assumption | apply Kept.ident | apply Kept.updLink | apply Kept.ite) | split | intro _ | extract_lets | dsimp +zetaDelta only

theorem recompute_kept {μ : Mark} {s : State} {p : ℕ} (hk : Kept μ s) : Kept μ (recompute s p) := by
  unfold recompute
  repeat' first | (with_reducible first | assumption | apply Kept.ident | apply loadMap_kept | apply Kept.each | apply checkLinks_kept | apply Kept.updTree | apply rederiveTree_kept | apply Kept.updFab | apply Kept.ite) | split | intro _ | extract_lets | dsimp +zetaDelta only

theorem dropQueued_kept {μ : Mark} {s : State} {p : ℕ} (hk : Kept μ s) : Kept μ (dropQueued s p) := by
  unfold dropQueued
  repeat' first | (with_reducible first | assumption | apply Kept.ident | apply Kept.each | apply Kept.updSlice | apply Kept.ite) | split | intro _ | extract_lets | dsimp +zetaDelta only

theorem clearFabric_kept {μ : Mark} {s : State} {p : ℕ} (hk : Kept μ s) : Kept μ (clearFabric s p) := by
  unfold clearFabric
  repeat' first | (with_reducible first | assumption | apply Kept.ident | apply dropQueued_kept | apply Kept.setNet | apply Kept.each | apply Kept.setOffs | apply emptyLink_kept | apply Tab.wf_put | apply Tab.wf_upd | apply Tab.wf_filter | apply Tab.wf_putList | apply Tab.wf_mapAll | exact Tab.wf_nil | apply Tab.wf_foldl | apply Kept.ite) | exact hk.canon.sram | exact hk.canon.hbm | exact hk.canon.tallies | exact hk.canon.offs | exact hk.canon.arbs | assumption | split | intro _ | extract_lets | dsimp +zetaDelta only

theorem discardAll_kept {μ : Mark} {s : State} {p : ℕ} (hk : Kept μ s) : Kept μ (discardAll s p) := by
  unfold discardAll
  repeat' first | (with_reducible first | assumption | apply Kept.ident | apply setFabRc_kept | apply clearFabric_kept | apply Kept.ite) | split | intro _ | extract_lets | dsimp +zetaDelta only

theorem execRouteDrainDone_kept {μ : Mark} {p : PartId} {s : State} (hk : Kept μ s) : KeptNext μ (execRouteDrainDone p s) := by
  unfold execRouteDrainDone
  repeat' first | (with_reducible first | assumption | apply Kept.ident | apply KeptNext.next | exact KeptNext.fault | exact KeptNext.refused | apply KeptNext.ite | apply recompute_kept | apply Kept.ite) | split | intro _ | extract_lets | dsimp +zetaDelta only

theorem execRouteDrainTimeout_kept {μ : Mark} {p : PartId} {s : State} (hk : Kept μ s) : KeptNext μ (execRouteDrainTimeout p s) := by
  unfold execRouteDrainTimeout
  repeat' first | (with_reducible first | assumption | apply Kept.ident | apply KeptNext.next | exact KeptNext.fault | exact KeptNext.refused | apply KeptNext.ite | apply recompute_kept | apply discardAll_kept | apply Kept.ite) | split | intro _ | extract_lets | dsimp +zetaDelta only

theorem resumeCore_kept {μ : Mark} {s : State} {k : ℕ} (hk : Kept μ s) : Kept μ (resumeCore s k) := by
  unfold resumeCore
  repeat' first | (with_reducible first | assumption | apply Kept.ident | apply pumpHeld_kept | apply pumpContrib_kept | apply pumpStream_kept | apply Kept.foldl | apply Kept.foldlFst | apply Kept.ite) | split | intro _ | extract_lets | dsimp +zetaDelta only

theorem tablesInPlace_kept {μ : Mark} {s : State} {p : ℕ} (hk : Kept μ s) : Kept μ (tablesInPlace s p) := by
  unfold tablesInPlace
  repeat' first | (with_reducible first | assumption | apply Kept.ident | apply Kept.updFab | apply Kept.each | apply Kept.place | apply Kept.updRegion | apply Kept.ite) | split | intro _ | extract_lets | dsimp +zetaDelta only

theorem execRouteTablesLoaded_kept {μ : Mark} {p : PartId} {s : State} (hk : Kept μ s) : KeptNext μ (execRouteTablesLoaded p s) := by
  unfold execRouteTablesLoaded
  repeat' first | (with_reducible first | assumption | apply Kept.ident | apply KeptNext.next | exact KeptNext.fault | exact KeptNext.refused | apply KeptNext.ite | apply tablesInPlace_kept | apply Kept.each | apply resumeCore_kept | apply tryTree_kept | apply foldNode_kept | apply Kept.ite) | split | intro _ | extract_lets | dsimp +zetaDelta only

/-! ## Inbound -/

theorem inboundWrite_kept {μ : Mark} {s : State} {k : ℕ} {off : ℕ} {bytes : List Byte} (hk : Kept μ s) : Kept μ (inboundWrite s k off bytes).1 := by
  unfold inboundWrite
  repeat' first | (with_reducible first | assumption | apply Kept.ident | apply Kept.each | apply sramRead_kept | apply checkLines_kept | apply sramWrite_kept | apply Kept.iteFst | apply Kept.ite) | split | intro _ | extract_lets | dsimp +zetaDelta only

theorem writeSram_kept {μ : Mark} {s : State} {p : Packet} {l : ℕ} {off : ℕ} {bytes : List Byte} (hk : Kept μ s) : Kept μ (writeSram s p l off bytes) := by
  unfold writeSram
  repeat' first | (with_reducible first | assumption | apply Kept.ident | apply Kept.send | apply inboundWrite_kept | apply Kept.ite) | split | intro _ | extract_lets | dsimp +zetaDelta only

theorem readSram_kept {μ : Mark} {s : State} {p : Packet} {l : ℕ} {off : ℕ} {n : ℕ} (hk : Kept μ s) : Kept μ (readSram s p l off n) := by
  unfold readSram
  repeat' first | (with_reducible first | assumption | apply Kept.ident | apply Kept.send | apply sramTouch_kept | apply Kept.ite) | split | intro _ | extract_lets | dsimp +zetaDelta only

theorem haltRequest_kept {μ : Mark} {s : State} {k : ℕ} (hk : Kept μ s) : Kept μ (haltRequest s k) := by
  unfold haltRequest
  repeat' first | (with_reducible first | assumption | apply Kept.ident | apply coreFault_kept | apply Kept.ite) | split | intro _ | extract_lets | dsimp +zetaDelta only

theorem execInboundRd_kept {μ : Mark} {i : ℕ} {s : State} (hk : Kept μ s) : KeptNext μ (execInboundRd i s) := by
  unfold execInboundRd
  repeat' first | (with_reducible first | assumption | apply Kept.ident | apply KeptNext.next | exact KeptNext.fault | exact KeptNext.refused | apply KeptNext.ite | apply State.takePacket_kept | apply readSram_kept | apply Kept.send | apply Kept.ite) | split | intro _ | extract_lets | dsimp +zetaDelta only

theorem writeControl_kept {μ : Mark} {s t : State} {a v : ℕ} (hk : Kept μ s) (e : writeControl s a v = some t) : Kept μ t := by
  unfold writeControl at e
  split at e
  · obtain ⟨_, _, rfl⟩ := Option.map_eq_some_iff.mp e
    exact hk
  · obtain ⟨k, _, rfl⟩ := Option.map_eq_some_iff.mp e
    exact Kept.ite (fun _ => haltRequest_kept hk) (fun _ => hk)
  · cases e
    exact Kept.ite (fun _ => homeSignalOp_kept hk) (fun _ => hk)
  · cases e

theorem inboundWriteAt_kept {μ : Mark} {s : State} {i : ℕ} {p : Packet} (hk : Kept μ s) : Kept μ (inboundWriteAt s i p) := by
  unfold inboundWriteAt
  repeat' first | (with_reducible first | assumption | apply State.takePacket_kept | apply writeSram_kept | apply Kept.send | apply Kept.ite) |  exact writeControl_kept (State.takePacket_kept hk) ‹_› | split | intro _ | extract_lets | dsimp +zetaDelta only

theorem execInboundWr_kept {μ : Mark} {i : ℕ} {s : State} (hk : Kept μ s) : KeptNext μ (execInboundWr i s) := by
  unfold execInboundWr
  repeat' first | (with_reducible first | assumption | apply Kept.ident | apply KeptNext.next | exact KeptNext.fault | exact KeptNext.refused | apply KeptNext.ite | apply inboundWriteAt_kept | apply Kept.ite) | split | intro _ | extract_lets | dsimp +zetaDelta only

theorem execInboundWrs_kept {μ : Mark} {i : ℕ} {s : State} (hk : Kept μ s) : KeptNext μ (execInboundWrs i s) := by
  unfold execInboundWrs
  repeat' first | (with_reducible first | assumption | apply Kept.ident | apply KeptNext.next | exact KeptNext.fault | exact KeptNext.refused | apply KeptNext.ite | apply inboundWriteAt_kept | apply Kept.ite) | split | intro _ | extract_lets | dsimp +zetaDelta only

/-! ## Hbm -/

theorem failStack_kept {μ : Mark} {s : State} {st : ℕ} {code : ℕ} {defect : ℕ} (hk : Kept μ s) : Kept μ (failStack s st code defect) := by
  unfold failStack
  repeat' first | (with_reducible first | assumption | apply Kept.ident | apply Kept.updStack | apply Kept.each | apply Kept.updSlice | apply Kept.send | apply appendDefect_kept | apply hubRecord_kept | apply Kept.ite) | split | intro _ | extract_lets | dsimp +zetaDelta only

theorem countUe_kept {μ : Mark} {s : State} {st : ℕ} {n : ℕ} (hk : Kept μ s) : Kept μ (countUe s st n) := by
  unfold countUe
  repeat' first | (with_reducible first | assumption | apply Kept.ident | apply Kept.updStack | apply failStack_kept | apply Kept.ite) | split | intro _ | extract_lets | dsimp +zetaDelta only

theorem retire_kept {μ : Mark} {s : State} {sl : ℕ} {unit : ℕ} {cause : ℕ} (hk : Kept μ s) : Kept μ (retire s sl unit cause) := by
  unfold retire
  repeat' first | (with_reducible first | assumption | apply Kept.ident | apply Kept.updStack | apply hubRecord_kept | apply Kept.updSlice | apply appendDefect_kept | apply Kept.ite) | split | intro _ | extract_lets | dsimp +zetaDelta only

theorem tally_kept {μ : Mark} {s : State} {sl : ℕ} {unit : ℕ} (hk : Kept μ s) : Kept μ (tally s sl unit) := by
  unfold tally
  repeat' first | (with_reducible first | assumption | apply Kept.ident | apply Kept.setTallies | apply Kept.updStack | apply retire_kept | apply Tab.wf_put | apply Tab.wf_upd | apply Tab.wf_filter | apply Tab.wf_putList | apply Tab.wf_mapAll | exact Tab.wf_nil | apply Tab.wf_foldl | apply Kept.ite) | exact hk.canon.sram | exact hk.canon.hbm | exact hk.canon.tallies | exact hk.canon.offs | exact hk.canon.arbs | assumption | split | intro _ | extract_lets | dsimp +zetaDelta only

theorem freshUe_kept {μ : Mark} {s : State} {sl : ℕ} {unit : ℕ} {ws : List ℕ} (hk : Kept μ s) : Kept μ (freshUe s sl unit ws) := by
  unfold freshUe
  repeat' first | (with_reducible first | assumption | apply Kept.ident | apply retire_kept | apply Kept.setHbmUe | apply Kept.foldl | apply Kept.foldlFst | apply Kept.ite) | split | intro _ | extract_lets | dsimp +zetaDelta only

theorem noteParity_kept {μ : Mark} {s : State} {sl : ℕ} {parity : Bool} (hk : Kept μ s) : Kept μ (noteParity s sl parity) := by
  unfold noteParity
  repeat' first | (with_reducible first | assumption | apply Kept.ident | apply Kept.updStack | apply Kept.ite) | split | intro _ | extract_lets | dsimp +zetaDelta only

theorem popSlice_kept {μ : Mark} {s : State} {sl : ℕ} (hk : Kept μ s) : Kept μ (popSlice s sl) := by
  unfold popSlice
  repeat' first | (with_reducible first | assumption | apply Kept.ident | apply Kept.updSlice | apply Kept.ite) | split | intro _ | extract_lets | dsimp +zetaDelta only

theorem execSliceEnqueue_kept {μ : Mark} {i : ℕ} {s : State} (hk : Kept μ s) : KeptNext μ (execSliceEnqueue i s) := by
  unfold execSliceEnqueue
  repeat' first | (with_reducible first | assumption | apply Kept.ident | apply KeptNext.next | exact KeptNext.fault | exact KeptNext.refused | apply KeptNext.ite | apply Kept.updSlice | apply State.takePacket_kept | apply Kept.send | apply Kept.ite) | split | intro _ | extract_lets | dsimp +zetaDelta only

theorem readFinds_kept {μ : Mark} {s : State} {part : ℕ} {sl : ℕ} {byte : ℕ} {addr : ℕ} {len : ℕ} {ce : List ℕ} {ue : List ℕ} (hk : Kept μ s) : Kept μ (readFinds s part sl byte addr len ce ue).1 := by
  unfold readFinds
  repeat' first | (with_reducible first | assumption | apply Kept.ident | apply Kept.each | apply tally_kept | apply freshUe_kept | apply Kept.setHbmCe | apply Kept.iteFst | apply Kept.ite) | split | intro _ | extract_lets | dsimp +zetaDelta only

theorem partialFinds_kept {μ : Mark} {s : State} {part : ℕ} {sl : ℕ} {byte : ℕ} {addr : ℕ} {len : ℕ} {whole : Bool} {ce : List ℕ} {ue : List ℕ} (hk : Kept μ s) : Kept μ (partialFinds s part sl byte addr len whole ce ue) := by
  unfold partialFinds
  repeat' first | (with_reducible first | assumption | apply Kept.ident | apply Kept.each | apply tally_kept | apply freshUe_kept | apply Kept.setHbmCe | apply Kept.ite) | split | intro _ | extract_lets | dsimp +zetaDelta only

theorem execSliceRead_kept {μ : Mark} {sl : SliceId} {ce : List ℕ} {errs : SliceErrors} {s : State} (hk : Kept μ s) : KeptNext μ (execSliceRead sl ce errs s) := by
  unfold execSliceRead
  repeat' first | (with_reducible first | assumption | apply Kept.ident | apply KeptNext.next | exact KeptNext.fault | exact KeptNext.refused | apply KeptNext.ite | apply readFinds_kept | apply noteParity_kept | apply popSlice_kept | apply Kept.send | apply countUe_kept | apply Kept.ite) | split | intro _ | extract_lets | dsimp +zetaDelta only

theorem hbmWrite_kept {μ : Mark} {s : State} {sl : ℕ} {byte : ℕ} {bytes : List Byte} (hk : Kept μ s) : Kept μ (hbmWrite s sl byte bytes).1 := by
  unfold hbmWrite
  repeat' first | (with_reducible first | assumption | apply Kept.ident | apply healWords_kept | apply Kept.setHbm | apply Kept.foldl | apply Kept.foldlFst | apply Tab.wf_put | apply Tab.wf_upd | apply Tab.wf_filter | apply Tab.wf_putList | apply Tab.wf_mapAll | exact Tab.wf_nil | apply Tab.wf_foldl | apply Kept.iteFst | apply Kept.ite) | exact hk.canon.sram | exact hk.canon.hbm | exact hk.canon.tallies | exact hk.canon.offs | exact hk.canon.arbs | assumption | split | intro _ | extract_lets | dsimp +zetaDelta only

theorem execSliceWrite_kept {μ : Mark} {sl : SliceId} {finds : SliceFinds} {s : State} (hk : Kept μ s) : KeptNext μ (execSliceWrite sl finds s) := by
  unfold execSliceWrite
  repeat' first | (with_reducible first | assumption | apply Kept.ident | apply KeptNext.next | exact KeptNext.fault | exact KeptNext.refused | apply KeptNext.ite | apply hbmWrite_kept | apply partialFinds_kept | apply noteParity_kept | apply popSlice_kept | apply Kept.send | apply countUe_kept | apply Kept.updStack | apply Kept.ite) | split | intro _ | extract_lets | dsimp +zetaDelta only

theorem execSliceAtom_kept {μ : Mark} {sl : SliceId} {finds : SliceFinds} {s : State} (hk : Kept μ s) : KeptNext μ (execSliceAtom sl finds s) := by
  unfold execSliceAtom
  repeat' first | (with_reducible first | assumption | apply Kept.ident | apply KeptNext.next | exact KeptNext.fault | exact KeptNext.refused | apply KeptNext.ite | apply partialFinds_kept | apply noteParity_kept | apply popSlice_kept | apply countUe_kept | apply Kept.send | apply hbmWrite_kept | apply Kept.ite) | split | intro _ | extract_lets | dsimp +zetaDelta only

theorem execRetireCopyDone_kept {μ : Mark} {sl : SliceId} {s : State} (hk : Kept μ s) : KeptNext μ (execRetireCopyDone sl s) := by
  unfold execRetireCopyDone
  repeat' first | (with_reducible first | assumption | apply Kept.ident | apply KeptNext.next | exact KeptNext.fault | exact KeptNext.refused | apply KeptNext.ite | apply Kept.setHbmUe | apply Kept.setHbm | apply Kept.updStack | apply Kept.updSlice | apply hubRecord_kept | apply Kept.foldl | apply Kept.foldlFst | apply Tab.wf_put | apply Tab.wf_upd | apply Tab.wf_filter | apply Tab.wf_putList | apply Tab.wf_mapAll | exact Tab.wf_nil | apply Tab.wf_foldl | apply Kept.ite) | exact hk.canon.sram | exact hk.canon.hbm | exact hk.canon.tallies | exact hk.canon.offs | exact hk.canon.arbs | assumption | split | intro _ | extract_lets | dsimp +zetaDelta only

theorem execHbmRetrainStart_kept {μ : Mark} {st : StackId} {ch : Fin 16} {cause : RetrainCause} {s : State} (hk : Kept μ s) : KeptNext μ (execHbmRetrainStart st ch cause s) := by
  unfold execHbmRetrainStart
  repeat' first | (with_reducible first | assumption | apply Kept.ident | apply KeptNext.next | exact KeptNext.fault | exact KeptNext.refused | apply KeptNext.ite | apply Kept.updStack | apply Kept.ite) | split | intro _ | extract_lets | dsimp +zetaDelta only

theorem execHbmRetrainDone_kept {μ : Mark} {st : StackId} {ch : Fin 16} {ok : Bool} {repaired : ℕ} {s : State} (hk : Kept μ s) : KeptNext μ (execHbmRetrainDone st ch ok repaired s) := by
  unfold execHbmRetrainDone
  repeat' first | (with_reducible first | assumption | apply Kept.ident | apply KeptNext.next | exact KeptNext.fault | exact KeptNext.refused | apply KeptNext.ite | apply Kept.updStack | apply failStack_kept | apply Kept.ite) | split | intro _ | extract_lets | dsimp +zetaDelta only

theorem execHbmTempRead_kept {μ : Mark} {st : StackId} {t : ℕ} {s : State} (hk : Kept μ s) : KeptNext μ (execHbmTempRead st t s) := by
  unfold execHbmTempRead
  repeat' first | (with_reducible first | assumption | apply Kept.ident | apply KeptNext.next | exact KeptNext.fault | exact KeptNext.refused | apply KeptNext.ite | apply Kept.updStack | apply Kept.foldl | apply Kept.foldlFst | apply Kept.ite) | split | intro _ | extract_lets | dsimp +zetaDelta only

theorem execStackOvertemp_kept {μ : Mark} {st : StackId} {s : State} (hk : Kept μ s) : KeptNext μ (execStackOvertemp st s) := by
  unfold execStackOvertemp
  repeat' first | (with_reducible first | assumption | apply Kept.ident | apply KeptNext.next | exact KeptNext.fault | exact KeptNext.refused | apply KeptNext.ite | apply failStack_kept | apply Kept.ite) | split | intro _ | extract_lets | dsimp +zetaDelta only

theorem execEcsRead_kept {μ : Mark} {st : StackId} {n : ℕ} {s : State} (hk : Kept μ s) : KeptNext μ (execEcsRead st n s) := by
  unfold execEcsRead
  repeat' first | (with_reducible first | assumption | apply Kept.ident | apply KeptNext.next | exact KeptNext.fault | exact KeptNext.refused | apply KeptNext.ite | apply Kept.updStack | apply Kept.ite) | split | intro _ | extract_lets | dsimp +zetaDelta only

theorem execHbmRefresh_kept {μ : Mark} {sl : SliceId} {s : State} (hk : Kept μ s) : KeptNext μ (execHbmRefresh sl s) := by
  unfold execHbmRefresh
  repeat' first | (with_reducible first | assumption | apply Kept.ident | apply KeptNext.next | exact KeptNext.fault | exact KeptNext.refused | apply KeptNext.ite | apply Kept.updSlice | apply Kept.ite) | split | intro _ | extract_lets | dsimp +zetaDelta only

theorem execHbmZeroDone_kept {μ : Mark} {s : State} (hk : Kept μ s) : KeptNext μ (execHbmZeroDone s) := by
  unfold execHbmZeroDone
  repeat' first | (with_reducible first | assumption | apply Kept.ident | apply KeptNext.next | exact KeptNext.fault | exact KeptNext.refused | apply KeptNext.ite | apply Kept.setHbmCe | apply Kept.setHbmUe | apply Kept.setHbm | apply Kept.each | apply Kept.updStack | apply Kept.updHub | apply Tab.wf_put | apply Tab.wf_upd | apply Tab.wf_filter | apply Tab.wf_putList | apply Tab.wf_mapAll | exact Tab.wf_nil | apply Tab.wf_foldl | apply Kept.ite) | exact hk.canon.sram | exact hk.canon.hbm | exact hk.canon.tallies | exact hk.canon.offs | exact hk.canon.arbs | assumption | split | intro _ | extract_lets | dsimp +zetaDelta only

theorem execScrubRead_kept {μ : Mark} {k : PCore} {line : Fin 32768} {ce : List ℕ} {ue : List ℕ} {pass : Bool} {s : State} (hk : Kept μ s) : KeptNext μ (execScrubRead k line ce ue pass s) := by
  unfold execScrubRead
  repeat' first | (with_reducible first | assumption | apply Kept.ident | apply KeptNext.next | exact KeptNext.fault | exact KeptNext.refused | apply KeptNext.ite | apply Kept.setSramCe | apply Kept.setSramUe | apply sramRead_kept | apply checkLines_kept | apply Kept.updRegion | apply Kept.foldl | apply Kept.foldlFst | apply Kept.ite) | split | intro _ | extract_lets | dsimp +zetaDelta only

theorem execFaultRecordAppend_kept {μ : Mark} {h : HubId} {s : State} (hk : Kept μ s) : KeptNext μ (execFaultRecordAppend h s) := by
  unfold execFaultRecordAppend
  repeat' first | (with_reducible first | assumption | apply Kept.ident | apply KeptNext.next | exact KeptNext.fault | exact KeptNext.refused | apply KeptNext.ite | apply Kept.updHub | apply raiseEvt_kept | apply Kept.ite) | split | intro _ | extract_lets | dsimp +zetaDelta only

end Sys2Proof.Machine
end

