-- ==== Sys2Proof/Laws/KeptCores.lean ====
section
/-!
SUPPORT. What Kept says, kept by the instruction rows: one lemma for each operation and for each row.
-/
set_option linter.unreachableTactic false
set_option linter.unusedTactic false
set_option linter.unusedVariables false
namespace Sys2Proof.Machine

/-! ## Sequencer -/

theorem issueFault_kept {μ : Mark} {s : State} {k : ℕ} {cause : ℕ} {addr : ℕ} (hk : Kept μ s) : Kept μ (issueFault s k cause addr) := by
  unfold issueFault
  repeat' first | (with_reducible first | assumption | apply Kept.ident | apply coreFault_kept | apply Kept.ite) | split | intro _ | extract_lets | dsimp +zetaDelta only

theorem goTo_kept {μ : Mark} {s : State} {k : ℕ} {target : ℤ} (hk : Kept μ s) : Kept μ (goTo s k target) := by
  unfold goTo
  repeat' first | (with_reducible first | assumption | apply Kept.ident | apply Kept.updCore | apply issueFault_kept | apply Kept.ite) | split | intro _ | extract_lets | dsimp +zetaDelta only

theorem goNext_kept {μ : Mark} {s : State} {k : ℕ} (hk : Kept μ s) : Kept μ (goNext s k) := by
  unfold goNext
  repeat' first | (with_reducible first | assumption | apply Kept.ident | apply goTo_kept | apply Kept.ite) | split | intro _ | extract_lets | dsimp +zetaDelta only

theorem enqueueOp_kept {μ : Mark} {s : State} {k : ℕ} {o : Op} (hk : Kept μ s) : Kept μ (enqueueOp s k o) := by
  unfold enqueueOp
  repeat' first | (with_reducible first | assumption | apply Kept.ident | apply advance_kept | apply Kept.updCore | apply Kept.ite) | split | intro _ | extract_lets | dsimp +zetaDelta only

theorem issueUnit_kept {μ : Mark} {s : State} {k : ℕ} {f : CoreFn} {ups : List (ℕ × ℕ × W32)} (hk : Kept μ s) : Kept μ (issueUnit s k f ups) := by
  unfold issueUnit
  repeat' first | (with_reducible first | assumption | apply Kept.ident | apply issueFault_kept | apply Kept.updCore | apply goNext_kept | apply enqueueOp_kept | apply Kept.ite) | split | intro _ | extract_lets | dsimp +zetaDelta only

theorem issueStrokewait_kept {μ : Mark} {s : State} {k : ℕ} (hk : Kept μ s) : Kept μ (issueStrokewait s k) := by
  unfold issueStrokewait
  repeat' first | (with_reducible first | assumption | apply Kept.ident | apply Kept.updCore | apply goNext_kept | apply enqueueOp_kept | apply Kept.ite) | split | intro _ | extract_lets | dsimp +zetaDelta only

theorem seqNext_kept {μ : Mark} {s : State} {k : ℕ} {f : Core → Core} (hk : Kept μ s) : Kept μ (seqNext s k f) := by
  unfold seqNext
  repeat' first | (with_reducible first | assumption | apply Kept.ident | apply goNext_kept | apply Kept.updCore | apply Kept.ite) | split | intro _ | extract_lets | dsimp +zetaDelta only

theorem seqLoad_kept {μ : Mark} {s : State} {k : ℕ} {size : ℕ} {put : Core → ℕ → Core} (hk : Kept μ s) : Kept μ (seqLoad s k size put) := by
  unfold seqLoad
  repeat' first | (with_reducible first | assumption | apply Kept.ident | apply issueFault_kept | apply unitReads_kept | apply seqNext_kept | apply Kept.ite) | split | intro _ | extract_lets | dsimp +zetaDelta only

theorem seqStore_kept {μ : Mark} {s : State} {k : ℕ} {size : ℕ} {v : ℕ} (hk : Kept μ s) : Kept μ (seqStore s k size v) := by
  unfold seqStore
  repeat' first | (with_reducible first | assumption | apply Kept.ident | apply issueFault_kept | apply unitWrite_kept | apply seqNext_kept | apply Kept.ite) | split | intro _ | extract_lets | dsimp +zetaDelta only

theorem issueFn_kept {μ : Mark} {s : State} {k : ℕ} {f : CoreFn} {ups : List (ℕ × ℕ × W32)} (hk : Kept μ s) : Kept μ (issueFn s k f ups) := by
  unfold issueFn
  repeat' first | (with_reducible first | assumption | apply Kept.ident | apply seqNext_kept | apply Kept.updCore | apply goTo_kept | apply seqLoad_kept | apply seqStore_kept | apply Kept.draw | apply issueStrokewait_kept | apply issueUnit_kept | apply Kept.ite) | split | intro _ | extract_lets | dsimp +zetaDelta only

theorem fetchWord_kept {μ : Mark} {s : State} {k : ℕ} (hk : Kept μ s) : Kept μ (fetchWord s k).s := by
  unfold fetchWord
  repeat' first | (with_reducible first | assumption | apply Kept.ident | apply unitReads_kept | apply Res.ite_kept | apply Kept.ite) | split | intro _ | extract_lets | dsimp +zetaDelta only

theorem issueAs_kept {μ : Mark} {s : State} {k : ℕ} {f : CoreFn} {ups : optParam (List (ℕ × ℕ × W32)) []} (hk : Kept μ s) : Kept μ (issueAs s k f ups) := by
  unfold issueAs
  repeat' first | (with_reducible first | assumption | apply Kept.ident | apply fetchWord_kept | apply coreFault_kept | apply issueFault_kept | apply seqNext_kept | apply issueFn_kept | apply Kept.ite) | split | intro _ | extract_lets | dsimp +zetaDelta only

/-! ## CoreSeq -/

theorem execNop_kept {μ : Mark} {k : PCore} {s : State} (hk : Kept μ s) : KeptNext μ (execNop k s) := by
  unfold execNop
  repeat' first | (with_reducible first | assumption | apply Kept.ident | apply KeptNext.next | exact KeptNext.fault | exact KeptNext.refused | apply KeptNext.ite | apply issueAs_kept | apply Kept.ite) | split | intro _ | extract_lets | dsimp +zetaDelta only

theorem execHalt_kept {μ : Mark} {k : PCore} {s : State} (hk : Kept μ s) : KeptNext μ (execHalt k s) := by
  unfold execHalt
  repeat' first | (with_reducible first | assumption | apply Kept.ident | apply KeptNext.next | exact KeptNext.fault | exact KeptNext.refused | apply KeptNext.ite | apply issueAs_kept | apply Kept.ite) | split | intro _ | extract_lets | dsimp +zetaDelta only

theorem execBr_kept {μ : Mark} {k : PCore} {s : State} (hk : Kept μ s) : KeptNext μ (execBr k s) := by
  unfold execBr
  repeat' first | (with_reducible first | assumption | apply Kept.ident | apply KeptNext.next | exact KeptNext.fault | exact KeptNext.refused | apply KeptNext.ite | apply issueAs_kept | apply Kept.ite) | split | intro _ | extract_lets | dsimp +zetaDelta only

theorem execBrr_kept {μ : Mark} {k : PCore} {s : State} (hk : Kept μ s) : KeptNext μ (execBrr k s) := by
  unfold execBrr
  repeat' first | (with_reducible first | assumption | apply Kept.ident | apply KeptNext.next | exact KeptNext.fault | exact KeptNext.refused | apply KeptNext.ite | apply issueAs_kept | apply Kept.ite) | split | intro _ | extract_lets | dsimp +zetaDelta only

theorem execTwait_kept {μ : Mark} {k : PCore} {s : State} (hk : Kept μ s) : KeptNext μ (execTwait k s) := by
  unfold execTwait
  repeat' first | (with_reducible first | assumption | apply Kept.ident | apply KeptNext.next | exact KeptNext.fault | exact KeptNext.refused | apply KeptNext.ite | apply issueAs_kept | apply Kept.ite) | split | intro _ | extract_lets | dsimp +zetaDelta only

theorem execPset_kept {μ : Mark} {k : PCore} {s : State} (hk : Kept μ s) : KeptNext μ (execPset k s) := by
  unfold execPset
  repeat' first | (with_reducible first | assumption | apply Kept.ident | apply KeptNext.next | exact KeptNext.fault | exact KeptNext.refused | apply KeptNext.ite | apply issueAs_kept | apply Kept.ite) | split | intro _ | extract_lets | dsimp +zetaDelta only

theorem execAlu_kept {μ : Mark} {k : PCore} {s : State} (hk : Kept μ s) : KeptNext μ (execAlu k s) := by
  unfold execAlu
  repeat' first | (with_reducible first | assumption | apply Kept.ident | apply KeptNext.next | exact KeptNext.fault | exact KeptNext.refused | apply KeptNext.ite | apply issueAs_kept | apply Kept.ite) | split | intro _ | extract_lets | dsimp +zetaDelta only

theorem execMovi_kept {μ : Mark} {k : PCore} {s : State} (hk : Kept μ s) : KeptNext μ (execMovi k s) := by
  unfold execMovi
  repeat' first | (with_reducible first | assumption | apply Kept.ident | apply KeptNext.next | exact KeptNext.fault | exact KeptNext.refused | apply KeptNext.ite | apply issueAs_kept | apply Kept.ite) | split | intro _ | extract_lets | dsimp +zetaDelta only

theorem execSld_kept {μ : Mark} {k : PCore} {s : State} (hk : Kept μ s) : KeptNext μ (execSld k s) := by
  unfold execSld
  repeat' first | (with_reducible first | assumption | apply Kept.ident | apply KeptNext.next | exact KeptNext.fault | exact KeptNext.refused | apply KeptNext.ite | apply issueAs_kept | apply Kept.ite) | split | intro _ | extract_lets | dsimp +zetaDelta only

theorem execSst_kept {μ : Mark} {k : PCore} {s : State} (hk : Kept μ s) : KeptNext μ (execSst k s) := by
  unfold execSst
  repeat' first | (with_reducible first | assumption | apply Kept.ident | apply KeptNext.next | exact KeptNext.fault | exact KeptNext.refused | apply KeptNext.ite | apply issueAs_kept | apply Kept.ite) | split | intro _ | extract_lets | dsimp +zetaDelta only

theorem execTdld_kept {μ : Mark} {k : PCore} {s : State} (hk : Kept μ s) : KeptNext μ (execTdld k s) := by
  unfold execTdld
  repeat' first | (with_reducible first | assumption | apply Kept.ident | apply KeptNext.next | exact KeptNext.fault | exact KeptNext.refused | apply KeptNext.ite | apply issueAs_kept | apply Kept.ite) | split | intro _ | extract_lets | dsimp +zetaDelta only

theorem execTdst_kept {μ : Mark} {k : PCore} {s : State} (hk : Kept μ s) : KeptNext μ (execTdst k s) := by
  unfold execTdst
  repeat' first | (with_reducible first | assumption | apply Kept.ident | apply KeptNext.next | exact KeptNext.fault | exact KeptNext.refused | apply KeptNext.ite | apply issueAs_kept | apply Kept.ite) | split | intro _ | extract_lets | dsimp +zetaDelta only

theorem execTdset_kept {μ : Mark} {k : PCore} {s : State} (hk : Kept μ s) : KeptNext μ (execTdset k s) := by
  unfold execTdset
  repeat' first | (with_reducible first | assumption | apply Kept.ident | apply KeptNext.next | exact KeptNext.fault | exact KeptNext.refused | apply KeptNext.ite | apply issueAs_kept | apply Kept.ite) | split | intro _ | extract_lets | dsimp +zetaDelta only

theorem execSrd_kept {μ : Mark} {k : PCore} {s : State} (hk : Kept μ s) : KeptNext μ (execSrd k s) := by
  unfold execSrd
  repeat' first | (with_reducible first | assumption | apply Kept.ident | apply KeptNext.next | exact KeptNext.fault | exact KeptNext.refused | apply KeptNext.ite | apply issueAs_kept | apply Kept.ite) | split | intro _ | extract_lets | dsimp +zetaDelta only

/-! ## CoreMe -/

theorem execMma_kept {μ : Mark} {k : PCore} {ups : List (ℕ × ℕ × W32)} {s : State} (hk : Kept μ s) : KeptNext μ (execMma k ups s) := by
  unfold execMma
  repeat' first | (with_reducible first | assumption | apply Kept.ident | apply KeptNext.next | exact KeptNext.fault | exact KeptNext.refused | apply KeptNext.ite | apply issueAs_kept | apply Kept.ite) | split | intro _ | extract_lets | dsimp +zetaDelta only

theorem execMst_kept {μ : Mark} {k : PCore} {s : State} (hk : Kept μ s) : KeptNext μ (execMst k s) := by
  unfold execMst
  repeat' first | (with_reducible first | assumption | apply Kept.ident | apply KeptNext.next | exact KeptNext.fault | exact KeptNext.refused | apply KeptNext.ite | apply issueAs_kept | apply Kept.ite) | split | intro _ | extract_lets | dsimp +zetaDelta only

theorem execMld_kept {μ : Mark} {k : PCore} {s : State} (hk : Kept μ s) : KeptNext μ (execMld k s) := by
  unfold execMld
  repeat' first | (with_reducible first | assumption | apply Kept.ident | apply KeptNext.next | exact KeptNext.fault | exact KeptNext.refused | apply KeptNext.ite | apply issueAs_kept | apply Kept.ite) | split | intro _ | extract_lets | dsimp +zetaDelta only

theorem execMzero_kept {μ : Mark} {k : PCore} {s : State} (hk : Kept μ s) : KeptNext μ (execMzero k s) := by
  unfold execMzero
  repeat' first | (with_reducible first | assumption | apply Kept.ident | apply KeptNext.next | exact KeptNext.fault | exact KeptNext.refused | apply KeptNext.ite | apply issueAs_kept | apply Kept.ite) | split | intro _ | extract_lets | dsimp +zetaDelta only

/-! ## CoreVe -/

theorem execEw_kept {μ : Mark} {k : PCore} {s : State} (hk : Kept μ s) : KeptNext μ (execEw k s) := by
  unfold execEw
  repeat' first | (with_reducible first | assumption | apply Kept.ident | apply KeptNext.next | exact KeptNext.fault | exact KeptNext.refused | apply KeptNext.ite | apply issueAs_kept | apply Kept.ite) | split | intro _ | extract_lets | dsimp +zetaDelta only

theorem execCvt_kept {μ : Mark} {k : PCore} {s : State} (hk : Kept μ s) : KeptNext μ (execCvt k s) := by
  unfold execCvt
  repeat' first | (with_reducible first | assumption | apply Kept.ident | apply KeptNext.next | exact KeptNext.fault | exact KeptNext.refused | apply KeptNext.ite | apply issueAs_kept | apply Kept.ite) | split | intro _ | extract_lets | dsimp +zetaDelta only

theorem execRed_kept {μ : Mark} {k : PCore} {s : State} (hk : Kept μ s) : KeptNext μ (execRed k s) := by
  unfold execRed
  repeat' first | (with_reducible first | assumption | apply Kept.ident | apply KeptNext.next | exact KeptNext.fault | exact KeptNext.refused | apply KeptNext.ite | apply issueAs_kept | apply Kept.ite) | split | intro _ | extract_lets | dsimp +zetaDelta only

theorem execTrn_kept {μ : Mark} {k : PCore} {s : State} (hk : Kept μ s) : KeptNext μ (execTrn k s) := by
  unfold execTrn
  repeat' first | (with_reducible first | assumption | apply Kept.ident | apply KeptNext.next | exact KeptNext.fault | exact KeptNext.refused | apply KeptNext.ite | apply issueAs_kept | apply Kept.ite) | split | intro _ | extract_lets | dsimp +zetaDelta only

theorem execSmx_kept {μ : Mark} {k : PCore} {s : State} (hk : Kept μ s) : KeptNext μ (execSmx k s) := by
  unfold execSmx
  repeat' first | (with_reducible first | assumption | apply Kept.ident | apply KeptNext.next | exact KeptNext.fault | exact KeptNext.refused | apply KeptNext.ite | apply issueAs_kept | apply Kept.ite) | split | intro _ | extract_lets | dsimp +zetaDelta only

theorem execWarp_kept {μ : Mark} {k : PCore} {s : State} (hk : Kept μ s) : KeptNext μ (execWarp k s) := by
  unfold execWarp
  repeat' first | (with_reducible first | assumption | apply Kept.ident | apply KeptNext.next | exact KeptNext.fault | exact KeptNext.refused | apply KeptNext.ite | apply issueAs_kept | apply Kept.ite) | split | intro _ | extract_lets | dsimp +zetaDelta only

/-! ## CoreMv -/

theorem execCopy_kept {μ : Mark} {k : PCore} {s : State} (hk : Kept μ s) : KeptNext μ (execCopy k s) := by
  unfold execCopy
  repeat' first | (with_reducible first | assumption | apply Kept.ident | apply KeptNext.next | exact KeptNext.fault | exact KeptNext.refused | apply KeptNext.ite | apply issueAs_kept | apply Kept.ite) | split | intro _ | extract_lets | dsimp +zetaDelta only

theorem execRcopy_kept {μ : Mark} {k : PCore} {s : State} (hk : Kept μ s) : KeptNext μ (execRcopy k s) := by
  unfold execRcopy
  repeat' first | (with_reducible first | assumption | apply Kept.ident | apply KeptNext.next | exact KeptNext.fault | exact KeptNext.refused | apply KeptNext.ite | apply issueAs_kept | apply Kept.ite) | split | intro _ | extract_lets | dsimp +zetaDelta only

theorem execGather_kept {μ : Mark} {k : PCore} {s : State} (hk : Kept μ s) : KeptNext μ (execGather k s) := by
  unfold execGather
  repeat' first | (with_reducible first | assumption | apply Kept.ident | apply KeptNext.next | exact KeptNext.fault | exact KeptNext.refused | apply KeptNext.ite | apply issueAs_kept | apply Kept.ite) | split | intro _ | extract_lets | dsimp +zetaDelta only

theorem execScatter_kept {μ : Mark} {k : PCore} {s : State} (hk : Kept μ s) : KeptNext μ (execScatter k s) := by
  unfold execScatter
  repeat' first | (with_reducible first | assumption | apply Kept.ident | apply KeptNext.next | exact KeptNext.fault | exact KeptNext.refused | apply KeptNext.ite | apply issueAs_kept | apply Kept.ite) | split | intro _ | extract_lets | dsimp +zetaDelta only

theorem execSend_kept {μ : Mark} {k : PCore} {s : State} (hk : Kept μ s) : KeptNext μ (execSend k s) := by
  unfold execSend
  repeat' first | (with_reducible first | assumption | apply Kept.ident | apply KeptNext.next | exact KeptNext.fault | exact KeptNext.refused | apply KeptNext.ite | apply issueAs_kept | apply Kept.ite) | split | intro _ | extract_lets | dsimp +zetaDelta only

theorem execRecv_kept {μ : Mark} {k : PCore} {s : State} (hk : Kept μ s) : KeptNext μ (execRecv k s) := by
  unfold execRecv
  repeat' first | (with_reducible first | assumption | apply Kept.ident | apply KeptNext.next | exact KeptNext.fault | exact KeptNext.refused | apply KeptNext.ite | apply issueAs_kept | apply Kept.ite) | split | intro _ | extract_lets | dsimp +zetaDelta only

theorem execVoidMark_kept {μ : Mark} {k : PCore} {s : State} (hk : Kept μ s) : KeptNext μ (execVoidMark k s) := by
  unfold execVoidMark
  repeat' first | (with_reducible first | assumption | apply Kept.ident | apply KeptNext.next | exact KeptNext.fault | exact KeptNext.refused | apply KeptNext.ite | apply issueAs_kept | apply Kept.ite) | split | intro _ | extract_lets | dsimp +zetaDelta only

theorem execRoute_kept {μ : Mark} {k : PCore} {s : State} (hk : Kept μ s) : KeptNext μ (execRoute k s) := by
  unfold execRoute
  repeat' first | (with_reducible first | assumption | apply Kept.ident | apply KeptNext.next | exact KeptNext.fault | exact KeptNext.refused | apply KeptNext.ite | apply issueAs_kept | apply Kept.ite) | split | intro _ | extract_lets | dsimp +zetaDelta only

/-! ## CoreSy -/

theorem execSignal_kept {μ : Mark} {k : PCore} {s : State} (hk : Kept μ s) : KeptNext μ (execSignal k s) := by
  unfold execSignal
  repeat' first | (with_reducible first | assumption | apply Kept.ident | apply KeptNext.next | exact KeptNext.fault | exact KeptNext.refused | apply KeptNext.ite | apply issueAs_kept | apply Kept.ite) | split | intro _ | extract_lets | dsimp +zetaDelta only

theorem execWait_kept {μ : Mark} {k : PCore} {s : State} (hk : Kept μ s) : KeptNext μ (execWait k s) := by
  unfold execWait
  repeat' first | (with_reducible first | assumption | apply Kept.ident | apply KeptNext.next | exact KeptNext.fault | exact KeptNext.refused | apply KeptNext.ite | apply issueAs_kept | apply Kept.ite) | split | intro _ | extract_lets | dsimp +zetaDelta only

theorem execArm_kept {μ : Mark} {k : PCore} {s : State} (hk : Kept μ s) : KeptNext μ (execArm k s) := by
  unfold execArm
  repeat' first | (with_reducible first | assumption | apply Kept.ident | apply KeptNext.next | exact KeptNext.fault | exact KeptNext.refused | apply KeptNext.ite | apply issueAs_kept | apply Kept.ite) | split | intro _ | extract_lets | dsimp +zetaDelta only

theorem execBarrier_kept {μ : Mark} {k : PCore} {s : State} (hk : Kept μ s) : KeptNext μ (execBarrier k s) := by
  unfold execBarrier
  repeat' first | (with_reducible first | assumption | apply Kept.ident | apply KeptNext.next | exact KeptNext.fault | exact KeptNext.refused | apply KeptNext.ite | apply issueAs_kept | apply Kept.ite) | split | intro _ | extract_lets | dsimp +zetaDelta only

theorem execStrokewait_kept {μ : Mark} {k : PCore} {s : State} (hk : Kept μ s) : KeptNext μ (execStrokewait k s) := by
  unfold execStrokewait
  repeat' first | (with_reducible first | assumption | apply Kept.ident | apply KeptNext.next | exact KeptNext.fault | exact KeptNext.refused | apply KeptNext.ite | apply issueAs_kept | apply Kept.ite) | split | intro _ | extract_lets | dsimp +zetaDelta only

end Sys2Proof.Machine
end

