-- ==== Sys2Proof/Laws/KeptPower.lean ====
section
/-!
SUPPORT. What Kept says, kept by strokes, power and cooling: one lemma for each operation and for each row.
-/
set_option linter.unreachableTactic false
set_option linter.unusedTactic false
set_option linter.unusedVariables false
namespace Sys2Proof.Machine

/-! ## CmdOps -/

theorem popCmd_kept {μ : Mark} {s : State} {p : ℕ} {aux : ℕ} (hk : Kept μ s) : Kept μ (popCmd s p aux) := by
  unfold popCmd
  repeat' first | (with_reducible first | assumption | apply Kept.ident | apply Kept.updCmd | apply Kept.ite) | split | intro _ | extract_lets | dsimp +zetaDelta only

theorem settleCmds_kept {μ : Mark} {s : State} {p : ℕ} (hk : Kept μ s) : Kept μ (settleCmds s p) := by
  unfold settleCmds
  repeat' first | (with_reducible first | assumption | apply Kept.ident | apply Kept.each | apply complete_kept | apply popCmd_kept | apply Kept.ite) | split | intro _ | extract_lets | dsimp +zetaDelta only

theorem endCmd_kept {μ : Mark} {s : State} {p : ℕ} {index : ℕ} {status : ℕ} {detail : ℕ} (hk : Kept μ s) : Kept μ (endCmd s p index status detail) := by
  unfold endCmd
  repeat' first | (with_reducible first | assumption | apply Kept.ident | apply settleCmds_kept | apply complete_kept | apply Kept.ite) | split | intro _ | extract_lets | dsimp +zetaDelta only

theorem abortCommands_kept {μ : Mark} {s : State} {p : ℕ} {f : ℕ → Bool} (hk : Kept μ s) : Kept μ (abortCommands s p f) := by
  unfold abortCommands
  repeat' first | (with_reducible first | assumption | apply Kept.ident | apply Kept.updCmd | apply Kept.each | apply complete_kept | apply Kept.ite) | split | intro _ | extract_lets | dsimp +zetaDelta only

theorem beginFetch_kept {μ : Mark} {s : State} {p : ℕ} (hk : Kept μ s) : Kept μ (beginFetch s p) := by
  unfold beginFetch
  repeat' first | (with_reducible first | assumption | apply Kept.ident | apply setCmdRc_kept | apply Kept.emit | apply Kept.updCmd | apply Kept.ite) | split | intro _ | extract_lets | dsimp +zetaDelta only

theorem checkWaits_kept {μ : Mark} {s : State} {p : ℕ} (hk : Kept μ s) : Kept μ (checkWaits s p) := by
  unfold checkWaits
  repeat' first | (with_reducible first | assumption | apply Kept.ident | apply Kept.each | apply endCmd_kept | apply Kept.ite) | split | intro _ | extract_lets | dsimp +zetaDelta only

theorem fetchStroke_kept {μ : Mark} {s : State} {p : ℕ} (hk : Kept μ s) : Kept μ (fetchStroke s p) := by
  unfold fetchStroke
  repeat' first | (with_reducible first | assumption | apply Kept.ident | apply Kept.updCmd | apply checkWaits_kept | apply beginFetch_kept | apply Kept.ite) | split | intro _ | extract_lets | dsimp +zetaDelta only

theorem fetcherStroke_kept {μ : Mark} {s : State} {p : ℕ} {n : ℕ} (hk : Kept μ s) : Kept μ (fetcherStroke s p n) := by
  unfold fetcherStroke
  repeat' first | (with_reducible first | assumption | apply Kept.ident | apply Kept.each | apply msixSend_kept | apply Kept.updCmd | apply endCmd_kept | apply fetchStroke_kept | apply Kept.ite) | split | intro _ | extract_lets | dsimp +zetaDelta only

theorem fetchError_kept {μ : Mark} {s : State} {p : ℕ} {cause : ℕ} (hk : Kept μ s) : Kept μ (fetchError s p cause) := by
  unfold fetchError
  repeat' first | (with_reducible first | assumption | apply Kept.ident | apply raiseEvt_kept | apply Kept.updCmd | apply Kept.ite) | split | intro _ | extract_lets | dsimp +zetaDelta only

/-! ## PowerOps -/

theorem closeFuse_kept {μ : Mark} {s : State} {site : ℕ} (hk : Kept μ s) : Kept μ (closeFuse s site) := by
  unfold closeFuse
  repeat' first | (with_reducible first | assumption | apply Kept.ident | apply Kept.updGroup | apply Kept.updPower | apply Kept.ite) | split | intro _ | extract_lets | dsimp +zetaDelta only

theorem cutDie_kept {μ : Mark} {s : State} {site : ℕ} {detail : ℕ} (hk : Kept μ s) : Kept μ (cutDie s site detail) := by
  unfold cutDie
  repeat' first | (with_reducible first | assumption | apply Kept.ident | apply openFuse_kept | apply fenceDie_kept | apply Kept.ite) | split | intro _ | extract_lets | dsimp +zetaDelta only

theorem setRatio_kept {μ : Mark} {s : State} {r : ℕ} (hk : Kept μ s) : Kept μ (setRatio s r) := by
  unfold setRatio
  repeat' first | (with_reducible first | assumption | apply Kept.ident | apply Kept.updRegion | apply Kept.ite) | split | intro _ | extract_lets | dsimp +zetaDelta only

theorem applyRatio_kept {μ : Mark} {s : State} {p : ℕ} {c : ℕ} (hk : Kept μ s) : Kept μ (applyRatio s p c) := by
  unfold applyRatio
  repeat' first | (with_reducible first | assumption | apply Kept.ident | apply Kept.each | apply setRatio_kept | apply Kept.ite) | split | intro _ | extract_lets | dsimp +zetaDelta only

theorem applyPart_kept {μ : Mark} {s : State} {p : ℕ} (hk : Kept μ s) : Kept μ (applyPart s p) := by
  unfold applyPart
  repeat' first | (with_reducible first | assumption | apply Kept.ident | apply Kept.each | apply applyRatio_kept | apply Kept.ite) | split | intro _ | extract_lets | dsimp +zetaDelta only

theorem applyPanel_kept {μ : Mark} {s : State} (hk : Kept μ s) : Kept μ (applyPanel s) := by
  unfold applyPanel
  repeat' first | (with_reducible first | assumption | apply Kept.ident | apply Kept.each | apply applyPart_kept | apply Kept.ite) | split | intro _ | extract_lets | dsimp +zetaDelta only

theorem startRamp_kept {μ : Mark} {s : State} {r : ℕ} (hk : Kept μ s) : Kept μ (startRamp s r) := by
  unfold startRamp
  repeat' first | (with_reducible first | assumption | apply Kept.ident | apply setRatio_kept | apply Kept.updRegion | apply Kept.draw | apply Kept.ite) | split | intro _ | extract_lets | dsimp +zetaDelta only

theorem secRecord_kept {μ : Mark} {s : State} {event : ℕ} {unit : ℕ} (hk : Kept μ s) : Kept μ (secRecord s event unit) := by
  unfold secRecord
  repeat' first | (with_reducible first | assumption | apply Kept.ident | apply raiseAll_kept | apply hubRecord_kept | apply Kept.ite) | split | intro _ | extract_lets | dsimp +zetaDelta only

theorem closeSession_kept {μ : Mark} {s : State} (hk : Kept μ s) : Kept μ (closeSession s) := by
  unfold closeSession
  repeat' first | (with_reducible first | assumption | apply Kept.ident | apply secRecord_kept | apply Kept.updSec | apply Kept.ite) | exact Nat.le_refl _ | exact Nat.le_max_left _ _ | split | intro _ | extract_lets | dsimp +zetaDelta only

theorem raiseRail_kept {μ : Mark} {s : State} {r : ℕ} {op : ℕ} (hk : Kept μ s) : Kept μ (raiseRail s r op) := by
  unfold raiseRail
  repeat' first | (with_reducible first | assumption | apply Kept.ident | apply Kept.updRegion | apply Kept.ite) | split | intro _ | extract_lets | dsimp +zetaDelta only

theorem changeNow_kept {μ : Mark} {s : State} {r : ℕ} {op : ℕ} (hk : Kept μ s) : Kept μ (changeNow s r op) := by
  unfold changeNow
  repeat' first | (with_reducible first | assumption | apply Kept.ident | apply Kept.updRegion | apply raiseRail_kept | apply Kept.ite) | split | intro _ | extract_lets | dsimp +zetaDelta only

theorem stopRegion_kept {μ : Mark} {s : State} {r : ℕ} (hk : Kept μ s) : Kept μ (stopRegion s r) := by
  unfold stopRegion
  repeat' first | (with_reducible first | assumption | apply Kept.ident | apply changeNow_kept | apply Kept.updRegion | apply Kept.ite) | split | intro _ | extract_lets | dsimp +zetaDelta only

theorem stopIssue_kept {μ : Mark} {s : State} {k : ℕ} (hk : Kept μ s) : Kept μ (stopIssue s k) := by
  unfold stopIssue
  repeat' first | (with_reducible first | assumption | apply Kept.ident | apply Kept.updCore | apply Kept.ite) | split | intro _ | extract_lets | dsimp +zetaDelta only

theorem stopPorts_kept {μ : Mark} {s : State} {p : ℕ} (hk : Kept μ s) : Kept μ (stopPorts s p) := by
  unfold stopPorts
  repeat' first | (with_reducible first | assumption | apply Kept.ident | apply Kept.each | apply portClose_kept | apply sendPlain_kept | apply portQuit_kept | apply Kept.ite) | split | intro _ | extract_lets | dsimp +zetaDelta only

theorem stopPartition_kept {μ : Mark} {s : State} {p : ℕ} (hk : Kept μ s) : Kept μ (stopPartition s p) := by
  unfold stopPartition
  repeat' first | (with_reducible first | assumption | apply Kept.ident | apply Kept.each | apply Kept.updCox | apply stopRegion_kept | apply abortCommands_kept | apply stopPorts_kept | apply Kept.updCmd | apply Kept.updLay | apply stopIssue_kept | apply Kept.updPower | apply Kept.updHub | apply Kept.ite) | split | intro _ | extract_lets | dsimp +zetaDelta only

theorem abandonApply_kept {μ : Mark} {s : State} {p : ℕ} (hk : Kept μ s) : Kept μ (abandonApply s p) := by
  unfold abandonApply
  repeat' first | (with_reducible first | assumption | apply Kept.ident | apply raiseEvt_kept | apply Kept.updHub | apply Kept.updLay | apply Kept.ite) | split | intro _ | extract_lets | dsimp +zetaDelta only

theorem orderedStop_kept {μ : Mark} {s0 : State} {cause : ℕ} (hk : Kept μ s0) : Kept μ (orderedStop s0 cause) := by
  unfold orderedStop
  repeat' first | (with_reducible first | assumption | apply Kept.ident | apply closeSession_kept | apply Kept.updCool | apply Kept.updPower | apply Kept.each | apply stopPartition_kept | apply abandonApply_kept | apply Kept.updBring | apply setPwrRc_kept | apply raiseAll_kept | apply hubRecord_kept | apply Kept.ite) | split | intro _ | extract_lets | dsimp +zetaDelta only

theorem regionOff_kept {μ : Mark} {s : State} {r : ℕ} (hk : Kept μ s) : Kept μ (regionOff s r) := by
  unfold regionOff
  repeat' first | (with_reducible first | assumption | apply Kept.ident | apply Kept.each | apply Kept.updRegion | apply Kept.updCore | apply Kept.ite) | split | intro _ | extract_lets | dsimp +zetaDelta only

theorem switchOff_kept {μ : Mark} {s : State} {rs : List ℕ} (hk : Kept μ s) : Kept μ (switchOff s rs) := by
  unfold switchOff
  repeat' first | (with_reducible first | assumption | apply Kept.ident | apply Kept.updBring | apply Kept.ite) | split | intro _ | extract_lets | dsimp +zetaDelta only

theorem stopEnds_kept {μ : Mark} {s : State} {p : ℕ} (hk : Kept μ s) : Kept μ (stopEnds s p) := by
  unfold stopEnds
  repeat' first | (with_reducible first | assumption | apply Kept.ident | apply discardAll_kept | apply switchOff_kept | apply Kept.each | apply Kept.updStack | apply Kept.updHub | apply Kept.ite) | split | intro _ | extract_lets | dsimp +zetaDelta only

theorem stopReported_kept {μ : Mark} {s : State} {p : ℕ} (hk : Kept μ s) : Kept μ (stopReported s p) := by
  unfold stopReported
  repeat' first | (with_reducible first | assumption | apply Kept.ident | apply abandonApply_kept | apply stopPartition_kept | apply Kept.each | apply Kept.updHub | apply Kept.ite) | split | intro _ | extract_lets | dsimp +zetaDelta only

theorem removeStageA_kept {μ : Mark} {s : State} {hold : Bool} (hk : Kept μ s) : Kept μ (removeStageA s hold) :=
  Kept.raw hk rfl rfl rfl (Nat.le_refl _) (Nat.le_refl _) (fun _ => by constructor <;> rfl)

/-! ## StrokeOps -/

theorem countStroke_kept {μ : Mark} {s : State} {t : ℕ} (hk : Kept μ s) : Kept μ (countStroke s t) := by
  unfold countStroke
  repeat' first | (with_reducible first | assumption | apply Kept.ident | apply Kept.emit | apply Kept.updStroke | apply Kept.foldl | apply Kept.foldlFst | apply Kept.ite) | split | intro _ | extract_lets | dsimp +zetaDelta only

theorem missStroke_kept {μ : Mark} {s : State} (hk : Kept μ s) : Kept μ (missStroke s) := by
  unfold missStroke
  repeat' first | (with_reducible first | assumption | apply Kept.ident | apply countStroke_kept | apply Kept.updStroke | apply raiseAll_kept | apply setStrokeRc_kept | apply Kept.ite) | split | intro _ | extract_lets | dsimp +zetaDelta only

theorem interruptSlew_kept {μ : Mark} {s : State} {flag : Option ℕ} (hk : Kept μ s) : Kept μ (interruptSlew s flag) := by
  unfold interruptSlew
  repeat' first | (with_reducible first | assumption | apply Kept.ident | apply Kept.updStroke | apply setStrokeRc_kept | apply Kept.ite) | split | intro _ | extract_lets | dsimp +zetaDelta only

theorem missEdge_kept {μ : Mark} {s : State} (hk : Kept μ s) : Kept μ (missEdge s) := by
  unfold missEdge
  repeat' first | (with_reducible first | assumption | apply Kept.ident | apply Kept.updStroke | apply interruptSlew_kept | apply countStroke_kept | apply Kept.ite) | split | intro _ | extract_lets | dsimp +zetaDelta only

theorem returnStroke_kept {μ : Mark} {s : State} {t : ℕ} (hk : Kept μ s) : Kept μ (returnStroke s t) := by
  unfold returnStroke
  repeat' first | (with_reducible first | assumption | apply Kept.ident | apply Kept.updStroke | apply countStroke_kept | apply raiseAll_kept | apply Kept.ite) | split | intro _ | extract_lets | dsimp +zetaDelta only

theorem slewEdge_kept {μ : Mark} {s : State} {t : ℕ} (hk : Kept μ s) : Kept μ (slewEdge s t) := by
  unfold slewEdge
  repeat' first | (with_reducible first | assumption | apply Kept.ident | apply interruptSlew_kept | apply returnStroke_kept | apply Kept.updStroke | apply Kept.ite) | split | intro _ | extract_lets | dsimp +zetaDelta only

theorem watchEdge_kept {μ : Mark} {s : State} {t : ℕ} (hk : Kept μ s) : Kept μ (watchEdge s t) := by
  unfold watchEdge
  repeat' first | (with_reducible first | assumption | apply Kept.ident | apply Kept.updStroke | apply Kept.ite) | split | intro _ | extract_lets | dsimp +zetaDelta only

theorem takeEdge_kept {μ : Mark} {s : State} {t : ℕ} (hk : Kept μ s) : Kept μ (takeEdge s t) := by
  unfold takeEdge
  repeat' first | (with_reducible first | assumption | apply Kept.ident | apply Kept.updStroke | apply countStroke_kept | apply Kept.ite) | split | intro _ | extract_lets | dsimp +zetaDelta only

theorem masterEdge_kept {μ : Mark} {s0 : State} {t : ℕ} (hk : Kept μ s0) : Kept μ (masterEdge s0 t) := by
  unfold masterEdge
  repeat' first | (with_reducible first | assumption | apply Kept.ident | apply Kept.updStroke | apply missEdge_kept | apply missStroke_kept | apply slewEdge_kept | apply watchEdge_kept | apply takeEdge_kept | apply setStrokeRc_kept | apply Kept.ite) | split | intro _ | extract_lets | dsimp +zetaDelta only

theorem standbyEdge_kept {μ : Mark} {s : State} {h : ℕ} {t : ℕ} (hk : Kept μ s) : Kept μ (standbyEdge s h t) := by
  unfold standbyEdge
  repeat' first | (with_reducible first | assumption | apply Kept.ident | apply Kept.updStroke | apply Kept.ite) | split | intro _ | extract_lets | dsimp +zetaDelta only

theorem takeMaster_kept {μ : Mark} {s : State} (hk : Kept μ s) : Kept μ (takeMaster s) := by
  unfold takeMaster
  repeat' first | (with_reducible first | assumption | apply Kept.ident | apply Kept.each | apply Kept.updStroke | apply masterEdge_kept | apply Kept.ite) | split | intro _ | extract_lets | dsimp +zetaDelta only

theorem execStrokeEdge_kept {μ : Mark} {h : HubId} {low : ℕ} {s : State} (hk : Kept μ s) : KeptNext μ (execStrokeEdge h low s) := by
  unfold execStrokeEdge
  repeat' first | (with_reducible first | assumption | apply Kept.ident | apply KeptNext.next | exact KeptNext.fault | exact KeptNext.refused | apply KeptNext.ite | apply setStrokeRc_kept | apply Kept.updStroke | apply Kept.ite) | split | intro _ | extract_lets | dsimp +zetaDelta only

theorem execStrokeQualified_kept {μ : Mark} {h : HubId} {high : ℕ} {s : State} (hk : Kept μ s) : KeptNext μ (execStrokeQualified h high s) := by
  unfold execStrokeQualified
  repeat' first | (with_reducible first | assumption | apply Kept.ident | apply KeptNext.next | exact KeptNext.fault | exact KeptNext.refused | apply KeptNext.ite | apply Kept.updStroke | apply setStrokeRc_kept | apply standbyEdge_kept | apply masterEdge_kept | apply Kept.ite) | split | intro _ | extract_lets | dsimp +zetaDelta only

theorem execStrokeWindowEnd_kept {μ : Mark} {s : State} (hk : Kept μ s) : KeptNext μ (execStrokeWindowEnd s) := by
  unfold execStrokeWindowEnd
  repeat' first | (with_reducible first | assumption | apply Kept.ident | apply KeptNext.next | exact KeptNext.fault | exact KeptNext.refused | apply KeptNext.ite | apply missStroke_kept | apply Kept.ite) | split | intro _ | extract_lets | dsimp +zetaDelta only

theorem execSynthesisedStroke_kept {μ : Mark} {s : State} (hk : Kept μ s) : KeptNext μ (execSynthesisedStroke s) := by
  unfold execSynthesisedStroke
  repeat' first | (with_reducible first | assumption | apply Kept.ident | apply KeptNext.next | exact KeptNext.fault | exact KeptNext.refused | apply KeptNext.ite | apply Kept.updStroke | apply countStroke_kept | apply Kept.ite) | split | intro _ | extract_lets | dsimp +zetaDelta only

theorem execHandoverSpanEnd_kept {μ : Mark} {s : State} (hk : Kept μ s) : KeptNext μ (execHandoverSpanEnd s) := by
  unfold execHandoverSpanEnd
  repeat' first | (with_reducible first | assumption | apply Kept.ident | apply KeptNext.next | exact KeptNext.fault | exact KeptNext.refused | apply KeptNext.ite | apply missEdge_kept | apply Kept.ite) | split | intro _ | extract_lets | dsimp +zetaDelta only

theorem pruneEvents_kept {μ : Mark} {s : State} {site : ℕ} (hk : Kept μ s) : Kept μ (pruneEvents s site) := by
  unfold pruneEvents
  repeat' first | (with_reducible first | assumption | apply Kept.ident | apply Kept.updCox | apply Kept.ite) | split | intro _ | extract_lets | dsimp +zetaDelta only

theorem execStrokeMarker_kept {μ : Mark} {site : SiteId} {ring : Fin 4} {cnt : W16} {s : State} (hk : Kept μ s) : KeptNext μ (execStrokeMarker site ring cnt s) := by
  unfold execStrokeMarker
  repeat' first | (with_reducible first | assumption | apply Kept.ident | apply KeptNext.next | exact KeptNext.fault | exact KeptNext.refused | apply KeptNext.ite | apply pruneEvents_kept | apply Kept.updCox | apply coxRecord_kept | apply Kept.ite) | split | intro _ | extract_lets | dsimp +zetaDelta only

theorem distribute_kept {μ : Mark} {s : State} {p : ℕ} {ev : EventKind} {n : ℕ} (hk : Kept μ s) : Kept μ (distribute s p ev n) := by
  unfold distribute
  repeat' first | (with_reducible first | assumption | apply Kept.ident | apply Kept.setPostNo | apply Kept.each | apply Kept.updCox | apply Kept.ite) | split | intro _ | extract_lets | dsimp +zetaDelta only

theorem postEvent_kept {μ : Mark} {s : State} {p : ℕ} {ev : EventKind} {n : ℕ} (hk : Kept μ s) : Kept μ (postEvent s p ev n) := by
  unfold postEvent
  repeat' first | (with_reducible first | assumption | apply Kept.ident | apply Kept.setPosted | apply distribute_kept | apply Kept.ite) | split | intro _ | extract_lets | dsimp +zetaDelta only

theorem execEventPost_kept {μ : Mark} {p : PartId} {ev : EventKind} {n : W48} {s : State} (hk : Kept μ s) : KeptNext μ (execEventPost p ev n s) := by
  unfold execEventPost
  repeat' first | (with_reducible first | assumption | apply Kept.ident | apply KeptNext.next | exact KeptNext.fault | exact KeptNext.refused | apply KeptNext.ite | apply postEvent_kept | apply Kept.setPosted | apply Kept.ite) | split | intro _ | extract_lets | dsimp +zetaDelta only

theorem execCoxEventReceive_kept {μ : Mark} {site : SiteId} {s : State} (hk : Kept μ s) : KeptNext μ (execCoxEventReceive site s) := by
  unfold execCoxEventReceive
  repeat' first | (with_reducible first | assumption | apply Kept.ident | apply KeptNext.next | exact KeptNext.fault | exact KeptNext.refused | apply KeptNext.ite | apply Kept.updCox | apply Kept.each | apply raiseRail_kept | apply Kept.ite) | split | intro _ | extract_lets | dsimp +zetaDelta only

theorem execRefLost_kept {μ : Mark} {r : PRegion} {s : State} (hk : Kept μ s) : KeptNext μ (execRefLost r s) := by
  unfold execRefLost
  repeat' first | (with_reducible first | assumption | apply Kept.ident | apply KeptNext.next | exact KeptNext.fault | exact KeptNext.refused | apply KeptNext.ite | apply Kept.updRegion | apply setStrokeRc_kept | apply fenceRegion_kept | apply Kept.ite) | split | intro _ | extract_lets | dsimp +zetaDelta only

theorem execDroopDetect_kept {μ : Mark} {r : PRegion} {s : State} (hk : Kept μ s) : KeptNext μ (execDroopDetect r s) := by
  unfold execDroopDetect
  repeat' first | (with_reducible first | assumption | apply Kept.ident | apply KeptNext.next | exact KeptNext.fault | exact KeptNext.refused | apply KeptNext.ite | apply Kept.updRegion | apply Kept.ite) | split | intro _ | extract_lets | dsimp +zetaDelta only

theorem execDroopClear_kept {μ : Mark} {r : PRegion} {s : State} (hk : Kept μ s) : KeptNext μ (execDroopClear r s) := by
  unfold execDroopClear
  repeat' first | (with_reducible first | assumption | apply Kept.ident | apply KeptNext.next | exact KeptNext.fault | exact KeptNext.refused | apply KeptNext.ite | apply Kept.updRegion | apply Kept.ite) | split | intro _ | extract_lets | dsimp +zetaDelta only

/-! ## Power -/

theorem execStageaConverterFail_kept {μ : Mark} {n : Fin 20} {s : State} (hk : Kept μ s) : KeptNext μ (execStageaConverterFail n s) := by
  unfold execStageaConverterFail
  repeat' first | (with_reducible first | assumption | apply Kept.ident | apply KeptNext.next | exact KeptNext.fault | exact KeptNext.refused | apply KeptNext.ite | apply Kept.updPower | apply hubRecord_kept | apply raiseAll_kept | apply orderedStop_kept | apply Kept.ite) | split | intro _ | extract_lets | dsimp +zetaDelta only

theorem execInputUndervoltage_kept {μ : Mark} {s : State} (hk : Kept μ s) : KeptNext μ (execInputUndervoltage s) := by
  unfold execInputUndervoltage
  repeat' first | (with_reducible first | assumption | apply Kept.ident | apply KeptNext.next | exact KeptNext.fault | exact KeptNext.refused | apply KeptNext.ite | apply orderedStop_kept | apply Kept.ite) | split | intro _ | extract_lets | dsimp +zetaDelta only

theorem execInputOvervoltage_kept {μ : Mark} {s : State} (hk : Kept μ s) : KeptNext μ (execInputOvervoltage s) := by
  unfold execInputOvervoltage
  repeat' first | (with_reducible first | assumption | apply Kept.ident | apply KeptNext.next | exact KeptNext.fault | exact KeptNext.refused | apply KeptNext.ite | apply removeStageA_kept | apply Kept.ite) | split | intro _ | extract_lets | dsimp +zetaDelta only

theorem darken_kept {μ : Mark} {s : State} {r : ℕ} {cause : ℕ} {defect : ℕ} (hk : Kept μ s) : Kept μ (darken s r cause defect) := by
  unfold darken
  repeat' first | (with_reducible first | assumption | apply Kept.ident | apply Kept.updRegion | apply appendDefect_kept | apply Kept.updPower | apply fenceRegion_kept | apply Kept.ite) | split | intro _ | extract_lets | dsimp +zetaDelta only

theorem execPhaseFail_kept {μ : Mark} {r : PRegion} {n : Fin 8} {s : State} (hk : Kept μ s) : KeptNext μ (execPhaseFail r n s) := by
  unfold execPhaseFail
  repeat' first | (with_reducible first | assumption | apply Kept.ident | apply KeptNext.next | exact KeptNext.fault | exact KeptNext.refused | apply KeptNext.ite | apply Kept.updRegion | apply coxRecord_kept | apply darken_kept | apply Kept.ite) | split | intro _ | extract_lets | dsimp +zetaDelta only

theorem execRailShort_kept {μ : Mark} {r : PRegion} {s : State} (hk : Kept μ s) : KeptNext μ (execRailShort r s) := by
  unfold execRailShort
  repeat' first | (with_reducible first | assumption | apply Kept.ident | apply KeptNext.next | exact KeptNext.fault | exact KeptNext.refused | apply KeptNext.ite | apply Kept.updPower | apply darken_kept | apply Kept.ite) | split | intro _ | extract_lets | dsimp +zetaDelta only

theorem execRailOvervoltage_kept {μ : Mark} {r : PRegion} {s : State} (hk : Kept μ s) : KeptNext μ (execRailOvervoltage r s) := by
  unfold execRailOvervoltage
  repeat' first | (with_reducible first | assumption | apply Kept.ident | apply KeptNext.next | exact KeptNext.fault | exact KeptNext.refused | apply KeptNext.ite | apply darken_kept | apply Kept.ite) | split | intro _ | extract_lets | dsimp +zetaDelta only

theorem execSensorLoss_kept {μ : Mark} {r : PRegion} {valid : BitVec 6} {s : State} (hk : Kept μ s) : KeptNext μ (execSensorLoss r valid s) := by
  unfold execSensorLoss
  repeat' first | (with_reducible first | assumption | apply Kept.ident | apply KeptNext.next | exact KeptNext.fault | exact KeptNext.refused | apply KeptNext.ite | apply Kept.updRegion | apply darken_kept | apply Kept.ite) | split | intro _ | extract_lets | dsimp +zetaDelta only

theorem tripDie_kept {μ : Mark} {s : State} {site : ℕ} {detail : ℕ} (hk : Kept μ s) : Kept μ (tripDie s site detail) := by
  unfold tripDie
  repeat' first | (with_reducible first | assumption | apply Kept.ident | apply Kept.updCox | apply cutDie_kept | apply Kept.ite) | split | intro _ | extract_lets | dsimp +zetaDelta only

theorem execEfuseTrip_kept {μ : Mark} {site : SiteId} {s : State} (hk : Kept μ s) : KeptNext μ (execEfuseTrip site s) := by
  unfold execEfuseTrip
  repeat' first | (with_reducible first | assumption | apply Kept.ident | apply KeptNext.next | exact KeptNext.fault | exact KeptNext.refused | apply KeptNext.ite | apply tripDie_kept | apply Kept.updPower | apply appendDefect_kept | apply Kept.ite) | split | intro _ | extract_lets | dsimp +zetaDelta only

theorem execGroupTrip_kept {μ : Mark} {g : Fin 36} {overcur : Bool} {s : State} (hk : Kept μ s) : KeptNext μ (execGroupTrip g overcur s) := by
  unfold execGroupTrip
  repeat' first | (with_reducible first | assumption | apply Kept.ident | apply KeptNext.next | exact KeptNext.fault | exact KeptNext.refused | apply KeptNext.ite | apply Kept.each | apply appendDefect_kept | apply tripDie_kept | apply Kept.updPower | apply Kept.updGroup | apply Kept.ite) | split | intro _ | extract_lets | dsimp +zetaDelta only

theorem execChannelTrip_kept {μ : Mark} {n : Fin 60} {s : State} (hk : Kept μ s) : KeptNext μ (execChannelTrip n s) := by
  unfold execChannelTrip
  repeat' first | (with_reducible first | assumption | apply Kept.ident | apply KeptNext.next | exact KeptNext.fault | exact KeptNext.refused | apply KeptNext.ite | apply Kept.updPower | apply tripDie_kept | apply failStack_kept | apply Kept.ite) | split | intro _ | extract_lets | dsimp +zetaDelta only

theorem execHubLost_kept {μ : Mark} {h : HubId} {s : State} (hk : Kept μ s) : KeptNext μ (execHubLost h s) := by
  unfold execHubLost
  repeat' first | (with_reducible first | assumption | apply Kept.ident | apply KeptNext.next | exact KeptNext.fault | exact KeptNext.refused | apply KeptNext.ite | apply Kept.updPower | apply Kept.updHub | apply stopReported_kept | apply Kept.updStroke | apply Kept.updBring | apply Kept.ite) | split | intro _ | extract_lets | dsimp +zetaDelta only

theorem execMasterTakeover_kept {μ : Mark} {s : State} (hk : Kept μ s) : KeptNext μ (execMasterTakeover s) := by
  unfold execMasterTakeover
  repeat' first | (with_reducible first | assumption | apply Kept.ident | apply KeptNext.next | exact KeptNext.fault | exact KeptNext.refused | apply KeptNext.ite | apply raiseAll_kept | apply Kept.updPower | apply takeMaster_kept | apply Kept.ite) | split | intro _ | extract_lets | dsimp +zetaDelta only

theorem execBaseGroupFail_kept {μ : Mark} {b : Fin 2} {s : State} (hk : Kept μ s) : KeptNext μ (execBaseGroupFail b s) := by
  unfold execBaseGroupFail
  repeat' first | (with_reducible first | assumption | apply Kept.ident | apply KeptNext.next | exact KeptNext.fault | exact KeptNext.refused | apply KeptNext.ite | apply Kept.updPower | apply hubRecord_kept | apply Kept.updBring | apply removeStageA_kept | apply Kept.ite) | split | intro _ | extract_lets | dsimp +zetaDelta only

theorem execPathResistanceUpdate_kept {μ : Mark} {r : PRegion} {ests : List ℕ} {s : State} (hk : Kept μ s) : KeptNext μ (execPathResistanceUpdate r ests s) := by
  unfold execPathResistanceUpdate
  repeat' first | (with_reducible first | assumption | apply Kept.ident | apply KeptNext.next | exact KeptNext.fault | exact KeptNext.refused | apply KeptNext.ite | apply Kept.updRegion | apply coxRecord_kept | apply darken_kept | apply Kept.ite) | split | intro _ | extract_lets | dsimp +zetaDelta only

theorem execPwrReen_kept {μ : Mark} {p : PortId} {data : W32} {s : State} (hk : Kept μ s) : KeptNext μ (execPwrReen p data s) := by
  unfold execPwrReen
  repeat' first | (with_reducible first | assumption | apply Kept.ident | apply KeptNext.next | exact KeptNext.fault | exact KeptNext.refused | apply KeptNext.ite | apply Kept.updPower | apply Kept.ite) | split | intro _ | extract_lets | dsimp +zetaDelta only

theorem resolveShort_kept {μ : Mark} {s : State} {kind : ℕ} {unit : ℕ} (hk : Kept μ s) : Kept μ (resolveShort s kind unit) := by
  unfold resolveShort
  repeat' first | (with_reducible first | assumption | apply Kept.ident | apply Kept.each | apply appendDefect_kept | apply Kept.ite) | split | intro _ | extract_lets | dsimp +zetaDelta only

theorem repower_kept {μ : Mark} {s : State} {kind : ℕ} {unit : ℕ} (hk : Kept μ s) : Kept μ (repower s kind unit) := by
  unfold repower
  repeat' first | (with_reducible first | assumption | apply Kept.ident | apply Kept.updRegion | apply closeFuse_kept | apply Kept.updGroup | apply Kept.each | apply Kept.updPower | apply Kept.ite) | split | intro _ | extract_lets | dsimp +zetaDelta only

theorem execReenTestDone_kept {μ : Mark} {short : Bool} {s : State} (hk : Kept μ s) : KeptNext μ (execReenTestDone short s) := by
  unfold execReenTestDone
  repeat' first | (with_reducible first | assumption | apply Kept.ident | apply KeptNext.next | exact KeptNext.fault | exact KeptNext.refused | apply KeptNext.ite | apply Kept.updPower | apply resolveShort_kept | apply repower_kept | apply Kept.ite) | split | intro _ | extract_lets | dsimp +zetaDelta only

theorem execPowerRequest_kept {μ : Mark} {r : PRegion} {kind : ReqKind} {final : ℕ} {present : ℕ} {s : State} (hk : Kept μ s) : KeptNext μ (execPowerRequest r kind final present s) := by
  unfold execPowerRequest
  repeat' first | (with_reducible first | assumption | apply Kept.ident | apply KeptNext.next | exact KeptNext.fault | exact KeptNext.refused | apply KeptNext.ite | apply Kept.updPower | apply Kept.updRegion | apply Kept.ite) | split | intro _ | extract_lets | dsimp +zetaDelta only

theorem grantPower_kept {μ : Mark} {s : State} {w : ℕ} {q : PowReq} (hk : Kept μ s) : Kept μ (grantPower s w q) := by
  unfold grantPower
  repeat' first | (with_reducible first | assumption | apply Kept.ident | apply Kept.updRegion | apply Kept.updPower | apply Kept.ite) | split | intro _ | extract_lets | dsimp +zetaDelta only

theorem scanQueue_kept {μ : Mark} {w : ℕ} {s : State} {b : List ℕ} {l : List PowReq} (h : Kept μ s) : Kept μ (scanQueue w s b l) := by
  induction l generalizing s b with
  | nil => exact h
  | cons q l ih =>
    unfold scanQueue
    repeat' first | (with_reducible first | assumption | apply ih | apply grantPower_kept | apply Kept.ite)  | split | intro _ | extract_lets | dsimp +zetaDelta only

theorem execPowerGrantWindow_kept {μ : Mark} {s : State} (hk : Kept μ s) : KeptNext μ (execPowerGrantWindow s) := by
  unfold execPowerGrantWindow
  repeat' first | (with_reducible first | assumption | apply Kept.ident | apply KeptNext.next | exact KeptNext.fault | exact KeptNext.refused | apply KeptNext.ite | apply Kept.updPower | apply scanQueue_kept | apply Kept.each | apply Kept.updGroup | apply Kept.ite) | split | intro _ | extract_lets | dsimp +zetaDelta only

theorem startCores_kept {μ : Mark} {s : State} {r : ℕ} (hk : Kept μ s) : Kept μ (startCores s r) := by
  unfold startCores
  repeat' first | (with_reducible first | assumption | apply Kept.ident | apply Kept.each | apply catchAt_kept | apply Kept.updCore | apply Kept.ite) | split | intro _ | extract_lets | dsimp +zetaDelta only

theorem execPowerGrant_kept {μ : Mark} {r : PRegion} {s : State} (hk : Kept μ s) : KeptNext μ (execPowerGrant r s) := by
  unfold execPowerGrant
  repeat' first | (with_reducible first | assumption | apply Kept.ident | apply KeptNext.next | exact KeptNext.fault | exact KeptNext.refused | apply KeptNext.ite | apply Kept.updRegion | apply Kept.updPower | apply startCores_kept | apply startRamp_kept | apply Kept.ite) | split | intro _ | extract_lets | dsimp +zetaDelta only

theorem execPllLock_kept {μ : Mark} {r : PRegion} {s : State} (hk : Kept μ s) : KeptNext μ (execPllLock r s) := by
  unfold execPllLock
  repeat' first | (with_reducible first | assumption | apply Kept.ident | apply KeptNext.next | exact KeptNext.fault | exact KeptNext.refused | apply KeptNext.ite | apply startRamp_kept | apply Kept.updRegion | apply Kept.ite) | split | intro _ | extract_lets | dsimp +zetaDelta only

theorem execRampDone_kept {μ : Mark} {r : PRegion} {s : State} (hk : Kept μ s) : KeptNext μ (execRampDone r s) := by
  unfold execRampDone
  repeat' first | (with_reducible first | assumption | apply Kept.ident | apply KeptNext.next | exact KeptNext.fault | exact KeptNext.refused | apply KeptNext.ite | apply setRatio_kept | apply Kept.updRegion | apply Kept.ite) | split | intro _ | extract_lets | dsimp +zetaDelta only

theorem tightenFast_kept {μ : Mark} {s : State} (hk : Kept μ s) : Kept μ (tightenFast s) := by
  unfold tightenFast
  repeat' first | (with_reducible first | assumption | apply Kept.ident | apply applyPanel_kept | apply Kept.updPower | apply Kept.each | apply applyPart_kept | apply Kept.updHub | apply Kept.ite) | split | intro _ | extract_lets | dsimp +zetaDelta only

theorem execTelemetryMs_kept {μ : Mark} {t : Telemetry} {s : State} (hk : Kept μ s) : KeptNext μ (execTelemetryMs t s) := by
  unfold execTelemetryMs
  repeat' first | (with_reducible first | assumption | apply Kept.ident | apply KeptNext.next | exact KeptNext.fault | exact KeptNext.refused | apply KeptNext.ite | apply Kept.updPower | apply Kept.each | apply Kept.updRegion | apply Kept.updGroup | apply Kept.updStack | apply Kept.updHub | apply tightenFast_kept | apply Kept.foldl | apply Kept.foldlFst | apply Kept.ite) | split | intro _ | extract_lets | dsimp +zetaDelta only

/-! ## Thermal -/

theorem tightenHeat_kept {μ : Mark} {s : State} (hk : Kept μ s) : Kept μ (tightenHeat s) := by
  unfold tightenHeat
  repeat' first | (with_reducible first | assumption | apply Kept.ident | apply Kept.each | apply applyRatio_kept | apply Kept.updCrew | apply Kept.ite) | split | intro _ | extract_lets | dsimp +zetaDelta only

theorem stepCrew_kept {μ : Mark} {s : State} {p : ℕ} {c : ℕ} (hk : Kept μ s) : Kept μ (stepCrew s p c) := by
  unfold stepCrew
  repeat' first | (with_reducible first | assumption | apply Kept.ident | apply postEvent_kept | apply Kept.updCrew | apply Kept.ite) | split | intro _ | extract_lets | dsimp +zetaDelta only

theorem publishRatio_kept {μ : Mark} {s : State} {p : ℕ} {n : ℕ} (hk : Kept μ s) : Kept μ (publishRatio s p n) := by
  unfold publishRatio
  repeat' first | (with_reducible first | assumption | apply Kept.ident | apply Kept.updHub | apply Kept.each | apply queueFrame_kept | apply Kept.foldl | apply Kept.foldlFst | apply Kept.ite) | split | intro _ | extract_lets | dsimp +zetaDelta only

theorem relaxLocal_kept {μ : Mark} {s : State} (hk : Kept μ s) : Kept μ (relaxLocal s) := by
  unfold relaxLocal
  repeat' first | (with_reducible first | assumption | apply Kept.ident | apply Kept.each | apply setRatio_kept | apply Kept.updRegion | apply Kept.ite) | split | intro _ | extract_lets | dsimp +zetaDelta only

theorem latchCap_kept {μ : Mark} {s : State} {p : ℕ} (hk : Kept μ s) : Kept μ (latchCap s p) := by
  unfold latchCap
  repeat' first | (with_reducible first | assumption | apply Kept.ident | apply Kept.updHub | apply Kept.ite) | split | intro _ | extract_lets | dsimp +zetaDelta only

theorem execCapEpoch_kept {μ : Mark} {s : State} (hk : Kept μ s) : KeptNext μ (execCapEpoch s) := by
  unfold execCapEpoch
  repeat' first | (with_reducible first | assumption | apply Kept.ident | apply KeptNext.next | exact KeptNext.fault | exact KeptNext.refused | apply KeptNext.ite | apply Kept.each | apply Kept.updPower | apply latchCap_kept | apply Kept.updStroke | apply postEvent_kept | apply stepCrew_kept | apply publishRatio_kept | apply relaxLocal_kept | apply applyPanel_kept | apply Kept.ite) | split | intro _ | extract_lets | dsimp +zetaDelta only

theorem execLocalLimit_kept {μ : Mark} {r : PRegion} {cur : ℕ} {s : State} (hk : Kept μ s) : KeptNext μ (execLocalLimit r cur s) := by
  unfold execLocalLimit
  repeat' first | (with_reducible first | assumption | apply Kept.ident | apply KeptNext.next | exact KeptNext.fault | exact KeptNext.refused | apply KeptNext.ite | apply Kept.updRegion | apply applyRatio_kept | apply Kept.ite) | split | intro _ | extract_lets | dsimp +zetaDelta only

theorem execIdleClockGate_kept {μ : Mark} {r : PRegion} {s : State} (hk : Kept μ s) : KeptNext μ (execIdleClockGate r s) := by
  unfold execIdleClockGate
  repeat' first | (with_reducible first | assumption | apply Kept.ident | apply KeptNext.next | exact KeptNext.fault | exact KeptNext.refused | apply KeptNext.ite | apply Kept.updRegion | apply Kept.ite) | split | intro _ | extract_lets | dsimp +zetaDelta only

theorem deeper_kept {μ : Mark} {s : State} {r : ℕ} {depth : ℕ} {ns : ℕ} (hk : Kept μ s) : Kept μ (deeper s r depth ns) := by
  unfold deeper
  repeat' first | (with_reducible first | assumption | apply Kept.ident | apply Kept.updRegion | apply Kept.ite) | split | intro _ | extract_lets | dsimp +zetaDelta only

theorem execIdleRetention_kept {μ : Mark} {r : PRegion} {s : State} (hk : Kept μ s) : KeptNext μ (execIdleRetention r s) := by
  unfold execIdleRetention
  repeat' first | (with_reducible first | assumption | apply Kept.ident | apply KeptNext.next | exact KeptNext.fault | exact KeptNext.refused | apply KeptNext.ite | apply deeper_kept | apply Kept.ite) | split | intro _ | extract_lets | dsimp +zetaDelta only

theorem execIdleRegionOff_kept {μ : Mark} {r : PRegion} {s : State} (hk : Kept μ s) : KeptNext μ (execIdleRegionOff r s) := by
  unfold execIdleRegionOff
  repeat' first | (with_reducible first | assumption | apply Kept.ident | apply KeptNext.next | exact KeptNext.fault | exact KeptNext.refused | apply KeptNext.ite | apply deeper_kept | apply Kept.ite) | split | intro _ | extract_lets | dsimp +zetaDelta only

theorem execRegionWake_kept {μ : Mark} {r : PRegion} {s : State} (hk : Kept μ s) : KeptNext μ (execRegionWake r s) := by
  unfold execRegionWake
  repeat' first | (with_reducible first | assumption | apply Kept.ident | apply KeptNext.next | exact KeptNext.fault | exact KeptNext.refused | apply KeptNext.ite | apply Kept.updRegion | apply Kept.ite) | split | intro _ | extract_lets | dsimp +zetaDelta only

theorem execWakeDone_kept {μ : Mark} {r : PRegion} {s : State} (hk : Kept μ s) : KeptNext μ (execWakeDone r s) := by
  unfold execWakeDone
  repeat' first | (with_reducible first | assumption | apply Kept.ident | apply KeptNext.next | exact KeptNext.fault | exact KeptNext.refused | apply KeptNext.ite | apply Kept.updRegion | apply startRamp_kept | apply Kept.each | apply catchAt_kept | apply Kept.ite) | split | intro _ | extract_lets | dsimp +zetaDelta only

theorem execThermalPredict_kept {μ : Mark} {regionPreds : List (PRegion × ℤ)} {stackPreds : List (StackId × ℤ)} {s : State} (hk : Kept μ s) : KeptNext μ (execThermalPredict regionPreds stackPreds s) := by
  unfold execThermalPredict
  repeat' first | (with_reducible first | assumption | apply Kept.ident | apply KeptNext.next | exact KeptNext.fault | exact KeptNext.refused | apply KeptNext.ite | apply Kept.each | apply Kept.updRegion | apply Kept.updStack | apply tightenHeat_kept | apply Kept.ite) | split | intro _ | extract_lets | dsimp +zetaDelta only

theorem thermalStep_kept {μ : Mark} {s : State} {r : ℕ} (hk : Kept μ s) : Kept μ (thermalStep s r) := by
  unfold thermalStep
  repeat' first | (with_reducible first | assumption | apply Kept.ident | apply Kept.updRegion | apply coxRecord_kept | apply applyRatio_kept | apply Kept.updCrew | apply Kept.ite) | split | intro _ | extract_lets | dsimp +zetaDelta only

theorem execHotspotRead_kept {μ : Mark} {site : SiteId} {h : Fin 8} {ab : ℤ × ℤ} {pred : ℤ} {s : State} (hk : Kept μ s) : KeptNext μ (execHotspotRead site h ab pred s) := by
  unfold execHotspotRead
  repeat' first | (with_reducible first | assumption | apply Kept.ident | apply KeptNext.next | exact KeptNext.fault | exact KeptNext.refused | apply KeptNext.ite | apply Kept.updCox | apply Kept.updRegion | apply Kept.updCrew | apply thermalStep_kept | apply Kept.ite) | split | intro _ | extract_lets | dsimp +zetaDelta only

theorem heatFence_kept {μ : Mark} {s : State} {site : ℕ} (hk : Kept μ s) : Kept μ (heatFence s site) := by
  unfold heatFence
  repeat' first | (with_reducible first | assumption | apply Kept.ident | apply tripDie_kept | apply Kept.each | apply Kept.updRegion | apply hubRecord_kept | apply Kept.ite) | split | intro _ | extract_lets | dsimp +zetaDelta only

theorem execThermalFence113_kept {μ : Mark} {site : SiteId} {s : State} (hk : Kept μ s) : KeptNext μ (execThermalFence113 site s) := by
  unfold execThermalFence113
  repeat' first | (with_reducible first | assumption | apply Kept.ident | apply KeptNext.next | exact KeptNext.fault | exact KeptNext.refused | apply KeptNext.ite | apply heatFence_kept | apply Kept.ite) | split | intro _ | extract_lets | dsimp +zetaDelta only

theorem execComparatorTrip_kept {μ : Mark} {site : SiteId} {s : State} (hk : Kept μ s) : KeptNext μ (execComparatorTrip site s) := by
  unfold execComparatorTrip
  repeat' first | (with_reducible first | assumption | apply Kept.ident | apply KeptNext.next | exact KeptNext.fault | exact KeptNext.refused | apply KeptNext.ite | apply heatFence_kept | apply Kept.ite) | split | intro _ | extract_lets | dsimp +zetaDelta only

theorem leakFound_kept {μ : Mark} {s : State} (hk : Kept μ s) : Kept μ (leakFound s) := by
  unfold leakFound
  repeat' first | (with_reducible first | assumption | apply Kept.ident | apply Kept.updSupply | apply Kept.updCool | apply raiseAll_kept | apply orderedStop_kept | apply Kept.ite) | split | intro _ | extract_lets | dsimp +zetaDelta only

theorem takeSample_kept {μ : Mark} {c : Coolant} {s : State} (hk : Kept μ s) : Kept μ (takeSample c s) := by
  unfold takeSample
  repeat' first | (with_reducible first | assumption | apply Kept.ident | apply Kept.updCool | apply raiseAll_kept | apply hubRecord_kept | apply Kept.ite) | split | intro _ | extract_lets | dsimp +zetaDelta only

theorem execCoolantSample_kept {μ : Mark} {c0 : Coolant} {s : State} (hk : Kept μ s) : KeptNext μ (execCoolantSample c0 s) := by
  unfold execCoolantSample
  repeat' first | (with_reducible first | assumption | apply Kept.ident | apply KeptNext.next | exact KeptNext.fault | exact KeptNext.refused | apply KeptNext.ite | apply takeSample_kept | apply leakFound_kept | apply Kept.updCool | apply Kept.ite) | split | intro _ | extract_lets | dsimp +zetaDelta only

theorem execCoolantSlowStop_kept {μ : Mark} {s : State} (hk : Kept μ s) : KeptNext μ (execCoolantSlowStop s) := by
  unfold execCoolantSlowStop
  repeat' first | (with_reducible first | assumption | apply Kept.ident | apply KeptNext.next | exact KeptNext.fault | exact KeptNext.refused | apply KeptNext.ite | apply orderedStop_kept | apply Kept.ite) | split | intro _ | extract_lets | dsimp +zetaDelta only

theorem execInletStop_kept {μ : Mark} {s : State} (hk : Kept μ s) : KeptNext μ (execInletStop s) := by
  unfold execInletStop
  repeat' first | (with_reducible first | assumption | apply Kept.ident | apply KeptNext.next | exact KeptNext.fault | exact KeptNext.refused | apply KeptNext.ite | apply orderedStop_kept | apply Kept.ite) | split | intro _ | extract_lets | dsimp +zetaDelta only

theorem execSuddenLoss_kept {μ : Mark} {s : State} (hk : Kept μ s) : KeptNext μ (execSuddenLoss s) := by
  unfold execSuddenLoss
  repeat' first | (with_reducible first | assumption | apply Kept.ident | apply KeptNext.next | exact KeptNext.fault | exact KeptNext.refused | apply KeptNext.ite | apply orderedStop_kept | apply setCoolRc_kept | apply Kept.ite) | split | intro _ | extract_lets | dsimp +zetaDelta only

theorem execOrderedStopDrain_kept {μ : Mark} {s : State} (hk : Kept μ s) : KeptNext μ (execOrderedStopDrain s) := by
  unfold execOrderedStopDrain
  repeat' first | (with_reducible first | assumption | apply Kept.ident | apply KeptNext.next | exact KeptNext.fault | exact KeptNext.refused | apply KeptNext.ite | apply Kept.each | apply stopEnds_kept | apply switchOff_kept | apply Kept.updCool | apply Kept.updStack | apply Kept.ite) | split | intro _ | extract_lets | dsimp +zetaDelta only

theorem execSupervisorCheck_kept {μ : Mark} {before : List ℤ} {after : List ℤ} {s : State} (hk : Kept μ s) : KeptNext μ (execSupervisorCheck before after s) := by
  unfold execSupervisorCheck
  repeat' first | (with_reducible first | assumption | apply Kept.ident | apply KeptNext.next | exact KeptNext.fault | exact KeptNext.refused | apply KeptNext.ite | apply removeStageA_kept | apply Kept.ite) | split | intro _ | extract_lets | dsimp +zetaDelta only

theorem execLeakSignal_kept {μ : Mark} {s : State} (hk : Kept μ s) : KeptNext μ (execLeakSignal s) := by
  unfold execLeakSignal
  repeat' first | (with_reducible first | assumption | apply Kept.ident | apply KeptNext.next | exact KeptNext.fault | exact KeptNext.refused | apply KeptNext.ite | apply leakFound_kept | apply Kept.ite) | split | intro _ | extract_lets | dsimp +zetaDelta only

theorem execLeakPowerOff_kept {μ : Mark} {s : State} (hk : Kept μ s) : KeptNext μ (execLeakPowerOff s) := by
  unfold execLeakPowerOff
  repeat' first | (with_reducible first | assumption | apply Kept.ident | apply KeptNext.next | exact KeptNext.fault | exact KeptNext.refused | apply KeptNext.ite | apply removeStageA_kept | apply Kept.ite) | split | intro _ | extract_lets | dsimp +zetaDelta only

theorem execHeartbeatLoss_kept {μ : Mark} {s : State} (hk : Kept μ s) : KeptNext μ (execHeartbeatLoss s) := by
  unfold execHeartbeatLoss
  repeat' first | (with_reducible first | assumption | apply Kept.ident | apply KeptNext.next | exact KeptNext.fault | exact KeptNext.refused | apply KeptNext.ite | apply removeStageA_kept | apply Kept.ite) | split | intro _ | extract_lets | dsimp +zetaDelta only

end Sys2Proof.Machine
end

