-- ==== Sys2Proof/Laws/KeptLayout.lean ====
section
/-!
SUPPORT. What Kept says, kept by layouts, the stroke grid and bring-up: one lemma for each operation and for each row.
-/
set_option linter.unreachableTactic false
set_option linter.unusedTactic false
set_option linter.unusedVariables false
namespace Sys2Proof.Machine

/-! ## LayoutApply -/

theorem mapRegion_kept {μ : Mark} {s : State} {r : ℕ} (hk : Kept μ s) : Kept μ (mapRegion s r) := by
  unfold mapRegion
  repeat' first | (with_reducible first | assumption | apply Kept.ident | apply Kept.each | apply Kept.updCore | apply Kept.updRegion | apply fenceRegion_kept | apply Kept.setCoreOf | apply Kept.ite) | split | intro _ | extract_lets | dsimp +zetaDelta only

theorem setLinks_kept {μ : Mark} {s : State} {p : ℕ} {site : ℕ} (hk : Kept μ s) : Kept μ (setLinks s p site) := by
  unfold setLinks
  repeat' first | (with_reducible first | assumption | apply Kept.ident | apply Kept.each | apply Kept.updLink | apply Kept.ite) | split | intro _ | extract_lets | dsimp +zetaDelta only

theorem assignRegions_kept {μ : Mark} {s : State} {p : ℕ} {l : Layout} (hk : Kept μ s) : Kept μ (assignRegions s p l) := by
  unfold assignRegions
  repeat' first | (with_reducible first | assumption | apply Kept.ident | apply Kept.each | apply Kept.updRegion | apply Kept.ite) | split | intro _ | extract_lets | dsimp +zetaDelta only

theorem occupy_kept {μ : Mark} {s : State} {p : ℕ} {l : Layout} (hk : Kept μ s) : Kept μ (occupy s p l) := by
  unfold occupy
  repeat' first | (with_reducible first | assumption | apply Kept.ident | apply Kept.updLay | apply Kept.each | apply mapRegion_kept | apply setLinks_kept | apply loadMap_kept | apply assignRegions_kept | apply Kept.ite) | split | intro _ | extract_lets | dsimp +zetaDelta only

theorem clearSram_kept {μ : Mark} {s : State} {k : ℕ} (hk : Kept μ s) : Kept μ (clearSram s k) := by
  unfold clearSram
  repeat' first | (with_reducible first | assumption | apply Kept.ident | apply Kept.setSramCe | apply Kept.setSramUe | apply Kept.setSram | apply Tab.wf_put | apply Tab.wf_upd | apply Tab.wf_filter | apply Tab.wf_putList | apply Tab.wf_mapAll | exact Tab.wf_nil | apply Tab.wf_foldl | apply Kept.ite) | exact hk.canon.sram | exact hk.canon.hbm | exact hk.canon.tallies | exact hk.canon.offs | exact hk.canon.arbs | assumption | split | intro _ | extract_lets | dsimp +zetaDelta only

theorem loadCore_kept {μ : Mark} {s : State} {p : ℕ} {l : Layout} {k : ℕ} {lead : ℕ} {clear : Bool} (hk : Kept μ s) : Kept μ (loadCore s p l k lead clear) := by
  unfold loadCore
  repeat' first | (with_reducible first | assumption | apply Kept.ident | apply clearSram_kept | apply sramWrite_kept | apply Kept.updCore | apply coreFault_kept | apply Kept.foldl | apply Kept.foldlFst | apply Kept.ite) | split | intro _ | extract_lets | dsimp +zetaDelta only

theorem placementReads_kept {μ : Mark} {s : State} {p : ℕ} {runs : List (ℕ × ℕ)} {ce : List ℕ} {ue : List ℕ} (hk : Kept μ s) : Kept μ (placementReads s p runs ce ue) := by
  unfold placementReads
  repeat' first | (with_reducible first | assumption | apply Kept.ident | apply Kept.each | apply readFinds_kept | apply countUe_kept | apply Kept.foldl | apply Kept.foldlFst | apply Kept.ite) | split | intro _ | extract_lets | dsimp +zetaDelta only

theorem loadCores_kept {μ : Mark} {s : State} {p : ℕ} {l : Layout} {clear : Bool} (hk : Kept μ s) : Kept μ (loadCores s p l clear) := by
  unfold loadCores
  repeat' first | (with_reducible first | assumption | apply Kept.ident | apply Kept.each | apply loadCore_kept | apply clearSram_kept | apply Kept.updCore | apply Kept.ite) | split | intro _ | extract_lets | dsimp +zetaDelta only

theorem bindSync_kept {μ : Mark} {l : Layout} {p : ℕ} {s : State} {r : SyncRec} (hk : Kept μ s) : Kept μ (bindSync l p s r) := by
  unfold bindSync
  repeat' first | (with_reducible first | assumption | apply Kept.ident | apply Kept.updSync | apply Kept.foldl | apply Kept.foldlFst | apply Kept.ite) | split | intro _ | extract_lets | dsimp +zetaDelta only

theorem bindUnit_kept {μ : Mark} {l : Layout} {p : ℕ} {s : State} {x : ℕ × RouteTable × ExpertRec} (hk : Kept μ s) : Kept μ (bindUnit l p s x) := by
  unfold bindUnit
  repeat' first | (with_reducible first | assumption | apply Kept.ident | apply Kept.updAdmit | apply Kept.ite) | split | intro _ | extract_lets | dsimp +zetaDelta only

theorem unbind_kept {μ : Mark} {s : State} {p : ℕ} (hk : Kept μ s) : Kept μ (unbind s p) :=
  Kept.raw hk rfl rfl rfl (Nat.le_refl _) (Nat.le_refl _) (fun c =>
    { c with syncs := Tab.wf_filter _ c.syncs, trees := Tab.wf_filter _ c.trees, admits := Tab.wf_filter _ c.admits })

theorem loadLayout_kept {μ : Mark} {s : State} {p : ℕ} {l : Layout} {clear : Bool} {ce : List ℕ} {ue : List ℕ} (hk : Kept μ s) : Kept μ (loadLayout s p l clear ce ue) := by
  unfold loadLayout
  repeat' first | (with_reducible first | assumption | apply Kept.ident | apply placementReads_kept | apply unbind_kept | apply loadMap_kept | apply loadCores_kept | apply Kept.each | apply Kept.updSync | apply bindSync_kept | apply Kept.updTree | apply bindUnit_kept | apply Kept.updCrew | apply setRatio_kept | apply Kept.updRegion | apply Kept.foldl | apply Kept.foldlFst | apply Kept.ite) | split | intro _ | extract_lets | dsimp +zetaDelta only

theorem finishApply_kept {μ : Mark} {s : State} {p : ℕ} {l : Layout} (hk : Kept μ s) : Kept μ (finishApply s p l) := by
  unfold finishApply
  repeat' first | (with_reducible first | assumption | apply Kept.ident | apply Kept.updHub | apply Kept.ite) | split | intro _ | extract_lets | dsimp +zetaDelta only

theorem moveHbm_kept {μ : Mark} {s : State} {p : ℕ} (hk : Kept μ s) : Kept μ (moveHbm s p) := by
  unfold moveHbm
  repeat' first | (with_reducible first | assumption | apply Kept.ident | apply Kept.updHub | apply Kept.setHbmCe | apply Kept.setHbmUe | apply Kept.setHbm | apply Kept.each | apply Kept.updStack | apply Kept.foldl | apply Kept.foldlFst | apply Tab.wf_put | apply Tab.wf_upd | apply Tab.wf_filter | apply Tab.wf_putList | apply Tab.wf_mapAll | exact Tab.wf_nil | apply Tab.wf_foldl | apply Kept.ite) | exact hk.canon.sram | exact hk.canon.hbm | exact hk.canon.tallies | exact hk.canon.offs | exact hk.canon.arbs | assumption | split | intro _ | extract_lets | dsimp +zetaDelta only

theorem setInterleave_kept {μ : Mark} {s : State} {p : ℕ} {new : List ℕ} (hk : Kept μ s) : Kept μ (setInterleave s p new) := by
  unfold setInterleave
  repeat' first | (with_reducible first | assumption | apply Kept.ident | apply Kept.updHub | apply Kept.ite) | split | intro _ | extract_lets | dsimp +zetaDelta only

theorem joinPort_kept {μ : Mark} {p : ℕ} {s : State} {f : ℕ} (hk : Kept μ s) : Kept μ (joinPort p s f) := by
  unfold joinPort
  repeat' first | (with_reducible first | assumption | apply Kept.ident | apply portNotice_kept | apply Kept.updFport | apply Kept.ite) | split | intro _ | extract_lets | dsimp +zetaDelta only

theorem announceGen_kept {μ : Mark} {s : State} {p : ℕ} (hk : Kept μ s) : Kept μ (announceGen s p) := by
  unfold announceGen
  repeat' first | (with_reducible first | assumption | apply Kept.ident | apply Kept.each | apply announce_kept | apply Kept.updFport | apply Kept.ite) | split | intro _ | extract_lets | dsimp +zetaDelta only

theorem mapColumns_kept {μ : Mark} {s : State} (hk : Kept μ s) : Kept μ (mapColumns s) := by
  unfold mapColumns
  repeat' first | (with_reducible first | assumption | apply Kept.ident | apply Kept.each | apply Kept.updColMap | apply Kept.updRegion | apply Kept.ite) | split | intro _ | extract_lets | dsimp +zetaDelta only

theorem judgeStream_kept {μ : Mark} {rivals : List (ℕ × PartRec)} {s : State} {p : ℕ} (hk : Kept μ s) : Kept μ (judgeStream rivals s p) := by
  unfold judgeStream
  repeat' first | (with_reducible first | assumption | apply Kept.ident | apply occupy_kept | apply Kept.updHub | apply Kept.updLay | apply setInterleave_kept | apply raiseEvt_kept | apply Kept.ite) | split | intro _ | extract_lets | dsimp +zetaDelta only

theorem beginLoad_kept {μ : Mark} {s : State} (hk : Kept μ s) : Kept μ (beginLoad s) := by
  unfold beginLoad
  repeat' first | (with_reducible first | assumption | apply Kept.ident | apply mapColumns_kept | apply Kept.each | apply judgeStream_kept | apply Kept.updBring | apply Kept.ite) | split | intro _ | extract_lets | dsimp +zetaDelta only

theorem formPartition_kept {μ : Mark} {ce : List (PartId × ℕ)} {ue : List (PartId × ℕ)} {s : State} {p : ℕ} (hk : Kept μ s) : Kept μ (formPartition ce ue s p) := by
  unfold formPartition
  repeat' first | (with_reducible first | assumption | apply Kept.ident | apply finishApply_kept | apply loadLayout_kept | apply occupy_kept | apply Kept.updLay | apply Kept.each | apply Kept.updHub | apply Kept.updStack | apply joinPort_kept | apply raiseEvt_kept | apply Kept.foldl | apply Kept.foldlFst | apply Kept.ite) | split | intro _ | extract_lets | dsimp +zetaDelta only

theorem endLoad_kept {μ : Mark} {ce : List (PartId × ℕ)} {ue : List (PartId × ℕ)} {s : State} (hk : Kept μ s) : Kept μ (endLoad ce ue s) := by
  unfold endLoad
  repeat' first | (with_reducible first | assumption | apply Kept.ident | apply Kept.each | apply formPartition_kept | apply switchOff_kept | apply Kept.updBring | apply Kept.ite) | split | intro _ | extract_lets | dsimp +zetaDelta only

theorem cancelEvents_kept {μ : Mark} {s : State} {p : ℕ} {f : EventKind → Bool} (hk : Kept μ s) : Kept μ (cancelEvents s p f) := by
  unfold cancelEvents
  repeat' first | (with_reducible first | assumption | apply Kept.ident | apply Kept.each | apply Kept.updCox | apply Kept.ite) | split | intro _ | extract_lets | dsimp +zetaDelta only

theorem startReplacement_kept {μ : Mark} {s : State} {p : ℕ} (hk : Kept μ s) : Kept μ (startReplacement s p) := by
  unfold startReplacement
  repeat' first | (with_reducible first | assumption | apply Kept.ident | apply assignRegions_kept | apply Kept.updLay | apply setLayRc_kept | apply Kept.updHub | apply Kept.each | apply stopIssue_kept | apply abortCommands_kept | apply raiseEvt_kept | apply Kept.updCmd | apply announceGen_kept | apply Kept.ite) | split | intro _ | extract_lets | dsimp +zetaDelta only

theorem resetPartition_kept {μ : Mark} {s : State} {p : ℕ} (hk : Kept μ s) : Kept μ (resetPartition s p) := by
  unfold resetPartition
  repeat' first | (with_reducible first | assumption | apply Kept.ident | apply cancelEvents_kept | apply Kept.each | apply Kept.updCore | apply Kept.updFab | apply setInterleave_kept | apply unbind_kept | apply Kept.updLay | apply Kept.ite) | split | intro _ | extract_lets | dsimp +zetaDelta only

theorem newLayoutStarts_kept {μ : Mark} {s : State} {p : ℕ} (hk : Kept μ s) : Kept μ (newLayoutStarts s p) := by
  unfold newLayoutStarts
  repeat' first | (with_reducible first | assumption | apply Kept.ident | apply raiseEvt_kept | apply Kept.updCmd | apply Kept.updLay | apply Kept.updHub | apply Kept.ite) | split | intro _ | extract_lets | dsimp +zetaDelta only

theorem execLayoutStage_kept {μ : Mark} {p : PortId} {s : State} (hk : Kept μ s) : KeptNext μ (execLayoutStage p s) := by
  unfold execLayoutStage
  repeat' first | (with_reducible first | assumption | apply Kept.ident | apply KeptNext.next | exact KeptNext.fault | exact KeptNext.refused | apply KeptNext.ite | apply Kept.updLay | apply Kept.updHub | apply raiseEvt_kept | apply Kept.emit | apply Kept.ite) | split | intro _ | extract_lets | dsimp +zetaDelta only

theorem execLayoutFetchDone_kept {μ : Mark} {p : PortId} {bytes : Option (List Byte)} {s : State} (hk : Kept μ s) : KeptNext μ (execLayoutFetchDone p bytes s) := by
  unfold execLayoutFetchDone
  repeat' first | (with_reducible first | assumption | apply Kept.ident | apply KeptNext.next | exact KeptNext.fault | exact KeptNext.refused | apply KeptNext.ite | apply Kept.updLay | apply Kept.updHub | apply raiseEvt_kept | apply Kept.ite) | split | intro _ | extract_lets | dsimp +zetaDelta only

theorem execLayoutDiscard_kept {μ : Mark} {p : PortId} {s : State} (hk : Kept μ s) : KeptNext μ (execLayoutDiscard p s) := by
  unfold execLayoutDiscard
  repeat' first | (with_reducible first | assumption | apply Kept.ident | apply KeptNext.next | exact KeptNext.fault | exact KeptNext.refused | apply KeptNext.ite | apply Kept.updLay | apply raiseEvt_kept | apply Kept.updHub | apply Kept.ite) | split | intro _ | extract_lets | dsimp +zetaDelta only

theorem execLayoutReplace_kept {μ : Mark} {p : PortId} {s : State} (hk : Kept μ s) : KeptNext μ (execLayoutReplace p s) := by
  unfold execLayoutReplace
  repeat' first | (with_reducible first | assumption | apply Kept.ident | apply KeptNext.next | exact KeptNext.fault | exact KeptNext.refused | apply KeptNext.ite | apply postEvent_kept | apply Kept.updLay | apply setLayRc_kept | apply raiseEvt_kept | apply Kept.setPosted | apply Kept.ite) | split | intro _ | extract_lets | dsimp +zetaDelta only

theorem execLayoutCancel_kept {μ : Mark} {p : PortId} {s : State} (hk : Kept μ s) : KeptNext μ (execLayoutCancel p s) := by
  unfold execLayoutCancel
  repeat' first | (with_reducible first | assumption | apply Kept.ident | apply KeptNext.next | exact KeptNext.fault | exact KeptNext.refused | apply KeptNext.ite | apply raiseEvt_kept | apply Kept.updLay | apply cancelEvents_kept | apply Kept.ite) | split | intro _ | extract_lets | dsimp +zetaDelta only

theorem execReplaceQuiet_kept {μ : Mark} {p : PartId} {s : State} (hk : Kept μ s) : KeptNext μ (execReplaceQuiet p s) := by
  unfold execReplaceQuiet
  repeat' first | (with_reducible first | assumption | apply Kept.ident | apply KeptNext.next | exact KeptNext.fault | exact KeptNext.refused | apply KeptNext.ite | apply resetPartition_kept | apply Kept.ite) | split | intro _ | extract_lets | dsimp +zetaDelta only

theorem execReplaceDrainTimeout_kept {μ : Mark} {p : PartId} {s : State} (hk : Kept μ s) : KeptNext μ (execReplaceDrainTimeout p s) := by
  unfold execReplaceDrainTimeout
  repeat' first | (with_reducible first | assumption | apply Kept.ident | apply KeptNext.next | exact KeptNext.fault | exact KeptNext.refused | apply KeptNext.ite | apply raiseEvt_kept | apply resetPartition_kept | apply setLayRc_kept | apply clearFabric_kept | apply Kept.ite) | split | intro _ | extract_lets | dsimp +zetaDelta only

theorem execReplaceLoadDone_kept {μ : Mark} {p : PartId} {ce : List ℕ} {ue : List ℕ} {s : State} (hk : Kept μ s) : KeptNext μ (execReplaceLoadDone p ce ue s) := by
  unfold execReplaceLoadDone
  repeat' first | (with_reducible first | assumption | apply Kept.ident | apply KeptNext.next | exact KeptNext.fault | exact KeptNext.refused | apply KeptNext.ite | apply tablesInPlace_kept | apply recompute_kept | apply assignRegions_kept | apply Kept.updLay | apply finishApply_kept | apply loadLayout_kept | apply Kept.each | apply Kept.updRegion | apply Kept.ite) | split | intro _ | extract_lets | dsimp +zetaDelta only

theorem execSpareLoadDone_kept {μ : Mark} {r : PRegion} {ce : List ℕ} {ue : List ℕ} {s : State} (hk : Kept μ s) : KeptNext μ (execSpareLoadDone r ce ue s) := by
  unfold execSpareLoadDone
  repeat' first | (with_reducible first | assumption | apply Kept.ident | apply KeptNext.next | exact KeptNext.fault | exact KeptNext.refused | apply KeptNext.ite | apply loadCore_kept | apply placementReads_kept | apply Kept.updRegion | apply Kept.ite) | split | intro _ | extract_lets | dsimp +zetaDelta only

/-! ## Stroke -/

theorem closeWindow_kept {μ : Mark} {s : State} {u : ℕ} (hk : Kept μ s) : Kept μ (closeWindow s u) := by
  unfold closeWindow
  repeat' first | (with_reducible first | assumption | apply Kept.ident | apply Kept.send | apply Kept.updAdmit | apply Kept.ite) | split | intro _ | extract_lets | dsimp +zetaDelta only

theorem openWindow_kept {μ : Mark} {s : State} {u : ℕ} {w : ℕ} {count : ℕ} (hk : Kept μ s) : Kept μ (openWindow s u w count) := by
  unfold openWindow
  repeat' first | (with_reducible first | assumption | apply Kept.ident | apply Kept.updAdmit | apply Kept.send | apply Kept.ite) | split | intro _ | extract_lets | dsimp +zetaDelta only

theorem admitWindows_kept {μ : Mark} {s : State} {r : ℕ} {count : ℕ} (hk : Kept μ s) : Kept μ (admitWindows s r count) := by
  unfold admitWindows
  repeat' first | (with_reducible first | assumption | apply Kept.ident | apply Kept.each | apply openWindow_kept | apply closeWindow_kept | apply Kept.ite) | split | intro _ | extract_lets | dsimp +zetaDelta only

theorem setComponent_kept {μ : Mark} {s : State} {e : PendEvent} (hk : Kept μ s) : Kept μ (setComponent s e) := by
  unfold setComponent
  repeat' first | (with_reducible first | assumption | apply Kept.ident | apply Kept.updPower | apply Kept.updHub | apply Kept.updCrew | apply Kept.each | apply Kept.updRegion | apply Kept.ite) | split | intro _ | extract_lets | dsimp +zetaDelta only

theorem takeEvent_kept {μ : Mark} {r : ℕ} {s : State} {e : PendEvent} (hk : Kept μ s) : Kept μ (takeEvent r s e) := by
  unfold takeEvent
  repeat' first | (with_reducible first | assumption | apply Kept.ident | apply Kept.each | apply setComponent_kept | apply Kept.updCox | apply coxRecord_kept | apply setStrokeRc_kept | apply Kept.ite) | split | intro _ | extract_lets | dsimp +zetaDelta only

theorem turnGroup_kept {μ : Mark} {p : ℕ} {c : ℕ} {g : ℕ} {on : Bool} {s : State} (hk : Kept μ s) : Kept μ (turnGroup p c g on s) := by
  unfold turnGroup
  repeat' first | (with_reducible first | assumption | apply Kept.ident | apply Kept.each | apply homeRelease_kept | apply Kept.updRegion | apply Kept.updSync | apply Kept.ite) | split | intro _ | extract_lets | dsimp +zetaDelta only

theorem rotateCrew_kept {μ : Mark} {p : ℕ} {n : ℕ} {s : State} {c : CrewRec} (hk : Kept μ s) : Kept μ (rotateCrew p n s c) := by
  unfold rotateCrew
  repeat' first | (with_reducible first | assumption | apply Kept.ident | apply Kept.updCrew | apply turnGroup_kept | apply Kept.foldl | apply Kept.foldlFst | apply Kept.ite) | split | intro _ | extract_lets | dsimp +zetaDelta only

theorem pointAfter_kept {μ : Mark} {s : State} {p : ℕ} {r : ℕ} {a : Assign} {l : List Falling} (hk : Kept μ s) : Kept μ (pointAfter s p r a l).1 := by
  unfold pointAfter
  repeat' first | (with_reducible first | assumption | apply Kept.ident | apply Kept.updCrew | apply Kept.updRegion | apply Kept.foldl | apply Kept.foldlFst | apply Kept.iteFst | apply Kept.ite) | split | intro _ | extract_lets | dsimp +zetaDelta only

theorem freeUnits_kept {μ : Mark} {s : State} {p : ℕ} {c : ℕ} (hk : Kept μ s) : Kept μ (freeUnits s p c) := by
  unfold freeUnits
  repeat' first | (with_reducible first | assumption | apply Kept.ident | apply Kept.each | apply Kept.updAdmit | apply Kept.ite) | split | intro _ | extract_lets | dsimp +zetaDelta only

theorem startOn_kept {μ : Mark} {p : ℕ} {r : ℕ} {s : State} {f : Falling} (hk : Kept μ s) : Kept μ (startOn p r s f) := by
  unfold startOn
  repeat' first | (with_reducible first | assumption | apply Kept.ident | apply Kept.updRegion | apply Kept.updCrew | apply freeUnits_kept | apply Kept.ite) | split | intro _ | extract_lets | dsimp +zetaDelta only

theorem openTree_kept {μ : Mark} {p : ℕ} {r : ℕ} {new : ℕ} {s : State} {f : Falling} (hk : Kept μ s) : Kept μ (openTree p r new s f) := by
  unfold openTree
  repeat' first | (with_reducible first | assumption | apply Kept.ident | apply tryTree_kept | apply Kept.updTree | apply Kept.ite) | split | intro _ | extract_lets | dsimp +zetaDelta only

theorem releaseWaits_kept {μ : Mark} {s : State} {r : ℕ} {count : ℕ} (hk : Kept μ s) : Kept μ (releaseWaits s r count) := by
  unfold releaseWaits
  repeat' first | (with_reducible first | assumption | apply Kept.ident | apply Kept.each | apply catchAt_kept | apply Kept.ite) | split | intro _ | extract_lets | dsimp +zetaDelta only

theorem partitionStroke_kept {μ : Mark} {s : State} {p : ℕ} {n : ℕ} {fall : List Falling} (hk : Kept μ s) : Kept μ (partitionStroke s p n fall) := by
  unfold partitionStroke
  repeat' first | (with_reducible first | assumption | apply Kept.ident | apply newLayoutStarts_kept | apply Kept.updHub | apply rotateCrew_kept | apply Kept.foldl | apply Kept.foldlFst | apply Kept.ite) | split | intro _ | extract_lets | dsimp +zetaDelta only

theorem partitionTriggers_kept {μ : Mark} {s : State} {p : ℕ} {old : ℕ} {new : ℕ} {evs : List PendEvent} (hk : Kept μ s) : Kept μ (partitionTriggers s p old new evs) := by
  unfold partitionTriggers
  repeat' first | (with_reducible first | assumption | apply Kept.ident | apply fetcherStroke_kept | apply Kept.updHub | apply fetchStroke_kept | apply startReplacement_kept | apply Kept.foldl | apply Kept.foldlFst | apply Kept.ite) | split | intro _ | extract_lets | dsimp +zetaDelta only

theorem startChange_kept {μ : Mark} {s : State} {r : ℕ} {p : ℕ} {a : Assign} {op : ℕ} (hk : Kept μ s) : Kept μ (startChange s r p a op) := by
  unfold startChange
  repeat' first | (with_reducible first | assumption | apply Kept.ident | apply Kept.updCrew | apply changeNow_kept | apply Kept.ite) | split | intro _ | extract_lets | dsimp +zetaDelta only

theorem partBoundary_kept {μ : Mark} {s : State} {r : ℕ} {p : ℕ} {old : ℕ} {new : ℕ} (hk : Kept μ s) : Kept μ (partBoundary s r p old new) := by
  unfold partBoundary
  repeat' first | (with_reducible first | assumption | apply Kept.ident | apply takeEvent_kept | apply partitionStroke_kept | apply setRatio_kept | apply pointAfter_kept | apply startChange_kept | apply startOn_kept | apply releaseWaits_kept | apply openTree_kept | apply partitionTriggers_kept | apply Kept.foldl | apply Kept.foldlFst | apply Kept.ite) | split | intro _ | extract_lets | dsimp +zetaDelta only

theorem execRegionStrokeBoundary_kept {μ : Mark} {r : PRegion} {mean : W16} {s : State} (hk : Kept μ s) : KeptNext μ (execRegionStrokeBoundary r mean s) := by
  unfold execRegionStrokeBoundary
  repeat' first | (with_reducible first | assumption | apply Kept.ident | apply KeptNext.next | exact KeptNext.fault | exact KeptNext.refused | apply KeptNext.ite | apply Kept.updRegion | apply admitWindows_kept | apply partBoundary_kept | apply pruneEvents_kept | apply Kept.ite) | split | intro _ | extract_lets | dsimp +zetaDelta only

theorem resumeTrees_kept {μ : Mark} {s : State} {r : ℕ} (hk : Kept μ s) : Kept μ (resumeTrees s r) := by
  unfold resumeTrees
  repeat' first | (with_reducible first | assumption | apply Kept.ident | apply Kept.each | apply tryTree_kept | apply Kept.ite) | split | intro _ | extract_lets | dsimp +zetaDelta only

theorem execFreqChangeResume_kept {μ : Mark} {r : PRegion} {s : State} (hk : Kept μ s) : KeptNext μ (execFreqChangeResume r s) := by
  unfold execFreqChangeResume
  repeat' first | (with_reducible first | assumption | apply Kept.ident | apply KeptNext.next | exact KeptNext.fault | exact KeptNext.refused | apply KeptNext.ite | apply Kept.updRegion | apply Kept.each | apply catchAt_kept | apply changeNow_kept | apply startChange_kept | apply pointAfter_kept | apply resumeTrees_kept | apply setRatio_kept | apply Kept.ite) | split | intro _ | extract_lets | dsimp +zetaDelta only

/-! ## Clock -/

theorem tick_kept {μ : Mark} {s : State} (hk : Kept μ s) : Kept μ (tick s) :=
  Kept.raw hk rfl rfl rfl (Nat.le_refl _) (Nat.le_succ _) (fun c => { c with sram := c.sram })

/-! ## SecOps -/

theorem freshNonce_kept {μ : Mark} {s : State} (hk : Kept μ s) : Kept μ (freshNonce s) := by
  unfold freshNonce
  repeat' first | (with_reducible first | assumption | apply Kept.ident | apply Kept.updSec | apply Kept.draw | apply Kept.ite) | exact Nat.le_refl _ | exact Nat.le_max_left _ _ | split | intro _ | extract_lets | dsimp +zetaDelta only

theorem admitBezel_kept {μ : Mark} {s : State} {n : ℕ} {a : BezelAnswer} (hk : Kept μ s) : Kept μ (admitBezel s n a) := by
  unfold admitBezel
  repeat' first | (with_reducible first | assumption | apply Kept.ident | apply Kept.updBezel | apply secRecord_kept | apply Kept.draw | apply Kept.ite) | split | intro _ | extract_lets | dsimp +zetaDelta only

theorem bootHubs_kept {μ : Mark} {s : State} {ok : ℕ → Bool} (hk : Kept μ s) : Kept μ (bootHubs s ok) := by
  unfold bootHubs
  repeat' first | (with_reducible first | assumption | apply Kept.ident | apply Kept.each | apply Kept.updHub | apply Kept.updBring | apply Kept.updSupply | apply Kept.updPower | apply freshNonce_kept | apply Kept.updSec | apply Kept.foldl | apply Kept.foldlFst | apply Kept.ite) | exact Nat.le_refl _ | exact Nat.le_max_left _ _ | split | intro _ | extract_lets | dsimp +zetaDelta only

theorem restartPanel_kept {μ : Mark} {s0 : State} (hk : Kept μ s0) : Kept μ (restartPanel s0) := by
  have h := closeSession_kept hk
  unfold restartPanel
  generalize closeSession s0 = s at h
  exact Kept.raw h rfl rfl rfl (Nat.le_refl _) (Nat.le_refl _) (fun _ => by
    constructor <;> first | rfl | exact Tab.wf_foldl _ _ (fun _ _ ht => Tab.wf_upd _ _ ht) rfl)

/-! ## BringUp -/

theorem startStageA_kept {μ : Mark} {s : State} (hk : Kept μ s) : Kept μ (startStageA s) := by
  unfold startStageA
  repeat' first | (with_reducible first | assumption | apply Kept.ident | apply bootHubs_kept | apply Kept.updSupply | apply Kept.ite) | split | intro _ | extract_lets | dsimp +zetaDelta only

theorem execPowerArrival_kept {μ : Mark} {vin : ℕ} {hallmarkOk : BitVec 4} {s : State} (hk : Kept μ s) : KeptNext μ (execPowerArrival vin hallmarkOk s) := by
  unfold execPowerArrival
  repeat' first | (with_reducible first | assumption | apply Kept.ident | apply KeptNext.next | exact KeptNext.fault | exact KeptNext.refused | apply KeptNext.ite | apply startStageA_kept | apply Kept.updSupply | apply Kept.ite) | split | intro _ | extract_lets | dsimp +zetaDelta only

theorem execBulkChargeDone_kept {μ : Mark} {s : State} (hk : Kept μ s) : KeptNext μ (execBulkChargeDone s) := by
  unfold execBulkChargeDone
  repeat' first | (with_reducible first | assumption | apply Kept.ident | apply KeptNext.next | exact KeptNext.fault | exact KeptNext.refused | apply KeptNext.ite | apply startStageA_kept | apply Kept.updSupply | apply Kept.ite) | split | intro _ | extract_lets | dsimp +zetaDelta only

theorem takeStep_kept {μ : Mark} {s : State} {p : ℕ} {n : ℕ} {f : State → State} (hk : Kept μ s) (hf : ∀ s, Kept μ s → Kept μ (f s)) : Kept μ (takeStep s p n f) := by
  unfold takeStep
  repeat' first | (with_reducible first | assumption | apply Kept.ident | apply Kept.updBring | apply hf | apply Kept.ite) | split | intro _ | extract_lets | dsimp +zetaDelta only

theorem failStep_kept {μ : Mark} {s : State} {code : ℕ} {detail : ℕ} (hk : Kept μ s) : Kept μ (failStep s code detail) := by
  unfold failStep
  repeat' first | (with_reducible first | assumption | apply Kept.ident | apply Kept.updBring | apply Kept.ite) | split | intro _ | extract_lets | dsimp +zetaDelta only

theorem dropCleared_factory {d : Defects} : (dropCleared d).factory = d.factory := by
  unfold dropCleared
  split <;> rfl

theorem beginBringUp_kept {μ : Mark} {s : State} (hk : Kept μ s) : Kept μ (beginBringUp s) := by
  unfold beginBringUp
  repeat' first | (with_reducible first | assumption | apply freshNonce_kept | apply Kept.updSec | apply Kept.updDefects | apply Kept.each | apply Kept.updHub | apply Kept.updBring | apply Kept.ite) |  exact Nat.le_refl _  |  exact dropCleared_factory | split | intro _ | extract_lets | dsimp +zetaDelta only

theorem powerSites_kept {μ : Mark} {s : State} (hk : Kept μ s) : Kept μ (powerSites s) := by
  unfold powerSites
  repeat' first | (with_reducible first | assumption | apply Kept.ident | apply Kept.updPower | apply Kept.each | apply Kept.updGroup | apply Kept.updCox | apply Kept.updRegion | apply closeFuse_kept | apply Kept.updCore | apply Kept.foldl | apply Kept.foldlFst | apply Kept.ite) | split | intro _ | extract_lets | dsimp +zetaDelta only

theorem execSupply_kept {μ : Mark} {p : PortId} {vin : ℕ} {s : State} (hk : Kept μ s) : KeptNext μ (execSupply p vin s) := by
  unfold execSupply
  repeat' first | (with_reducible first | assumption | apply Kept.ident | apply KeptNext.next | exact KeptNext.fault | exact KeptNext.refused | apply KeptNext.ite | apply takeStep_kept | apply Kept.updSupply | apply beginBringUp_kept | apply failStep_kept | apply powerSites_kept | apply Kept.ite) | split | intro _ | extract_lets | dsimp +zetaDelta only

theorem unpowerSites_kept {μ : Mark} {s : State} (hk : Kept μ s) : Kept μ (unpowerSites s) :=
  Kept.raw hk rfl rfl rfl (Nat.le_refl _) (Nat.le_refl _) (fun c => { c with coxes := rfl, regions := rfl, cores := rfl })

theorem execHub_kept {μ : Mark} {p : PortId} {s : State} (hk : Kept μ s) : KeptNext μ (execHub p s) := by
  unfold execHub
  repeat' first | (with_reducible first | assumption | apply Kept.ident | apply KeptNext.next | exact KeptNext.fault | exact KeptNext.refused | apply KeptNext.ite | apply takeStep_kept | apply Kept.updStroke | apply failStep_kept | apply Kept.ite) | split | intro _ | extract_lets | dsimp +zetaDelta only

theorem hubCompletes_kept {μ : Mark} {s : State} (hk : Kept μ s) : Kept μ (hubCompletes s) := by
  unfold hubCompletes
  repeat' first | (with_reducible first | assumption | apply Kept.ident | apply Kept.updStroke | apply Kept.each | apply Kept.updCox | apply Kept.ite) | split | intro _ | extract_lets | dsimp +zetaDelta only

theorem calInForce_kept {μ : Mark} {s : State} (hk : Kept μ s) : Kept μ (calInForce s) := by
  unfold calInForce
  repeat' first | (with_reducible first | assumption | apply Kept.ident | apply Kept.updSec | apply Kept.ite) | exact Nat.le_refl _ | exact Nat.le_max_left _ _ | split | intro _ | extract_lets | dsimp +zetaDelta only

theorem authCompletes_kept {μ : Mark} {inp : AuthInput} {s : State} (hk : Kept μ s) : Kept μ (authCompletes inp s) := by
  unfold authCompletes
  repeat' first | (with_reducible first | assumption | apply Kept.ident | apply Kept.each | apply secRecord_kept | apply Kept.updCox | apply cutDie_kept | apply admitBezel_kept | apply calInForce_kept | apply Kept.updSec | apply Kept.draw | apply Kept.ite) | exact Nat.le_refl _ | exact Nat.le_max_left _ _ | split | intro _ | extract_lets | dsimp +zetaDelta only

theorem execAuth_kept {μ : Mark} {p : PortId} {inp : AuthInput} {s : State} (hk : Kept μ s) : KeptNext μ (execAuth p inp s) := by
  unfold execAuth
  repeat' first | (with_reducible first | assumption | apply Kept.ident | apply KeptNext.next | exact KeptNext.fault | exact KeptNext.refused | apply KeptNext.ite | apply takeStep_kept | apply failStep_kept | apply Kept.updBring | apply Kept.ite) | split | intro _ | extract_lets | dsimp +zetaDelta only

theorem redirectListed_kept {μ : Mark} {s : State} {e : Defect} (hk : Kept μ s) : Kept μ (redirectListed s e) := by
  unfold redirectListed
  repeat' first | (with_reducible first | assumption | apply Kept.ident | apply Kept.updStack | apply Kept.updSlice | apply Kept.ite) | split | intro _ | extract_lets | dsimp +zetaDelta only

theorem execInventory_kept {μ : Mark} {inp : InventoryInput} {s : State} (hk : Kept μ s) : KeptNext μ (execInventory inp s) := by
  unfold execInventory
  repeat' first | (with_reducible first | assumption | apply Kept.ident | apply KeptNext.next | exact KeptNext.fault | exact KeptNext.refused | apply KeptNext.ite | apply takeStep_kept | apply Kept.each | apply Kept.updStack | apply redirectListed_kept | apply Kept.ite) | split | intro _ | extract_lets | dsimp +zetaDelta only

theorem nextWave_kept {μ : Mark} {s : State} (hk : Kept μ s) : Kept μ (nextWave s) := by
  unfold nextWave
  repeat' first | (with_reducible first | assumption | apply Kept.ident | apply Kept.updBring | apply Kept.each | apply Kept.updPower | apply Kept.updRegion | apply Kept.ite) | split | intro _ | extract_lets | dsimp +zetaDelta only

theorem execWaves_kept {μ : Mark} {p : PortId} {s : State} (hk : Kept μ s) : KeptNext μ (execWaves p s) := by
  unfold execWaves
  repeat' first | (with_reducible first | assumption | apply Kept.ident | apply KeptNext.next | exact KeptNext.fault | exact KeptNext.refused | apply KeptNext.ite | apply takeStep_kept | apply failStep_kept | apply nextWave_kept | apply Kept.updBring | apply Kept.ite) | split | intro _ | extract_lets | dsimp +zetaDelta only

theorem offWave_kept {μ : Mark} {s : State} (hk : Kept μ s) : Kept μ (offWave s) := by
  unfold offWave
  repeat' first | (with_reducible first | assumption | apply Kept.ident | apply Kept.each | apply Kept.updBring | apply regionOff_kept | apply Kept.ite) | split | intro _ | extract_lets | dsimp +zetaDelta only

theorem execPowerWave_kept {μ : Mark} {s : State} (hk : Kept μ s) : KeptNext μ (execPowerWave s) := by
  unfold execPowerWave
  repeat' first | (with_reducible first | assumption | apply Kept.ident | apply KeptNext.next | exact KeptNext.fault | exact KeptNext.refused | apply KeptNext.ite | apply nextWave_kept | apply offWave_kept | apply Kept.ite) | split | intro _ | extract_lets | dsimp +zetaDelta only

theorem trainLink_kept {μ : Mark} {found : List ℕ} {s : State} {unit : ℕ} {bundle : ℕ} (hk : Kept μ s) : Kept μ (trainLink found s unit bundle) := by
  unfold trainLink
  repeat' first | (with_reducible first | assumption | apply Kept.ident | apply Kept.updBring | apply appendDefect_kept | apply Kept.ite) | split | intro _ | extract_lets | dsimp +zetaDelta only

theorem failCore_kept {μ : Mark} {s : State} {k : ℕ} {cause : ℕ} (hk : Kept μ s) : Kept μ (failCore s k cause) := by
  unfold failCore
  repeat' first | (with_reducible first | assumption | apply Kept.ident | apply Kept.updBring | apply Kept.updCore | apply appendDefect_kept | apply Kept.ite) | split | intro _ | extract_lets | dsimp +zetaDelta only

theorem takeFinding_kept {μ : Mark} {s : State} {f : Finding} (hk : Kept μ s) : Kept μ (takeFinding s f) := by
  unfold takeFinding
  repeat' first | (with_reducible first | assumption | apply Kept.ident | apply appendDefect_kept | apply Kept.updRegion | apply Kept.updBring | apply failCore_kept | apply cutDie_kept | apply Kept.ite) | split | intro _ | extract_lets | dsimp +zetaDelta only

theorem judgeRegions_kept {μ : Mark} {s : State} {rs : List ℕ} (hk : Kept μ s) : Kept μ (judgeRegions s rs) := by
  unfold judgeRegions
  repeat' first | (with_reducible first | assumption | apply Kept.ident | apply Kept.each | apply fenceRegion_kept | apply cutDie_kept | apply Kept.ite) | split | intro _ | extract_lets | dsimp +zetaDelta only

theorem testsComplete_kept {μ : Mark} {res : List Finding} {s : State} (hk : Kept μ s) : Kept μ (testsComplete res s) := by
  unfold testsComplete
  repeat' first | (with_reducible first | assumption | apply Kept.ident | apply Kept.each | apply trainLink_kept | apply Kept.updRegion | apply takeFinding_kept | apply Kept.updCore | apply judgeRegions_kept | apply Kept.ite) | split | intro _ | extract_lets | dsimp +zetaDelta only

theorem execStarttest_kept {μ : Mark} {p : PortId} {res : List Finding} {s : State} (hk : Kept μ s) : KeptNext μ (execStarttest p res s) := by
  unfold execStarttest
  repeat' first | (with_reducible first | assumption | apply Kept.ident | apply KeptNext.next | exact KeptNext.fault | exact KeptNext.refused | apply KeptNext.ite | apply takeStep_kept | apply Kept.updBring | apply Kept.ite) | split | intro _ | extract_lets | dsimp +zetaDelta only

theorem execCoreTestTimeout_kept {μ : Mark} {k : PCore} {s : State} (hk : Kept μ s) : KeptNext μ (execCoreTestTimeout k s) := by
  unfold execCoreTestTimeout
  repeat' first | (with_reducible first | assumption | apply Kept.ident | apply KeptNext.next | exact KeptNext.fault | exact KeptNext.refused | apply KeptNext.ite | apply Kept.updBring | apply Kept.ite) | split | intro _ | extract_lets | dsimp +zetaDelta only

theorem provisional_kept {μ : Mark} {s : State} (hk : Kept μ s) : Kept μ (provisional s) := by
  unfold provisional
  repeat' first | (with_reducible first | assumption | apply Kept.ident | apply Kept.each | apply Kept.updColMap | apply Kept.ite) | split | intro _ | extract_lets | dsimp +zetaDelta only

theorem meshPasses_kept {μ : Mark} {n : ℕ} {s : State} (h : Kept μ s) : Kept μ (meshPasses n s) := by
  induction n generalizing s with
  | zero => exact h
  | succ n ih =>
    unfold meshPasses
    repeat' first | (with_reducible first | assumption | apply ih | apply Kept.each | apply cutDie_kept | apply Kept.ite)  | split | intro _ | extract_lets | dsimp +zetaDelta only

theorem meshCompletes_kept {μ : Mark} {lanes : List Byte} {channels : List (SiteId × Fin 4)} {s : State} (hk : Kept μ s) : Kept μ (meshCompletes lanes channels s) := by
  unfold meshCompletes
  repeat' first | (with_reducible first | assumption | apply Kept.ident | apply Kept.updBring | apply meshPasses_kept | apply Kept.each | apply Kept.updFport | apply Kept.foldl | apply Kept.foldlFst | apply Kept.ite) | split | intro _ | extract_lets | dsimp +zetaDelta only

theorem execMesh_kept {μ : Mark} {p : PortId} {training : MeshTraining} {s : State} (hk : Kept μ s) : KeptNext μ (execMesh p training s) := by
  unfold execMesh
  repeat' first | (with_reducible first | assumption | apply Kept.ident | apply KeptNext.next | exact KeptNext.fault | exact KeptNext.refused | apply KeptNext.ite | apply takeStep_kept | apply Kept.updBring | apply Kept.ite) | split | intro _ | extract_lets | dsimp +zetaDelta only

theorem execLoad_kept {μ : Mark} {p : PortId} {s : State} (hk : Kept μ s) : KeptNext μ (execLoad p s) := by
  unfold execLoad
  repeat' first | (with_reducible first | assumption | apply Kept.ident | apply KeptNext.next | exact KeptNext.fault | exact KeptNext.refused | apply KeptNext.ite | apply takeStep_kept | apply beginLoad_kept | apply nextWave_kept | apply Kept.ite) | split | intro _ | extract_lets | dsimp +zetaDelta only

theorem execReady_kept {μ : Mark} {p : PortId} {s : State} (hk : Kept μ s) : KeptNext μ (execReady p s) := by
  unfold execReady
  repeat' first | (with_reducible first | assumption | apply Kept.ident | apply KeptNext.next | exact KeptNext.fault | exact KeptNext.refused | apply KeptNext.ite | apply takeStep_kept | apply Kept.updCmd | apply Kept.updBring | apply Kept.ite) | split | intro _ | extract_lets | dsimp +zetaDelta only

theorem execRestart_kept {μ : Mark} {p : PortId} {s : State} (hk : Kept μ s) : KeptNext μ (execRestart p s) := by
  unfold execRestart
  repeat' first | (with_reducible first | assumption | apply Kept.ident | apply KeptNext.next | exact KeptNext.fault | exact KeptNext.refused | apply KeptNext.ite | apply Kept.updBring | apply restartPanel_kept | apply Kept.ite) | split | intro _ | extract_lets | dsimp +zetaDelta only

theorem undoStep_kept {μ : Mark} {n : ℕ} {s : State} (hk : Kept μ s) : Kept μ (undoStep n s) := by
  unfold undoStep
  split
  · exact unpowerSites_kept hk
  · exact hk.updStroke
  · exact Kept.raw hk rfl rfl rfl (Nat.le_refl _) (Nat.le_refl _) (fun c => { c with stackTab := rfl, slices := rfl })
  · exact hk

theorem stepCompletes_kept {μ : Mark} {n : ℕ} {ce : List (PartId × ℕ)} {ue : List (PartId × ℕ)} {s : State} (hk : Kept μ s) : Kept μ (stepCompletes n ce ue s) := by
  unfold stepCompletes
  repeat' first | (with_reducible first | assumption | apply Kept.ident | apply hubCompletes_kept | apply authCompletes_kept | apply testsComplete_kept | apply meshCompletes_kept | apply endLoad_kept | apply Kept.ite) | split | intro _ | extract_lets | dsimp +zetaDelta only

theorem restartCompletes_kept {μ : Mark} {s : State} (hk : Kept μ s) : Kept μ (restartCompletes s) :=
  Kept.raw hk rfl rfl rfl (Nat.le_refl _) (Nat.le_refl _) (fun c => { c with regions := rfl })

theorem execStepComplete_kept {μ : Mark} {ce : List (PartId × ℕ)} {ue : List (PartId × ℕ)} {s : State} (hk : Kept μ s) : KeptNext μ (execStepComplete ce ue s) := by
  unfold execStepComplete
  repeat' first | (with_reducible first | assumption | apply Kept.ident | apply KeptNext.next | exact KeptNext.fault | exact KeptNext.refused | apply KeptNext.ite | apply raiseAll_kept | apply restartCompletes_kept | apply Kept.updBring | apply undoStep_kept | apply stepCompletes_kept | apply Kept.ite) | split | intro _ | extract_lets | dsimp +zetaDelta only

theorem execRecoveryGo_kept {μ : Mark} {p : PortId} {s : State} (hk : Kept μ s) : KeptNext μ (execRecoveryGo p s) := by
  unfold execRecoveryGo
  repeat' first | (with_reducible first | assumption | apply Kept.ident | apply KeptNext.next | exact KeptNext.fault | exact KeptNext.refused | apply KeptNext.ite | apply Kept.emit | apply Kept.updBring | apply Kept.ite) | split | intro _ | extract_lets | dsimp +zetaDelta only

theorem execRecoveryFetchDone_kept {μ : Mark} {img : Option Image} {s : State} (hk : Kept μ s) : KeptNext μ (execRecoveryFetchDone img s) := by
  unfold execRecoveryFetchDone
  repeat' first | (with_reducible first | assumption | apply Kept.ident | apply KeptNext.next | exact KeptNext.fault | exact KeptNext.refused | apply KeptNext.ite | apply Kept.updBring | apply Kept.ite) | split | intro _ | extract_lets | dsimp +zetaDelta only

theorem execRecoveryWriteDone_kept {μ : Mark} {s : State} (hk : Kept μ s) : KeptNext μ (execRecoveryWriteDone s) := by
  unfold execRecoveryWriteDone
  repeat' first | (with_reducible first | assumption | apply Kept.ident | apply KeptNext.next | exact KeptNext.fault | exact KeptNext.refused | apply KeptNext.ite | apply bootHubs_kept | apply Kept.updSec | apply Kept.ite) | exact Nat.le_refl _ | exact Nat.le_max_left _ _ | split | intro _ | extract_lets | dsimp +zetaDelta only

end Sys2Proof.Machine
end

