-- ==== Sys2Proof/Laws/KeptHost.lean ====
section
/-!
SUPPORT. What Kept says, kept by the host's registers, the command ring and the fabric ports: one lemma for each operation and for each row.
-/
set_option linter.unreachableTactic false
set_option linter.unusedTactic false
set_option linter.unusedVariables false
namespace Sys2Proof.Machine

/-! ## HubPage -/

theorem clearRc_kept {μ : Mark} {s : State} {p : ℕ} {off : ℕ} {mask : W32} (hk : Kept μ s) : Kept μ (clearRc s p off mask) := by
  unfold clearRc
  repeat' first | (with_reducible first | assumption | apply Kept.ident | apply Kept.updHub | apply Kept.ite) | split | intro _ | extract_lets | dsimp +zetaDelta only

theorem shadowLo_kept {μ : Mark} {s : State} {p : ℕ} {off : ℕ} {v : ℕ} (hk : Kept μ s) : Kept μ (shadowLo s p off v) := by
  unfold shadowLo
  repeat' first | (with_reducible first | assumption | apply Kept.ident | apply Kept.updHub | apply Kept.ite) | split | intro _ | extract_lets | dsimp +zetaDelta only

theorem writeLay_kept {μ : Mark} {s : State} {p : ℕ} {off : ℕ} {v : ℕ} (hk : Kept μ s) : Kept μ (writeLay s p off v) := by
  unfold writeLay
  repeat' first | (with_reducible first | assumption | apply Kept.ident | apply shadowLo_kept | apply Kept.updHub | apply Kept.updLay | apply Kept.updFab | apply Kept.ite) | split | intro _ | extract_lets | dsimp +zetaDelta only

theorem writeCmd_kept {μ : Mark} {s : State} {p : ℕ} {off : ℕ} {v : ℕ} (hk : Kept μ s) : Kept μ (writeCmd s p off v) := by
  unfold writeCmd
  repeat' first | (with_reducible first | assumption | apply Kept.ident | apply shadowLo_kept | apply Kept.updCmd | apply Kept.updHub | apply Kept.ite) | split | intro _ | extract_lets | dsimp +zetaDelta only

theorem writePanel_kept {μ : Mark} {s : State} {p : ℕ} {off : ℕ} {v : ℕ} (hk : Kept μ s) : Kept μ (writePanel s p off v) := by
  unfold writePanel
  repeat' first | (with_reducible first | assumption | apply Kept.ident | apply Kept.updHub | apply Kept.updStroke | apply shadowLo_kept | apply Kept.ite) | split | intro _ | extract_lets | dsimp +zetaDelta only

theorem writePort_kept {μ : Mark} {s : State} {p : ℕ} {off : ℕ} {v : ℕ} (hk : Kept μ s) : Kept μ (writePort s p off v) := by
  unfold writePort
  repeat' first | (with_reducible first | assumption | apply Kept.ident | apply Kept.updFport | apply portQuit_kept | apply portClose_kept | apply State.updWindow_kept | apply advertise_kept | apply Kept.ite) | split | intro _ | extract_lets | dsimp +zetaDelta only

theorem writeBez_kept {μ : Mark} {s : State} {p : ℕ} {off : ℕ} {v : ℕ} (hk : Kept μ s) : Kept μ (writeBez s p off v) := by
  unfold writeBez
  repeat' first | (with_reducible first | assumption | apply Kept.ident | apply Kept.updBezel | apply shadowLo_kept | apply Kept.ite) | split | intro _ | extract_lets | dsimp +zetaDelta only

theorem writeSec_kept {μ : Mark} {s : State} {p : ℕ} {off : ℕ} {v : ℕ} (hk : Kept μ s) : Kept μ (writeSec s p off v) := by
  unfold writeSec
  repeat' first | (with_reducible first | assumption | apply Kept.ident | apply shadowLo_kept | apply Kept.updSecPort | apply Kept.emit | apply Kept.ite) | split | intro _ | extract_lets | dsimp +zetaDelta only

theorem writeMsix_kept {μ : Mark} {s : State} {p : ℕ} {off : ℕ} {v : ℕ} (hk : Kept μ s) : Kept μ (writeMsix s p off v) := by
  unfold writeMsix
  repeat' first | (with_reducible first | assumption | apply Kept.ident | apply Kept.updHub | apply msixSend_kept | apply Kept.ite) | split | intro _ | extract_lets | dsimp +zetaDelta only

theorem writeReg_kept {μ : Mark} {s : State} {p : ℕ} {off : ℕ} {v : ℕ} (hk : Kept μ s) : Kept μ (writeReg s p off v) := by
  unfold writeReg
  repeat' first | (with_reducible first | assumption | apply Kept.ident | apply Kept.updHub | apply writePanel_kept | apply writeLay_kept | apply writeCmd_kept | apply writePort_kept | apply writeSec_kept | apply writeBez_kept | apply writeMsix_kept | apply Kept.ite) | split | intro _ | extract_lets | dsimp +zetaDelta only

/-! ## Ports -/

theorem takeReturns_kept {μ : Mark} {s : State} {f : ℕ} {fr : Frame} (hk : Kept μ s) : Kept μ (takeReturns s f fr) := by
  unfold takeReturns
  repeat' first | (with_reducible first | assumption | apply Kept.ident | apply Kept.updFport | apply putFrame_kept | apply pumpPort_kept | apply Kept.foldl | apply Kept.foldlFst | apply Kept.ite) | split | intro _ | extract_lets | dsimp +zetaDelta only

theorem linkLayer_kept {μ : Mark} {s : State} {f : ℕ} {fr : Frame} (hk : Kept μ s) : Kept μ (linkLayer s f fr).1 := by
  unfold linkLayer
  repeat' first | (with_reducible first | assumption | apply Kept.ident | apply portNak_kept | apply Kept.updFport | apply portTagFail_kept | apply takeReturns_kept | apply Kept.iteFst | apply Kept.ite) | split | intro _ | extract_lets | dsimp +zetaDelta only

theorem firewall_kept {μ : Mark} {s : State} {f : ℕ} {fr : Frame} (hk : Kept μ s) : Kept μ (firewall s f fr).1 := by
  unfold firewall
  repeat' first | (with_reducible first | assumption | apply Kept.ident | apply portMalformed_kept | apply Kept.updFport | apply Kept.iteFst | apply Kept.ite) | split | intro _ | extract_lets | dsimp +zetaDelta only

theorem onFrame_kept {μ : Mark} {s : State} {f : ℕ} {fr : Frame} {mine : Bool} {take : State → State} (hk : Kept μ s) (htake : ∀ s, Kept μ s → Kept μ (take s)) : Kept μ (onFrame s f fr mine take) := by
  unfold onFrame
  repeat' first | (with_reducible first | assumption | apply Kept.ident | apply linkLayer_kept | apply firewall_kept | apply htake | apply Kept.ite) | split | intro _ | extract_lets | dsimp +zetaDelta only

theorem ifFresh_kept {μ : Mark} {s : State} {f : ℕ} {fr : Frame} {take : State → State} (hk : Kept μ s) (htake : ∀ s, Kept μ s → Kept μ (take s)) : Kept μ (ifFresh s f fr take) := by
  unfold ifFresh
  repeat' first | (with_reducible first | assumption | apply Kept.ident | apply Kept.updFport | apply htake | apply Kept.ite) | split | intro _ | extract_lets | dsimp +zetaDelta only

theorem deliverIn_kept {μ : Mark} {s : State} {f : ℕ} {r : StreamRec} {coll : Bool} {void : Bool} {bytes : List Byte} (hk : Kept μ s) : Kept μ (deliverIn s f r coll void bytes) := by
  unfold deliverIn
  repeat' first | (with_reducible first | assumption | apply Kept.ident | apply Kept.each | apply Kept.send | apply Kept.ite) | split | intro _ | extract_lets | dsimp +zetaDelta only

theorem State.setAsm_kept {μ : Mark} {s : State} {f : ℕ} {ch : ℕ} {a : Assembly} (hk : Kept μ s) : Kept μ (State.setAsm s f ch a) := by
  unfold State.setAsm
  repeat' first | (with_reducible first | assumption | apply Kept.ident | apply Kept.updFport | apply Kept.ite) | split | intro _ | extract_lets | dsimp +zetaDelta only

theorem takeSegment_kept {μ : Mark} {s : State} {f : ℕ} {r : StreamRec} {ch : ℕ} {fr : Frame} (hk : Kept μ s) : Kept μ (takeSegment s f r ch fr) := by
  unfold takeSegment
  repeat' first | (with_reducible first | assumption | apply Kept.ident | apply portMalformed_kept | apply Kept.updFport | apply deliverIn_kept | apply State.setAsm_kept | apply unitFault_kept | apply Kept.ite) | split | intro _ | extract_lets | dsimp +zetaDelta only

theorem takeWindow_kept {μ : Mark} {s : State} {f : ℕ} {w : ℕ} {fr : Frame} (hk : Kept μ s) : Kept μ (takeWindow s f w fr) := by
  unfold takeWindow
  repeat' first | (with_reducible first | assumption | apply Kept.ident | apply advertise_kept | apply ingest_kept | apply State.setAsm_kept | apply portMalformed_kept | apply State.updWindow_kept | apply Kept.ite) | split | intro _ | extract_lets | dsimp +zetaDelta only

theorem execData_kept {μ : Mark} {f : FpId} {fr : Frame} {s : State} (hk : Kept μ s) : KeptNext μ (execData f fr s) := by
  unfold execData
  repeat' first | (with_reducible first | assumption | apply Kept.ident | apply KeptNext.next | exact KeptNext.fault | exact KeptNext.refused | apply KeptNext.ite | apply onFrame_kept | apply ifFresh_kept | apply portMalformed_kept | apply takeWindow_kept | apply takeSegment_kept | apply Kept.ite) | split | intro _ | extract_lets | dsimp +zetaDelta only

theorem execScredit_kept {μ : Mark} {f : FpId} {fr : Frame} {s : State} (hk : Kept μ s) : KeptNext μ (execScredit f fr s) := by
  unfold execScredit
  repeat' first | (with_reducible first | assumption | apply Kept.ident | apply KeptNext.next | exact KeptNext.fault | exact KeptNext.refused | apply KeptNext.ite | apply onFrame_kept | apply ifFresh_kept | apply portMalformed_kept | apply Kept.send | apply Kept.ite) | split | intro _ | extract_lets | dsimp +zetaDelta only

theorem execWcredit_kept {μ : Mark} {f : FpId} {fr : Frame} {s : State} (hk : Kept μ s) : KeptNext μ (execWcredit f fr s) := by
  unfold execWcredit
  repeat' first | (with_reducible first | assumption | apply Kept.ident | apply KeptNext.next | exact KeptNext.fault | exact KeptNext.refused | apply KeptNext.ite | apply onFrame_kept | apply ifFresh_kept | apply portMalformed_kept | apply Kept.updFport | apply Kept.ite) | split | intro _ | extract_lets | dsimp +zetaDelta only

theorem voidCredits_kept {μ : Mark} {s : State} {f : ℕ} (hk : Kept μ s) : Kept μ (voidCredits s f) := by
  unfold voidCredits
  repeat' first | (with_reducible first | assumption | apply Kept.ident | apply Kept.each | apply Kept.updCore | apply Kept.setNet | apply Kept.updFport | apply Kept.ite) | split | intro _ | extract_lets | dsimp +zetaDelta only

theorem execChreset_kept {μ : Mark} {f : FpId} {fr : Frame} {s : State} (hk : Kept μ s) : KeptNext μ (execChreset f fr s) := by
  unfold execChreset
  repeat' first | (with_reducible first | assumption | apply Kept.ident | apply KeptNext.next | exact KeptNext.fault | exact KeptNext.refused | apply KeptNext.ite | apply onFrame_kept | apply voidCredits_kept | apply pumpPort_kept | apply Kept.updFport | apply Kept.ite) | split | intro _ | extract_lets | dsimp +zetaDelta only

theorem execPublish_kept {μ : Mark} {f : FpId} {fr : Frame} {s : State} (hk : Kept μ s) : KeptNext μ (execPublish f fr s) := by
  unfold execPublish
  repeat' first | (with_reducible first | assumption | apply Kept.ident | apply KeptNext.next | exact KeptNext.fault | exact KeptNext.refused | apply KeptNext.ite | apply onFrame_kept | apply Kept.updHub | apply Kept.ite) | split | intro _ | extract_lets | dsimp +zetaDelta only

theorem execIdle_kept {μ : Mark} {f : FpId} {fr : Frame} {s : State} (hk : Kept μ s) : KeptNext μ (execIdle f fr s) := by
  unfold execIdle
  repeat' first | (with_reducible first | assumption | apply Kept.ident | apply KeptNext.next | exact KeptNext.fault | exact KeptNext.refused | apply KeptNext.ite | apply onFrame_kept | apply Kept.ite) | split | intro _ | extract_lets | dsimp +zetaDelta only

theorem execQuit_kept {μ : Mark} {f : FpId} {fr : Frame} {s : State} (hk : Kept μ s) : KeptNext μ (execQuit f fr s) := by
  unfold execQuit
  repeat' first | (with_reducible first | assumption | apply Kept.ident | apply KeptNext.next | exact KeptNext.fault | exact KeptNext.refused | apply KeptNext.ite | apply portClose_kept | apply onFrame_kept | apply portGoDown_kept | apply Kept.ite) | split | intro _ | extract_lets | dsimp +zetaDelta only

theorem sendEk_kept {μ : Mark} {s : State} {f : ℕ} (hk : Kept μ s) : Kept μ (sendEk s f) := by
  unfold sendEk
  repeat' first | (with_reducible first | assumption | apply Kept.ident | apply sendTalk_kept | apply Kept.updFport | apply Kept.draw | apply Kept.ite) | split | intro _ | extract_lets | dsimp +zetaDelta only

theorem maybeFinish_kept {μ : Mark} {s : State} {f : ℕ} (hk : Kept μ s) : Kept μ (maybeFinish s f) := by
  unfold maybeFinish
  repeat' first | (with_reducible first | assumption | apply Kept.ident | apply sendTalk_kept | apply Kept.updFport | apply Kept.draw | apply Kept.ite) | split | intro _ | extract_lets | dsimp +zetaDelta only

theorem execPortPcsLock_kept {μ : Mark} {f : FpId} {width4 : Bool} {s : State} (hk : Kept μ s) : KeptNext μ (execPortPcsLock f width4 s) := by
  unfold execPortPcsLock
  repeat' first | (with_reducible first | assumption | apply Kept.ident | apply KeptNext.next | exact KeptNext.fault | exact KeptNext.refused | apply KeptNext.ite | apply sendTalk_kept | apply portNotice_kept | apply Kept.updFport | apply Kept.ite) | split | intro _ | extract_lets | dsimp +zetaDelta only

theorem sendChain_kept {μ : Mark} {s : State} {f : ℕ} (hk : Kept μ s) : Kept μ (sendChain s f) := by
  unfold sendChain
  repeat' first | (with_reducible first | assumption | apply Kept.ident | apply sendTalk_kept | apply Kept.updFport | apply Kept.ite) | split | intro _ | extract_lets | dsimp +zetaDelta only

theorem execHello_kept {μ : Mark} {f : FpId} {fr : Frame} {s : State} (hk : Kept μ s) : KeptNext μ (execHello f fr s) := by
  unfold execHello
  repeat' first | (with_reducible first | assumption | apply Kept.ident | apply KeptNext.next | exact KeptNext.fault | exact KeptNext.refused | apply KeptNext.ite | apply portClose_kept | apply portRecord_kept | apply sendPlain_kept | apply sendChain_kept | apply Kept.updFport | apply Kept.ite) | split | intro _ | extract_lets | dsimp +zetaDelta only

theorem joinRekey_kept {μ : Mark} {s : State} {f : ℕ} {fr : Frame} (hk : Kept μ s) : Kept μ (joinRekey s f fr) := by
  unfold joinRekey
  repeat' first | (with_reducible first | assumption | apply Kept.ident | apply sendChain_kept | apply Kept.updFport | apply Kept.ite) | split | intro _ | extract_lets | dsimp +zetaDelta only

theorem execCert_kept {μ : Mark} {f : FpId} {fr : Frame} {s0 : State} (hk : Kept μ s0) : KeptNext μ (execCert f fr s0) := by
  unfold execCert
  repeat' first | (with_reducible first | assumption | apply Kept.ident | apply KeptNext.next | exact KeptNext.fault | exact KeptNext.refused | apply KeptNext.ite | apply joinRekey_kept | apply Kept.updFport | apply sendEk_kept | apply portHandshakeFail_kept | apply Kept.ite) | split | intro _ | extract_lets | dsimp +zetaDelta only

theorem execKemEk_kept {μ : Mark} {f : FpId} {fr : Frame} {s : State} (hk : Kept μ s) : KeptNext μ (execKemEk f fr s) := by
  unfold execKemEk
  repeat' first | (with_reducible first | assumption | apply Kept.ident | apply KeptNext.next | exact KeptNext.fault | exact KeptNext.refused | apply KeptNext.ite | apply Kept.updFport | apply Kept.draw | apply maybeFinish_kept | apply sendTalk_kept | apply Kept.ite) | split | intro _ | extract_lets | dsimp +zetaDelta only

theorem execKemCt_kept {μ : Mark} {f : FpId} {fr : Frame} {s : State} (hk : Kept μ s) : KeptNext μ (execKemCt f fr s) := by
  unfold execKemCt
  repeat' first | (with_reducible first | assumption | apply Kept.ident | apply KeptNext.next | exact KeptNext.fault | exact KeptNext.refused | apply KeptNext.ite | apply maybeFinish_kept | apply Kept.updFport | apply Kept.ite) | split | intro _ | extract_lets | dsimp +zetaDelta only

theorem switchKeys_kept {μ : Mark} {s : State} {f : ℕ} {keys : List Byte} (hk : Kept μ s) : Kept μ (switchKeys s f keys) := by
  unfold switchKeys
  repeat' first | (with_reducible first | assumption | apply Kept.ident | apply pumpPort_kept | apply portRecord_kept | apply Kept.updFport | apply Kept.ite) | split | intro _ | extract_lets | dsimp +zetaDelta only

theorem comeUp_kept {μ : Mark} {s : State} {f : ℕ} (hk : Kept μ s) : Kept μ (comeUp s f) := by
  unfold comeUp
  repeat' first | (with_reducible first | assumption | apply Kept.ident | apply Kept.updFport | apply portNotice_kept | apply portRecord_kept | apply announce_kept | apply sendPlain_kept | apply Kept.ite) | split | intro _ | extract_lets | dsimp +zetaDelta only

theorem execFinish_kept {μ : Mark} {f : FpId} {fr : Frame} {s : State} (hk : Kept μ s) : KeptNext μ (execFinish f fr s) := by
  unfold execFinish
  repeat' first | (with_reducible first | assumption | apply Kept.ident | apply KeptNext.next | exact KeptNext.fault | exact KeptNext.refused | apply KeptNext.ite | apply switchKeys_kept | apply comeUp_kept | apply portHandshakeFail_kept | apply Kept.ite) | split | intro _ | extract_lets | dsimp +zetaDelta only

theorem startRekey_kept {μ : Mark} {s : State} {f : ℕ} (hk : Kept μ s) : Kept μ (startRekey s f) := by
  unfold startRekey
  repeat' first | (with_reducible first | assumption | apply Kept.ident | apply sendChain_kept | apply Kept.updFport | apply sendPlain_kept | apply Kept.draw | apply Kept.ite) | split | intro _ | extract_lets | dsimp +zetaDelta only

theorem execKeyUpdate_kept {μ : Mark} {f : FpId} {fr : Frame} {s : State} (hk : Kept μ s) : KeptNext μ (execKeyUpdate f fr s) := by
  unfold execKeyUpdate
  repeat' first | (with_reducible first | assumption | apply Kept.ident | apply KeptNext.next | exact KeptNext.fault | exact KeptNext.refused | apply KeptNext.ite | apply onFrame_kept | apply switchKeys_kept | apply sendPlain_kept | apply Kept.draw | apply Kept.ite) | split | intro _ | extract_lets | dsimp +zetaDelta only

theorem execRekeyTimer_kept {μ : Mark} {f : FpId} {s : State} (hk : Kept μ s) : KeptNext μ (execRekeyTimer f s) := by
  unfold execRekeyTimer
  repeat' first | (with_reducible first | assumption | apply Kept.ident | apply KeptNext.next | exact KeptNext.fault | exact KeptNext.refused | apply KeptNext.ite | apply startRekey_kept | apply Kept.ite) | split | intro _ | extract_lets | dsimp +zetaDelta only

theorem execPortRekey_kept {μ : Mark} {p : PortId} {f : FpId} {s : State} (hk : Kept μ s) : KeptNext μ (execPortRekey p f s) := by
  unfold execPortRekey
  repeat' first | (with_reducible first | assumption | apply Kept.ident | apply KeptNext.next | exact KeptNext.fault | exact KeptNext.refused | apply KeptNext.ite | apply startRekey_kept | apply Kept.updFport | apply Kept.ite) | split | intro _ | extract_lets | dsimp +zetaDelta only

theorem execPortRetrainStart_kept {μ : Mark} {f : FpId} {s : State} (hk : Kept μ s) : KeptNext μ (execPortRetrainStart f s) := by
  unfold execPortRetrainStart
  repeat' first | (with_reducible first | assumption | apply Kept.ident | apply KeptNext.next | exact KeptNext.fault | exact KeptNext.refused | apply KeptNext.ite | apply portNotice_kept | apply Kept.updFport | apply Kept.ite) | split | intro _ | extract_lets | dsimp +zetaDelta only

theorem execPortRetrainDone_kept {μ : Mark} {f : FpId} {lanes : Byte} {s : State} (hk : Kept μ s) : KeptNext μ (execPortRetrainDone f lanes s) := by
  unfold execPortRetrainDone
  repeat' first | (with_reducible first | assumption | apply Kept.ident | apply KeptNext.next | exact KeptNext.fault | exact KeptNext.refused | apply KeptNext.ite | apply Kept.updFport | apply portNotice_kept | apply portRecord_kept | apply startRekey_kept | apply pumpPort_kept | apply Kept.ite) | split | intro _ | extract_lets | dsimp +zetaDelta only

theorem execPortRetrainTimeout_kept {μ : Mark} {f : FpId} {s : State} (hk : Kept μ s) : KeptNext μ (execPortRetrainTimeout f s) := by
  unfold execPortRetrainTimeout
  repeat' first | (with_reducible first | assumption | apply Kept.ident | apply KeptNext.next | exact KeptNext.fault | exact KeptNext.refused | apply KeptNext.ite | apply portGoDown_kept | apply Kept.ite) | split | intro _ | extract_lets | dsimp +zetaDelta only

theorem execPortSilence_kept {μ : Mark} {f : FpId} {s : State} (hk : Kept μ s) : KeptNext μ (execPortSilence f s) := by
  unfold execPortSilence
  repeat' first | (with_reducible first | assumption | apply Kept.ident | apply KeptNext.next | exact KeptNext.fault | exact KeptNext.refused | apply KeptNext.ite | apply portGoDown_kept | apply Kept.ite) | split | intro _ | extract_lets | dsimp +zetaDelta only

theorem execPortIdleTimer_kept {μ : Mark} {f : FpId} {s : State} (hk : Kept μ s) : KeptNext μ (execPortIdleTimer f s) := by
  unfold execPortIdleTimer
  repeat' first | (with_reducible first | assumption | apply Kept.ident | apply KeptNext.next | exact KeptNext.fault | exact KeptNext.refused | apply KeptNext.ite | apply sendPlain_kept | apply Kept.ite) | split | intro _ | extract_lets | dsimp +zetaDelta only

theorem trainPort_kept {μ : Mark} {s : State} {f : ℕ} {lanes : Byte} (hk : Kept μ s) : Kept μ (trainPort s f lanes) := by
  unfold trainPort
  repeat' first | (with_reducible first | assumption | apply Kept.ident | apply portNotice_kept | apply Kept.updFport | apply Kept.ite) | split | intro _ | extract_lets | dsimp +zetaDelta only

theorem execPortTrainRetry_kept {μ : Mark} {f : FpId} {lanes : Byte} {s : State} (hk : Kept μ s) : KeptNext μ (execPortTrainRetry f lanes s) := by
  unfold execPortTrainRetry
  repeat' first | (with_reducible first | assumption | apply Kept.ident | apply KeptNext.next | exact KeptNext.fault | exact KeptNext.refused | apply KeptNext.ite | apply trainPort_kept | apply Kept.ite) | split | intro _ | extract_lets | dsimp +zetaDelta only

theorem execPortDown_kept {μ : Mark} {p : PortId} {f : FpId} {s : State} (hk : Kept μ s) : KeptNext μ (execPortDown p f s) := by
  unfold execPortDown
  repeat' first | (with_reducible first | assumption | apply Kept.ident | apply KeptNext.next | exact KeptNext.fault | exact KeptNext.refused | apply KeptNext.ite | apply portQuit_kept | apply portClose_kept | apply sendPlain_kept | apply Kept.ite) | split | intro _ | extract_lets | dsimp +zetaDelta only

theorem execPortRearm_kept {μ : Mark} {p : PortId} {f : FpId} {lanes : Byte} {s : State} (hk : Kept μ s) : KeptNext μ (execPortRearm p f lanes s) := by
  unfold execPortRearm
  repeat' first | (with_reducible first | assumption | apply Kept.ident | apply KeptNext.next | exact KeptNext.fault | exact KeptNext.refused | apply KeptNext.ite | apply trainPort_kept | apply portNotice_kept | apply Kept.updFport | apply Kept.ite) | split | intro _ | extract_lets | dsimp +zetaDelta only

theorem sendMessage_kept {μ : Mark} {s : State} {f : ℕ} {ch : ℕ} {void : Bool} {bytes : List Byte} (hk : Kept μ s) : Kept μ (sendMessage s f ch void bytes) := by
  unfold sendMessage
  repeat' first | (with_reducible first | assumption | apply Kept.ident | apply queueFrame_kept | apply Kept.each | apply Kept.ite) | split | intro _ | extract_lets | dsimp +zetaDelta only

theorem enqueuePiece_kept {μ : Mark} {s : State} {f : ℕ} {p : Packet} (hk : Kept μ s) : Kept μ (enqueuePiece s f p) := by
  unfold enqueuePiece
  repeat' first | (with_reducible first | assumption | apply Kept.ident | apply Kept.send | apply sendMessage_kept | apply Kept.updFport | apply Kept.ite) | split | intro _ | extract_lets | dsimp +zetaDelta only

theorem execPortMsgEnqueue_kept {μ : Mark} {i : ℕ} {s : State} (hk : Kept μ s) : KeptNext μ (execPortMsgEnqueue i s) := by
  unfold execPortMsgEnqueue
  repeat' first | (with_reducible first | assumption | apply Kept.ident | apply KeptNext.next | exact KeptNext.fault | exact KeptNext.refused | apply KeptNext.ite | apply enqueuePiece_kept | apply State.takePacket_kept | apply Kept.ite) | split | intro _ | extract_lets | dsimp +zetaDelta only

theorem execWindowCommit_kept {μ : Mark} {f : FpId} {w : Fin 16} {s : State} (hk : Kept μ s) : KeptNext μ (execWindowCommit f w s) := by
  unfold execWindowCommit
  repeat' first | (with_reducible first | assumption | apply Kept.ident | apply KeptNext.next | exact KeptNext.fault | exact KeptNext.refused | apply KeptNext.ite | apply State.updWindow_kept | apply portNotice_kept | apply Kept.ite) | split | intro _ | extract_lets | dsimp +zetaDelta only

theorem execWinRdWrite_kept {μ : Mark} {p : PortId} {f : FpId} {w : Fin 16} {data : W32} {s : State} (hk : Kept μ s) : KeptNext μ (execWinRdWrite p f w data s) := by
  unfold execWinRdWrite
  repeat' first | (with_reducible first | assumption | apply Kept.ident | apply KeptNext.next | exact KeptNext.fault | exact KeptNext.refused | apply KeptNext.ite | apply State.updWindow_kept | apply advertise_kept | apply Kept.ite) | split | intro _ | extract_lets | dsimp +zetaDelta only

/-! ## CmdRing -/

theorem endFetch_kept {μ : Mark} {s : State} {p : ℕ} (hk : Kept μ s) : Kept μ (endFetch s p) := by
  unfold endFetch
  repeat' first | (with_reducible first | assumption | apply Kept.ident | apply Kept.emit | apply Kept.updCmd | apply Kept.ite) | split | intro _ | extract_lets | dsimp +zetaDelta only

theorem readRecords_kept {μ : Mark} {s : State} {p : ℕ} {n : ℕ} (hk : Kept μ s) : Kept μ (readRecords s p n) := by
  unfold readRecords
  repeat' first | (with_reducible first | assumption | apply Kept.ident | apply Kept.emit | apply Kept.ite) | split | intro _ | extract_lets | dsimp +zetaDelta only

theorem execCmdHeaderReadDone_kept {μ : Mark} {p : PortId} {hdr : Option (W32 × W32)} {s : State} (hk : Kept μ s) : KeptNext μ (execCmdHeaderReadDone p hdr s) := by
  unfold execCmdHeaderReadDone
  repeat' first | (with_reducible first | assumption | apply Kept.ident | apply KeptNext.next | exact KeptNext.fault | exact KeptNext.refused | apply KeptNext.ite | apply fetchError_kept | apply Kept.updCmd | apply endFetch_kept | apply readRecords_kept | apply Kept.ite) | split | intro _ | extract_lets | dsimp +zetaDelta only

theorem execCmdRecordsReadDone_kept {μ : Mark} {p : PortId} {recs : Option (List (List Byte))} {s : State} (hk : Kept μ s) : KeptNext μ (execCmdRecordsReadDone p recs s) := by
  unfold execCmdRecordsReadDone
  repeat' first | (with_reducible first | assumption | apply Kept.ident | apply KeptNext.next | exact KeptNext.fault | exact KeptNext.refused | apply KeptNext.ite | apply fetchError_kept | apply Kept.updCmd | apply settleCmds_kept | apply endFetch_kept | apply Kept.ite) | split | intro _ | extract_lets | dsimp +zetaDelta only

theorem startCmd_kept {μ : Mark} {s0 : State} {p : ℕ} {opc : ℕ} {f : State → ℕ → List Byte → State} (hk : Kept μ s0) (hf : ∀ s i r, Kept μ s → Kept μ (f s i r)) : Kept μ (startCmd s0 p opc f) := by
  unfold startCmd
  repeat' first | (with_reducible first | assumption | apply Kept.ident | apply settleCmds_kept | apply hf | apply Kept.ite) | split | intro _ | extract_lets | dsimp +zetaDelta only

theorem execCmdNop_kept {μ : Mark} {p : PortId} {s : State} (hk : Kept μ s) : KeptNext μ (execCmdNop p s) := by
  unfold execCmdNop
  repeat' first | (with_reducible first | assumption | apply Kept.ident | apply KeptNext.next | exact KeptNext.fault | exact KeptNext.refused | apply KeptNext.ite | apply startCmd_kept | apply endCmd_kept | apply popCmd_kept | apply Kept.ite) | split | intro _ | extract_lets | dsimp +zetaDelta only

theorem execCopyIn_kept {μ : Mark} {p : PortId} {s : State} (hk : Kept μ s) : KeptNext μ (execCopyIn p s) := by
  unfold execCopyIn
  repeat' first | (with_reducible first | assumption | apply Kept.ident | apply KeptNext.next | exact KeptNext.fault | exact KeptNext.refused | apply KeptNext.ite | apply startCmd_kept | apply settleCmds_kept | apply Kept.emit | apply popCmd_kept | apply Kept.ite) | split | intro _ | extract_lets | dsimp +zetaDelta only

theorem execCopyOut_kept {μ : Mark} {p : PortId} {s : State} (hk : Kept μ s) : KeptNext μ (execCopyOut p s) := by
  unfold execCopyOut
  repeat' first | (with_reducible first | assumption | apply Kept.ident | apply KeptNext.next | exact KeptNext.fault | exact KeptNext.refused | apply KeptNext.ite | apply startCmd_kept | apply settleCmds_kept | apply popCmd_kept | apply Kept.ite) | split | intro _ | extract_lets | dsimp +zetaDelta only

theorem execCmdSignal_kept {μ : Mark} {p : PortId} {s : State} (hk : Kept μ s) : KeptNext μ (execCmdSignal p s) := by
  unfold execCmdSignal
  repeat' first | (with_reducible first | assumption | apply Kept.ident | apply KeptNext.next | exact KeptNext.fault | exact KeptNext.refused | apply KeptNext.ite | apply startCmd_kept | apply settleCmds_kept | apply hubForward_kept | apply popCmd_kept | apply endCmd_kept | apply Kept.ite) | split | intro _ | extract_lets | dsimp +zetaDelta only

theorem execCmdWait_kept {μ : Mark} {p : PortId} {s : State} (hk : Kept μ s) : KeptNext μ (execCmdWait p s) := by
  unfold execCmdWait
  repeat' first | (with_reducible first | assumption | apply Kept.ident | apply KeptNext.next | exact KeptNext.fault | exact KeptNext.refused | apply KeptNext.ite | apply startCmd_kept | apply popCmd_kept | apply endCmd_kept | apply settleCmds_kept | apply Kept.ite) | split | intro _ | extract_lets | dsimp +zetaDelta only

theorem execCmdEvent_kept {μ : Mark} {p : PortId} {s : State} (hk : Kept μ s) : KeptNext μ (execCmdEvent p s) := by
  unfold execCmdEvent
  repeat' first | (with_reducible first | assumption | apply Kept.ident | apply KeptNext.next | exact KeptNext.fault | exact KeptNext.refused | apply KeptNext.ite | apply startCmd_kept | apply postEvent_kept | apply popCmd_kept | apply endCmd_kept | apply settleCmds_kept | apply Kept.ite) | split | intro _ | extract_lets | dsimp +zetaDelta only

theorem execCmdStroke_kept {μ : Mark} {p : PortId} {s : State} (hk : Kept μ s) : KeptNext μ (execCmdStroke p s) := by
  unfold execCmdStroke
  repeat' first | (with_reducible first | assumption | apply Kept.ident | apply KeptNext.next | exact KeptNext.fault | exact KeptNext.refused | apply KeptNext.ite | apply startCmd_kept | apply popCmd_kept | apply endCmd_kept | apply settleCmds_kept | apply Kept.ite) | split | intro _ | extract_lets | dsimp +zetaDelta only

theorem copyInPiece_kept {μ : Mark} {p a : ℕ} {ce ue : List ℕ} {data : List Byte} {r : CopyRun} {y : Option (ℕ × ℕ) × ℕ × ℕ}
    (hk : Kept μ r.s) : Kept μ (copyInPiece p a ce ue data r y).s := by
  unfold copyInPiece
  repeat' first | (with_reducible first | assumption | apply hbmWrite_kept | apply partialFinds_kept | apply countUe_kept | apply Kept.updStack | apply Kept.ite)  | split | intro _ | extract_lets | dsimp +zetaDelta only

theorem copyOutPiece_kept {μ : Mark} {p a : ℕ} {ce ue : List ℕ} {r : CopyRun} {y : Option (ℕ × ℕ) × ℕ × ℕ}
    (hk : Kept μ r.s) : Kept μ (copyOutPiece p a ce ue r y).s := by
  unfold copyOutPiece
  repeat' first | (with_reducible first | assumption | apply readFinds_kept | apply countUe_kept | apply Kept.ite)  | split | intro _ | extract_lets | dsimp +zetaDelta only

theorem CopyRun.foldl_kept {μ : Mark} {α : Type} {r : CopyRun} {l : List α} {f : CopyRun → α → CopyRun} (h : Kept μ r.s)
    (hf : ∀ r a, Kept μ r.s → Kept μ (f r a).s) : Kept μ (l.foldl f r).s := by
  induction l generalizing r with
  | nil => exact h
  | cons a l ih => exact ih (hf r a h)

theorem execCopyDone_kept {μ : Mark} {p : PortId} {i : ℕ} {data : Option (List Byte)} {ce ue : List ℕ} {s : State}
    (hk : Kept μ s) : KeptNext μ (execCopyDone p i data ce ue s) := by
  unfold execCopyDone
  repeat' first | (with_reducible first | assumption | apply KeptNext.next | apply endCmd_kept | apply Kept.emit | apply CopyRun.foldl_kept | apply copyInPiece_kept | apply copyOutPiece_kept | apply Kept.ite)  | split | intro _ | extract_lets | dsimp +zetaDelta only

theorem execCompletionWrite_kept {μ : Mark} {p : PortId} {ok : Bool} {s0 : State} (hk : Kept μ s0) : KeptNext μ (execCompletionWrite p ok s0) := by
  unfold execCompletionWrite
  repeat' first | (with_reducible first | assumption | apply Kept.ident | apply KeptNext.next | exact KeptNext.fault | exact KeptNext.refused | apply KeptNext.ite | apply settleCmds_kept | apply Kept.updCmd | apply fetchError_kept | apply Kept.emit | apply msixSend_kept | apply Kept.ite) | split | intro _ | extract_lets | dsimp +zetaDelta only

theorem execCmdResume_kept {μ : Mark} {p : PortId} {s : State} (hk : Kept μ s) : KeptNext μ (execCmdResume p s) := by
  unfold execCmdResume
  repeat' first | (with_reducible first | assumption | apply Kept.ident | apply KeptNext.next | exact KeptNext.fault | exact KeptNext.refused | apply KeptNext.ite | apply Kept.updCmd | apply Kept.ite) | split | intro _ | extract_lets | dsimp +zetaDelta only

/-! ## HostPort -/

theorem badRead_kept {μ : Mark} {s : State} {p : ℕ} {bit : ℕ} {addr : ℕ} (hk : Kept μ s) : Kept μ (badRead s p bit addr) := by
  unfold badRead
  repeat' first | (with_reducible first | assumption | apply Kept.ident | apply Kept.emit | apply hostError_kept | apply Kept.ite) | split | intro _ | extract_lets | dsimp +zetaDelta only

theorem badWrite_kept {μ : Mark} {s : State} {p : ℕ} {bit : ℕ} {addr : ℕ} (hk : Kept μ s) : Kept μ (badWrite s p bit addr) := by
  unfold badWrite
  repeat' first | (with_reducible first | assumption | apply Kept.ident | apply Kept.emit | apply hostError_kept | apply Kept.ite) | split | intro _ | extract_lets | dsimp +zetaDelta only

theorem goodRead_kept {μ : Mark} {s : State} {p : ℕ} {v : ℕ} (hk : Kept μ s) : Kept μ (goodRead s p v) := by
  unfold goodRead
  repeat' first | (with_reducible first | assumption | apply Kept.ident | apply Kept.emit | apply Kept.ite) | split | intro _ | extract_lets | dsimp +zetaDelta only

theorem execRcRead_kept {μ : Mark} {p : PortId} {off : BitVec 26} {s : State} (hk : Kept μ s) : KeptNext μ (execRcRead p off s) := by
  unfold execRcRead
  repeat' first | (with_reducible first | assumption | apply Kept.ident | apply KeptNext.next | exact KeptNext.fault | exact KeptNext.refused | apply KeptNext.ite | apply Kept.emit | apply badRead_kept | apply goodRead_kept | apply clearRc_kept | apply Kept.ite) | split | intro _ | extract_lets | dsimp +zetaDelta only

theorem execRegisterWrite_kept {μ : Mark} {p : PortId} {off : BitVec 26} {data : W32} {s : State} (hk : Kept μ s) : KeptNext μ (execRegisterWrite p off data s) := by
  unfold execRegisterWrite
  repeat' first | (with_reducible first | assumption | apply Kept.ident | apply KeptNext.next | exact KeptNext.fault | exact KeptNext.refused | apply KeptNext.ite | apply Kept.emit | apply badWrite_kept | apply writeReg_kept | apply Kept.ite) | split | intro _ | extract_lets | dsimp +zetaDelta only

theorem execHaltReq_kept {μ : Mark} {p : PortId} {l : Lcid} {data : W32} {s : State} (hk : Kept μ s) : KeptNext μ (execHaltReq p l data s) := by
  unfold execHaltReq
  repeat' first | (with_reducible first | assumption | apply Kept.ident | apply KeptNext.next | exact KeptNext.fault | exact KeptNext.refused | apply KeptNext.ite | apply Kept.emit | apply badWrite_kept | apply haltRequest_kept | apply Kept.ite) | split | intro _ | extract_lets | dsimp +zetaDelta only

theorem execHostSignal_kept {μ : Mark} {p : PortId} {o : ObjId} {data : W32} {s : State} (hk : Kept μ s) : KeptNext μ (execHostSignal p o data s) := by
  unfold execHostSignal
  repeat' first | (with_reducible first | assumption | apply Kept.ident | apply KeptNext.next | exact KeptNext.fault | exact KeptNext.refused | apply KeptNext.ite | apply Kept.emit | apply badWrite_kept | apply hubForward_kept | apply Kept.ite) | split | intro _ | extract_lets | dsimp +zetaDelta only

theorem bar2Refused_kept {μ : Mark} {s : State} {p : ℕ} {kind : ℕ} {a : ℕ} (hk : Kept μ s) : Kept μ (bar2Refused s p kind a) := by
  unfold bar2Refused
  repeat' first | (with_reducible first | assumption | apply Kept.ident | apply bar2Error_kept | apply Kept.emit | apply Kept.ite) | split | intro _ | extract_lets | dsimp +zetaDelta only

theorem serveAtomic_kept {μ : Mark} {s : State} {p : ℕ} {a : ℕ} {size : ℕ} {data : List Byte} (hk : Kept μ s) : Kept μ (serveAtomic s p a size data) := by
  unfold serveAtomic
  repeat' first | (with_reducible first | assumption | apply Kept.ident | apply hubForward_kept | apply bar2Refused_kept | apply Kept.ite) | split | intro _ | extract_lets | dsimp +zetaDelta only

theorem serveBar2_kept {μ : Mark} {s : State} {p : ℕ} {kind : ℕ} {a : ℕ} {len : ℕ} {data : List Byte} (hk : Kept μ s) : Kept μ (serveBar2 s p kind a len data) := by
  unfold serveBar2
  repeat' first | (with_reducible first | assumption | apply Kept.ident | apply serveAtomic_kept | apply Kept.each | apply bar2Refused_kept | apply hubForward_kept | apply Kept.ite) | split | intro _ | extract_lets | dsimp +zetaDelta only

theorem takeBar2_kept {μ : Mark} {s : State} {p : ℕ} {kind : ℕ} {off : ℕ} {len : ℕ} {data : ℕ → List Byte} (hk : Kept μ s) : Kept μ (takeBar2 s p kind off len data) := by
  unfold takeBar2
  repeat' first | (with_reducible first | assumption | apply Kept.ident | apply Kept.updHub | apply serveBar2_kept | apply Kept.ite) | split | intro _ | extract_lets | dsimp +zetaDelta only

theorem execBar2Read_kept {μ : Mark} {p : PortId} {off : BitVec 36} {len : ℕ} {s : State} (hk : Kept μ s) : KeptNext μ (execBar2Read p off len s) := by
  unfold execBar2Read
  repeat' first | (with_reducible first | assumption | apply Kept.ident | apply KeptNext.next | exact KeptNext.fault | exact KeptNext.refused | apply KeptNext.ite | apply Kept.emit | apply takeBar2_kept | apply Kept.ite) | split | intro _ | extract_lets | dsimp +zetaDelta only

theorem execBar2Write_kept {μ : Mark} {p : PortId} {off : BitVec 36} {data : List Byte} {s : State} (hk : Kept μ s) : KeptNext μ (execBar2Write p off data s) := by
  unfold execBar2Write
  repeat' first | (with_reducible first | assumption | apply Kept.ident | apply KeptNext.next | exact KeptNext.fault | exact KeptNext.refused | apply KeptNext.ite | apply takeBar2_kept | apply Kept.ite) | split | intro _ | extract_lets | dsimp +zetaDelta only

theorem execBar2Atomic_kept {μ : Mark} {p : PortId} {off : BitVec 36} {op : AtomOp} {size : ℕ} {op0 : W64} {op1 : W64} {s : State} (hk : Kept μ s) : KeptNext μ (execBar2Atomic p off op size op0 op1 s) := by
  unfold execBar2Atomic
  repeat' first | (with_reducible first | assumption | apply Kept.ident | apply KeptNext.next | exact KeptNext.fault | exact KeptNext.refused | apply KeptNext.ite | apply Kept.emit | apply takeBar2_kept | apply Kept.ite) | split | intro _ | extract_lets | dsimp +zetaDelta only

theorem execBar2BaseCommit_kept {μ : Mark} {p : PortId} {data : W32} {s : State} (hk : Kept μ s) : KeptNext μ (execBar2BaseCommit p data s) := by
  unfold execBar2BaseCommit
  repeat' first | (with_reducible first | assumption | apply Kept.ident | apply KeptNext.next | exact KeptNext.fault | exact KeptNext.refused | apply KeptNext.ite | apply Kept.updHub | apply Kept.ite) | split | intro _ | extract_lets | dsimp +zetaDelta only

theorem execHbmMoveDone_kept {μ : Mark} {p : PortId} {s : State} (hk : Kept μ s) : KeptNext μ (execHbmMoveDone p s) := by
  unfold execHbmMoveDone
  repeat' first | (with_reducible first | assumption | apply Kept.ident | apply KeptNext.next | exact KeptNext.fault | exact KeptNext.refused | apply KeptNext.ite | apply Kept.updHub | apply moveHbm_kept | apply Kept.each | apply serveBar2_kept | apply Kept.ite) | split | intro _ | extract_lets | dsimp +zetaDelta only

theorem execHostLinkDown_kept {μ : Mark} {p : PortId} {s : State} (hk : Kept μ s) : KeptNext μ (execHostLinkDown p s) := by
  unfold execHostLinkDown
  repeat' first | (with_reducible first | assumption | apply Kept.ident | apply KeptNext.next | exact KeptNext.fault | exact KeptNext.refused | apply KeptNext.ite | apply Kept.updHub | apply Kept.updCmd | apply stopReported_kept | apply Kept.ite) | split | intro _ | extract_lets | dsimp +zetaDelta only

theorem execHostLinkReturn_kept {μ : Mark} {p : PortId} {s : State} (hk : Kept μ s) : KeptNext μ (execHostLinkReturn p s) := by
  unfold execHostLinkReturn
  repeat' first | (with_reducible first | assumption | apply Kept.ident | apply KeptNext.next | exact KeptNext.fault | exact KeptNext.refused | apply KeptNext.ite | apply Kept.updHub | apply Kept.ite) | split | intro _ | extract_lets | dsimp +zetaDelta only

end Sys2Proof.Machine
end

