-- ==== Sys2Proof/Laws/KeptRest.lean ====
section
/-!
SUPPORT. What Kept says, kept by security, bezels, the boundary and the aliases: one lemma for each operation and for each row.
-/
set_option linter.unreachableTactic false
set_option linter.unusedTactic false
set_option linter.unusedVariables false
namespace Sys2Proof.Machine

/-! ## Security -/

theorem endSec_kept {μ : Mark} {s : State} {p : ℕ} {code : ℕ} {result : ℕ} {detail : ℕ} (hk : Kept μ s) : Kept μ (endSec s p code result detail) := by
  unfold endSec
  repeat' first | (with_reducible first | assumption | apply Kept.ident | apply Kept.updSecPort | apply secRecord_kept | apply Kept.ite) | split | intro _ | extract_lets | dsimp +zetaDelta only

theorem secRow_kept {μ : Mark} {s : State} {p : ℕ} {code : ℕ} {bytes : Option (List Byte)} {act : State → SecCmd → State × ℕ} (hk : Kept μ s) (hact : ∀ s c, Kept μ s → Kept μ (act s c).1) : Kept μ (secRow s p code bytes act) := by
  unfold secRow
  repeat' first | (with_reducible first | assumption | apply Kept.ident | apply endSec_kept | apply freshNonce_kept | apply hact | apply Kept.ite) | split | intro _ | extract_lets | dsimp +zetaDelta only

theorem writeReport_kept {μ : Mark} {s : State} {p : ℕ} {addr : ℕ} {room : ℕ} {nonce : List Byte} (hk : Kept μ s) : Kept μ (writeReport s p addr room nonce).1 := by
  unfold writeReport
  repeat' first | (with_reducible first | assumption | apply Kept.ident | apply Kept.emit | apply Kept.updSec | apply Kept.draw | apply Kept.iteFst | apply Kept.ite) | exact Nat.le_refl _ | exact Nat.le_max_left _ _ | split | intro _ | extract_lets | dsimp +zetaDelta only

theorem execReport_kept {μ : Mark} {p : PortId} {bytes : Option (List Byte)} {s : State} (hk : Kept μ s) : KeptNext μ (execReport p bytes s) := by
  unfold execReport
  repeat' first | (with_reducible first | assumption | apply Kept.ident | apply KeptNext.next | exact KeptNext.fault | exact KeptNext.refused | apply KeptNext.ite | apply secRow_kept | apply writeReport_kept | apply Kept.ite) | split | intro _ | extract_lets | dsimp +zetaDelta only

theorem storeOwner_kept {μ : Mark} {s : State} {b : List Byte} (hk : Kept μ s) : Kept μ (storeOwner s b) := by
  unfold storeOwner
  repeat' first | (with_reducible first | assumption | apply Kept.ident | apply secRecord_kept | apply Kept.updSec | apply Kept.ite) | exact Nat.le_refl _ | exact Nat.le_max_left _ _ | split | intro _ | extract_lets | dsimp +zetaDelta only

theorem execEnrol_kept {μ : Mark} {p : PortId} {bytes : Option (List Byte)} {s : State} (hk : Kept μ s) : KeptNext μ (execEnrol p bytes s) := by
  unfold execEnrol
  repeat' first | (with_reducible first | assumption | apply Kept.ident | apply KeptNext.next | exact KeptNext.fault | exact KeptNext.refused | apply KeptNext.ite | apply secRow_kept | apply storeOwner_kept | apply Kept.updSec | apply Kept.ite) | exact Nat.le_refl _ | exact Nat.le_max_left _ _ | split | intro _ | extract_lets | dsimp +zetaDelta only

theorem execTransfer_kept {μ : Mark} {p : PortId} {bytes : Option (List Byte)} {s : State} (hk : Kept μ s) : KeptNext μ (execTransfer p bytes s) := by
  unfold execTransfer
  repeat' first | (with_reducible first | assumption | apply Kept.ident | apply KeptNext.next | exact KeptNext.fault | exact KeptNext.refused | apply KeptNext.ite | apply secRow_kept | apply storeOwner_kept | apply Kept.updSec | apply Kept.ite) | exact Nat.le_refl _ | exact Nat.le_max_left _ _ | split | intro _ | extract_lets | dsimp +zetaDelta only

theorem execPolicy_kept {μ : Mark} {p : PortId} {bytes : Option (List Byte)} {s : State} (hk : Kept μ s) : KeptNext μ (execPolicy p bytes s) := by
  unfold execPolicy
  repeat' first | (with_reducible first | assumption | apply Kept.ident | apply KeptNext.next | exact KeptNext.fault | exact KeptNext.refused | apply KeptNext.ite | apply secRow_kept | apply Kept.updSec | apply Kept.ite) | exact Nat.le_refl _ | exact Nat.le_max_left _ _ | split | intro _ | extract_lets | dsimp +zetaDelta only

theorem execFieldClear_kept {μ : Mark} {p : PortId} {bytes : Option (List Byte)} {s : State} (hk : Kept μ s) : KeptNext μ (execFieldClear p bytes s) := by
  unfold execFieldClear
  repeat' first | (with_reducible first | assumption | apply Kept.ident | apply KeptNext.next | exact KeptNext.fault | exact KeptNext.refused | apply KeptNext.ite | apply secRow_kept | apply Kept.updDefects | apply Kept.ite) | rfl | split | intro _ | extract_lets | dsimp +zetaDelta only

theorem execAccessOpen_kept {μ : Mark} {p : PortId} {bytes : Option (List Byte)} {s : State} (hk : Kept μ s) : KeptNext μ (execAccessOpen p bytes s) := by
  unfold execAccessOpen
  repeat' first | (with_reducible first | assumption | apply Kept.ident | apply KeptNext.next | exact KeptNext.fault | exact KeptNext.refused | apply KeptNext.ite | apply secRow_kept | apply secRecord_kept | apply Kept.updSec | apply Kept.ite) | exact Nat.le_refl _ | exact Nat.le_max_left _ _ | split | intro _ | extract_lets | dsimp +zetaDelta only

theorem execAccessClose_kept {μ : Mark} {p : PortId} {bytes : Option (List Byte)} {s : State} (hk : Kept μ s) : KeptNext μ (execAccessClose p bytes s) := by
  unfold execAccessClose
  repeat' first | (with_reducible first | assumption | apply Kept.ident | apply KeptNext.next | exact KeptNext.fault | exact KeptNext.refused | apply KeptNext.ite | apply secRow_kept | apply closeSession_kept | apply Kept.ite) | split | intro _ | extract_lets | dsimp +zetaDelta only

theorem execAccessExpire_kept {μ : Mark} {s : State} (hk : Kept μ s) : KeptNext μ (execAccessExpire s) := by
  unfold execAccessExpire
  repeat' first | (with_reducible first | assumption | apply Kept.ident | apply KeptNext.next | exact KeptNext.fault | exact KeptNext.refused | apply KeptNext.ite | apply closeSession_kept | apply Kept.ite) | split | intro _ | extract_lets | dsimp +zetaDelta only

theorem execUpdate_kept {μ : Mark} {p : PortId} {bytes : Option (List Byte)} {s : State} (hk : Kept μ s) : KeptNext μ (execUpdate p bytes s) := by
  unfold execUpdate
  repeat' first | (with_reducible first | assumption | apply Kept.ident | apply KeptNext.next | exact KeptNext.fault | exact KeptNext.refused | apply KeptNext.ite | apply secRow_kept | apply Kept.emit | apply Kept.updSecPort | apply Kept.updSec | apply Kept.ite) | exact Nat.le_refl _ | exact Nat.le_max_left _ _ | split | intro _ | extract_lets | dsimp +zetaDelta only

theorem execUpdateImageFetched_kept {μ : Mark} {img : Option Image} {s : State} (hk : Kept μ s) : KeptNext μ (execUpdateImageFetched img s) := by
  unfold execUpdateImageFetched
  repeat' first | (with_reducible first | assumption | apply Kept.ident | apply KeptNext.next | exact KeptNext.fault | exact KeptNext.refused | apply KeptNext.ite | apply Kept.updSec | apply endSec_kept | apply Kept.ite) | exact Nat.le_refl _ | exact Nat.le_max_left _ _ | split | intro _ | extract_lets | dsimp +zetaDelta only

theorem execUpdateSlotWritten_kept {μ : Mark} {s : State} (hk : Kept μ s) : KeptNext μ (execUpdateSlotWritten s) := by
  unfold execUpdateSlotWritten
  repeat' first | (with_reducible first | assumption | apply Kept.ident | apply KeptNext.next | exact KeptNext.fault | exact KeptNext.refused | apply KeptNext.ite | apply secRecord_kept | apply Kept.updSec | apply endSec_kept | apply Kept.ite) | exact Nat.le_refl _ | exact Nat.le_max_left _ _ | split | intro _ | extract_lets | dsimp +zetaDelta only

theorem execCalWrite_kept {μ : Mark} {p : PortId} {bytes : Option (List Byte)} {s : State} (hk : Kept μ s) : KeptNext μ (execCalWrite p bytes s) := by
  unfold execCalWrite
  repeat' first | (with_reducible first | assumption | apply Kept.ident | apply KeptNext.next | exact KeptNext.fault | exact KeptNext.refused | apply KeptNext.ite | apply secRow_kept | apply Kept.updSec | apply Kept.ite) | exact Nat.le_refl _ | exact Nat.le_max_left _ _ | split | intro _ | extract_lets | dsimp +zetaDelta only

theorem execRestoreFactory_kept {μ : Mark} {p : PortId} {bytes : Option (List Byte)} {s : State} (hk : Kept μ s) : KeptNext μ (execRestoreFactory p bytes s) := by
  unfold execRestoreFactory
  repeat' first | (with_reducible first | assumption | apply Kept.ident | apply KeptNext.next | exact KeptNext.fault | exact KeptNext.refused | apply KeptNext.ite | apply secRow_kept | apply Kept.updSec | apply Kept.ite) | exact Nat.le_refl _ | exact Nat.le_max_left _ _ | split | intro _ | extract_lets | dsimp +zetaDelta only

theorem eraseOwner_kept {μ : Mark} {s : State} (hk : Kept μ s) : Kept μ (eraseOwner s) := by
  unfold eraseOwner
  repeat' first | (with_reducible first | assumption | apply Kept.ident | apply Kept.updSec | apply Kept.ite) | exact Nat.le_refl _ | exact Nat.le_max_left _ _ | split | intro _ | extract_lets | dsimp +zetaDelta only

theorem execDecommission_kept {μ : Mark} {p : PortId} {bytes : Option (List Byte)} {s : State} (hk : Kept μ s) : KeptNext μ (execDecommission p bytes s) := by
  unfold execDecommission
  repeat' first | (with_reducible first | assumption | apply Kept.ident | apply KeptNext.next | exact KeptNext.fault | exact KeptNext.refused | apply KeptNext.ite | apply secRow_kept | apply writeReport_kept | apply secRecord_kept | apply Kept.updBring | apply eraseOwner_kept | apply restartPanel_kept | apply Kept.ite) | split | intro _ | extract_lets | dsimp +zetaDelta only

/-! ## Bezel -/

theorem execBezEnable_kept {μ : Mark} {p : PortId} {s : State} (hk : Kept μ s) : KeptNext μ (execBezEnable p s) := by
  unfold execBezEnable
  repeat' first | (with_reducible first | assumption | apply Kept.ident | apply KeptNext.next | exact KeptNext.fault | exact KeptNext.refused | apply KeptNext.ite | apply Kept.updBezel | apply Kept.ite) | split | intro _ | extract_lets | dsimp +zetaDelta only

theorem execBezDisable_kept {μ : Mark} {p : PortId} {s : State} (hk : Kept μ s) : KeptNext μ (execBezDisable p s) := by
  unfold execBezDisable
  repeat' first | (with_reducible first | assumption | apply Kept.ident | apply KeptNext.next | exact KeptNext.fault | exact KeptNext.refused | apply KeptNext.ite | apply Kept.updBezel | apply Kept.ite) | split | intro _ | extract_lets | dsimp +zetaDelta only

theorem execBezRearm_kept {μ : Mark} {p : PortId} {ans : BezelAnswer} {s : State} (hk : Kept μ s) : KeptNext μ (execBezRearm p ans s) := by
  unfold execBezRearm
  repeat' first | (with_reducible first | assumption | apply Kept.ident | apply KeptNext.next | exact KeptNext.fault | exact KeptNext.refused | apply KeptNext.ite | apply admitBezel_kept | apply Kept.ite) | split | intro _ | extract_lets | dsimp +zetaDelta only

theorem bezQuarantine_kept {μ : Mark} {s : State} {n : ℕ} {cause : ℕ} (hk : Kept μ s) : Kept μ (bezQuarantine s n cause) := by
  unfold bezQuarantine
  repeat' first | (with_reducible first | assumption | apply Kept.ident | apply secRecord_kept | apply Kept.updBezel | apply Kept.ite) | split | intro _ | extract_lets | dsimp +zetaDelta only

theorem bezInject_kept {μ : Mark} {s : State} {n : ℕ} {r : BezelReq} {dst : Node} (hk : Kept μ s) : Kept μ (bezInject s n r dst) := by
  unfold bezInject
  repeat' first | (with_reducible first | assumption | apply Kept.ident | apply Kept.send | apply Kept.updBezel | apply Kept.ite) | split | intro _ | extract_lets | dsimp +zetaDelta only

theorem execBezelPacket_kept {μ : Mark} {n : Fin 4} {r : BezelReq} {s : State} (hk : Kept μ s) : KeptNext μ (execBezelPacket n r s) := by
  unfold execBezelPacket
  repeat' first | (with_reducible first | assumption | apply Kept.ident | apply KeptNext.next | exact KeptNext.fault | exact KeptNext.refused | apply KeptNext.ite | apply bezQuarantine_kept | apply secRecord_kept | apply Kept.updBezel | apply Kept.emit | apply bezInject_kept | apply Kept.ite) | split | intro _ | extract_lets | dsimp +zetaDelta only

theorem execBezelLinkLost_kept {μ : Mark} {n : Fin 4} {s : State} (hk : Kept μ s) : KeptNext μ (execBezelLinkLost n s) := by
  unfold execBezelLinkLost
  repeat' first | (with_reducible first | assumption | apply Kept.ident | apply KeptNext.next | exact KeptNext.fault | exact KeptNext.refused | apply KeptNext.ite | apply secRecord_kept | apply Kept.updBezel | apply Kept.ite) | split | intro _ | extract_lets | dsimp +zetaDelta only

/-! ## Boundary -/

theorem execSupEnFall_kept {μ : Mark} {s : State} (hk : Kept μ s) : KeptNext μ (execSupEnFall s) := by
  unfold execSupEnFall
  repeat' first | (with_reducible first | assumption | apply Kept.ident | apply KeptNext.next | exact KeptNext.fault | exact KeptNext.refused | apply KeptNext.ite | apply Kept.updSupply | apply removeStageA_kept | apply Kept.ite) | split | intro _ | extract_lets | dsimp +zetaDelta only

theorem execPowerRemoved_kept {μ : Mark} {s : State} (hk : Kept μ s) : KeptNext μ (execPowerRemoved s) := by
  unfold execPowerRemoved
  repeat' first | (with_reducible first | assumption | apply Kept.ident | apply KeptNext.next | exact KeptNext.fault | exact KeptNext.refused | apply KeptNext.ite | apply Kept.updCool | apply Kept.updSupply | apply removeStageA_kept | apply Kept.ite) | split | intro _ | extract_lets | dsimp +zetaDelta only

theorem execSmbReadReg_kept {μ : Mark} {off : W32} {s : State} (hk : Kept μ s) : KeptNext μ (execSmbReadReg off s) := by
  unfold execSmbReadReg
  repeat' first | (with_reducible first | assumption | apply Kept.ident | apply KeptNext.next | exact KeptNext.fault | exact KeptNext.refused | apply KeptNext.ite | apply Kept.emit | apply Kept.ite) | split | intro _ | extract_lets | dsimp +zetaDelta only

theorem execSmbReadSup_kept {μ : Mark} {s : State} (hk : Kept μ s) : KeptNext μ (execSmbReadSup s) := by
  unfold execSmbReadSup
  repeat' first | (with_reducible first | assumption | apply Kept.ident | apply KeptNext.next | exact KeptNext.fault | exact KeptNext.refused | apply KeptNext.ite | apply Kept.emit | apply Kept.ite) | split | intro _ | extract_lets | dsimp +zetaDelta only

/-! ## Alias -/

theorem execAliasRead_kept {μ : Mark} {p : PortId} {off : BitVec 26} {s : State} (hk : Kept μ s) : KeptNext μ (execAliasRead p off s) := by
  unfold execAliasRead
  repeat' first | (with_reducible first | assumption | apply Kept.ident | apply KeptNext.next | exact KeptNext.fault | exact KeptNext.refused | apply KeptNext.ite | apply Kept.emit | apply badRead_kept | apply goodRead_kept | apply clearRc_kept | apply Kept.ite) | split | intro _ | extract_lets | dsimp +zetaDelta only

theorem after_kept {μ : Mark} {o : Host.Outcome State Fault Refusal} {s : State} (hk : Kept μ s) (ho : KeptNext μ o) :
    Kept μ (after o s) := by
  unfold after
  split
  · exact ho _ rfl
  · exact hk

theorem aliasAct_kept {μ : Mark} {s : State} {p : PortId} {off : ℕ} {bit : ℕ} (hk : Kept μ s) : Kept μ (aliasAct s p off bit) := by
  unfold aliasAct
  repeat' first | (with_reducible first | assumption | apply Kept.ident | apply after_kept | apply execLayoutStage_kept | apply execLayoutReplace_kept | apply execLayoutCancel_kept | apply execLayoutDiscard_kept | apply execCmdResume_kept | apply execPortRekey_kept | apply execPortRearm_kept | apply Kept.draw | apply execPortDown_kept | apply execBezEnable_kept | apply execBezRearm_kept | apply execBezDisable_kept | apply writeReg_kept | apply Kept.ite) | split | intro _ | extract_lets | dsimp +zetaDelta only

theorem aliasSet_kept {μ : Mark} {s : State} {p : PortId} {off : ℕ} {bit : ℕ} {d : ℕ} (hk : Kept μ s) : Kept μ (aliasSet s p off bit d) := by
  unfold aliasSet
  repeat' first | (with_reducible first | assumption | apply Kept.ident | apply after_kept | apply execBar2BaseCommit_kept | apply execWinRdWrite_kept | apply writeReg_kept | apply Kept.ite) | split | intro _ | extract_lets | dsimp +zetaDelta only

theorem execAliasWrite_kept {μ : Mark} {p : PortId} {off : BitVec 26} {data : W32} {s : State} (hk : Kept μ s) : KeptNext μ (execAliasWrite p off data s) := by
  unfold execAliasWrite
  repeat' first | (with_reducible first | assumption | apply Kept.ident | apply KeptNext.next | exact KeptNext.fault | exact KeptNext.refused | apply KeptNext.ite | apply Kept.emit | apply badWrite_kept | apply aliasAct_kept | apply aliasSet_kept | apply after_kept | apply execHaltReq_kept | apply Kept.ite) | split | intro _ | extract_lets | dsimp +zetaDelta only

end Sys2Proof.Machine
end

