-- ==== Sys2Proof/Tests/Slice0.lean ====
section
/-!
SUPPORT. The model's own tests: ill-formed operands are refused, words and elements of the spec read as it says, and for
each statement with hypotheses a concrete state and operands that meet those of each of its clauses.
-/
namespace Sys2Proof.Tests
open Sys2Proof.Machine

/- Each evaluation below waits for the kernel to have checked all that stands before it: one at a time keeps the threads few. -/
set_option Elab.async false

/-! ## States -/

/-- Four hubs that run, with a layout of column 0 in force at port 0 where lay is true. -/
def hubsOf (lay : Bool) (f : Hub → Hub := id) : Tab Hub :=
  (0, f { live := true, linkUp := true, lay := { layout? := if lay then some { part := { stackMask := 1, portMask := 1, bezel := true } } else none } })
    :: [1, 2, 3].map (fun h => (h, { live := true, linkUp := true }))

/-- The panel after power arrival. -/
def on : State := { State.reset with supply := { vin := 5600, supEn := true, charged := true, stageA := true, booted := true }, hubs := hubsOf false }

/-- A panel whose port 0 has column 0, stack 0 and fabric port 0, region 0 powered with its clock running. -/
def up : State :=
  { on with
    now := 1000000, hubs := hubsOf true, colMaps := [(0, { valid := true })], lcidAt := [(0, some 0), (1, some 1)]
    bring := { done := 9, ready := [0] }, stroke := { running := true, count := 5, standby := 5 }
    coxes := [(0, { live := true, count := 5 })]
    regions := [(0, { clock := .running, pstate := 3, vset := 700, count := 4, assign := some { part := 0, region := 0, crew := 0, skew := 0, role := 0, pair := 0, group := 0 } })] }

/-- The cells of a value of n bytes at a key. -/
def cells (key n v : Nat) : List Host.Cell :=
  ((bytesLE n v).zipIdx.filter (fun x => x.1 != 0)).map (fun x => (key + x.2, x.1))

/-- Core 0 runs a program of two instructions whose first is w. -/
def runs (w : Nat) (f : Core → Core := id) : State :=
  { up with sram := cells 0 8 w, cores := [(0, f { mode := .running, lcid := some 0, programmed := true, length := 2 })] }

/-- An instruction word of the fields of R72. -/
def iw (cls fn ops : Nat) (pred : Nat := 0) (pneg : Nat := 0) : Nat := cls * 2 ^ 60 + fn * 2 ^ 54 + pred * 2 ^ 51 + pneg * 2 ^ 50 + ops

/-- A packet that has come to the router of core 0. -/
def here (p : Packet) : Packet := (({ p with loc := .router 0 0 } : Packet).setSrc (.router 1 1)).setDest (.router 0 0) |> fun q => { q with loc := .router 0 0 }
/-! ## Ill-formed operands -/

theorem test_wf_ratio : (Instr.eventPost 0 (.cap .localRatio 256 0) 1).wf = false ∧ (Instr.eventPost 0 (.cap .localRatio 0 96) 1).wf = false ∧
    (Instr.eventPost 0 (.freq 256 0) 1).wf = false ∧ (Instr.eventPost 0 (.crewStart 256) 1).wf = false ∧
    (Instr.eventPost 0 (.window 0 0 0) 1).wf = false ∧ (Instr.eventPost 0 (.window 0 0 (2 ^ 32)) 1).wf = false ∧
    (Instr.eventPost 0 (.cap .localRatio 255 95) 1).wf = true := by decide +kernel
theorem test_wf_upset : (Instr.mma 0 [(64, 0, 1)]).wf = false ∧ (Instr.mma 0 [(0, 64, 1)]).wf = false := by decide +kernel
theorem test_wf_frame : (Instr.linkFrameReceive 0 6 (List.replicate 137 0)).wf = false ∧ (Instr.linkFrameReceive 0 6 []).wf = true := by decide +kernel
theorem test_wf_lanes : (Instr.linkRetrainDone 0 6 18 0 0 0).wf = false ∧ (Instr.starttest 0 [.link 0 6 5 0 0 0 0]).wf = false ∧
    (Instr.starttest 0 [.link 0 6 0 18 0 0 0]).wf = false := by decide +kernel
theorem test_wf_telemetry : let t : Telemetry := ⟨0, 0, [], [], [], [], 0, [], [], []⟩
    (Instr.telemetryMs t).wf = true ∧ (Instr.telemetryMs { t with groups := [(39, 0, 0)] }).wf = false ∧
    (Instr.telemetryMs { t with rails := [(48, 0, 0)] }).wf = false ∧ (Instr.telemetryMs { t with aux := [(6, 0, 0)] }).wf = false := by decide +kernel
theorem test_wf_auth (a : BezelAnswer) : (Instr.auth 0 ⟨true, true, true, [], [a, a, a, a, a]⟩).wf = false := rfl
theorem test_wf_mesh : (Instr.mesh 0 { lanes := List.replicate 17 0 }).wf = false := by decide +kernel
theorem test_wf_bar2 : (Instr.bar2Read 0 0 0).wf = false ∧ (Instr.bar2Read 0 0 4097).wf = false ∧ (Instr.bar2Write 0 0 []).wf = false ∧
    (Instr.bar2Write 0 0 (List.replicate 513 0)).wf = false ∧ (Instr.bar2Atomic 0 0 .add 2 0 0).wf = false ∧
    (Instr.bar2Atomic 0 4 .add 8 0 0).wf = false ∧ (Instr.bar2Atomic 0 8 .add 8 0 0).wf = true := by decide +kernel
theorem test_wf_records : (Instr.cmdRecordsReadDone 0 (some [List.replicate 63 0])).wf = false := by decide +kernel
theorem test_wf_credits (fr : Frame) (h : fr.hd.credits = []) : (Instr.data 0 fr).wf = false := by simp [Instr.wf, Frame.wf, h]
theorem test_wf_bezel : (Instr.bezelPacket 0 ⟨0, 1, true, 0, 0, 0, List.replicate 513 0, 0⟩).wf = false ∧
    (Instr.bezelPacket 0 ⟨0, 1, true, 0, 0, 0, List.replicate 512 0, 0⟩).wf = true := by decide +kernel

/-! ## Words and elements of the spec -/

/-- R72, R75: ALU s2 = s3 + s4 is CLS 0, FN 6, SD 2, SA 3, SB 4, OP 0. -/
theorem test_word_alu : decodeWord (BitVec.ofNat 64 (iw 0 6 (2 * 2 ^ 40 + 3 * 2 ^ 35 + 4 * 2 ^ 30))) = some .alu := by decide +kernel
/-- R78: MZERO of bank 2 as INT32. -/
theorem test_word_mzero : decodeWord (BitVec.ofNat 64 (iw 1 3 (2 * 2 ^ 43 + 2 ^ 42))) = some .mzero := by decide +kernel
/-- R85: the first VE function is EW. -/
theorem test_word_ew : decodeWord (BitVec.ofNat 64 (iw 2 0 0)) = some .ew := by decide +kernel
/-- R90: SEND is the mover's function 4. -/
theorem test_word_send : decodeWord (BitVec.ofNat 64 (iw 3 4 0)) = some .send := by decide +kernel
/-- R96: SIGNAL of 0 is no instruction, of 1 it is. -/
theorem test_word_signal : decodeWord (BitVec.ofNat 64 (iw 4 0 0)) = none ∧ decodeWord (BitVec.ofNat 64 (iw 4 0 1)) = some .signal := by decide +kernel
/-- R72: classes 5 to 15 are reserved. -/
theorem test_word_reserved : decodeWord (BitVec.ofNat 64 (iw 5 0 0)) = none ∧ decodeWord (BitVec.ofNat 64 (iw 0 0 1)) = none := by decide +kernel
/-- R107: 0x3F80_0000 is 1, 0x38 of E4M3 is 1, 0x7E is 448. -/
theorem test_elements : num32 0x3F800000 = .fin false unit1 ∧ decodeFloat e4m3 0x38 = .fin false unit1 ∧ decodeFloat e4m3 0x7E = .fin false (448 * unit1) := by
  decide +kernel
/-- R119: 464 rounds to 448 in E4M3, 465 overflows to NaN. -/
theorem test_e4m3_overflow : e4m3.encode 0 false 0 (.fin false (464 * unit1)) = 0x7E ∧ e4m3.encode 0 false 0 (.fin false (465 * unit1)) = 0x7F := by
  decide +kernel
/-- R118: one step of the generator from 1, by hand: 1 XOR 2^13, XOR its shift by 7, XOR its shift by 17. -/
theorem test_rng : rngStep 1 = 0x40822041 := by decide +kernel
/-- R431: SHAKE256 of nothing, the standard's known answer. -/
theorem test_shake : (shake256 8 []) = [0x46, 0xB9, 0xDD, 0x2B, 0x0B, 0xA8, 0x8D, 0x13] := by decide +kernel
/-- R206: CRC-32C of the ASCII digits 1 to 9, the standard's check value. -/
theorem test_crc32c : crc32c [0x31, 0x32, 0x33, 0x34, 0x35, 0x36, 0x37, 0x38, 0x39] = 0xE3069283 := by decide +kernel
/-- R23: with physical row 2 fenced, logical row 2 stands in row 3. -/
theorem test_colmap : (colMapOf [2]).phys 1 = 1 ∧ (colMapOf [2]).phys 2 = 3 ∧ (colMapOf []).phys 11 = 11 := by decide +kernel
/-- R274: the second unit of a stack's window lies in its second slice. -/
theorem test_interleave : hbmLocate [5] 4096 = some (161, 0) ∧ hbmLocate [5] (32 * 4096 + 7) = some (160, 4103) := by decide +kernel
/-- R75: ADD wraps, SRA keeps the sign, MIN is signed. -/
theorem test_alu : aluValue 0 (-1) 1 = 0 ∧ aluValue 8 (-8) 65 = -4 ∧ aluValue 9 (-1) 1 = -1 ∧ aluValue 11 (-1) 1 = 1 := by decide +kernel
/-- R75: an ALU instruction runs: s2 = s3 + s4. -/
theorem test_run_alu : (match exec (.alu 0) (runs (iw 0 6 (2 * 2 ^ 40 + 3 * 2 ^ 35 + 4 * 2 ^ 30)) (fun c => { c with sregs := [(3, 7), (4, 8)] })) with
    | .next t => decide ((t.core 0).sreg 2 = 15 ∧ (t.core 0).pc = 1)
    | _ => false) = true := by decide +kernel
/-- R242: SIGNAL 2 of an object whose target is 2 releases it. -/
theorem test_run_signal : (match exec (.homeSignal 0) { up with syncs := [(0, { target := 2 })], net := [here (syncPacket 0 0 0 0 0 2 0 (.router 1 1) (.router 0 0))] } with
    | .next t => decide ((t.sync 0).released = true ∧ (t.sync 0).counter = 2)
    | _ => false) = true := by decide +kernel
/-- R340: with the bulk capacitance charged, 50 V boots the hubs. -/
theorem test_run_power : (match exec (.powerArrival 5000 15) { State.reset with supply := { charged := true } } with
    | .next t => decide (t.supply.stageA = true ∧ t.supply.booted = true ∧ (t.hub 0).live = true)
    | _ => false) = true := by decide +kernel
/-- R342: HUB before SUPPLY is refused with ORDER. -/
theorem test_run_order : (match exec (.hub 0) on with
    | .next t => decide (t.bring.errCode = 1 ∧ t.bring.errStep = 2)
    | _ => false) = true := by decide +kernel

/-! ## Witnesses: for each statement with hypotheses, states and operands that meet those of each of its clauses -/

/-- A stroke in force with sixteen intervals of 100 µs and a pulse that rose at 999 µs. -/
def striking (f : Stroke → Stroke := id) : State :=
  up.updStroke (fun k => f { k with quals := [(0, some 999000)], lastAt := some 899000, intervals := List.replicate 16 100000 })

theorem wit_StepRunsTheFrontCommand : ({ up with pending := [.nop 0] } : State).pending = .nop 0 :: [] ∧ up.pending = [] := ⟨rfl, rfl⟩
theorem wit_EveryStepKeepsTheCanonicalForm : up.canonical = true ∧ step { up with pending := [.mzero 0] } = exec (.mzero 0) up := ⟨by decide +kernel, rfl⟩
theorem wit_StrokeEdgesAreQualifiedAndCounted :
    ((up.hub 0).live = true ∧ (up.stroke.qualifying || up.stroke.running) = true ∧ Tab.get none up.stroke.quals 0 = none) ∧
    (let s := striking; Tab.get none s.stroke.quals 0 = some 999000) ∧
    (let s := striking; Tab.get none s.stroke.quals 0 = some 999000 ∧ 999000 + 200 ≤ s.now ∧ s.masterHub = 0 ∧ s.stroke.judged = none ∧ s.stroke.free = false ∧
      s.stroke.running = true ∧ s.stroke.lastAt = some 899000 ∧ s.stroke.established = true ∧
      899000 + meanOf s.stroke.intervals - meanOf s.stroke.intervals / 8 ≤ 999000 ∧ 999000 ≤ s.stroke.windowEnd) ∧
    (let s := striking (fun k => { k with lastAt := some 911501 }); s.stroke.lastAt = some 911501 ∧ s.stroke.established = true ∧
      999000 < 911501 + meanOf s.stroke.intervals - meanOf s.stroke.intervals / 8 ∧ 999000 ≤ s.stroke.windowEnd) ∧
    (let s := striking (fun k => { k with quals := [(2, some 999000)], judged := some 998600 }); Tab.get none s.stroke.quals 2 = some 999000 ∧
      s.masterHub = 0 ∧ 998600 + 400 ≤ 999000) ∧
    (let s := striking (fun k => { k with quals := [(2, some 999000)], judged := some 998600, master2 := true })
     s.masterHub = 2 ∧ s.stroke.judged = some 998600 ∧ Tab.get none s.stroke.quals 2 = some 999000) ∧
    Tab.wf 0 up.stroke.ringLast = true ∧
    (let s := striking (fun k => { k with lastAt := some 887500, quals := [] }); s.counts = true ∧ s.stroke.free = false ∧
      s.stroke.windowEnd = s.now ∧ s.edgeOpen s.stroke.windowEnd = false) := by and_intros <;> decide +kernel

/-- Free stroke whose next stroke is due now; slewing with a handover in the second case. -/
def freeStroke (f : Stroke → Stroke := id) : State :=
  up.updStroke (fun k => f { k with free := true, nextAt := 1000000, interval := 100000 })

theorem wit_FreeStrokeCountsAndSlews :
    (let s := freeStroke; s.counts = true ∧ s.stroke.free = true ∧ s.stroke.handover = false ∧ s.stroke.nextAt ≤ s.now) ∧
    (∃ k : Stroke, let s := { up with stroke := k }; s.counts = true ∧ s.stroke.free = true ∧ s.stroke.slew = true ∧ s.stroke.edgeDue ≤ s.now ∧
      s.edgeOpen s.stroke.edgeDue = false ∧ s.stroke.handoverNext = true) ∧
    (∃ k : Stroke, let s := { up with stroke := k }; s.counts = true ∧ s.stroke.free = true ∧ s.stroke.slew = true ∧ s.stroke.edgeDue ≤ s.now ∧
      s.edgeOpen s.stroke.edgeDue = false ∧ s.stroke.handoverNext = false) := by
  refine ⟨by decide +kernel, ⟨(freeStroke (fun k => { k with slew := true, handover := true, nextAt := 980000, lastExt := some 880000, extIvls := [100000] })).stroke, ?_⟩,
    ⟨(freeStroke (fun k => { k with slew := true, lastExt := some 880000, extIvls := [100000] })).stroke, ?_⟩⟩ <;> decide +kernel

theorem wit_CoxesFollowTheStroke :
    (let s := up.updStroke (fun k => { k with ringLast := [(0, 6)] })
     (s.cox 0).live = true ∧ (s.hub 0).live = true ∧ (s.cox 0).count = 5 ∧ 5 + 1 ≤ Tab.get 0 s.stroke.ringLast 0 ∧ Tab.get 0 s.stroke.ringLast 0 < 7) ∧
    (let s := up.updStroke (fun k => { k with ringLast := [(0, 9)] })
     (s.cox 0).live = true ∧ (s.hub 0).live = true ∧ (s.cox 0).count + 1 < 8 ∧ 8 ≤ Tab.get 0 s.stroke.ringLast 0) ∧
    (∃ e : PendEvent, (let s := up.updCox 0 (fun c => { c with transit := [e] }); (s.cox 0).transit = [e] ∧ (s.cox 0).count < e.stroke) ∧
      ∀ c op, e.ev ≠ .freq c op) ∧
    (∃ e : PendEvent, (let s := up.updCox 0 (fun c => { c with transit := [e] }); (s.cox 0).transit = [e] ∧ e.stroke ≤ (s.cox 0).count) ∧
      ∀ c op, e.ev ≠ .freq c op) ∧
    (let e : PendEvent := { part := 0, stroke := 6, ev := .freq 0 2 }
     let s := up.updCox 0 (fun c => { c with transit := [e] })
     (s.cox 0).transit = [e] ∧ e.ev = .freq 0 2 ∧ (s.cox 0).count < e.stroke) :=
  ⟨by decide +kernel, by decide +kernel, ⟨{ part := 0, stroke := 6, ev := .telemetry }, by decide +kernel, nofun⟩,
    ⟨{ part := 0, stroke := 5, ev := .telemetry }, by decide +kernel, nofun⟩, by decide +kernel⟩

theorem wit_EventsArePostedEverywhereOrNowhere :
    ((up.layoutOf 0).isSome = true ∧ up.partStopped 0 = false ∧ up.stroke.running = true ∧ up.leadOk 100 = true ∧ up.scopeFull 0 .telemetry = false) ∧
    up.leadOk 6 = false ∧
    (let s := up.updCox 0 (fun c => { c with transit := List.replicate 32 { part := 0, stroke := 50, ev := .telemetry } })
     (s.layoutOf 0).isSome = true ∧ s.partStopped 0 = false ∧ s.stroke.running = true ∧ s.leadOk 100 = true ∧ s.scopeFull 0 .telemetry = true) := by
  and_intros <;> decide +kernel

theorem wit_RegionClockEventsComplete :
    ((up.region 0).clock = .running ∧ (up.region 0).fenced = false ∧ (up.region 0).count < (up.cox 0).count) ∧
    (let s := up.updRegion 0 (fun x => { x with clock := .stopped, chg := some 2 })
     (s.region 0).clock = .stopped ∧ (s.region 0).fenced = false ∧ (s.region 0).chg = some 2 ∧ (s.region 0).chgNext = none) ∧
    ((up.updRegion 0 (fun x => { x with clock := .stopped, chg := some 2, chgNext := some 3 })).region 0).chgNext = some 3 := by
  and_intros <;> decide +kernel

/-- The word of a sequencer function f with operands ops. -/
def sw (f ops : Nat) : Nat := iw 0 f ops

theorem wit_SequencerInstructionsTakeEffect :
    (runs 0).canonical = true ∧
    ([(CoreFn.nop, sw 0 0), (.halt, sw 1 0), (.br, sw 2 1), (.brr, sw 3 0), (.twait, sw 4 0), (.pset, sw 5 0), (.alu, sw 6 0), (.movi, sw 7 0),
      (.sld, sw 8 64), (.sst, sw 9 64), (.tdld, sw 10 64), (.tdst, sw 11 64), (.tdset, sw 12 0), (.srd, sw 13 0), (.srd, sw 13 7)].all
        (fun (f, w) => (runs w).issues 0 f)) = true ∧
    (∀ w ∈ [sw 0 0, sw 2 1, sw 8 64], let s := runs w; let s1 := (fetchWord s 0).s
      (s1.core 0).pc + 1 < (s1.core 0).length) ∧
    (let w := (runs (sw 2 1)).word 0; let s1 := (fetchWord (runs (sw 2 1)) 0).s
     0 ≤ ((s1.core 0).pc : Int) + signed 20 (wbits w 19 0) ∧ ((s1.core 0).pc : Int) + signed 20 (wbits w 19 0) < (s1.core 0).length) ∧
    (let w := (runs (sw 3 0)).word 0; let s1 := (fetchWord (runs (sw 3 0)) 0).s; ((s1.core 0).sreg (wbits w 44 40)).toNat % 2 ^ 18 < (s1.core 0).length) ∧
    (∀ x ∈ [(sw 8 64, 8), (sw 10 64, 32)], let s := runs x.1; let s1 := (fetchWord s 0).s
      (unitReads s1 0 [(64, x.2)]).cause = 0 ∧ ((unitReads s1 0 [(64, x.2)]).s.core 0).pc + 1 < ((unitReads s1 0 [(64, x.2)]).s.core 0).length ∧
      64 = ((s1.core 0).sreg (wbits (s.word 0) 39 35) + BitVec.ofNat 64 (wbits (s.word 0) 20 0)).toNat) ∧
    (∀ x ∈ [(sw 9 64, 8), (sw 11 64, 32)], let s := runs x.1; let s1 := (fetchWord s 0).s
      let r := unitWrite s1 0 64 (bytesLE x.2 0)
      r.cause = 0 ∧ (r.s.core 0).pc + 1 < (r.s.core 0).length ∧ 64 = ((s1.core 0).sreg (wbits (s.word 0) 39 35) + BitVec.ofNat 64 (wbits (s.word 0) 20 0)).toNat) := by
  and_intros <;> decide +kernel

/-- A running core 0 whose mover waits for the answer to request q, and the packet p at its router. -/
def waiting (q : Req) (p : Packet) (f : Core → Core := id) : State :=
  { up with net := [here p], cores := [(0, f { mode := .running, lcid := some 0, programmed := true, length := 2, reqs := [q] })] }

/-- A response of class 2 with tag 7. -/
def resp (opc : Nat) (aux : Nat := 0) (addr : Nat := 0) (payload : List Byte := []) : Packet :=
  { cls := 2, opc := opc, tag := 7, aux := aux, addr := addr, payload := payload, loc := .router 0 0 }

def reqOf (kind : ReqKindMv) : Req := { tag := 7, seq := 3, kind := kind }

theorem wit_ResponsesAnswerTheirRequests :
    (∀ p ∈ [resp 0 0 64 (List.replicate 16 0), resp 1, resp 5, resp 3, resp 2, resp 4], let s := waiting (reqOf .read) p
      (here p).loc = .router 0 0 ∧ s.coreHere (here p) = some 0 ∧ (here p).tag < agentTag ∧ s.ejects 0 = true ∧
      s.arrived 0 [2] [(here p).opc] = some (here p) ∧ (s.core 0).findReq 7 = some (reqOf .read) ∧ (s.core 0).fault.valid = false ∧
      ((takeReq (s.takePacket 0) 0 7).core 0).fault.valid = false) ∧
    (let p := here (resp 0 0 64 (List.replicate 16 0))
     let s := waiting (reqOf .read) p
     (readLands (takeReq (s.takePacket 0) 0 p.tag) 0 p).cause = 0) ∧
    (∀ kind ∈ [ReqKindMv.sync, .write, .note, .message, .asksGrant 0 0],
      ((waiting (reqOf kind) (resp 1)).core 0).findReq (here (resp 1)).tag = some (reqOf kind)) ∧
    (here (resp 1)).aux % 16 = 0 ∧ ((here (resp 1 2)).aux % 16 ≠ 0 ∧ (here (resp 1 2)).aux % 16 ≠ 3) ∧
    (let p := here (resp 3 1)
     let s := waiting (reqOf (.asksGrant 0 0)) p
     s.arrived 0 [2] [3] = some p ∧ p.aux % 4 ≠ 0 ∧ ((takeReq (s.takePacket 0) 0 p.tag).core 0).fault.valid = false) := by
  and_intros <;> decide +kernel

/-- A MSG packet for stream 5. -/
def msg (aux : Nat) (ctrl : Bool := true) : Packet := { cls := 0, opc := 6, tag := 9, aux := aux, ctrl := ctrl, addr := 5, payload := zeros 16, loc := .router 0 0 }

/-- Core 0 with a RECV posted on stream 5 and, where bad holds, a latched fault. -/
def receiving (p : Packet) (bad : Bool := false) : State :=
  { up with
    net := [here p]
    cores := [(0, { mode := .running, lcid := some 0, programmed := true, length := 2, fault := { valid := bad, cause := if bad then 1 else 0 }
                    mvRun := [{ op := { w := BitVec.ofNat 64 (iw 3 5 0), pc := 0, seq := 3 }, key := 5 }] })] }

theorem wit_MessagesArriveAndRequestsTimeOut :
    (let s := receiving (msg 0) true; s.arrived 0 [0, 1] [6] = some (here (msg 0)) ∧ s.coreHere (here (msg 0)) = some 0 ∧ s.ejects 0 = true ∧
      (s.core 0).fault.valid = true) ∧
    (∀ p ∈ [msg 0x80, msg 0x40, msg 0], let s := receiving p
      s.arrived 0 [0, 1] [6] = some (here p) ∧ s.coreHere (here p) = some 0 ∧ s.ejects 0 = true ∧ (s.core 0).fault.valid = false ∧
      ((s.core 0).postedRecv ((here p).addr % 4096)).isSome = true) ∧
    ((here (msg 0x80)).ctrl && (here (msg 0x80)).aux.testBit 7) = true ∧
    (((here (msg 0x40)).ctrl && (here (msg 0x40)).aux.testBit 7) = false ∧ (here (msg 0x40)).aux.testBit 6 = true) ∧
    (((here (msg 0)).ctrl && (here (msg 0)).aux.testBit 7) = false ∧ (here (msg 0)).aux.testBit 6 = false) ∧
    (let s := { waiting (reqOf .read) (resp 1) with now := 10000000 }
     (s.core 0).findReq 7 = some (reqOf .read) ∧ (s.core 0).waitReq (reqOf .read) = false ∧ (reqOf .read).born + 10000000 ≤ s.now ∧ (s.core 0).fault.valid = false) ∧
    (let s := { waiting (reqOf .read) (resp 1) (fun c => { c with fault := { valid := true, cause := 1 } }) with now := 10000000 }
     (s.core 0).waitReq (reqOf .read) = false ∧ (s.core 0).fault.valid = true) := by
  and_intros <;> decide +kernel

/-- A request for a at the router of core 0. -/
def askFor (opc a : Nat) (n : Nat := 4) (aux : Nat := 3) : Packet :=
  { cls := 0, opc := opc, tag := 9, aux := aux, addr := a, payload := if opc = 0 then bytesLE 2 (n - 1) ++ zeros 14 else zeros (if opc = 2 then 16 else n), loc := .router 0 0 }

/-- The packet at core 0's router; core 0 holds a program of two words at 0; its word at 64 is bad where ue holds. -/
def serving (p : Packet) (ue : Bool := false) (f : Core → Core := id) : State :=
  { up with
    net := [here p], sramUe := if ue then [sramKey 0 64 / 8] else []
    cores := [(0, f { mode := .running, lcid := some 0, programmed := true, length := 2 }), (8, { paired := true, partner := true, lcid := some 0 })] }

theorem wit_InboundRequestsAreServed :
    (∀ x ∈ [(0, false), (0, true), (1, false), (2, false)], let p := here (askFor x.1 0x100000000040)
      let s := serving p x.2
      s.atTarget p = true ∧ targetOf p.addr = .sram 0 64 ∧ s.arrived 0 [0, 1] [x.1] = some p ∧ s.servedCore 0 = some 0 ∧
      64 + p.readLen ≤ sramSize ∧ 64 + p.writeBytes.length ≤ sramSize ∧ s.sramBad 0 64 p.readLen = x.2 ∧
      (s.core 0).inProgram 64 p.writeBytes.length = false ∧ (s.core 0).paired = false) ∧
    (∀ opc ∈ [1, 2], let p := here (askFor opc 0x100000000008)
      let s := serving p
      s.atTarget p = true ∧ targetOf p.addr = .sram 0 8 ∧ s.servedCore 0 = some 0 ∧ (s.core 0).inProgram 8 p.writeBytes.length = true) ∧
    (∀ opc ∈ [0, 1, 2], let p := here (askFor opc 0x100001400040)
      let s := serving p
      s.atTarget p = true ∧ targetOf p.addr = .sram 5 64 ∧ s.servedCore 5 = none) ∧
    (∀ opc ∈ [1, 2], let p := here (askFor opc 0x100000000040)
      let s := (serving p false (fun c => { c with paired := true })).updRegion 0 (fun r => { r with assign := r.assign.map (fun a => { a with role := 1, pair := 0 }) })
      s.servedCore 0 = some 0 ∧ (s.core 0).paired = true ∧ (s.pairOf 0).isSome = true) ∧
    (let p := here (askFor 0 0x200200000000)
     let s := serving p
     s.atTarget p = true ∧ s.arrived 0 [0, 1] [0] = some p ∧ (s.controlWord p.addr).isSome = true ∧ p.readLen = 4 ∧ p.addr % 4 = 0 ∧
     targetOf p.addr = .coreReg 0 0) ∧
    (∀ opc ∈ [1, 2], let p := here (askFor opc 0x200300000004)
      let s := serving p
      s.atTarget p = true ∧ s.arrived 0 [0, 1] [opc] = some p ∧ p.writeBytes.length = 4 ∧ p.addr % 4 = 0 ∧ targetOf p.addr = .sync 0 4 ∧
      (writeControl (s.takePacket 0) p.addr (natLE p.writeBytes)).isSome = true) := by
  and_intros <;> decide +kernel

/-- A request of a kind for object 0 at its home, the object being x. -/
def atHome (kind value : Nat) (x : SyncObj) : State :=
  { up with syncs := [(0, x)], net := [here (syncPacket 0 0 0 0 kind value 0 (.router 1 1) (.router 0 0))] }

theorem wit_SyncObjectsCountAndRelease :
    (∀ x ∈ [({ target := 2, run := true }, 0, 1), ({ target := 2 }, 0, 1), ({ target := 2 }, 0, 2), ({ target := 2, run := true }, 2, 1), ({ target := 2 }, 2, 1),
        ({ target := 2 }, 2, 0), ({ faulted := true }, 1, 0), ({ target := 2, released := true }, 1, 0), ({ target := 2 }, 1, 0), ({ faulted := true }, 3, 1),
        ({ target := 2, run := true }, 3, 1), ({ target := 2, released := true }, 3, 1), ({ target := 2 }, 3, 1),
        ({ target := 2, counter := 1 }, (3 : Nat), (1 : Nat))],
      let s := atHome x.2.1 x.2.2 x.1
      s.canonical = true ∧ (s.syncHere 0 x.2.1).isSome = true ∧ s.sync 0 = x.1) ∧
    (∀ n ∈ [(1 : Nat), 2], ((atHome 0 n { target := 2 }).syncHere 0 0).map (fun p => (p.addr, p.syncValue)) = some (0, n)) ∧
    (∀ n ∈ [(0 : Nat), 1], ((atHome 2 n { target := 2 }).syncHere 0 2).map (·.syncValue) = some n) ∧
    min (0 + 1 % 65536) 0xFFFFFFFF < 2 ∧ 2 ≤ min (0 + 2 % 65536) 0xFFFFFFFF ∧
    (let s := { up with syncs := [(0, { target := 2, signallers := [0] })], cores := [(0, { lcid := some 0, fault := { valid := true, cause := 1 } })] }
     (s.sync 0).signallers.has 0 = true ∧ s.lcidLost 0 false = true) ∧
    (let s := { up with syncs := [(0, { target := 2, signallers := [5] })] }
     (s.sync 0).signallers.has 5 = true ∧ s.lcidLost 5 true = true) := by
  and_intros <;> decide +kernel

/-- The panel of up with the tap leg 0 and the north links of site 0 up, both ends, and a packet p in flight. -/
def moving (p : Packet) (f : State → State := id) : State :=
  f { up with
      net := [p], regions := [0, 1, 2, 3, 4, 5, 6, 7].map (fun r => (r, { up.region 0 with })), coxes := [(0, { live := true }), (1, { live := true })]
      links := [(12, { state := 1, groups := 15 }), (13, { state := 1, groups := 15 }), (28, { state := 1 }), (32, { state := 1, groups := 15 }), (33, { state := 1, groups := 15 })] }

/-- A one-beat read request from (x, y) to node n. -/
def hop (x y : Nat) (n : Node) (ttl : Nat := 255) : Packet :=
  { (({ cls := 0, opc := 0, loc := .router x y, payload := zeros 16, ttl := ttl } : Packet).setSrc (.router 0 1)).setDest n with loc := .router x y }

/-- What nextHop answers, by name. -/
def hopKind (s : State) (p : Packet) : Nat :=
  match s.nextHop p with
  | .move (.edge _ _) _ _ => 1
  | .move (.router _ _) _ _ => 2
  | .stop _ => 3
  | .cross _ _ _ _ _ => 4
  | .hold => 5

theorem wit_PacketsMoveOneHop :
    (∀ x ∈ [(hop 0 0 (.router 1 0) 1, 2), (hop 0 0 (.router 1 0), 2), (hop 2 2 (.edge 0 0), 1), (hop 2 2 (.edge 7 0), 1), (hop 5 0 (.router 6 0), 3),
        (hop 0 5 (.router 0 6), (4 : Nat))], let p := x.1
      let s := moving p
      s.net[0]? = some p ∧ (s.coreHere p).isSome = true ∧ s.routerRuns 0 = true ∧ p.dkind ≠ 3 ∧ p.dest ≠ some p.loc ∧ headOfLine s.net 0 = true ∧
      listedOpc p.cls p.opc = true ∧ hopKind s p = x.2) ∧
    (let p := { hop 0 0 (.router 1 0) with opc := 15 }
     let s := moving p; headOfLine s.net 0 = true ∧ (s.coreHere p).isSome = true ∧ listedOpc p.cls p.opc = false) ∧
    (let p := { hop 0 0 (.router 1 0) with dkind := 3 }; headOfLine (moving p).net 0 = true) ∧
    (let p := hop 0 0 (.router 1 0)
     let s := moving p; s.wants p = some 2 ∧ ((s.outGrant p.loc 2).map (·.1)) = some 0 ∧ 1 < p.ttl) ∧
    (let p := hop 0 5 (.router 0 6); hopKind (moving p (fun s => s.updLink 12 (fun l => { l with state := 3 }))) p = 5) ∧
    (∀ x ∈ [(Node.edge 0 1, 1), (.router 1 1, 2), (.router 40 0, (3 : Nat))], let p := { hop 2 2 x.1 with loc := .edge 0 0 }
      let s := moving p
      s.net[0]? = some p ∧ headOfLine s.net 0 = true ∧ p.dest ≠ some p.loc ∧ hopKind s p = x.2) ∧
    (moving (hop 2 2 (.edge 0 0))).edgeAdmits (hop 2 2 (.edge 0 0)) (.edge 0 0) = true ∧
    (moving (hop 2 2 (.edge 7 0))).edgeAdmits (hop 2 2 (.edge 7 0)) (.edge 7 0) = false ∧ (hop 2 2 (.edge 7 0)).port = none ∧
    (let s := moving (hop 0 0 (.router 1 0)); s.regionLive 0 = true ∧ (s.region 0).tapOut = false ∧ (s.link 28).up = true) := by
  and_intros <;> decide +kernel

/-- A link frame of 136 bytes with a sequence number and a slot mask; good says that its CRC is right. -/
def frameOf (seq mask : Nat) (good : Bool := true) : List Byte :=
  let b := zeros 128 ++ [BitVec.ofNat 8 seq, 0, 0, BitVec.ofNat 8 mask]
  b ++ bytesLE 4 (crc32c b + if good then 0 else 1)

/-- Link end 12 of site 0 retrains, with its partner. -/
def retraining : State := { moving (hop 0 0 (.router 1 0)) with links := [(12, { state := 3 }), (24, { state := 3 }), (28, { state := 3 }), (32, { state := 3 })] }

theorem wit_LinksAcknowledgeAndRetrain :
    (let s := moving (hop 0 0 (.router 1 0))
     (s.linkPlace 0 12).isSome = true ∧ s.linkPartner 0 12 = some 32 ∧ (s.link 12).up = true ∧ (s.link 32).up = true ∧
     s.endRuns 12 = true ∧ s.endRuns 32 = true ∧ (s.link 12).hold = false ∧ s.endStretched 12 = false ∧ s.endStretched 32 = false ∧ s.canonical = true) ∧
    (let s := (moving (hop 0 0 (.router 1 0))).updLink 12 (fun l => { l with hold := true, state := 3 }); (s.link 12).hold = true ∧ (s.link 12).up = false) ∧
    (let s := (moving (hop 0 0 (.router 1 0))).updRegion 4 (fun r => { r with droop := .stretched })
     let t := s.updLink 12 (fun l => { l with turn := true }); s.endStretched 32 = true ∧ (t.link 12).turn = true) ∧
    (∀ x ∈ [(frameOf 0 0 false, false, false, true), (frameOf 0 0, true, false, true), (frameOf 0 1, true, true, true), (frameOf 1 1, true, true, false)],
      let s := moving (hop 0 0 (.router 1 0))
      (parseFrame x.1).2 = x.2.1 ∧ ((parseFrame x.1).1.mask != 0) = x.2.2.1 ∧ ((parseFrame x.1).1.seq == (s.link 12).expect) = x.2.2.2) ∧
    (let s := (moving (hop 0 0 (.router 1 0))).updLink 12 (fun l => { l with replayRun := 8, crcTimes := List.replicate 257 1000000 })
     8 ≤ (s.link 12).replayRun ∧ 256 < ((s.link 12).crcTimes.filter (fun t => decide (s.now < t + 1000000))).length) ∧
    ((retraining.link 12).state = 3 ∧ retraining.linkPartner 0 12 = some 32 ∧ (retraining.link 24).state = 3 ∧ (retraining.link 28).state = 3) ∧
    (∀ x ∈ [([1, 0, 0, 0], 4), ([2, 2, 0, 0], 2), ([2, 2, 2, 0], (1 : Nat))], ((List.range 4).filter (fun g => decide (x.1.getD g 0 ≤ 1))).length = x.2) := by
  and_intros <;> decide +kernel

theorem wit_RouteChangesDrainAndResume :
    (let s := up.updFab 0 (fun f => { f with paused := true, pausedAt := 0 })
     s.paused 0 = true ∧ (s.hub 0).fab.drained = false ∧ s.drainedNow 0 = true ∧ (s.hub 0).fab.pausedAt + 1000000 ≤ s.now) ∧
    (let s := up.updFab 0 (fun f => { f with paused := true, drained := true }); s.paused 0 = true ∧ (s.hub 0).fab.drained = true) := by
  and_intros <;> decide +kernel

/-- A collective packet of tree 0 of a type at the router of core 0. -/
def col (ty opc kind : Nat) : Packet :=
  { cls := 3, opc := opc, dkind := 2, dest1 := 4 * ty, ctrl := true, aux := kind, addr := 2 ^ 32, payload := zeros 16, loc := .router 0 0 }

/-- Tree 0 of a type, rooted at LCID 0, which is its member. -/
def treed (ty : Nat) (p : Packet) : State :=
  { up with
    net := [p], cores := [(0, { mode := .running, lcid := some 0, programmed := true, length := 2 })]
    trees := [(1024 * ty, { rec? := some ⟨0, ty, 0, 0, 0, 0, 1, 0, 0, 1, 64⟩, members := [0], nodes := [(0, { member := some 0 })] })] }

theorem wit_TreePacketsAreServed :
    (∀ x ∈ [(0, 1, 1), (0, 0, 0), (1, 1, 0), (0, 2, 0), (0, 1, 2), (0, 1, 3)], let p := col x.1 x.2.1 x.2.2
      (treed x.1 p).colHere 0 x.1 [x.2.1] [x.2.2] = some p) ∧
    (let p := col 1 0 1; (treed 1 p).colHere 0 0 [1] [1] = none ∧ (treed 1 p).colHere 0 1 [0] [1] = some p) ∧
    (let p := col 0 2 0; let s := treed 0 p; s.portResultHere 0 = none ∧ s.coreHere p = some 0 ∧ s.ejects 0 = true) ∧
    (∀ kind ∈ [(0 : Nat), 1], let p := col 1 2 kind; let s := treed 1 p
     p.colKind = kind ∧ s.portResultHere 0 = none ∧ s.colHere 0 0 [2] [0, 4] = none ∧ s.colHere 0 1 [2] [0, 1, 4] = some p ∧ s.coreHere p = some 0 ∧ s.ejects 0 = true) ∧
    (let p : Packet := here ((({ cls := 3, opc := 2, loc := .router 0 0, payload := zeros 16 } : Packet)))
     let q := { p with sedge := true, src0 := 4, src1 := 0 }
     let s := { treed 0 q with net := [q] }
     s.portResultHere 0 = some (q, 0) ∧ s.ejects 0 = true) ∧
    (({ up with rings := [{ lcids := [0], part := 0 }] } : State).rings[0]?).isSome = true := by
  and_intros <;> decide +kernel

/-- A request of partition 0 at slice 0 of stack 0, whose state is st. -/
def atSlice (opc : Nat) (st : Nat) (queued : Bool) (a : Nat := 0) : State :=
  let p : Packet := ((({ cls := 0, opc := opc, tag := 9, addr := a, aux := 3, payload := zeros 16, loc := .router 0 0 } : Packet).setSrc (.router 0 0)).setDest (sliceNode 0))
  let p := { p with loc := sliceNode 0, aux := if opc = 3 then 0 else 3 }
  { up with
    hubs := hubsOf true (fun h => { h with interleave := [0] }), stackTab := [(0, { state := st, selfRefresh := false })]
    net := if queued then [] else [p], slices := if queued then [(0, { queue := [(p, 0)] })] else [] }

theorem wit_SlicesServeRequests :
    (∀ st ∈ [4, 1, 2, 3], let s := atSlice 1 st false
      (s.arrived 0 [0, 1] [0, 1, 2, 3, 4, 5, 6]).map (fun p => (nodeSlice p.loc, p.opc, s.sliceByte p.part p.addr)) = some (some 0, 1, some (0, 0)) ∧
      (s.sliceGrant 0).map (·.1) = some 0 ∧ (s.stack 0).state = st ∧ (s.slice 0).queue.length < 64) ∧
    ((atSlice 1 2 false (2 ^ 40)).sliceByte 0 (2 ^ 40) = none ∧ ((atSlice 1 2 false 4096).sliceByte 0 4096).map (·.1) = some 1 ∧
      (List.replicate 64 (hop 0 0 (.router 1 0), 0)).length = 64) ∧
    (let s := atSlice 0 2 true
     (s.sliceHead 0 [0]).isSome = true ∧ (readFinds (popSlice s 0) 0 0 0 0 1 [] []).2 = [] ∧ (readFinds (popSlice s 0) 0 0 0 0 1 [] [0]).2 ≠ []) ∧
    (∀ opc ∈ [1, 2], ((atSlice opc 2 true).sliceHead 0 [1, 2]).isSome = true) ∧
    (let s := atSlice 2 2 true
     (hbmWrite (partialFinds (popSlice s 0) 0 0 0 0 4 false [] []) 0 0 (zeros 4)).2 = [] ∧ (hbmWrite (partialFinds (popSlice s 0) 0 0 0 0 4 false [] [0]) 0 0 (zeros 4)).2 ≠ []) ∧
    (let s := atSlice 3 2 true
     (s.sliceHead 0 [3]).isSome = true ∧ (partialFinds (popSlice s 0) 0 0 0 0 8 true [] []).hbmBad (hbmKey s 0 0 / 8) = false ∧
     (partialFinds (popSlice s 0) 0 0 0 0 8 true [] [0]).hbmBad (hbmKey s 0 0 / 8) = true ∧ (atomResult 0 0 0 0).isSome = true ∧ atomResult 9 0 0 0 = none) := by
  and_intros <;> decide +kernel

theorem wit_StacksKeepThemselves :
    (let s := { up with hubs := hubsOf false, slices := [(0, { retiring := [(0, 64512)] })], stackTab := [(0, { state := 2 })] }
     (s.slice 0).retiring = [(0, 64512)] ∧ s.sliceWorks 0 = true ∧ s.partOfStack 0 = none) ∧
    (let s := { up with stackTab := [(0, { state := 2, temp := 65, trainTemp := [(0, 51), (1, 81)], parityTimes := [(2, List.replicate 32 1000000000)]
                                           hotSince := some 1, retraining := [3], selfRefresh := false })]
                        now := 1000000001 }
     (s.stack 0).state = 2 ∧ (s.stack 0).retraining.has 0 = false ∧ Tab.get 0 (s.stack 0).trainTemp 0 = 50 + 1 ∧ 50 + 15 ≤ (s.stack 0).temp ∧
     Tab.get 0 (s.stack 0).trainTemp 1 = 80 + 1 ∧ (s.stack 0).temp + 15 ≤ 80 ∧ (s.stack 0).retraining.has 2 = false ∧
     32 ≤ ((Tab.get [] (s.stack 0).parityTimes 2).filter (fun t => decide (s.now < t + 1000000))).length ∧ (s.stack 0).retraining.has 3 = true ∧
     (s.stack 0).hotSince = some 1 ∧ 1 + 1000000000 ≤ s.now ∧ (s.stack 0).selfRefresh = false) ∧ up.canonical = true := by
  and_intros <;> decide +kernel

theorem wit_ScrubberAndLogComplete :
    (up.region (coreRegion 0)).clock = .running ∧
    (∀ n ∈ [255, 256], let s := up.updHub 0 (fun h => { h with inbox := [{ event := 11 }], pending := n })
      (s.hub 0).inbox = [{ event := 11 }] ∧ (s.hub 0).pending = n) := by
  and_intros <;> decide +kernel

/-- The panel of up with stage A closed, every supply as it should be and bring-up complete. -/
def fed (f : Power → Power := id) : State :=
  { up with power := f { efuses := [0, 1, 2, 3, 12], groups := [(0, { state := 1, sites := 15 })], rails := [(0, { state := 1 })], aux := [(4, { state := 1 }), (5, { state := 1 })] } }

theorem wit_SupplyFaultsActAsStated :
    fed.supply.stageA = true ∧
    (∀ x ∈ [(0, 1), (3, 3), (7, 4), (255, (9 : Nat))], let s := fed (fun p => { p with failed := x.1 })
      s.power.failed.testBit 19 = false ∧ bitCount (s.power.failed + 2 ^ 19) 20 = x.2) ∧
    (fed.phased 0 = true ∧ (fed.region 0).phaseFail.toNat.testBit 7 = false ∧ (fed.region 0).phaseFail = 0) ∧
    (let s := fed.updRegion 0 (fun x => { x with phaseFail := 1 }); s.phased 0 = true ∧ (s.region 0).phaseFail.toNat.testBit 7 = false ∧ (s.region 0).phaseFail ≠ 0) ∧
    (let s := fed.updRegion 0 (fun x => { x with sensors := 0x3F })
     s.phased 0 = true ∧ 3 ≤ bitCount (0x3F &&& 7) 6 ∧ bitCount ((s.region 0).sensors &&& 3).toNat 6 < 3) := by
  and_intros <;> decide +kernel

theorem wit_TripsAndHubLossActAsStated :
    fed.power.efuses.has 0 = true ∧ fed.power.shorts.contains (1, 0) = false ∧ fed.power.shorts.contains (1, 12) = false ∧ (fed.group 0).state = 1 ∧
    (let s := { fed.updCox 0 (fun c => { c with tripAt := some 1000000 }) with power := {} }
     s.power.efuses.has 0 = false ∧ (s.cox 0).tripAt = some s.now ∧ s.power.shorts.contains (1, 0) = false) ∧ fed.power.efuses.has (0 * 13 + 12) = true ∧
    (Tab.get {} fed.power.rails (12 - 12) : Rail).state = 1 ∧
    ((fed.hub 0).live = true ∧ (fed.hub 3).live = true ∧ fed.supply.stageA = true ∧ fed.bring.running ≠ 2) ∧
    (let s := { on with bring := { done := 1, running := 2 } }
     (s.hub 0).live = true ∧ s.supply.stageA = true ∧ s.bring.running = 2) ∧
    (let s := fed.updHub 0 (fun h => { h with live := false }); (s.hub 0).live = false ∧ (s.hub 2).live = true ∧ s.stroke.master2 = false) ∧
    (Tab.get {} fed.power.aux 4 : Rail).state = 1 ∧ (Tab.get {} fed.power.aux 5 : Rail).state ≠ 2 ∧
    (let s := fed (fun p => { p with aux := [(4, { state := 1 }), (5, { state := 2 })] })
     (Tab.get {} s.power.aux 4 : Rail).state = 1 ∧ (Tab.get {} s.power.aux 5 : Rail).state = 2 ∧ s.bring.running ≠ 1) ∧
    (let s := { fed (fun p => { p with aux := [(4, { state := 1 }), (5, { state := 2 })] }) with bring := { running := 1 } }
     (Tab.get {} s.power.aux 4 : Rail).state = 1 ∧ (Tab.get {} s.power.aux 5 : Rail).state = 2 ∧ s.bring.running = 1) := by
  and_intros <;> decide +kernel

theorem wit_PathResistanceAndReenable :
    (fed.phased 0 = true ∧ (fed.region 0).fenced = false) ∧
    (let s := fed (fun p => { p with shorts := [(3, 0)] })
     s.reenPart 3 0 = some 0 ∧ s.power.shorts.contains (3, s.reenUnit 3 0) = true ∧ s.power.reenDone.contains (3, s.reenUnit 3 0) = false) ∧
    (let s := fed (fun p => { p with reenRun := [(3, 0, 0)] }); s.power.reenRun = [(3, 0, 0)] ∧ 0 + 1000000 ≤ s.now) := by
  and_intros <;> decide +kernel

/-- fed with region 0 changed. -/
def fedR (f : Region → Region) : State := fed.updRegion 0 f

/-- A granted request of region 0 since 998 µs. -/
def grantOf (kind : ReqKind) : PowReq := { region := 0, stroke := 5, kind := kind, final := 100, present := 0, since := 998000 }

theorem wit_AdmissionOfLoadCompletes :
    (let s := { fedR (fun x => { x with pstate := 0, clock := .off }) with bring := { done := 4, running := 5, waveNow := [0] } }; s.mayRequest 0 .powerOn = true) ∧
    (fedR (fun x => { x with depth := 2, waking := true })).mayRequest 0 .wake = true ∧
    (fedR (fun x => { x with startDue := true })).mayRequest 0 .crewStart = true ∧
    (fed.managed = true ∧ fed.power.windowNo < fed.now / 10000) ∧
    (∀ kind ∈ [ReqKind.crewStart, .wake, .powerOn],
      (fed (fun p => { p with granted := [grantOf kind] })).power.granted.find? (fun q => q.region == 0 && decide (q.since + 2000 ≤ fed.now)) = some (grantOf kind)) ∧
    (let s := fedR (fun x => { x with grantAt := some 900000, pstate := 2, clock := .off })
     (s.region 0).grantAt = some 900000 ∧ (s.region 0).pstate = 2 ∧ (s.region 0).clock = .off ∧ (s.region 0).fenced = false ∧
     900000 + 2000 + railMv (s.region 0).vset * 20 ≤ s.now) ∧
    (let s := fedR (fun x => { x with pstate := 2 }); (s.region 0).pstate = 2 ∧ (s.region 0).clock = .running) ∧ fed.supply.stageA = true := by
  and_intros <;> decide +kernel

/-- fed in a phase of crew 0 whose wake deadline is ns, with region 0 quiet. -/
def idlePhase (ns : Nat) : State :=
  { fed with hubs := hubsOf true (fun h => { h with lay := { layout? := some { part := { stackMask := 1, portMask := 1 }, phases := [⟨0, 0, 3, ns⟩] } } }) }

theorem wit_CapsAndIdleDepthsComplete :
    ((fed.region 0).vset ≠ 0 ∧ (fed.region 0).fenced = false ∧ (fed.region 0).limit < 30000) ∧
    (let s := idlePhase 100
     s.regionQuiet 0 = true ∧ s.packetWaits 0 = false ∧ (s.region 0).depth = 0 ∧ (s.region 0).assign.isSome = true ∧ 1 ≤ s.allowedDepth 0) ∧
    (let s := { idlePhase 8000 with now := 2000000 }
     let s1 := s.updRegion 0 (fun x => { x with depth := 1, idleSince := some 1920000 })
     (s1.region 0).idleSince = some 1920000 ∧ s1.regionQuiet 0 = true ∧ s1.packetWaits 0 = false ∧ (s1.region 0).waking = false ∧ (s1.region 0).depth = 1 ∧
     2 ≤ s1.allowedDepth 0 ∧ 1920000 + 80000 ≤ s1.now) ∧
    (let s := { idlePhase 120000 with now := 2000000 }
     let s1 := s.updRegion 0 (fun x => { x with depth := 2, idleSince := some 800000 })
     (s1.region 0).idleSince = some 800000 ∧ s1.regionQuiet 0 = true ∧ s1.packetWaits 0 = false ∧ (s1.region 0).waking = false ∧ (s1.region 0).depth = 2 ∧
     3 ≤ s1.allowedDepth 0 ∧ 800000 + 1200000 ≤ s1.now) ∧
    (let s := fedR (fun x => { x with depth := 1, wakeReq := true, assign := none })
     (s.region 0).depth ≠ 0 ∧ (s.region 0).waking = false ∧ (s.region 0).fenced = false ∧ s.panelStopped = false ∧ (s.region 0).assign = none ∧
     (s.region 0).wakeReq = true) ∧
    (∀ d ∈ [1, 2, 3], let s := fedR (fun x => { x with depth := d, waking := true, grantAt := some 880000 })
      (s.region 0).grantAt = some 880000 ∧ (s.region 0).waking = true ∧ (s.region 0).depth = d ∧ 880000 + 120000 ≤ s.now) ∧
    fed.managed = true ∧
    (let s := { fed with hubs := hubsOf false, stroke := { running := true, count := 10, standby := 10 } }
     s.managed = true ∧ s.stroke.running = true ∧ s.panelStopped = false ∧ s.stroke.count % s.stroke.epoch = 0 ∧ s.power.lastEpoch < s.stroke.count ∧
     (List.range 4).all (fun p => s.layoutOf p == none) = true) := by
  and_intros <;> decide +kernel

theorem wit_CapEpochPostsEveryComponent :
    (let s := { fed with stroke := { running := true, count := 10, standby := 10 } }
     s.managed = true ∧ s.stroke.running = true ∧ s.panelStopped = false ∧ s.stroke.count % s.stroke.epoch = 0 ∧ s.power.lastEpoch < s.stroke.count) ∧
    (let s := { fed with stroke := { running := true } }
     s.stroke.count % s.stroke.epoch = 0 ∧ s.power.epochs = 0) := by and_intros <;> decide +kernel

theorem wit_ThermalAndCoolantCommandsComplete :
    (fed.cox 0).live = true ∧ (fed.supply.stageA = true ∧ 2 ≤ fed.bring.done) ∧
    (let s := { fedR (fun x => { x with hot113 := some 0 }) with now := 1000000 }
     s.trips 0 = true ∧ s.heatFenced 0 = false ∧ 0 ∈ siteRegions 0 ∧ (s.region 0).hot113 = some 0 ∧ 0 + 1000000 ≤ s.now) ∧
    (let s := { fed with now := 2000000000, cool := { lowSince := some 1000000000, hotSince := some 1000000000, stopAt := some 0, leakAt := some 1500000000 } }
     s.cool.lowSince = some 1000000000 ∧ s.cool.hotSince = some 1000000000 ∧ s.cool.stopAt = some 0 ∧ s.cool.leakAt = some 1500000000 ∧
     1000000000 + 1000000000 ≤ s.now ∧ 0 + 2000000000 ≤ s.now ∧ 1500000000 + 500000000 ≤ s.now) ∧
    fed.cool.leak = false ∧
    (([650] : List Int).zip [651]).any (fun x => decide (x.1 < x.2)) = true ∧
    (let s := { fed with now := 1000000000, cool := { dp := 10, dpHist := [(900000000, 1000), (950000000, 1000)] } }; s.suddenFall = true) ∧
    (let s := fed
     s.panelStopped = false ∧ ((List.range 4).filter (fun p => (s.hub p).stopping.isSome)) = []) ∧
    (let s := { fed with cool := { stopCause := 2, stopAt := some 0 } }
     s.panelStopped = true ∧ s.cool.drained = false ∧ (List.range 4).all (fun p => (s.hub p).stopping == none) = true) := by
  and_intros <;> decide +kernel

/-- A panel that has completed n steps. -/
def doneN (n : Nat) (f : State → State := id) : State := f { on with now := 1000000000, bring := { done := n } }

theorem wit_FirstBringUpStepsRun :
    (let s := { State.reset with supply := { charged := true } }; s.supply.charged = true ∧ s.supply.stageA = false) ∧
    State.reset.supply.charged = false ∧ on.supply.stageA = true ∧
    (∀ n ∈ [0, 1, 2, 3], let s := doneN n
      s.portLive 0 = true ∧ s.bring.running = 0 ∧ s.bring.stopped = false ∧ s.bring.failed = false ∧ s.bring.done = n ∧ s.power.converters ≤ 8 ∧
      (s.hub 0).live = true) ∧
    (let s := doneN 1 (fun s => s.updHub 0 (fun h => { h with live := false }))
     s.portLive 1 = true ∧ s.bring.running = 0 ∧ s.bring.done = 1 ∧ (s.hub 0).live = false) ∧
    (let inp : AuthInput := ⟨true, true, true, [], []⟩; inp.factoryListOk = true ∧ inp.calibrationOk = true ∧ inp.hallmarkOk = true) ∧
    (let inp : AuthInput := ⟨true, true, false, [], []⟩; inp.hallmarkOk = false) := by
  and_intros <;> decide +kernel

/-- Coolant as it should be. -/
def cool (s : State) : State := s.updCool (fun c => { c with sampled := true, flow := 400, inlet := 300 })

/-- A panel with region 0 still to be powered by a load. -/
def toLoad (s : State) : State :=
  { s with cores := (List.range 36).map (fun k => (k, { tested := true })), stackTab := [(0, { state := 2 })], colMaps := [(0, { valid := true })], power := { efuses := [0] }, coxes := [(0, { live := true })]
           hubs := hubsOf false (fun h => { h with lay := { state := .staged, staged := some { part := { stackMask := 1 }, crews := [⟨0, 1, 1, 0, 0⟩], regions := [⟨0, 0, 0, 0, 65535, 0⟩] } } }) }

theorem wit_LastBringUpStepsRun :
    (∀ n ∈ [4, 5, 6, 7, 8], let s := cool (doneN n)
      s.portLive 0 = true ∧ s.bring.running = 0 ∧ s.bring.stopped = false ∧ s.bring.failed = false ∧ s.bring.done = n ∧ s.coolantBad = false) ∧
    (doneN 4).coolantBad = true ∧
    (beginLoad ((doneN 7).updBring (fun b => { b with running := 8, since := 1000000000 }))).bring.waveLeft = [] ∧
    (beginLoad ((doneN 7 toLoad).updBring (fun b => { b with running := 8, since := 1000000000 }))).bring.waveLeft ≠ [] ∧
    (let s := { up with bring := { done := 8 } }
     s.portLive 0 = true ∧ s.bring.running = 0 ∧ s.bring.stopped = false ∧ s.bring.failed = false ∧ (s.layoutOf 0).isSome = true ∧ s.bring.ready.has 0 = false) ∧
    (let s := { on with bring := { done := 4, running := 5, waveLeft := [3] } }
     s.bring.running = 5 ∧ s.bring.verdict = 0 ∧ s.bring.waveLeft ≠ [] ∧ s.waveSettled = true) ∧
    (let s := { on with bring := { running := 15, offLeft := [3], offWindow := some 7 } }
     ¬ ((s.bring.running = 5 ∨ s.bring.running = 8) ∧ s.bring.verdict = 0) ∧ s.bring.offLeft ≠ [] ∧ s.bring.offWindow ≠ some (s.now / 10000)) ∧
    (let s := { up with now := 1000000000, bring := { done := 5, running := 6, since := 0, input := .tests [] } }
     s.bring.input = .tests [] ∧ Finding.core 0 ∉ [] ∧ s.bring.running = 6 ∧ s.bring.since + 1000000000 ≤ s.now ∧ (s.region (coreRegion 0)).pstate = 3 ∧ (s.region (coreRegion 0)).fenced = false) := by
  and_intros <;> decide +kernel

theorem wit_StepsOutOfOrderAreRefused :
    State.reset.portLive 0 = false ∧ ((7 : Nat) ≤ 7 ∧ 7 ≤ (doneN 7).bring.done) ∧
    (∀ b ∈ [({ done := 1, running := 1 } : BringUp), { stopped := true }, { failed := true, done := 1, verdict := 2 }, { done := 0 }],
      let s := { on with bring := b }
      s.portLive 0 = true ∧ (3 : Nat) ≠ s.bring.running ∧ ¬ ((3 : Nat) ≤ 7 ∧ 3 ≤ s.bring.done) ∧
      (s.bring.running ≠ 0 ∨ s.bring.stopped = true ∨ s.bring.done + 1 < 3 ∨ (s.bring.failed = true ∧ s.bring.verdict ≠ 5))) ∧
    (let s := doneN 6; s.portLive 0 = true ∧ (8 : Nat) ≠ s.bring.running ∧ s.bring.done < 7) ∧
    (let s := doneN 7; s.portLive 0 = true ∧ (9 : Nat) ≠ s.bring.running ∧ s.bring.done < 8 ∧ s.bring.ready.has 0 = false) := by
  and_intros <;> decide +kernel

/-- An image of three empty sections whose listed digests are right. -/
def image : Image := ⟨0, [], [], [], List.replicate 3 ⟨digest64 [], []⟩⟩

/-- Whether the image passes depends on the vendor's key list and on ML-DSA alone, which Config holds. -/
theorem wit_image (h1 : Config.vendorRoots.contains (digest64 []) = true) (h2 : Config.mldsaVerify [] [] [] = true) : imageCause 0 image = 0 := by
  have h3 : (image.sections.any fun x => digest64 x.content != x.listed) = false := by simp [image]
  unfold imageCause
  rw [h3]
  simp only [image, h1, h2]
  decide

theorem wit_StepsEndAndRecoveryLoads :
    (∀ b ∈ [({ running := 15 } : BringUp), { done := 1, running := 2, verdict := 3 }, { running := 1, verdict := 2 }, { done := 1, running := 2 }, { done := 2, running := 3, input := .auth ⟨true, true, true, [], []⟩ }, { done := 3, running := 4 },
        { done := 4, running := 5 }, { done := 5, running := 6, input := .tests [] }, { done := 6, running := 7, input := .mesh [] [] }, { done := 7, running := 8 }, { done := 8, running := 9 }],
      ({ on with bring := b } : State).stepReady = true) ∧ on.portLive 0 = true ∧
    (let s := { on with bring := { recovery := true } }
     s.bring.recovery = true ∧ s.supply.booted = true ∧ s.part.hostPresent 0 = true ∧ (s.hub 0).live = true ∧ (s.hub 0).linkUp = true ∧ s.bring.recovState = 0) ∧
    imageCause 0 { image with sections := [] } ≠ 0 := by
  and_intros <;> decide +kernel

/-- A layout stream of partition 0: column 0, stack 0, one crew of one region. -/
def stream : List Byte :=
  let body := bytesLE 4 0x454C524D ++ [1, 0, 0, 0] ++ bytesLE 4 320 ++ bytesLE 2 3 ++ zeros 50
    ++ [1, 0] ++ bytesLE 2 64 ++ bytesLE 4 1 ++ bytesLE 4 128 ++ bytesLE 4 64
    ++ [2, 0] ++ bytesLE 2 32 ++ bytesLE 4 1 ++ bytesLE 4 192 ++ bytesLE 4 32
    ++ [3, 0] ++ bytesLE 2 8 ++ bytesLE 4 1 ++ bytesLE 4 256 ++ bytesLE 4 8 ++ zeros 16
    ++ [0, 0, 0, 0] ++ bytesLE 6 1 ++ zeros 54
    ++ [0, 1, 1, 0] ++ zeros 60
    ++ [0, 0, 0, 0, 0xFF, 0xFF, 0, 0] ++ zeros 56
  body ++ shake256 64 body

/-- Port 0 with a layout in force where lay holds, its layout stream in the given state. -/
def layState (lay : Bool) (st : LayState) (f : LayPort → LayPort := id) : State :=
  { up with hubs := hubsOf lay (fun h => { h with lay := f { h.lay with state := st, len := 384 } }) }

theorem wit_stream_passes : (layState false .fetching).stageCheck 0 384 stream = none := by decide +kernel

theorem wit_LayoutsAreStagedAndReplaced :
    (∀ lay ∈ [true, false], ∀ st ∈ [LayState.empty, .fetching, .staged, .rejected, .replacePending, .applying], let s := layState lay st
      s.portLive 0 = true ∧ (s.hub 0).lay.state = st ∧ 4 ≤ s.bring.done ∧ (s.layoutOf 0).isSome = lay ∧ (s.hub 0).moving = false) ∧
    ({ layState false .empty with bring := { done := 3 } } : State).bring.done < 4 ∧
    ((layState true .fetching).stageCheck 0 384 []).isSome = true ∧
    (let s := layState true .staged (fun y => { y with repl := 100 }); s.partStopped 0 = false ∧ (postEvent s 0 .replacement 100).posted = .ok) ∧
    (postEvent (layState true .staged) 0 .replacement 0).posted ≠ .ok ∧
    (let s := layState true .applying (fun y => { y with quietSince := some 0 }); s.quieting 0 = true ∧ s.partQuiet 0 = true) ∧
    (let s := { layState true .applying (fun y => { y with quietSince := some 0 }) with net := [here (resp 1)] }
     s.quieting 0 = true ∧ s.partQuiet 0 = false ∧ (s.hub 0).lay.quietSince = some 0 ∧ 0 + 1000000 ≤ s.now) ∧
    (∀ q ∈ [true, false], let s := (layState true .applying (fun y => { y with loading := true, staged := some {} })).updFab 0 (fun f => { f with paused := q })
     s.paused 0 = q ∧ (s.hub 0).lay.staged.isSome = true ∧ (s.hub 0).lay.state = .applying ∧ (s.hub 0).lay.loading = true ∧ (s.layoutOf 0).isSome = true) ∧
    (let s := { up.updRegion 0 (fun r => { r with loading := some 0 }) with cores := [(0, { lcid := some 0 })] }
     (s.region 0).loading = some 0 ∧ s.partOfSite 0 = some 0 ∧ (s.layoutOf 0).isSome = true ∧ s.coreOf 0 = some 0 ∧ s.leadOf 0 = some 0) := by
  and_intros <;> decide +kernel

theorem wit_HostRegistersAnswer :
    (up.hostUp 0 = true ∧ up.bring.recovery = false) ∧ barPlace 0 = .page 0 ∧ barPlace 0xFFFC = .page 0xFFFC ∧
    (barPlace 0x400000 = .sync 0 0 ∧ (up.unitWord 0 (.sync 0 0)).isSome = true) ∧ barPlace 0x800000 = .reserved ∧
    up.reachSync 0 0 = true ∧ (up.objNode 0).isSome = true ∧ up.reachSync 0 2000 = false ∧
    up.committed 0 0x430 0x1000 / 2 ^ 30 * 2 ^ 30 = 0x100000000000 ∧
    up.committed 0 0x430 0x0200 / 2 ^ 30 * 2 ^ 30 = 0x020000000000 ∧ ¬ ((0x020000000000 : Nat) < 0x020000000000 ∨ (0x020000000000 : Nat) = 0x100000000000) ∧
    up.committed 0 0x430 0x01FF / 2 ^ 30 * 2 ^ 30 < 0x020000000000 ∧
    up.aliasBit 0 0x20207C = .page 0x100 31 ∧ woWord 0x100 = true ∧ up.aliasBit 0 0x200000 = .page 0 0 ∧ woWord 0 = false ∧
    (let s := up.updHub 0 (fun h => { h with alias_ := 0 }); s.aliasBit 0 0x600000 = .unit (.cox 0 0) 0 ∧ (s.unitWord 0 (.cox 0 0)).isSome = true) := by
  and_intros <;> decide +kernel

theorem wit_Bar2AccessesComplete :
    (up.hostUp 0 = true ∧ (up.hub 0).moving = false) ∧
    (let s := up.updHub 0 (fun h => { h with moving := true }); s.hostUp 0 = true ∧ (s.hub 0).moving = true) ∧
    (up.part.hostPresent 0 = true ∧ (up.hub 0).live = true) ∧ (8 : BitVec 36).toNat % 8 = 0 ∧ (8 : BitVec 36).toNat % 16 ≠ 0 := by
  and_intros <;> decide +kernel

/-- The ring of port 0. -/
def ring (c : CmdPort) : State := up.updCmd 0 (fun _ => c)

/-- A command record of 64 B. -/
def cmdRec (b : List Byte) : List Byte := b ++ zeros (64 - b.length)

/-- One command fetched and nothing else to do. -/
def fetchedOne (b : List Byte) (f : State → State := id) : State := f (ring { state := 1, fetched := [(0, cmdRec b)] })

theorem wit_CommandRingRuns :
    (∀ n ∈ [0, 1, 255], let s := ring { state := 1, fetch := 1 }
      (s.hub 0).cmd.fetch = 1 ∧ (s.hub 0).cmd.state = 1 ∧ n < 2 ^ (s.hub 0).cmd.sqLog ∧ n < 2 ^ (s.hub 0).cmd.cqLog ∧
      (((s.updCmd 0 (fun c => { c with sqTail := n })).hub 0).cmd.takes = 0 ↔ n = 0)) ∧
    (let s := ring { state := 1, fetch := 2, fetchN := 1 }; (s.hub 0).cmd.fetch = 2 ∧ (s.hub 0).cmd.state = 1 ∧ [cmdRec [0, 1]].length = (s.hub 0).cmd.fetchN) ∧
    ((settleCmds (fetchedOne [0, 1]) 0).headCmd 0 0).isSome = true ∧
    ((settleCmds (fetchedOne (([1, 1, 0, 0] ++ zeros 28) ++ bytesLE 4 64)) 0).headCmd 0 1).isSome = true ∧
    ((settleCmds (fetchedOne (([2, 1, 0, 0] ++ zeros 28) ++ bytesLE 4 64)) 0).headCmd 0 2).isSome = true ∧
    (let u := settleCmds (fetchedOne ([3, 1, 0, 0] ++ zeros 16 ++ [1])) 0
     (u.headCmd 0 3).isSome = true ∧ (u.objNode 0).isSome = true ∧ u.partOfDie (objDie 0) = some 0) ∧
    (∀ opc ∈ [(3 : Byte), 4], let u := settleCmds (fetchedOne ([opc, 1] ++ zeros 14 ++ bytesLE 4 16384 ++ [if opc = 3 then 1 else 0])) 0
      (u.headCmd 0 opc.toNat).map (fun x => recNat x.2 16 4) = some 16384 ∧ u.ownObject 0 16384 = false) ∧
    (∀ x ∈ [({ faulted := true } : SyncObj), { released := true, target := 1, counter := 1 }, { target := 1 }],
      let u := settleCmds (fetchedOne [4, 1] (fun s => { s with syncs := [(0, x)] })) 0
      (u.headCmd 0 4).isSome = true ∧ u.ownObject 0 0 = true ∧ (u.sync 0).faulted = x.faulted ∧ (u.sync 0).released = x.released) ∧
    (∀ x ∈ [(0, PostResult.stale), (100, .ok)], let u := settleCmds (fetchedOne ([5, 1] ++ zeros 22 ++ bytesLE 6 x.1)) 0
      (u.headCmd 0 5).isSome = true ∧ (postEvent (popCmd u 0 0) 0 (.phase 0) x.1).posted = x.2) ∧
    (let u := settleCmds (fetchedOne ([5, 1] ++ zeros 22 ++ bytesLE 6 100)
        (fun s => s.updCox 0 (fun c => { c with transit := List.replicate 32 { part := 0, stroke := 50, ev := .telemetry } }))) 0
     (u.headCmd 0 5).isSome = true ∧ (postEvent (popCmd u 0 0) 0 (.phase 0) 100).posted = .full) ∧
    (∀ x ∈ [(5, true), (6, false)], let u := settleCmds (fetchedOne ([6, 1] ++ zeros 22 ++ bytesLE 6 x.1)) 0
      (u.headCmd 0 6).isSome = true ∧ decide (x.1 ≤ u.stroke.count) = x.2) ∧
    (∀ opc ∈ [(1 : Byte), 2], let r := cmdRec (([opc, 1, 0, 0] ++ zeros 28) ++ bytesLE 4 64)
      let s := { ring { state := 1, active := [{ index := 0, rec_ := r }] } with stackTab := [(0, { state := 2 })] }
      ((((s.hub 0).cmd.active).filter (fun a => isCopy a.rec_))[0]?).isSome = true ∧ (s.hub 0).moving = false ∧
      s.copyFlows (s.copyPieces 0 0 64) = true ∧ (64 : Nat) = recNat r 32 4) ∧
    (∀ irq ∈ [none, some (3 : Nat)], ∀ co ∈ [true, false],
      let s := ring { state := 1, coalesceNow := co, held := [⟨0, 0, 0, 0, 0, 0, irq⟩] }
      let c := ((settleCmds s 0).hub 0).cmd
      c.held = [⟨0, 0, 0, 0, 0, 0, irq⟩] ∧ c.room ≠ 0 ∧ c.coalesceNow = co) ∧
    (let s := (ring { state := 1, cqHead := 1, held := [⟨0, 0, 0, 0, 0, 0, none⟩] }).updHub 0 (fun h => { h with stopped := true })
     let u := settleCmds s 0
     (u.hub 0).cmd.held ≠ [] ∧ (u.hub 0).cmd.room = 0 ∧ u.partStopped 0 = true) ∧
    (let s := ring { state := 3 }; (s.hub 0).cmd.state = 3 ∧ (s.hub 0).live = true ∧ (s.hub 0).linkUp = true) := by
  and_intros <;> decide +kernel

/-- A frame of a type on a channel with sequence number seq, as a partner of version 0x12 sends it. -/
def frm (ty : Byte) (ch : Nat := 0) (payload : List Byte := []) (seq : Nat := 0) (f : SppHeader → SppHeader := id) : Frame :=
  { hd := f { version := 0x12, type := ty, cls := BitVec.ofNat 2 (frameClass ty.toNat ch), key := false, nak := false, first := true, last := true, rsv := false
              gen := 0, seq := BitVec.ofNat 32 seq, ack := 0, channel := BitVec.ofNat 16 ch, length := BitVec.ofNat 16 payload.length, credits := [0, 0, 0, 0]
              txn := 0, msgLen := 0 }
    payload := payload, fcsOk := true, tagOk := true }

/-- Port 0 belongs to partition 0, whose layout names two streams of it. -/
def ported (f : FPort → FPort := id) (follow : Bool := true) : State :=
  { up with
    now := 4000000000000
    fports := [(0, f { state := 4, version := 0x12, part := some 0, lanes := 0xFF })]
    hubs := hubsOf true (fun h => { h with lay := { layout? := some { part := { stackMask := 1, portMask := 1, follow := follow }, streams := [⟨0xF000, 7, 0, 8⟩, ⟨0, 9, 0xF000, 11⟩] } } }) }

theorem wit_FramesAreJudged :
    (∀ ty ∈ [(0x08 : Byte), 0x09, 0x10, 0x11, 0x12, 0x13, 0x14], (frm ty).hd.type = ty) ∧
    ((ported (fun p => { p with state := 3 })).fport 0).state ≠ 4 ∧ (ported.fport 0).state = 4 ∧
    ({ frm 0x10 7 with fcsOk := false } : Frame).fcsOk = false ∧ ({ frm 0x10 7 with tagOk := false } : Frame).tagOk = false ∧
    ((frm 0x10 7 [] 0 (fun h => { h with key := true })).hd.key ≠ (ported.fport 0).keyBit ∧ (ported.fport 0).grace = 0) ∧
    ((frm 0x10 7).hd.key = (ported.fport 0).keyBit ∧ 0x10 ≤ (frm 0x10 7).hd.type.toNat ∧ (frm 0x10 7 [] 1).hd.seq.toNat ≠ (ported.fport 0).seqIn) ∧
    (let fr := frm 0x08 0 [] 0 (fun h => { h with rsv := true })
     fr.hd.type.toNat < 0x10 ∧ ((takeReturns (ported.updFport 0 (fun p => { p with lastRx := ported.now, grace := p.grace - 1 })) 0 fr).fport 0).badHeader fr = true) ∧
    (let fr := frm 0x10 7 [] 0 (fun h => { h with rsv := true })
     let back := takeReturns (ported.updFport 0 (fun p => { p with lastRx := ported.now, grace := p.grace - 1 })) 0 fr
     fr.hd.seq.toNat = (ported.fport 0).seqIn ∧
     ((back.updFport 0 (fun p => { p with seqIn := (p.seqIn + 1) % 2 ^ 32, nakSent := false })).fport 0).badHeader fr = true) := by
  and_intros <;> decide +kernel

/-- The state after link layer and firewall let a frame pass. -/
def passed (s : State) (fr : Frame) : State := (firewall (linkLayer s 0 fr).1 0 fr).1

theorem wit_FramesAreTaken :
    (∀ fr ∈ [frm 0x10 7, frm 0x10 7 [] 0 (fun h => { h with gen := 1 }), frm 0x10 3088, frm 0x10 3072, frm 0x10 3087, frm 0x10 8, frm 0x11 11,
        frm 0x12 3072 (zeros 4), frm 0x12 3087 (zeros 4), frm 0x13 0 [1], frm 0x14 0 (zeros 7), frm 0x08, frm 0x09 0 (List.replicate 1184 0),
        frm 0x09 0 (List.replicate 1088 0), frm 0x06],
      (linkLayer ported 0 fr).2 = true ∧ (firewall (linkLayer ported 0 fr).1 0 fr).2 = true) ∧
    ((frm 0x10 7).hd.gen.toNat = (passed ported (frm 0x10 7)).portGen 0 ∧ ((passed ported (frm 0x10 7)).channelIn 0 7).isSome = true) ∧
    (frm 0x10 7 [] 0 (fun h => { h with gen := 1 })).hd.gen.toNat ≠ (passed ported (frm 0x10 7 [] 0 (fun h => { h with gen := 1 }))).portGen 0 ∧
    (passed ported (frm 0x10 8)).channelIn 0 8 = none ∧
    ((passed ported (frm 0x11 11)).channelOut 0 11).map (fun r => (r.srcLcid, ((passed ported (frm 0x11 11)).lcidNode r.srcLcid).isSome)) = some (0, true) ∧
    (let u := passed ported (frm 0x14 0 (zeros 7)); (u.fport 0).part = some 0 ∧ u.follows 0 = true) ∧
    (passed (ported id false) (frm 0x14 0 (zeros 7))).follows 0 = false ∧
    ((passed ported (frm 0x09 0 (List.replicate 1184 0))).fport 0).rekeying = false ∧
    ((passed (ported (fun p => { p with rekeying := true })) (frm 0x09 0 (List.replicate 1088 0))).fport 0).rekeying = true := by
  and_intros <;> decide +kernel

/-- A port in the handshake at a step. -/
def shaking (n : Nat) : State := ported (fun p => { p with state := 3, step := n })

/-- Which end of a chain's or a FINISH's two clauses applies is what ML-DSA answers, which Config holds. -/
theorem wit_HandshakeGoesThroughItsSteps :
    (let s := ported (fun p => { p with state := 1 })
     (s.fport 0).state = 1 ∧ (s.fport 0).enable = true ∧ s.partStopped (((s.fport 0).part).getD 0) = false ∧ (s.fport 0).lanes = 0xFF) ∧
    (∀ n ∈ [1, 3, 4, 6], ((shaking n).fport 0).state = 3 ∧ ((shaking n).fport 0).step = n ∧ ((shaking n).fport 0).ssPeer = none ∧ ((shaking n).fport 0).ssOwn = none) ∧
    (∀ x ∈ [([0x13, 0x14, 0, 0], true), ([0x12, 0x12, 0, 0], false), ([0x10, 0x10, 0, 0], false)], let fr := frm 0x01 0 x.1
      fr.hd.type = 0x01 ∧ fr.fcsOk = true ∧
      decide (min fabricMax (natLE (slice fr.payload 1 1)) < max fabricMin (natLE (fr.payload.take 1))) = x.2) ∧
    (frm 0x02 0 [] 0 (fun h => { h with last := false })).hd.last = false ∧ ((frm 0x02).hd.type = 0x02 ∧ (frm 0x02).hd.last = true) ∧
    chainAnchors [] [] [] = false ∧
    (∀ ty ∈ [(0x03 : Byte), 0x04, 0x05, 0x06], (frm ty).hd.type = ty ∧ (frm ty).fcsOk = true) ∧
    (let p := ((ported (fun p => { p with rekeying := true, version := 0x10, step := 6 })).fport 0); p.state = 4 ∧ p.rekeying = true ∧ p.version = 0x10 ∧ p.step = 6) := by
  and_intros <;> decide +kernel

theorem wit_PortsRetrainAndRearm :
    (0x0F : Byte).toNat % 16 = 15 ∧ (0xF0 : Byte).toNat / 16 = 15 ∧ ¬ ((0x77 : Byte).toNat % 16 = 15 ∨ (0x77 : Byte).toNat / 16 = 15) ∧
    (let s := ported; (s.fport 0).state = 4 ∧ (s.fport 0).lastRx + 1000000 ≤ s.now ∧ (s.fport 0).lastTx + 10000 ≤ s.now ∧ (s.fport 0).rekeying = false ∧
      (s.fport 0).keyAt + 3600000000000 ≤ s.now ∧ s.mayControl 0 0 = true ∧ (s.fport 0).linkUp = true) ∧
    2 ^ 31 ≤ ((ported (fun p => { p with txn := 2 ^ 31 })).fport 0).txn ∧
    (∀ r ∈ [true, false], let s := ported (fun p => { p with state := 5, rekeying := r })
      (s.fport 0).state = 5 ∧ (s.fport 0).retrainAt + 10000000 ≤ s.now ∧ (s.fport 0).rekeying = r ∧ s.mayControl 0 0 = true) ∧
    (∀ st ∈ [2, 7, 6, 3, 1], ∀ en ∈ [true, false], let s := ported (fun p => { p with state := st, enable := en })
      (s.fport 0).state = st ∧ (s.fport 0).enable = en ∧ (s.fport 0).part = some 0 ∧ s.partStopped 0 = false ∧ (s.fport 0).downAt + 100000000 ≤ s.now ∧
      (s.fport 0).linkUp = false ∧ s.mayControl 0 0 = true) := by
  and_intros <;> decide +kernel

/-- A packet that has come to port 0. -/
def toPort (cls opc aux : Nat) : Packet :=
  { ((({ cls := cls, opc := opc, aux := aux, addr := 11, payload := zeros 16, loc := .router 0 0 } : Packet).setSrc (.router 0 0)).setDest (portNode 0)) with loc := portNode 0 }

theorem wit_MessagesLeaveAndWindowsCommit :
    (∀ x ∈ [(0, 6, 0, false), (0, 6, 0x40, true), (3, 0, 0, true)], let p := toPort x.1 x.2.1 x.2.2.1
      let s := { ported with net := [p] }
      s.arrived 0 [0, 3] [0, 6] = some p ∧ nodePort p.loc = some 0 ∧ (s.fport 0).linkUp = true ∧ (outPiece p).2.1 = x.2.2.2) ∧
    ((ported (fun p => { p with state := 7 })).fport 0).linkUp = false ∧
    (∀ irq ∈ [true, false], let s := ported (fun p => { p with winIrq := irq, windows := [(0, { enable := true, recs := [(0, 64, 0)] })] })
      ((s.fport 0).window 0).recs = [(0, 64, 0)] ∧ (s.fport 0).winIrq = irq) ∧
    (∀ en ∈ [true, false], let s := ported (fun p => { p with windows := [(0, { enable := en, wr := 64 })] })
      let x := (s.fport 0).window 0
      s.mayControl 0 0 = true ∧ x.wr - x.rd < (65 + 2 ^ 32 - x.rd % 2 ^ 32) % 2 ^ 32 ∧ (64 + 2 ^ 32 - x.rd % 2 ^ 32) % 2 ^ 32 ≤ x.wr - x.rd ∧
      (64 + 2 ^ 32 - x.rd % 2 ^ 32) % 2 ^ 32 ≠ 0 ∧ (0 + 2 ^ 32 - x.rd % 2 ^ 32) % 2 ^ 32 = 0 ∧ x.enable = en) := by
  and_intros <;> decide +kernel

/-- SHAKE256 of 1,952 zero bytes: what a panel of that public key calls itself. -/
def selfDigest : List Byte :=
  [0xE0, 0x19, 0xE6, 0x7A, 0x77, 0xCB, 0x2E, 0x66, 0x52, 0x1C, 0xED, 0x71, 0x55, 0xFF, 0xBB, 0x97, 0x12, 0xB7, 0x73, 0x9F, 0xD2, 0xBE, 0xB6, 0x49, 0x3D, 0x8A, 0xE6, 0x73, 0x52, 0x9C, 0xD5, 0x00, 0x8B, 0x50, 0xAB, 0xC8, 0x81, 0xA1, 0x48, 0x4E, 0xC3, 0x27, 0xEF, 0x9D, 0xF3, 0x4B, 0x88, 0xF2, 0x63, 0x24, 0x6B, 0xAA, 0x8F, 0x7A, 0xFD, 0xAD, 0x8E, 0x11, 0x5B, 0x27, 0x17, 0xB9, 0x6A, 0x30]

/-- A certificate of a kind for that key, issued by it. -/
def certBytes (kind : Byte) : List Byte := bytesLE 4 0x54434E4B ++ [1, kind, 0, 0] ++ selfDigest ++ zeros 2024 ++ zeros 3309

/-- A security command for that panel, as its fields and as its bytes. -/
def secCmd (code : Byte) (signer : Byte) (payload : List Byte) : List Byte :=
  bytesLE 4 0x444D434B ++ [1, code, signer, 0] ++ selfDigest ++ zeros 32 ++ bytesLE 4 payload.length ++ zeros 20 ++ payload ++ zeros (if signer = 0 then 0 else sigBytes)

/-- A panel that waits for a security command on port 0. -/
def secured (owned : Bool) (f : Security → Security := id) : State :=
  { on with hubs := hubsOf false (fun h => { h with sec := { state := 1 } }), sec := f { owned := owned, nonce := zeros 32 } }

theorem wit_sec_ready (owned : Bool) : let s := secured owned
    s.supply.booted = true ∧ s.bring.recovery = false ∧ (s.hub 0).live = true ∧ (s.hub 0).sec.state = 1 ∧ s.sec.updating = none ∧ s.sec.writing = none := by
  cases owned <;> decide +kernel

/-- The same command as its fields. -/
def fieldsOf (code signer : Nat) (payload : List Byte) : SecCmd :=
  { code := code, signer := signer, panel := selfDigest, nonce := zeros 32, payload := payload
    signed := (secCmd (BitVec.ofNat 8 code) (BitVec.ofNat 8 signer) payload).take (128 + payload.length), sig := zeros (if signer = 0 then 0 else sigBytes), rootKey := [] }

/-- One payload for each command code that names no certificate. -/
def payloads : List (Nat × Nat × List Byte) :=
  [(1, 0, zeros 44), (4, 1, zeros 1344), (5, 1, []), (6, 1, zeros 4), (7, 0, []), (8, 1, zeros 12), (9, 1, [2, 0, 0, 0, 5, 0, 0, 0]), (10, 1, []), (11, 1, zeros 12)]

/-- Whether a command is accepted rests, besides its bytes, on the panel's identity and on ML-DSA's answers, which Config holds. -/
theorem wit_accepted (hd : identityDigest = selfDigest) (hv : ∀ k m g, Config.mldsaVerify k m g = true) :
    ∀ x ∈ payloads, (secured true).judge (fieldsOf x.1 x.2.1 x.2.2) = 0 := by
  simp only [State.judge, State.sigGood, State.signerGood, hd, hv]
  decide +kernel

theorem wit_parsed : ∀ x ∈ [(1, 0, zeros 44), (7, 0, [])], secCmdOf (secCmd (BitVec.ofNat 8 x.1) (BitVec.ofNat 8 x.2.1) x.2.2) = some (fieldsOf x.1 x.2.1 x.2.2) := by
  decide +kernel

theorem wit_parsed_signed : secCmdOf (secCmd 5 1 []) = some (fieldsOf 5 1 []) := by decide +kernel

/-- The owner's certificate and the panel's, as ENROL and TRANSFER carry them. -/
theorem wit_certs : let b := certBytes 4 ++ certBytes 3
    let o := certOf (slice b 0 certSize)
    let i := certOf (slice b certSize certSize)
    b.length = 2 * certSize ∧ o.ok = true ∧ i.ok = true ∧ o.kind = 4 ∧ i.kind = 3 ∧ o.key = zeros 1952 ∧ i.key = zeros 1952 ∧ o.issuer = selfDigest ∧
    i.issuer = selfDigest := by decide +kernel

/-- ENROL's and TRANSFER's certificates are good; hs is SHAKE256's answer for 1,952 zero bytes, which the kernel takes a minute to find. -/
theorem wit_certs_good (hk : Config.panelPublicKey = zeros 1952) (hs : digest64 (zeros 1952) = selfDigest) (hv : ∀ k m g, Config.mldsaVerify k m g = true) :
    enrolFault (certBytes 4 ++ certBytes 3) = 0 := by
  obtain ⟨hl, ho, hi, hok, hik, hkey, hkey2, ho3, hi3⟩ := wit_certs
  unfold enrolFault
  simp only [hl, ho, hi, hok, hik, Cert.selfSigned, Cert.signedBy, hkey, hkey2, ho3, hi3, hs, hk, hv]
  simp

theorem wit_enrolled_fields : ∀ x ∈ [(2, 0), (3, 1)], let c := fieldsOf x.1 x.2 (certBytes 4 ++ certBytes 3)
    c.code = x.1 ∧ c.signer = x.2 ∧ c.panel = selfDigest ∧ c.nonce = zeros 32 := by
  intro x hx
  simp at hx
  rcases hx with rfl | rfl <;> exact ⟨rfl, rfl, rfl, rfl⟩

theorem judge_enrol (s : State) (c : SecCmd) (hv : ∀ k m g, Config.mldsaVerify k m g = true) (he : enrolFault c.payload = 0) (hp : c.panel = identityDigest)
    (hn : c.nonce = s.sec.nonce) (h : (c.code = 2 ∧ c.signer = 0 ∧ s.sec.owned = false) ∨ (c.code = 3 ∧ c.signer = 1 ∧ s.sec.owned = true)) :
    s.judge c = 0 := by
  rcases h with ⟨h1, h2, h3⟩ | ⟨h1, h2, h3⟩ <;>
    simp [State.judge, payloadBad, State.sigGood, State.signerGood, h1, h2, h3, hv, he, hp, hn]

/-- ENROL and TRANSFER. -/
theorem wit_enrolled (hk : Config.panelPublicKey = zeros 1952) (hs : digest64 (zeros 1952) = selfDigest) (hv : ∀ k m g, Config.mldsaVerify k m g = true) :
    (secured false).judge (fieldsOf 2 0 (certBytes 4 ++ certBytes 3)) = 0 ∧ (secured true).judge (fieldsOf 3 1 (certBytes 4 ++ certBytes 3)) = 0 := by
  have hi2 : identityDigest = selfDigest := by rw [identityDigest, hk, hs]
  have he := wit_certs_good hk hs hv
  exact ⟨judge_enrol _ _ hv he hi2.symm rfl (.inl ⟨rfl, rfl, rfl⟩), judge_enrol _ _ hv he hi2.symm rfl (.inr ⟨rfl, rfl, rfl⟩)⟩

/-! ## Witnesses: cores -/

/-- NOP with PRED 0 and PNEG 1 never executes. -/
theorem wit_FalsePredicateIsANoOp :
    (let s := runs (iw 0 0 0 0 1)
     s.canonical = true ∧ s.sramUe = [] ∧ s.sramCe = [] ∧ (s.core 0).badLines.length < 2 ∧ s.coreActive 0 = true ∧ decodeWord (s.word 0) = some .nop ∧
     wPred (s.word 0) = 0 ∧ wPneg (s.word 0) = true ∧ (s.core 0).executes (s.word 0) = false ∧ (s.core 0).pc + 1 < (s.core 0).length) ∧
    (let s := runs (sw 0 0)
     s.coreActive 0 = true ∧ (fetchWord s 0).cause = 0 ∧ decodeWord (s.word 0) = some .nop ∧ (s.core 0).executes (s.word 0) = true ∧
     stalls (s.core 0) .nop (s.word 0) = false) := by and_intros <;> decide +kernel

theorem wit_RegisterInstructionsStayInTheirCore :
    ∀ x ∈ [(CoreFn.nop, sw 0 0), (.twait, sw 4 0), (.pset, sw 5 0), (.alu, sw 6 0), (.movi, sw 7 0), (.tdset, sw 12 0)], let s := runs x.2
      s.canonical = true ∧ s.sramUe = [] ∧ s.sramCe = [] ∧ (s.core 0).badLines.length < 2 ∧
      x.1 ∈ [CoreFn.nop, .twait, .pset, .alu, .movi, .tdset] ∧ s.issues 0 x.1 = true ∧ (s.core 0).pc + 1 < (s.core 0).length := by decide +kernel

theorem wit_StoresWriteTheirBytesOnly :
    (∀ x ∈ [(CoreFn.sst, sw 9 64, 8), (.tdst, sw 11 64, (32 : Nat))], let s := runs x.2.1
      s.canonical = true ∧ s.sramUe = [] ∧ s.sramCe = [] ∧ s.hbmUe = [] ∧ s.hbmCe = [] ∧ (List.range 4).all (fun q => (s.hub q).lostUnits == []) = true ∧
      (s.core 0).badLines.length < 2 ∧ (s.core 0).pc + 1 < (s.core 0).length ∧ s.issues 0 x.1 = true ∧
      ((s.core 0).sreg (wbits (s.word 0) 39 35) + BitVec.ofNat 64 (wbits (s.word 0) 20 0)).toNat = 64 ∧ 64 % x.2.2 = 0 ∧
      (s.core 0).inProgram 64 x.2.2 = false) ∧
    (∀ opc ∈ [(0 : Nat), 1], let p := here (askFor opc 0x100000000040)
      let s := serving p
      s.canonical = true ∧ s.arrived 0 [0, 1] [opc] = some p ∧ s.atTarget p = true ∧ targetOf p.addr = .sram 0 64 ∧ s.servedCore 0 = some 0 ∧
      (s.core 0).paired = false ∧ (s.core 0).badLines.length < 2 ∧ (s.core 0).inProgram 64 p.writeBytes.length = false) ∧
    (∀ x ∈ [((0 : Nat), [(0 : Nat)]), (1, [1, 2])], let s := atSlice x.1 2 true
      s.canonical = true ∧ s.hbmUe = [] ∧ s.hbmCe = [] ∧ (s.sliceHead 0 x.2).isSome = true) := by
  and_intros <;> decide +kernel

theorem wit_NoCommandChangesPartOrFactoryList : up.canonical = true ∧ ∃ t, exec (.nop 0) up = .next t := ⟨by decide +kernel, _, rfl⟩

theorem wit_InterleaveIsABijection : ([5, 7] : List Nat).Nodup ∧ (hbmLocate [5, 7] 0).isSome = true ∧ 5 ∈ [5, 7] ∧
    hbmLocate [5] (32 * 1 * 178000 * 4096 - 1) = some (5 * 32 + 31, 178000 * 4096 - 1) ∧ hbmLocate [5] (32 * 1 * 178000 * 4096) = none ∧
    0 % 4096 + 4095 < 4096 := by decide +kernel

theorem wit_RoundingTakesTheRightNeighbour : 8 % 2 ^ 3 = 0 ∧ 2 * 1 = 1 / 2 ^ 1 * 2 ^ 1 + (1 / 2 ^ 1 * 2 ^ 1 + 2 ^ 1) ∧ 9 % 2 ^ 3 ≠ 0 ∧ 2 ^ 3 ∣ 16 := by decide

theorem wit_ElementsKeepTheirBits : e4m3 ∈ [fp32, bf16, fp16, e4m3, e5m2, e3m2, e2m3, e2m1] ∧ 0x7E < 2 ^ e4m3.width ∧ decodeFloat e4m3 0x7E ≠ .nan ∧
    (decodeFloat e4m3 0x7E).isFin = true := by decide +kernel

/-- The word of an MMA whose operands are empty tensors, of one whose formats do not match, and of a SIGNAL. -/
theorem wit_UnitInstructionsAreIssued :
    (let s := runs (iw 4 0 1); let o := opOf (s.core 0) .signal (s.word 0)
     s.issues 0 .signal = true ∧ issueCause (fetchWord s 0).s 0 .signal { o with upset := [] } = 0) ∧
    (let s := runs (iw 1 1 0); let o := opOf (s.core 0) .mst (s.word 0)
     s.issues 0 .mst = true ∧ issueCause (fetchWord s 0).s 0 .mst { o with upset := [] } ≠ 0) ∧
    (let s := runs (iw 0 0 0 0 1); s.coreActive 0 = true ∧ (fetchWord s 0).cause = 0 ∧ decodeWord (s.word 0) = some .nop ∧ (s.core 0).executes (s.word 0) = false) ∧
    (let s := runs (iw 5 0 0); s.coreActive 0 = true ∧ (fetchWord s 0).cause = 0 ∧ decodeWord (s.word 0) = none) ∧
    (let s := { runs 0 with sramUe := [0] }; s.coreActive 0 = true ∧ (fetchWord s 0).cause ≠ 0) := by
  and_intros <;> decide +kernel

/-- Core 0 with an instruction waiting in unit u. -/
def queued (u : CoreUnit) (o : Op) (partner : Bool := false) : State := runs 0 (fun (c : Core) => { Core.setQueue c u [o] with partner := partner, paired := partner })

/-- An instruction of class, function and operands, with descriptors. -/
def opw (cls fn : Nat) (ops : Nat := 0) (d : Nat := 0) : Op :=
  { w := BitVec.ofNat 64 (iw cls fn ops), pc := 0, seq := 3, td := BitVec.ofNat 256 d, ta := BitVec.ofNat 256 d, tb := BitVec.ofNat 256 d }

theorem wit_UnitsStartInstructions :
    (∀ x ∈ [(CoreUnit.me, false), (.mv, false), (.mv, true)], ((queued x.1 (opw 1 3) x.2).core 0).queue x.1 = [opw 1 3] ∧
      ((queued x.1 (opw 1 3) x.2).core 0).partner = x.2) ∧
    coreFn (wCls (opw 1 3).w) (wFn (opw 1 3).w) = some .mzero ∧ coreFn (wCls (opw 1 0).w) (wFn (opw 1 0).w) = some .mma ∧
    (∀ x ∈ [(CoreFn.ew, 0), (.cvt, 1), (.red, 2), (.trn, 3), (.smx, 4), (.warp, (5 : Nat))], coreFn (wCls (opw 2 x.2).w) (wFn (opw 2 x.2).w) = some x.1) ∧
    (descOf (setVoid 0 true)).void = true ∧
    (∀ x ∈ [(CoreFn.signal, 0), (.wait, 1), (.arm, 2), (.barrier, (3 : Nat))], coreFn (wCls (opw 4 x.2).w) (wFn (opw 4 x.2).w) = some x.1) ∧
    (let s := runs 0; s.canonical = true ∧ (s.core 0).paired = false ∧ (s.core 0).partner = false ∧ (s.objNode (opw 4 0).obj).isSome = true) := by
  and_intros <;> decide +kernel

theorem wit_CoreEventsComplete :
    (∀ x ∈ [iw 4 4 (2 ^ 39), iw 4 4 (2 ^ 39 + 7)], (runs x).canonical = true ∧ (runs x).issues 0 .strokewait = true ∧
      ((fetchWord (runs x) 0).s.core 0).pc + 1 < ((fetchWord (runs x) 0).s.core 0).length) ∧
    (∀ u ∈ [CoreUnit.me, .ve, .mv], let s := runs 0 (fun (c : Core) => c.setRuns u [{ op := opw 1 3, alone := true, done := true }])
      s.routerRuns 0 = true ∧ (((s.core 0).runs u)[0]?).map (fun r => (r.alone, r.done)) = some (true, true)) ∧
    (∀ b ∈ [true, false], let s0 := (runs 0 (fun c => { c with paired := true, submitted := if b then some (0, 0) else none })).updRegion 0 (fun r =>
        { r with assign := r.assign.map (fun a => { a with role := 1, pair := 0 }) })
      let s := { s0 with cores := s0.cores ++ ([(1, { lcid := some 1, submitted := if b then none else some (0, 0) })] : Tab Core), lcidAt := [(0, some 1)] }
      s.pairOf 0 = some 1 ∧ (s.core 0).partner = false ∧ (s.core 0).submitted.isSome = b ∧ (s.core 1).submitted.isSome = !b ∧ 0 + 100000 ≤ s.now) ∧
    (let s := runs 0; s.hostUp 0 = true ∧ s.bring.recovery = false ∧ s.reachCore 0 0 = some 0 ∧ (s.core 0).partner = false ∧ (1 : W32).toNat.testBit 0 = true) := by
  and_intros <;> decide +kernel

/-- An ADMIT_REQ at the router of core 0, for the unit of table 0 and expert 0. -/
def asks : Packet := here { cls := 0, opc := 5, tag := 9, payload := zeros 16, loc := .router 0 0 }

/-- Admission unit 0 of partition 0, on core 0's router, with its window open or not and n slots of 2 granted. -/
def admitting (open_ : Bool) (n : Nat) : State :=
  { runs 0 with
    net := [asks]
    admits := [(0, { valid := true, open_ := open_, granted := n, expert := ⟨0, 0, 2, 2, 0, 1, 0, 0, 0, 0, 0, 0, 0⟩, intake := [0] })] }

theorem wit_AdmissionAndCatchPointsComplete :
    (∀ x ∈ [(true, 1), (true, 2), (false, (0 : Nat))], let s := admitting x.1 x.2
      s.arrived 0 [0] [5] = some asks ∧ s.admitUnit asks = some 0 ∧ s.coreHere asks = some 0 ∧ s.routerRuns 0 = true ∧ (s.admUnit 0).open_ = x.1 ∧
      (s.admUnit 0).granted = x.2 ∧ (s.admUnit 0).expert.capacity = 2 ∧ (s.coreOf (natLE (asks.payload.take 2))).isSome = true) ∧
    (∀ q ∈ [none, some (3 : Nat)], let s := runs 0 (fun c => { c with catches := [{ due := 999000, seq := q }] })
      (s.core 0).catches.find? (fun c => decide (c.due ≤ s.now)) = some { due := 999000, seq := q } ∧ s.routerRuns 0 = true) ∧
    (let s := runs 0 (fun c => { c with quarterUntil := 999256 }); (s.core 0).quarterUntil ≠ 0 ∧ (s.core 0).quarterUntil ≤ s.now) := by
  and_intros <;> decide +kernel

/-! ## Witnesses: hosts -/

theorem wit_ReadsClearOnlyTheirOwnPort : up.canonical = true ∧ up.hostUp 0 = true ∧ up.bring.recovery = false ∧
    (∃ t, exec (.rcRead 0 0x600) up = .next t) ∧ ∃ t, exec (.aliasRead 0 0x200000) up = .next t :=
  ⟨by decide +kernel, by decide +kernel, by decide +kernel, ⟨_, rfl⟩, _, rfl⟩

theorem wit_ReadyStartsTheFetcher :
    ∀ lay ∈ [true, false], let s : State := { up with hubs := hubsOf lay, bring := { done := 8 } }
      s.canonical = true ∧ s.portLive 0 = true ∧ s.bring.ready.has 0 = false ∧ s.bring.running = 0 ∧ 8 ≤ s.bring.done ∧ s.bring.failed = false ∧
      s.bring.stopped = false ∧ (s.layoutOf 0).isSome = lay ∧ (s.layoutOf 0 = none ↔ lay = false) := by decide +kernel

/-- A read of HBM and a write of an SRAM that the partition holds, from port 0. -/
theorem wit_Bar2StaysInItsPartition :
    (let s := atSlice 0 2 false; s.canonical = true ∧ s.hostUp 0 = true ∧ (s.bar2Node 0 64).isSome = true ∧ ∃ t, exec (.bar2Read 0 64 8) s = .next t) ∧
    (let s := up.updHub 0 (fun h => { h with bar2 := 0x100000000000 })
     s.canonical = true ∧ (s.bar2Node 0 0x100000000000).isSome = true ∧ ∃ t, exec (.bar2Write 0 0 [1]) s = .next t) :=
  ⟨⟨by decide +kernel, by decide +kernel, by decide +kernel, _, rfl⟩, by decide +kernel, by decide +kernel, _, rfl⟩

/-! ## Witnesses: security and the boundary -/

/-- RESTORE_FACTORY and CAL_WRITE are accepted (wit_accepted), and AUTH passes with either answer of RESTORE_PEND. -/
theorem wit_RestoreFactoryDiscardsAtAuth :
    (readCal [2, 0, 0, 0, 5, 0, 0, 0]).isSome = true ∧
    (∀ pend ∈ [true, false], let s : State := { doneN 2 with sec := { restorePend := pend } }
      s.portLive 0 = true ∧ s.bring.running = 0 ∧ s.bring.stopped = false ∧ s.bring.failed = false ∧ s.bring.done = 2 ∧ s.sec.restorePend = pend) := by
  and_intros <;> decide +kernel

theorem wit_RefusedSecurityCommandsDoNothingElse :
    (∀ s ∈ [{ secured true with bring := { recovery := true } }, (secured true).updSecPort 0 (fun c => { c with state := 3 }),
        secured true (fun x => { x with updating := some 0 })],
      s.bring.recovery = true ∨ (s.hub 0).sec.state ≠ 1 ∨ s.sec.updating.isSome = true) ∧
    (let s := secured true
     s.supply.booted = true ∧ s.bring.recovery = false ∧ (s.hub 0).live = true ∧ (s.hub 0).sec.state = 1 ∧ s.sec.updating = none ∧ s.sec.writing = none) ∧
    (secCmdOf [0, 0, 0, 0, 0, 5] = none ∧ recByte [0, 0, 0, 0, 0, 5] 5 = 5) ∧
    (secCmdOf (secCmd 7 0 [1])).isSome = true ∧ recByte (secCmd 7 0 [1]) 5 = 7 ∧ (secured true).judge (fieldsOf 7 0 [1]) = 1 := by
  and_intros <;> decide +kernel

/-- Bezel 0 in a state, with one window of 4 KiB of HBM at 0 that may be read. -/
def bezeled (st : Nat) (f : Bezel → Bezel := id) : State :=
  { up with hubs := hubsOf true (fun h => { h with interleave := [0] }), bezels := [(0, f { state := st, windows := [(0, { valid := true, rwa := 4 })] })] }

/-- A read of 4 bytes at a. -/
def bezAsk (a : W48) (cls : BitVec 2 := 0) (against : Nat := 0) : BezelReq := ⟨cls, 0, true, 1, a, 0, [3], against⟩

theorem wit_ImagesBezelsAndBoundaryComplete :
    (let s : State := { on with now := 28800000000000, sec := { session := some { scope := 0, signer := 1, since := 0 } } }
     s.sec.session.isSome = true ∧ 0 + 28800000000000 ≤ s.now) ∧
    (let s := secured true (fun x => { x with updating := some 0 }); s.sec.updating = some 0 ∧ s.sec.writing = none ∧ imageCause s.sec.floor { image with sections := [] } ≠ 0) ∧
    (∀ st ∈ [3, 4], let s := (secured true (fun x => { x with updating := some 0, writing := some image })).updSecPort 0 (fun c => { c with state := st })
      s.sec.updating = some 0 ∧ s.sec.writing = some image ∧ (s.hub 0).sec.state = st) ∧
    (∀ st ∈ [1, 2, 3, 4, 5], (bezeled st).bezControl 0 = true ∧ ((bezeled st).bezel 0).state = st) ∧
    (let s := bezeled 3
     (s.bezel 0).state = 3 ∧ s.bezelOf 0 0 = true ∧ 64 < (bezAsk 0 0 65).against ∧ bezFilters (bezAsk 0 1) = true ∧
     bezFilters (bezAsk 4096) = false ∧ bezPermitted (s.bezel 0) (bezAsk 4096) = false ∧ (recentTimes (s.bezel 0).winAt s.now 1000000).length < 16 ∧
     bezFilters (bezAsk 0) = false ∧ bezPermitted (s.bezel 0) (bezAsk 0) = true ∧ (s.bezNode 0 0).isSome = true ∧ (s.bezel 0).pend.length < (s.bezel 0).out + 1) ∧
    (let s := bezeled 3 (fun b => { b with winAt := List.replicate 16 999999 }); 16 ≤ (recentTimes (s.bezel 0).winAt s.now 1000000).length) ∧
    on.supply.stageA = true ∧ State.reset.supply.stageA = false ∧ on.supply.vin ≠ 0 ∧ on.supply.booted = true ∧ (on.hub 0).live = true ∧
    (panelScope 0 = true ∧ panelScope 0x430 = false) ∧ ({ on with bring := { recovery := true } } : State).bring.recovery = true := by
  and_intros <;> decide +kernel

end Sys2Proof.Tests
end

section
/-!
PROOFS. Chapter 0: the step, what every step keeps, the state after reset, and what a host reads and writes in BAR0.
-/
namespace Sys2Proof.Machine

/-! ## The step -/

theorem step_cons {c : Instr} {rest : List Instr} {s : State} (h : s.pending = c :: rest) :
    step s = exec c { s with pending := rest } := by
  unfold step
  rw [h]

theorem step_nil {s : State} (h : s.pending = []) : step s = .next { s with now := s.now + 1 } := by
  unfold step
  split
  · rfl
  · next hq => cases h.symm.trans hq

/-- Settles O1, by the two forms of the queue. -/
theorem stepRunsTheFrontCommand : Obligations.StepRunsTheFrontCommand :=
  ⟨fun _ _ _ => step_cons, fun _ => step_nil⟩

/-! ## What every command keeps -/

/-- Every row of the opcode table keeps what Kept says: the rows' own lemmas, in the order of the dispatch. -/
theorem exec_kept {μ : Mark} {c : Instr} {s : State} (hk : Kept μ s) : KeptNext μ (exec c s) := by
  cases c with dsimp only [exec]
  | strokeEdge _ _ => exact execStrokeEdge_kept hk
  | strokeQualified _ _ => exact execStrokeQualified_kept hk
  | strokeWindowEnd => exact execStrokeWindowEnd_kept hk
  | synthesisedStroke => exact execSynthesisedStroke_kept hk
  | handoverSpanEnd => exact execHandoverSpanEnd_kept hk
  | strokeMarker _ _ _ => exact execStrokeMarker_kept hk
  | regionStrokeBoundary _ _ => exact execRegionStrokeBoundary_kept hk
  | eventPost _ _ _ => exact execEventPost_kept hk
  | coxEventReceive _ => exact execCoxEventReceive_kept hk
  | freqChangeResume _ => exact execFreqChangeResume_kept hk
  | refLost _ => exact execRefLost_kept hk
  | droopDetect _ => exact execDroopDetect_kept hk
  | droopClear _ => exact execDroopClear_kept hk
  | nop _ => exact execNop_kept hk
  | halt _ => exact execHalt_kept hk
  | br _ => exact execBr_kept hk
  | brr _ => exact execBrr_kept hk
  | twait _ => exact execTwait_kept hk
  | pset _ => exact execPset_kept hk
  | alu _ => exact execAlu_kept hk
  | movi _ => exact execMovi_kept hk
  | sld _ => exact execSld_kept hk
  | sst _ => exact execSst_kept hk
  | tdld _ => exact execTdld_kept hk
  | tdst _ => exact execTdst_kept hk
  | tdset _ => exact execTdset_kept hk
  | srd _ => exact execSrd_kept hk
  | mma _ _ => exact execMma_kept hk
  | mst _ => exact execMst_kept hk
  | mld _ => exact execMld_kept hk
  | mzero _ => exact execMzero_kept hk
  | ew _ => exact execEw_kept hk
  | cvt _ => exact execCvt_kept hk
  | red _ => exact execRed_kept hk
  | trn _ => exact execTrn_kept hk
  | smx _ => exact execSmx_kept hk
  | warp _ => exact execWarp_kept hk
  | copy _ => exact execCopy_kept hk
  | rcopy _ => exact execRcopy_kept hk
  | gather _ => exact execGather_kept hk
  | scatter _ => exact execScatter_kept hk
  | send _ => exact execSend_kept hk
  | recv _ => exact execRecv_kept hk
  | voidMark _ => exact execVoidMark_kept hk
  | route _ => exact execRoute_kept hk
  | signal _ => exact execSignal_kept hk
  | pairSubmissionTimeout _ => exact execPairSubmissionTimeout_kept hk
  | wait _ => exact execWait_kept hk
  | arm _ => exact execArm_kept hk
  | barrier _ => exact execBarrier_kept hk
  | strokewait _ => exact execStrokewait_kept hk
  | instrComplete _ _ _ => exact execInstrComplete_kept hk
  | haltReq _ _ _ => exact execHaltReq_kept hk
  | routerForward _ => exact execRouterForward_kept hk
  | linkFrameReceive _ _ _ => exact execLinkFrameReceive_kept hk
  | linkRetrainStart _ _ _ => exact execLinkRetrainStart_kept hk
  | linkRetrainDone _ _ _ _ _ _ => exact execLinkRetrainDone_kept hk
  | tapOutOfService _ => exact execTapOutOfService_kept hk
  | routeDrainDone _ => exact execRouteDrainDone_kept hk
  | routeDrainTimeout _ => exact execRouteDrainTimeout_kept hk
  | routeTablesLoaded _ => exact execRouteTablesLoaded_kept hk
  | responseTimeout _ _ => exact execResponseTimeout_kept hk
  | rdata _ => exact execRdata_kept hk
  | ack _ => exact execAck_kept hk
  | release _ => exact execRelease_kept hk
  | grant _ => exact execGrant_kept hk
  | credit _ => exact execCredit_kept hk
  | adata _ => exact execAdata_kept hk
  | inboundRd _ => exact execInboundRd_kept hk
  | inboundWr _ => exact execInboundWr_kept hk
  | inboundWrs _ => exact execInboundWrs_kept hk
  | msgReceive _ => exact execMsgReceive_kept hk
  | homeSignal _ => exact execHomeSignal_kept hk
  | homeWait _ => exact execHomeWait_kept hk
  | homeArm _ => exact execHomeArm_kept hk
  | homeBarrier _ => exact execHomeBarrier_kept hk
  | homeFaultReport _ _ _ => exact execHomeFaultReport_kept hk
  | hostSignal _ _ _ => exact execHostSignal_kept hk
  | admitRequest _ => exact execAdmitRequest_kept hk
  | coxFenceReport _ => exact execCoxFenceReport_kept hk
  | catchPoint _ => exact execCatchPoint_kept hk
  | catchEnd _ => exact execCatchEnd_kept hk
  | treeCredit _ => exact execTreeCredit_kept hk
  | treeMcast _ => exact execTreeMcast_kept hk
  | treeContrib _ => exact execTreeContrib_kept hk
  | treeResult _ => exact execTreeResult_kept hk
  | treeDone _ => exact execTreeDone_kept hk
  | treeDropped _ => exact execTreeDropped_kept hk
  | sliceEnqueue _ => exact execSliceEnqueue_kept hk
  | sliceRead _ _ _ => exact execSliceRead_kept hk
  | sliceWrite _ _ => exact execSliceWrite_kept hk
  | sliceAtom _ _ => exact execSliceAtom_kept hk
  | retireCopyDone _ => exact execRetireCopyDone_kept hk
  | hbmRetrainStart _ _ _ => exact execHbmRetrainStart_kept hk
  | hbmRetrainDone _ _ _ _ => exact execHbmRetrainDone_kept hk
  | hbmTempRead _ _ => exact execHbmTempRead_kept hk
  | stackOvertemp _ => exact execStackOvertemp_kept hk
  | ecsRead _ _ => exact execEcsRead_kept hk
  | hbmRefresh _ => exact execHbmRefresh_kept hk
  | hbmZeroDone => exact execHbmZeroDone_kept hk
  | hbmMoveDone _ => exact execHbmMoveDone_kept hk
  | scrubRead _ _ _ _ _ => exact execScrubRead_kept hk
  | spareLoadDone _ _ _ => exact execSpareLoadDone_kept hk
  | faultRecordAppend _ => exact execFaultRecordAppend_kept hk
  | stageaConverterFail _ => exact execStageaConverterFail_kept hk
  | inputUndervoltage => exact execInputUndervoltage_kept hk
  | inputOvervoltage => exact execInputOvervoltage_kept hk
  | phaseFail _ _ => exact execPhaseFail_kept hk
  | railShort _ => exact execRailShort_kept hk
  | railOvervoltage _ => exact execRailOvervoltage_kept hk
  | sensorLoss _ _ => exact execSensorLoss_kept hk
  | efuseTrip _ => exact execEfuseTrip_kept hk
  | groupTrip _ _ => exact execGroupTrip_kept hk
  | channelTrip _ => exact execChannelTrip_kept hk
  | hubLost _ => exact execHubLost_kept hk
  | masterTakeover => exact execMasterTakeover_kept hk
  | baseGroupFail _ => exact execBaseGroupFail_kept hk
  | pathResistanceUpdate _ _ => exact execPathResistanceUpdate_kept hk
  | pwrReen _ _ => exact execPwrReen_kept hk
  | reenTestDone _ => exact execReenTestDone_kept hk
  | powerRequest _ _ _ _ => exact execPowerRequest_kept hk
  | powerGrantWindow => exact execPowerGrantWindow_kept hk
  | powerGrant _ => exact execPowerGrant_kept hk
  | pllLock _ => exact execPllLock_kept hk
  | rampDone _ => exact execRampDone_kept hk
  | telemetryMs _ => exact execTelemetryMs_kept hk
  | capEpoch => exact execCapEpoch_kept hk
  | localLimit _ _ => exact execLocalLimit_kept hk
  | idleClockGate _ => exact execIdleClockGate_kept hk
  | idleRetention _ => exact execIdleRetention_kept hk
  | idleRegionOff _ => exact execIdleRegionOff_kept hk
  | regionWake _ => exact execRegionWake_kept hk
  | wakeDone _ => exact execWakeDone_kept hk
  | thermalPredict _ _ => exact execThermalPredict_kept hk
  | hotspotRead _ _ _ _ => exact execHotspotRead_kept hk
  | thermalFence113 _ => exact execThermalFence113_kept hk
  | comparatorTrip _ => exact execComparatorTrip_kept hk
  | coolantSample _ => exact execCoolantSample_kept hk
  | coolantSlowStop => exact execCoolantSlowStop_kept hk
  | inletStop => exact execInletStop_kept hk
  | suddenLoss => exact execSuddenLoss_kept hk
  | orderedStopDrain => exact execOrderedStopDrain_kept hk
  | supervisorCheck _ _ => exact execSupervisorCheck_kept hk
  | leakSignal => exact execLeakSignal_kept hk
  | leakPowerOff => exact execLeakPowerOff_kept hk
  | heartbeatLoss => exact execHeartbeatLoss_kept hk
  | powerArrival _ _ => exact execPowerArrival_kept hk
  | bulkChargeDone => exact execBulkChargeDone_kept hk
  | supply _ _ => exact execSupply_kept hk
  | hub _ => exact execHub_kept hk
  | auth _ _ => exact execAuth_kept hk
  | inventory _ => exact execInventory_kept hk
  | waves _ => exact execWaves_kept hk
  | powerWave => exact execPowerWave_kept hk
  | starttest _ _ => exact execStarttest_kept hk
  | coreTestTimeout _ => exact execCoreTestTimeout_kept hk
  | mesh _ _ => exact execMesh_kept hk
  | load _ => exact execLoad_kept hk
  | ready _ => exact execReady_kept hk
  | restart _ => exact execRestart_kept hk
  | stepComplete _ _ => exact execStepComplete_kept hk
  | recoveryGo _ => exact execRecoveryGo_kept hk
  | recoveryFetchDone _ => exact execRecoveryFetchDone_kept hk
  | recoveryWriteDone => exact execRecoveryWriteDone_kept hk
  | layoutStage _ => exact execLayoutStage_kept hk
  | layoutFetchDone _ _ => exact execLayoutFetchDone_kept hk
  | layoutDiscard _ => exact execLayoutDiscard_kept hk
  | layoutReplace _ => exact execLayoutReplace_kept hk
  | layoutCancel _ => exact execLayoutCancel_kept hk
  | replaceQuiet _ => exact execReplaceQuiet_kept hk
  | replaceDrainTimeout _ => exact execReplaceDrainTimeout_kept hk
  | replaceLoadDone _ _ _ => exact execReplaceLoadDone_kept hk
  | hostLinkDown _ => exact execHostLinkDown_kept hk
  | hostLinkReturn _ => exact execHostLinkReturn_kept hk
  | bar2Read _ _ _ => exact execBar2Read_kept hk
  | bar2Write _ _ _ => exact execBar2Write_kept hk
  | bar2Atomic _ _ _ _ _ _ => exact execBar2Atomic_kept hk
  | bar2BaseCommit _ _ => exact execBar2BaseCommit_kept hk
  | aliasRead _ _ => exact execAliasRead_kept hk
  | aliasWrite _ _ _ => exact execAliasWrite_kept hk
  | rcRead _ _ => exact execRcRead_kept hk
  | registerWrite _ _ _ => exact execRegisterWrite_kept hk
  | cmdHeaderReadDone _ _ => exact execCmdHeaderReadDone_kept hk
  | cmdRecordsReadDone _ _ => exact execCmdRecordsReadDone_kept hk
  | cmdNop _ => exact execCmdNop_kept hk
  | copyIn _ => exact execCopyIn_kept hk
  | copyOut _ => exact execCopyOut_kept hk
  | copyDone _ _ _ _ _ => exact execCopyDone_kept hk
  | cmdSignal _ => exact execCmdSignal_kept hk
  | cmdWait _ => exact execCmdWait_kept hk
  | cmdEvent _ => exact execCmdEvent_kept hk
  | cmdStroke _ => exact execCmdStroke_kept hk
  | completionWrite _ _ => exact execCompletionWrite_kept hk
  | cmdResume _ => exact execCmdResume_kept hk
  | portPcsLock _ _ => exact execPortPcsLock_kept hk
  | hello _ _ => exact execHello_kept hk
  | cert _ _ => exact execCert_kept hk
  | kemEk _ _ => exact execKemEk_kept hk
  | kemCt _ _ => exact execKemCt_kept hk
  | finish _ _ => exact execFinish_kept hk
  | quit _ _ => exact execQuit_kept hk
  | idle _ _ => exact execIdle_kept hk
  | keyUpdate _ _ => exact execKeyUpdate_kept hk
  | data _ _ => exact execData_kept hk
  | scredit _ _ => exact execScredit_kept hk
  | wcredit _ _ => exact execWcredit_kept hk
  | chreset _ _ => exact execChreset_kept hk
  | publish _ _ => exact execPublish_kept hk
  | portMsgEnqueue _ => exact execPortMsgEnqueue_kept hk
  | portRetrainStart _ => exact execPortRetrainStart_kept hk
  | portRetrainDone _ _ => exact execPortRetrainDone_kept hk
  | portRetrainTimeout _ => exact execPortRetrainTimeout_kept hk
  | portSilence _ => exact execPortSilence_kept hk
  | portIdleTimer _ => exact execPortIdleTimer_kept hk
  | portTrainRetry _ _ => exact execPortTrainRetry_kept hk
  | rekeyTimer _ => exact execRekeyTimer_kept hk
  | portRekey _ _ => exact execPortRekey_kept hk
  | portDown _ _ => exact execPortDown_kept hk
  | portRearm _ _ _ => exact execPortRearm_kept hk
  | windowCommit _ _ => exact execWindowCommit_kept hk
  | winRdWrite _ _ _ _ => exact execWinRdWrite_kept hk
  | report _ _ => exact execReport_kept hk
  | enrol _ _ => exact execEnrol_kept hk
  | transfer _ _ => exact execTransfer_kept hk
  | policy _ _ => exact execPolicy_kept hk
  | fieldClear _ _ => exact execFieldClear_kept hk
  | accessOpen _ _ => exact execAccessOpen_kept hk
  | accessClose _ _ => exact execAccessClose_kept hk
  | accessExpire => exact execAccessExpire_kept hk
  | update _ _ => exact execUpdate_kept hk
  | updateSlotWritten => exact execUpdateSlotWritten_kept hk
  | calWrite _ _ => exact execCalWrite_kept hk
  | restoreFactory _ _ => exact execRestoreFactory_kept hk
  | decommission _ _ => exact execDecommission_kept hk
  | bezEnable _ => exact execBezEnable_kept hk
  | bezDisable _ => exact execBezDisable_kept hk
  | bezRearm _ _ => exact execBezRearm_kept hk
  | bezelPacket _ _ => exact execBezelPacket_kept hk
  | bezelLinkLost _ => exact execBezelLinkLost_kept hk
  | supEnFall => exact execSupEnFall_kept hk
  | smbReadReg _ => exact execSmbReadReg_kept hk
  | smbReadSup => exact execSmbReadSup_kept hk
  | powerRemoved => exact execPowerRemoved_kept hk
  | updateImageFetched _ => exact execUpdateImageFetched_kept hk

theorem exec_mark {c : Instr} {s t : State} (hc : s.canonical = true) (h : exec c s = .next t) : Kept s.mark t :=
  exec_kept (State.kept_mark hc) t h

theorem exec_canonical {c : Instr} {s t : State} (hc : s.canonical = true) (h : exec c s = .next t) : t.canonical = true :=
  (State.canonical_iff t).mpr (exec_mark hc h).canon

/-- Settles O2. An empty queue changes the clock alone; a command starts from a state that differs in the queue alone, which
the canonical form does not read. -/
theorem everyStepKeepsTheCanonicalForm : Obligations.EveryStepKeepsTheCanonicalForm := by
  intro s t hc hstep
  cases hq : s.pending with
  | nil =>
    rw [step_nil hq] at hstep
    cases hstep
    exact hc
  | cons c rest =>
    rw [step_cons hq] at hstep
    have hrest : ({ s with pending := rest } : State).canonical = true := hc
    exact exec_canonical hrest hstep

/-- Settles O3: the mark of the state before a command holds of the state after it. -/
theorem noCommandChangesPartOrFactoryList : Obligations.NoCommandChangesPartOrFactoryList := by
  intro c s t hc h
  obtain ⟨hpart, hfactory, hpending, hfloor, hnow, -⟩ := exec_mark hc h
  exact ⟨hpart, hfactory, hpending, hfloor, hnow⟩

/-! ## Reset -/

theorem reset_canonical : State.reset.canonical = true :=
  (State.canonical_iff _).mpr ⟨rfl, rfl, rfl, rfl, rfl, rfl, rfl, rfl, rfl, rfl, rfl, rfl, rfl, rfl, rfl, rfl, rfl, rfl, rfl, rfl⟩

@[simp] theorem reset_hub (p : Nat) : State.reset.hub p = {} := rfl
@[simp] theorem reset_core (k : Nat) : State.reset.core k = {} := rfl
@[simp] theorem reset_sync (o : Nat) : State.reset.sync o = {} := rfl

/-- A predicate register other than p0 reads its bit. -/
theorem Core.pred_pos {c : Core} {i : Nat} (hi : 0 < i) : c.pred i = c.preds.toNat.testBit i := by
  simp [Core.pred, Nat.ne_of_gt hi]

theorem reset_pred_pos (k : Nat) {i : Nat} (hi : 0 < i) : (State.reset.core k).pred i = false := by
  rw [Core.pred_pos hi, reset_core]
  exact Nat.zero_testBit i

/-- Settles O5. -/
theorem resetIsAsStated : Obligations.ResetIsAsStated := by
  refine ⟨reset_canonical, rfl, rfl, rfl, rfl, rfl, rfl, rfl, rfl, rfl, rfl, rfl, rfl, rfl, rfl, rfl, rfl, rfl, rfl, rfl, ?hubs, ?cores,
    ?preds, ?syncs⟩
  case hubs => intro p; rw [reset_hub]
  case cores => intro k i; rw [reset_core]; exact ⟨rfl, rfl, rfl, rfl, rfl⟩
  case preds => intro k i hi; exact reset_pred_pos k hi
  case syncs => intro o; rw [reset_sync]; exact ⟨rfl, rfl, rfl, rfl⟩

/-! ## BAR0 (R389 to R395, R469) -/

theorem flag_zero (b : Bool) : flag b 0 = if b then 1 else 0 := rfl

/-- The base that a write of the register's high half commits: its bits from 1 GiB up (R390). -/
def State.bar2Commit (s : State) (p : PortId) (data : W32) : Nat := s.committed p 0x430 (data.toNat % 2 ^ 16) / 2 ^ 30 * 2 ^ 30

section bar0
variable {p : PortId} {s : State} {off : BitVec 26} {data : W32} {o : ObjId} {home : Node} {u : BarPlace} {r b v : Nat}
  (hup : s.hostUp p = true) (hrec : s.bring.recovery = false)
include hup hrec

theorem execRcRead_misaligned (hal : off.toNat % 4 ≠ 0) : execRcRead p off s = .next (badRead s p 30 off.toNat) := by
  simp [execRcRead, hup, hrec, hal]

theorem execRegisterWrite_misaligned (hal : off.toNat % 4 ≠ 0) :
    execRegisterWrite p off data s = .next (badWrite s p 30 off.toNat) := by
  simp [execRegisterWrite, hup, hrec, hal]

theorem execHostSignal_unreached (ho : s.reachSync p o = false) :
    execHostSignal p o data s = .next (badWrite s p 31 (0x400000 + o.val * 16 + 12)) := by
  simp [execHostSignal, hup, hrec, ho]

theorem execHostSignal_zero (ho : s.reachSync p o = true) (hn : data.toNat % 65536 = 0) :
    execHostSignal p o data s = .next s := by
  simp [execHostSignal, hup, hrec, ho, hn]

theorem execHostSignal_sends (ho : s.reachSync p o = true) (hn : data.toNat % 65536 ≠ 0) (hh : s.objNode o = some home) :
    execHostSignal p o data s = .next (hubForward s p (syncPacket 1 p 0 o 0 (data.toNat % 65536) 0 (hubNode p) home)
      { tag := 0, kind := 3, size := 4, addr := 0x400000 + o.val * 16 + 12 }) := by
  simp [execHostSignal, hup, hrec, ho, hn, hh]

theorem execBar2BaseCommit_eq : execBar2BaseCommit p data s =
    .next (if s.bar2Commit p data < 0x020000000000 ∨ s.bar2Commit p data = 0x100000000000 then
      s.updHub p (fun h => { h with bar2 := s.bar2Commit p data }) else s) := by
  have hcond : ∀ v, (s.hostUp p && !s.bring.recovery && (decide (v < 0x020000000000) || v == 0x100000000000)) = true ↔
      v < 0x020000000000 ∨ v = 0x100000000000 := by simp [hup, hrec]
  exact congrArg _ (if_congr (hcond _) rfl rfl)

section aligned
variable (hal : off.toNat % 4 = 0)
include hal

theorem execRcRead_page (hb : barPlace off.toNat = .page r) :
    execRcRead p off s = .next (goodRead (clearRc s p r 0xFFFFFFFF) p (s.hubWord p r)) := by
  simp [execRcRead, hup, hrec, hal, hb]

/-- Only a sync object, a cox and a core are units with a word; the other places answer none. -/
theorem execRcRead_unit (hv : s.unitWord p (barPlace off.toNat) = some v) : execRcRead p off s = .next (goodRead s p v) := by
  cases hb : barPlace off.toNat with
  | sync _ _ | cox _ _ | core _ _ => rw [hb] at hv; simp [execRcRead, hup, hrec, hal, hb, hv]
  | page _ | pageAlias _ | blockAlias _ | reserved => rw [hb] at hv; cases hv

theorem execRcRead_reserved (hb : barPlace off.toNat = .reserved) : execRcRead p off s = .next (badRead s p 31 off.toNat) := by
  simp [execRcRead, State.unitWord, hup, hrec, hal, hb]

theorem execRegisterWrite_page (hb : barPlace off.toNat = .page r) :
    execRegisterWrite p off data s = .next (writeReg s p r data.toNat) := by
  simp [execRegisterWrite, hup, hrec, hal, hb]

theorem execRegisterWrite_reserved (hb : barPlace off.toNat = .reserved) :
    execRegisterWrite p off data s = .next (badWrite s p 31 off.toNat) := by
  simp [execRegisterWrite, State.unitWord, hup, hrec, hal, hb]

theorem execAliasRead_page (ha : s.aliasBit p off.toNat = .page r b) (hr : r < 0x8000) :
    execAliasRead p off s =
      .next (goodRead (clearRc s p r (BitVec.ofNat 32 (2 ^ b))) p (if (s.hubWord p r).testBit b then 1 else 0)) := by
  simp [execAliasRead, flag_zero, hup, hrec, hal, ha, Nat.not_le.mpr hr]

theorem execAliasRead_unit (ha : s.aliasBit p off.toNat = .unit u b) (hv : s.unitWord p u = some v) :
    execAliasRead p off s = .next (goodRead s p (if v.testBit b then 1 else 0)) := by
  simp [execAliasRead, flag_zero, hup, hrec, hal, ha, hv]

theorem execAliasWrite_wo (ha : s.aliasBit p off.toNat = .page r b) (hr : r < 0x8000) (hw : woWord r = true) :
    execAliasWrite p off data s = .next (if data.toNat % 2 = 1 then aliasAct s p r b else s) := by
  simp [execAliasWrite, hup, hrec, hal, ha, Nat.not_le.mpr hr, hw]

theorem execAliasWrite_rw (ha : s.aliasBit p off.toNat = .page r b) (hr : r < 0x8000) (hw : woWord r = false) :
    execAliasWrite p off data s = .next (aliasSet s p r b (data.toNat % 2)) := by
  simp [execAliasWrite, hup, hrec, hal, ha, Nat.not_le.mpr hr, hw]

/-- Of the units' words only a core's first, CORE_CTL, takes a bit (R467): hu leaves out the one case in which a write acts. -/
theorem execAliasWrite_unit (ha : s.aliasBit p off.toNat = .unit u b) (hv : s.unitWord p u = some v) (hu : ∀ l, u ≠ .core l 0) :
    execAliasWrite p off data s = .next s := by
  simp [execAliasWrite, hup, hrec, hal, ha, hv]

end aligned
end bar0

/-- Settles O39, clause by clause from the equations of the rows. -/
theorem hostRegistersAnswer : Obligations.HostRegistersAnswer := by
  intro p s hup hrec
  refine ⟨fun off hal => ?aligned, fun off hal => ?misaligned, fun o data => ?signal, fun data => ?base, fun off hal => ?bits⟩
  case aligned =>
    exact ⟨fun _ => execRcRead_page hup hrec hal, fun _ _ => execRcRead_unit hup hrec hal, execRcRead_reserved hup hrec hal,
      fun _ _ => execRegisterWrite_page hup hrec hal, fun _ => execRegisterWrite_reserved hup hrec hal⟩
  case misaligned => exact ⟨execRcRead_misaligned hup hrec hal, fun _ => execRegisterWrite_misaligned hup hrec hal⟩
  case signal =>
    exact ⟨execHostSignal_unreached hup hrec, execHostSignal_zero hup hrec, fun _ => execHostSignal_sends hup hrec⟩
  case base =>
    have hcommit := execBar2BaseCommit_eq hup hrec (data := data)
    exact ⟨fun hv => hcommit.trans (congrArg _ (if_pos hv)), fun hv => hcommit.trans (congrArg _ (if_neg hv))⟩
  case bits =>
    refine ⟨fun r b ha hr => ⟨execAliasRead_page hup hrec hal ha hr, fun d hw hd => ?acts, fun d hw hd => ?rests,
      fun _ => execAliasWrite_rw hup hrec hal ha hr⟩, fun u b v ha hv => ⟨execAliasRead_unit hup hrec hal ha hv,
      fun _ => execAliasWrite_unit hup hrec hal ha hv⟩⟩
    case acts => exact (execAliasWrite_wo hup hrec hal ha hr hw).trans (congrArg _ (if_pos hd))
    case rests => exact (execAliasWrite_wo hup hrec hal ha hr hw).trans (congrArg _ (if_neg (by omega)))

end Sys2Proof.Machine
end

section
/-!
PROOFS. Chapter 1: the panel's anatomy: what an address in the SRAM window of a core names.
-/
namespace Sys2Proof.Machine

/-! ## SRAM windows (R33) -/

/-- In the range of the SRAM windows, the quotient by the size of a window is the LCID and the remainder is the offset. -/
theorem targetOf_sramRange {a : Nat} (hlo : 0x100000000000 ≤ a) (hhi : a < 0x100480000000) :
    targetOf a = if (a - 0x100000000000) % 0x400000 < 0x200000 then
      .sram ((a - 0x100000000000) / 0x400000) ((a - 0x100000000000) % 0x400000) else .reserved := by
  rw [targetOf, if_neg (by omega), if_pos ⟨hlo, hhi⟩]

theorem sramBase_add_sub (l off : Nat) : sramBase l + off - 0x100000000000 = l * 0x400000 + off := by
  rw [sramBase, Nat.add_assoc, Nat.add_sub_cancel_left]

theorem le_sramBase_add (l off : Nat) : 0x100000000000 ≤ sramBase l + off := by
  rw [sramBase, Nat.add_assoc]; exact Nat.le_add_right _ _

section window
variable {off : Nat} (hoff : off < 0x400000)
include hoff

/-- The window of the last LCID, 4,607, ends where the range of the windows ends. -/
theorem sramBase_add_lt (l : Lcid) : sramBase l + off < 0x100480000000 := by
  have hl : l.val < 4608 := l.isLt
  rw [sramBase]; omega

theorem sramBase_add_div (l : Nat) : (sramBase l + off - 0x100000000000) / 0x400000 = l := by
  rw [sramBase_add_sub]; omega

theorem sramBase_add_mod (l : Nat) : (sramBase l + off - 0x100000000000) % 0x400000 = off := by
  rw [sramBase_add_sub]; omega

/-- The lower half of a core's window is its SRAM, byte for byte; the upper half is reserved. -/
theorem targetOf_sramBase_add (l : Lcid) :
    targetOf (sramBase l + off) = if off < 0x200000 then .sram l off else .reserved := by
  rw [targetOf_sramRange (le_sramBase_add l off) (sramBase_add_lt hoff l), sramBase_add_div hoff, sramBase_add_mod hoff]

end window

/-- Settles O50: R33's windows are those that start at sramBase. -/
theorem sramWindowsStandWhereTheyShould : Obligations.SramWindowsStandWhereTheyShould :=
  fun l _ hoff => targetOf_sramBase_add hoff l

end Sys2Proof.Machine
end

section
/-!
PROOFS. Chapter 2: the stroke: pulses and their windows, what counting changes, and free stroke.
-/
namespace Sys2Proof.Machine

/-! ## Runs of updates -/

section runs
variable {α : Type} {s : State} {l : List α} {f : State → α → State}

/-- What every update of a run keeps, the run keeps. -/
theorem State.each_keeps {P : State → Prop} (hf : ∀ t x, P t → P (f t x)) (hs : P s) : P (s.each l f) := by
  induction l generalizing s with
  | nil => exact hs
  | cons x l ih => exact ih (hf s x hs)

/-- A reading that no update of a run changes is as before the run. -/
theorem State.each_reading {β : Type} {g : State → β} (hf : ∀ t x, g (f t x) = g t) : g (s.each l f) = g s :=
  State.each_keeps (P := fun t => g t = g s) (fun t x ht => (hf t x).trans ht) rfl

end runs

/-- One value written at several keys of a table. -/
theorem Tab.get_foldl_put {α : Type} [DecidableEq α] {d : α} {t : Tab α} (ks : List Nat) (v : α) (m : Nat) (h : Tab.wf d t = true) :
    Tab.get d (ks.foldl (fun t k => Tab.put d t k v) t) m = if m ∈ ks then v else Tab.get d t m := by
  induction ks generalizing t with
  | nil => rfl
  | cons k ks ih =>
    rw [List.foldl_cons, ih (Tab.wf_put k v h), Tab.get_put k m v h]
    by_cases hks : m ∈ ks <;> simp [hks]

/-! ## Host events and RC bits leave the stroke, and what was sent -/

section events
variable (s : State) (p n : Nat)

theorem msixSend_stroke : (msixSend s p n).stroke = s.stroke := by
  simp only [msixSend]; split <;> rfl

theorem raiseEvt_stroke : (raiseEvt s p n).stroke = s.stroke := by
  unfold raiseEvt; split
  · rfl
  · exact msixSend_stroke _ _ _

@[simp] theorem raiseAll_stroke : (raiseAll s n).stroke = s.stroke := by
  unfold raiseAll; exact State.each_reading fun t p => raiseEvt_stroke t p n

@[simp] theorem setStrokeRc_stroke : (setStrokeRc s n).stroke = s.stroke := by
  unfold setStrokeRc; exact State.each_reading fun _ _ => rfl

@[simp] theorem setStrokeRc_out : (setStrokeRc s n).out = s.out := by
  unfold setStrokeRc; exact State.each_reading fun _ _ => rfl

variable {s} {o : Out} (ho : o ∈ s.out)
include ho

theorem msixSend_out : o ∈ (msixSend s p n).out := by
  simp only [msixSend]; split
  · exact ho
  · exact List.mem_append_left _ ho

theorem raiseEvt_out : o ∈ (raiseEvt s p n).out := by
  unfold raiseEvt; split
  · exact ho
  · exact msixSend_out (s := s.updHub p _) _ _ ho

theorem raiseAll_out : o ∈ (raiseAll s n).out := by
  unfold raiseAll; exact State.each_keeps (P := fun t => o ∈ t.out) (fun t p ht => raiseEvt_out p n ht) ho

end events

/-! ## Pulses (R36) -/

section pulse
variable {h : HubId} {low high t : Nat} {s : State}

section rise
variable (hlive : (s.hub h).live = true) (hon : (s.stroke.qualifying || s.stroke.running) = true)
include hlive hon

theorem execStrokeEdge_long (hq : Tab.get none s.stroke.quals h = none) (hlow : 200 ≤ low) :
    execStrokeEdge h low s = .next (s.updStroke (fun k => { k with quals := Tab.put none k.quals h (some s.now) })) := by
  simp [execStrokeEdge, hlive, hon, hq, hlow, Nat.not_lt.mpr hlow]

theorem execStrokeEdge_short (hlow : low < 200) :
    execStrokeEdge h low s = .next ((setStrokeRc s 21).updStroke (fun k => { k with quals := Tab.put none k.quals h none })) := by
  simp [execStrokeEdge, hlive, hon, hlow, Nat.not_le.mpr hlow]

end rise

/-- Hub 2 keeps an edge that hub 0 has not judged for a takeover (R39). -/
theorem standbyEdge_unjudged (hm : s.masterHub ≠ 2) (hj : ∀ u, s.stroke.judged = some u → u + 400 ≤ t) :
    standbyEdge s 2 t = s.updStroke (fun k => { k with beside := k.beside ++ [t] }) := by
  cases hju : s.stroke.judged with
  | none => simp [standbyEdge, hm, hju]
  | some u => simp [standbyEdge, hm, hju, hj u hju]

variable (hq : Tab.get none s.stroke.quals h = some t)
include hq

theorem execStrokeQualified_short (hhigh : high < 200) : execStrokeQualified h high s =
    .next (setStrokeRc (s.updStroke (fun k => { k with quals := Tab.put none k.quals h none })) 21) := by
  simp [execStrokeQualified, hq, hhigh]

variable (hhigh : 200 ≤ high) (ht : t + 200 ≤ s.now)
include hhigh ht

/-- An edge at the master is judged; hub 2 leaves out the one that hub 0 has judged before it (R39). -/
theorem execStrokeQualified_master (hm : s.masterHub = h) (hj : ∀ u, h.val = 2 → s.stroke.judged = some u → u + 400 ≤ t) :
    execStrokeQualified h high s = .next (masterEdge (s.updStroke (fun k => { k with quals := Tab.put none k.quals h none })) t) := by
  cases hju : s.stroke.judged with
  | none => simp [execStrokeQualified, hq, hju, hm, Nat.not_lt.mpr hhigh, Nat.not_lt.mpr ht]
  | some u =>
    have hlate : ¬ (h.val = 2 ∧ t < u + 400) := fun hu => absurd (hj u hu.1 hju) (Nat.not_le.mpr hu.2)
    simp [execStrokeQualified, hq, hju, hm, Nat.not_lt.mpr hhigh, Nat.not_lt.mpr ht, hlate]

theorem execStrokeQualified_other (hm : s.masterHub ≠ h) :
    execStrokeQualified h high s = .next (standbyEdge (s.updStroke (fun k => { k with quals := Tab.put none k.quals h none })) h t) := by
  simp [execStrokeQualified, hq, hm, Nat.not_lt.mpr hhigh, Nat.not_lt.mpr ht]

theorem execStrokeQualified_standby (h2 : h.val = 2) (hm : s.masterHub = 0) (hj : ∀ u, s.stroke.judged = some u → u + 400 ≤ t) :
    execStrokeQualified h high s =
      .next (s.updStroke (fun k => { k with quals := Tab.put none k.quals h none, beside := k.beside ++ [t] })) := by
  have hm2 : s.masterHub ≠ 2 := by omega
  rw [execStrokeQualified_other hq hhigh ht (by omega), h2]
  exact congrArg Host.Outcome.next (standbyEdge_unjudged (s := s.updStroke _) (by exact hm2) hj)

end pulse

/-! ## The window (R38) -/

/-- What the master notes of an edge that it judges. -/
def State.noteEdge (s : State) (t : Nat) : State :=
  s.updStroke (fun k => { k with judged := some t, beside := k.beside.filter (fun u => decide (t + 400 ≤ u)) })

section window
variable {s : State} {t e : Nat} (hfree : s.stroke.free = false) (hlast : s.stroke.lastAt = some e) (hest : s.stroke.established = true)
  (hto : t ≤ s.stroke.windowEnd)
include hfree hlast hest hto

/-- Nothing was due before an edge that comes by the end of the window, so that its place in the window judges it. -/
theorem masterEdge_byWindowEnd : masterEdge s t =
    if t < e + meanOf s.stroke.intervals - meanOf s.stroke.intervals / 8 then setStrokeRc (s.noteEdge t) 22
    else if s.stroke.running = false ∧ e + meanOf s.stroke.intervals + meanOf s.stroke.intervals / 8 < t then s.noteEdge t
    else takeEdge (s.noteEdge t) t := by
  have hfree' : (s.noteEdge t).stroke.free = false := hfree
  have hlast' : (s.noteEdge t).stroke.lastAt = some e := hlast
  have hest' : (s.noteEdge t).stroke.established = true := hest
  have hto' : ¬ (s.noteEdge t).stroke.windowEnd < t := Nat.not_lt.mpr hto
  have hrun' : (s.noteEdge t).stroke.running = s.stroke.running := rfl
  have hivs : (s.noteEdge t).stroke.intervals = s.stroke.intervals := rfl
  unfold masterEdge
  rw [← State.noteEdge]
  simp [hfree', hlast', hest', hto', hrun', hivs]

theorem masterEdge_before (hfrom : t < e + meanOf s.stroke.intervals - meanOf s.stroke.intervals / 8) :
    masterEdge s t = setStrokeRc (s.noteEdge t) 22 := by
  rw [masterEdge_byWindowEnd hfree hlast hest hto, if_pos hfrom]

theorem masterEdge_inside (hrun : s.stroke.running = true) (hfrom : e + meanOf s.stroke.intervals - meanOf s.stroke.intervals / 8 ≤ t) :
    masterEdge s t = countStroke ((s.noteEdge t).updStroke (fun k => { k with intervals := last16 (k.intervals ++ [t - e]) })) t := by
  have hlast' : (s.noteEdge t).stroke.lastAt = some e := hlast
  have hrun' : (s.noteEdge t).stroke.running = true := hrun
  rw [masterEdge_byWindowEnd hfree hlast hest hto, if_neg (Nat.not_lt.mpr hfrom), if_neg (by simp [hrun]), takeEdge, if_pos hrun']
  simp only [State.updStroke, hlast']

end window

/-! ## Counting and free stroke (R38 to R44) -/

/-- A stroke counted goes into the rings whose hubs stand (R44). -/
theorem countStroke_ringLast {s : State} {t q : Nat} (hwf : Tab.wf 0 s.stroke.ringLast = true) (hq : q < 4) :
    Tab.get 0 (countStroke s t).stroke.ringLast q = if (s.hub q).live then s.stroke.count + 1 else Tab.get 0 s.stroke.ringLast q := by
  have hmem : q ∈ (List.range 4).filter (fun q => (s.hub q).live) ↔ (s.hub q).live = true := by simp [hq]
  exact (Tab.get_foldl_put _ _ q hwf).trans (if_congr hmem rfl rfl)

theorem missStroke_stroke (s : State) :
    let fixed := if s.stroke.established then meanOf s.stroke.intervals else s.stroke.dflt * 10
    (missStroke s).stroke = { (countStroke s s.stroke.windowEnd).stroke with
      free := true, slew := false, handover := false, entries := sat 16 (s.stroke.entries + 1), interval := fixed
      nextAt := s.stroke.windowEnd + fixed, lastExt := none, extIvls := [] } := by
  simp only [missStroke, raiseAll_stroke, setStrokeRc_stroke]
  rfl

theorem missStroke_marker (s : State) : Out.marker ((s.stroke.count + 1) % 65536) ∈ (missStroke s).out := by
  refine raiseAll_out 5 ?_
  rw [setStrokeRc_out]
  exact List.mem_append_right s.out (List.mem_singleton_self _)

theorem execStrokeWindowEnd_missed {s : State} (hc : s.counts = true) (hfree : s.stroke.free = false)
    (hend : s.stroke.windowEnd ≤ s.now) (hopen : s.edgeOpen s.stroke.windowEnd = false) :
    execStrokeWindowEnd s = .next (missStroke s) := by
  simp [execStrokeWindowEnd, hc, hfree, hend, hopen]

section free
variable {s : State} (hc : s.counts = true) (hfree : s.stroke.free = true)
include hc hfree

theorem execSynthesisedStroke_due (hho : s.stroke.handover = false) (hdue : s.stroke.nextAt ≤ s.now) :
    execSynthesisedStroke s = .next ((countStroke s s.stroke.nextAt).updStroke planStroke) := by
  simp [execSynthesisedStroke, hc, hfree, hho, hdue]

theorem execHandoverSpanEnd_missed (hslew : s.stroke.slew = true) (hdue : s.stroke.edgeDue ≤ s.now)
    (hopen : s.edgeOpen s.stroke.edgeDue = false) : execHandoverSpanEnd s = .next (missEdge s) := by
  simp [execHandoverSpanEnd, hc, hfree, hslew, hdue, hopen]

end free

theorem missEdge_atHandover {s : State} (hn : s.stroke.handoverNext = true) :
    missEdge s = (setStrokeRc ((countStroke s s.stroke.edgeDue).updStroke
      (fun k => { k with slew := false, handover := false, lastExt := none, extIvls := [] })) 23).updStroke planStroke :=
  if_pos hn

theorem missEdge_beforeHandover {s : State} (hn : s.stroke.handoverNext = false) :
    missEdge s = setStrokeRc (s.updStroke (fun k => { k with slew := false, handover := false, lastExt := none, extIvls := [] })) 23 :=
  if_neg (by rw [hn]; decide)

/-- Settles O6, clause by clause: a rise, its end, the edge inside, before and beside the window, what counting changes, and a
window without an edge. -/
theorem strokeEdgesAreQualifiedAndCounted : Obligations.StrokeEdgesAreQualifiedAndCounted := by
  refine ⟨fun h low s => execStrokeEdge_long, fun h low s => execStrokeEdge_short, fun h high t s hq => execStrokeQualified_short hq,
    ?inside, ?before, fun h high t s hq hhigh ht => execStrokeQualified_standby hq hhigh ht, ?counted, ?missed⟩
  case inside =>
    intro h high t e s hq hhigh ht hm hj hfree hrun hlast hest hfrom hto
    exact (execStrokeQualified_master hq hhigh ht hm hj).trans
      (congrArg _ (masterEdge_inside (s := s.updStroke _) hfree hlast hest hto hrun hfrom))
  case before =>
    intro h high t e s hq hhigh ht hm hj hfree hlast hest hfrom hto
    exact (execStrokeQualified_master hq hhigh ht hm hj).trans
      (congrArg _ (masterEdge_before (s := s.updStroke _) hfree hlast hest hto hfrom))
  case counted => exact fun t s => ⟨rfl, rfl, rfl, rfl, fun hwf q => countStroke_ringLast hwf⟩
  case missed =>
    intro s hc hfree hend hopen
    exact ⟨missStroke s, execStrokeWindowEnd_missed hc hfree hend hopen, rfl, missStroke_stroke s, missStroke_marker s⟩

/-- Settles O7. -/
theorem freeStrokeCountsAndSlews : Obligations.FreeStrokeCountsAndSlews := by
  refine ⟨fun s => execSynthesisedStroke_due, ?atHandover, ?beforeHandover⟩
  case atHandover =>
    intro s hc hfree hslew hdue hopen hn
    exact (execHandoverSpanEnd_missed hc hfree hslew hdue hopen).trans (congrArg _ (missEdge_atHandover hn))
  case beforeHandover =>
    intro s hc hfree hslew hdue hopen hn
    exact (execHandoverSpanEnd_missed hc hfree hslew hdue hopen).trans (congrArg _ (missEdge_beforeHandover hn))

end Sys2Proof.Machine
end

section
/-!
PROOFS. Chapter 2: what follows the stroke: the coxes' counts, events at a stroke, and the clocks of regions.
-/
namespace Sys2Proof.Machine

/-! ## The count of a cox (R44, R46) -/

/-- The next number from c on, and less than 65,536 after it, that ends in the 16 bits m. -/
def countFrom (c m : Nat) : Nat := if c % 65536 ≤ m then c - c % 65536 + m else c - c % 65536 + 65536 + m

theorem countFrom_eq {c m n : Nat} (hm : m = n % 65536) (hlo : c ≤ n) (hhi : n < c + 65536) : countFrom c m = n := by
  unfold countFrom
  split <;> omega

section marker
variable {site : SiteId} {ring : Fin 4} {cnt : W16} {n : Nat} {s : State}

/-- A marker stands for the count that it can have come from. -/
theorem execStrokeMarker_eq (hcnt : cnt.toNat = n % 65536) (hlo : (s.cox site).count ≤ n) (hhi : n < (s.cox site).count + 65536) :
    execStrokeMarker site ring cnt s = .next (
      if !(s.cox site).live || !(s.hub ring).live || decide (n ≤ (s.cox site).count) || decide (Tab.get 0 s.stroke.ringLast ring.val < n) then s
      else
        let s1 := pruneEvents (s.updCox site (fun x => { x with count := n })) site
        if n = (s.cox site).count + 1 then s1 else coxRecord s1 site (siteRec s1 site 0x0F 0 0 0)) := by
  have hn := countFrom_eq hcnt hlo hhi
  rw [countFrom] at hn
  simp only [execStrokeMarker, hn]

theorem execStrokeMarker_repeats (hcnt : cnt.toNat = (s.cox site).count % 65536) : execStrokeMarker site ring cnt s = .next s := by
  rw [execStrokeMarker_eq hcnt (Nat.le_refl _) (by omega), if_pos (by simp)]

section later
variable (hcnt : cnt.toNat = n % 65536) (hlo : (s.cox site).count < n) (hhi : n < (s.cox site).count + 65536)
include hcnt hlo hhi

theorem execStrokeMarker_unsent (hring : Tab.get 0 s.stroke.ringLast ring < n) : execStrokeMarker site ring cnt s = .next s := by
  rw [execStrokeMarker_eq hcnt hlo.le hhi, if_pos (by simp [hring])]

theorem execStrokeMarker_sent (hlive : (s.cox site).live = true) (hhub : (s.hub ring).live = true) (hring : n ≤ Tab.get 0 s.stroke.ringLast ring) :
    execStrokeMarker site ring cnt s = .next (
      let s1 := pruneEvents (s.updCox site (fun x => { x with count := n })) site
      if n = (s.cox site).count + 1 then s1 else coxRecord s1 site (siteRec s1 site 0x0F 0 0 0)) := by
  rw [execStrokeMarker_eq hcnt hlo.le hhi, if_neg (by simp [hlive, hhub, hlo, hring])]

end later
end marker

/-! ## Events that reach a cox (R49, R50, R58) -/

/-- The event as the cox holds it: one whose stroke has passed is for the next stroke, and late (R50). -/
def PendEvent.heldAt (e : PendEvent) (count : Nat) : PendEvent :=
  if e.stroke ≤ count then { e with stroke := count + 1, late := true } else e

/-- The oldest event on its way enters the table of the cox. -/
def State.takeTransit (s : State) (site : Nat) (e : PendEvent) (rest : List PendEvent) : State :=
  s.updCox site (fun c => { c with transit := rest, events := c.events ++ [e.heldAt (s.cox site).count] })

/-- A frequency change raises the rails of its crew's regions on a die (R58). -/
def State.raiseRails (s : State) (site : Nat) (e : PendEvent) : State :=
  match e.ev with
  | .freq crew op => s.each ((s.crewRegions e.part crew).filter (fun r => r / 4 == site)) (fun t r => raiseRail t r op.val)
  | _ => s

section receive
variable {site : SiteId} {s : State} {e : PendEvent} {rest : List PendEvent}

theorem State.takeTransit_coming (hst : (s.cox site).count < e.stroke) :
    s.takeTransit site e rest = s.updCox site (fun c => { c with transit := rest, events := c.events ++ [e] }) := by
  rw [State.takeTransit, PendEvent.heldAt, if_neg (Nat.not_le.mpr hst)]

theorem State.takeTransit_passed (hst : e.stroke ≤ (s.cox site).count) : s.takeTransit site e rest =
    s.updCox site (fun c => { c with
      transit := rest, events := c.events ++ [{ e with stroke := (s.cox site).count + 1, late := true }] }) := by
  rw [State.takeTransit, PendEvent.heldAt, if_pos hst]

theorem State.raiseRails_freq {c : Nat} {op : Fin 8} (hev : e.ev = .freq c op) : s.raiseRails site e =
    s.each ((s.crewRegions e.part c).filter (fun r => r / 4 == site.val)) (fun t r => raiseRail t r op.val) := by
  simp only [State.raiseRails, hev]

theorem State.raiseRails_other (hev : ∀ c op, e.ev ≠ .freq c op) : s.raiseRails site e = s := by
  cases he : e.ev with
  | freq c op => exact absurd he (hev c op)
  | _ => simp only [State.raiseRails, he]

theorem execCoxEventReceive_eq (htr : (s.cox site).transit = e :: rest) :
    execCoxEventReceive site s = .next ((s.takeTransit site e rest).raiseRails site e) := by
  simp only [execCoxEventReceive, htr]
  rfl

end receive

/-- Settles O8: the markers by the count that they stand for, the events by their kind and stroke. -/
theorem coxesFollowTheStroke : Obligations.CoxesFollowTheStroke := by
  refine ⟨?next, fun site ring cnt s => execStrokeMarker_repeats, ?later, fun site ring cnt n s => execStrokeMarker_unsent,
    ?coming, ?passed, ?freq⟩
  case next =>
    intro site ring cnt s hlive hhub hcnt hring
    rw [show exec (.strokeMarker site ring cnt) s = execStrokeMarker site ring cnt s from rfl,
      execStrokeMarker_sent hcnt (Nat.lt_succ_self _) (by omega) hlive hhub hring, if_pos rfl]
  case later =>
    intro site ring cnt n s hlive hhub hcnt hlo hhi hring
    exact (execStrokeMarker_sent hcnt (by omega) hhi hlive hhub hring).trans (congrArg _ (if_neg (by omega)))
  case coming =>
    intro site s e rest htr hev hst
    exact (execCoxEventReceive_eq htr).trans (congrArg _ ((State.raiseRails_other hev).trans (State.takeTransit_coming hst)))
  case passed =>
    intro site s e rest htr hev hst
    exact (execCoxEventReceive_eq htr).trans (congrArg _ ((State.raiseRails_other hev).trans (State.takeTransit_passed hst)))
  case freq =>
    intro site s e rest c op htr hev hst
    refine (execCoxEventReceive_eq htr).trans ?_
    rw [State.raiseRails_freq hev, State.takeTransit_coming hst]

/-! ## Posting (R49, R52) -/

theorem execEventPost_formed {p : PartId} {ev : EventKind} {n : W48} {s : State} (hl : (s.layoutOf p).isSome = true)
    (hs : s.partStopped p = false) (hr : s.stroke.running = true) : execEventPost p ev n s = .next (postEvent s p ev n.toNat) := by
  simp [execEventPost, hl, hs, hr]

section post
variable {s : State} {p n : Nat} {ev : EventKind}

theorem postEvent_stale (hlead : s.leadOk n = false) : postEvent s p ev n = s.setPosted .stale := by
  simp [postEvent, hlead]

theorem postEvent_full (hlead : s.leadOk n = true) (hfull : s.scopeFull p ev = true) : postEvent s p ev n = s.setPosted .full := by
  simp [postEvent, hlead, hfull]

theorem postEvent_ok (hlead : s.leadOk n = true) (hfull : s.scopeFull p ev = false) :
    postEvent s p ev n = (distribute s p ev n).setPosted .ok := by
  simp [postEvent, hlead, hfull]

end post

/-- Settles O9: the lead is judged before the room. -/
theorem eventsArePostedEverywhereOrNowhere : Obligations.EventsArePostedEverywhereOrNowhere :=
  ⟨fun _ _ _ _ hl hs hr hlead hfull => (execEventPost_formed hl hs hr).trans (congrArg _ (postEvent_ok hlead hfull)),
   fun _ _ _ _ hl hs hr hlead => (execEventPost_formed hl hs hr).trans (congrArg _ (postEvent_stale hlead)),
   fun _ _ _ _ hl hs hr hlead hfull => (execEventPost_formed hl hs hr).trans (congrArg _ (postEvent_full hlead hfull))⟩

/-! ## The clock of a region (R51, R54, R55, R58) -/

section clock
variable {r : PRegion} {s : State}

theorem execRefLost_clocked (h : (s.region r).clock = .running ∨ (s.region r).clock = .stopped) :
    execRefLost r s = .next ((setStrokeRc (fenceRegion s r 0) 19).updRegion r (fun x => { x with clock := .lost, chg := none })) :=
  congrArg _ (if_pos (by simpa using h))

theorem execDroopDetect_running (h : (s.region r).clock = .running) :
    execDroopDetect r s = .next (s.updRegion r (fun x => { x with droop := .stretched })) :=
  congrArg _ (if_pos (by simp [h]))

theorem execDroopClear_eq :
    execDroopClear r s = .next (s.updRegion r (fun x => { x with droop := if x.droop = .stretched then .recovering else .none })) := by
  refine congrArg Host.Outcome.next (congrArg (s.updRegion r) (funext fun x => ?_))
  cases x.droop <;> rfl

end clock

/-- Settles O10: the guard of each row holds. -/
theorem regionClockEventsComplete : Obligations.RegionClockEventsComplete := by
  refine ⟨?boundary, ?resume, fun r s => execRefLost_clocked, fun r s => execDroopDetect_running, fun r s => execDroopClear_eq⟩
  case boundary =>
    intro r mean s hrun hf hc
    exact congrArg Host.Outcome.next (if_pos (by simp [hrun, hf, hc]))
  case resume =>
    intro r s op next hstop hf hchg hnext
    subst hnext
    change execFreqChangeResume r s = _
    simp only [execFreqChangeResume, hstop, hchg]
    exact congrArg Host.Outcome.next (if_neg (by simp [hf]))

end Sys2Proof.Machine
end

section
/-!
PROOFS. Chapter 7: the die-to-die links: a frame time of a link end, the frames it reads, and its retrains.
-/
namespace Sys2Proof.Machine

/-! ## A frame time (R57) -/

section frameTime
variable {site : SiteId} {e : Fin 24} {noise : List Byte} {s : State} {place : Nat × Nat × Dir} {key j : Nat}

theorem execLinkFrameReceive_eq (hp : s.linkPlace site e = some place) (hj : s.linkPartner site e = some j) :
    execLinkFrameReceive site e noise s = .next (
      if !(s.link (site.val * 32 + e.val)).up || !(s.link j).up then s
      else (readFifo (writeFrame s (site.val * 32 + e.val) j noise) (site.val * 32 + e.val) place).updLink (site.val * 32 + e.val)
        (fun l => { l with turn := !l.turn })) := by
  simp only [execLinkFrameReceive, hp, hj]

/-- The hold of a FIFO that takes one frame more. -/
theorem holdBit_succ (n : Nat) (was : Bool) : holdBit (n + 1) was = if 9 ≤ n then true else if n ≤ 3 then false else was :=
  if_congr (by omega) rfl (if_congr (by omega) rfl rfl)

theorem writeFrame_writes (hj : s.endRuns j = true) (hkey : s.endRuns key = true) (hhold : (s.link key).hold = false)
    (hturn : s.endStretched j = true → (s.link key).turn = true) :
    writeFrame s key j noise = (s.updLink j (fun _ => (s.link j).nextFrame.1)).updLink key (fun l => { l with
      fifo := l.fifo ++ [disturb (s.link j).nextFrame.2.bytes noise]
      hold := if 9 ≤ l.fifo.length then true else if l.fifo.length ≤ 3 then false else l.hold }) := by
  have hnow : (s.endStretched j && !(s.link key).turn) = false := by
    cases hs : s.endStretched j with
    | false => rfl
    | true => simp [hturn hs]
  simp only [writeFrame, holdBit_succ]
  exact if_neg (by simp [hj, hkey, hhold, hnow])

theorem writeFrame_held (h : s.endRuns j = false ∨ s.endRuns key = false ∨ (s.link key).hold = true) : writeFrame s key j noise = s :=
  if_pos (by rcases h with h | h | h <;> simp [h])

theorem readFifo_whole (hrun : s.endRuns key = true) (hstr : s.endStretched key = false) :
    readFifo s key place = (s.updLink key (fun l => { l with
      fifo := l.fifo.drop (s.link key).fifo.length, hold := holdBit (l.fifo.length - (s.link key).fifo.length) l.hold })).each
        (s.link key).fifo (fun t b => readFrame t key place b) := by
  simp [readFifo, hrun, hstr]

end frameTime

/-! ## Reading a frame (R206, R207) -/

section frame
variable {key : Nat} {place : Nat × Nat × Dir} {b : List Byte} {s : State}

theorem readFrame_badCrc (hcrc : (parseFrame b).2 = false) : readFrame s key place b = s.updLink key (fun l => { l with
    crcFail := sat 32 (l.crcFail + 1), nakSent := true
    crcTimes := l.crcTimes.filter (fun t => decide (s.now < t + 1000000)) ++ [s.now] }) :=
  if_pos (by rw [hcrc]; rfl)

variable (hcrc : (parseFrame b).2 = true)
include hcrc

theorem readFrame_noSlots (hmask : (parseFrame b).1.mask = 0) :
    readFrame s key place b = s.updLink key (fun l => takeAck l (parseFrame b).1) := by
  simp [readFrame, hcrc, hmask]

variable (hmask : (parseFrame b).1.mask ≠ 0) (hc : s.canonical = true)
include hmask hc

/-- What a frame acknowledges leaves the SEQ expected, by which its own group is judged. -/
theorem readFrame_slots : readFrame s key place b =
    let s1 := s.updLink key (fun l => takeAck l (parseFrame b).1)
    if (parseFrame b).1.seq = (s.link key).expect then
      updOff (assemble (s1.updLink key (fun l => { l with expect := (l.expect + 1) % 256, nakSent := false })) key place (parseFrame b).1.slots)
        { cls := 0, opc := 0, loc := .router place.1 place.2.1, arr := place.2.2 }
    else s1.updLink key (fun l => { l with nakSent := true }) := by
  have hexp : ((s.updLink key (fun l => takeAck l (parseFrame b).1)).link key).expect = (s.link key).expect := by
    rw [State.updLink_link _ _ _ _ ((State.canonical_iff s).mp hc).links, if_pos rfl]
    rfl
  simp [readFrame, hcrc, hmask, hexp]

end frame

/-! ## Retrains (R208, R235) -/

/-- The trigger of a retrain that a cause names holds. -/
def State.retrainDue (s : State) (key : Nat) (cause : RetrainCause) : Prop :=
  (cause = .replays ∧ 8 ≤ (s.link key).replayRun) ∨ cause = .clock ∨
    (cause = .crc ∧ 256 < ((s.link key).crcTimes.filter (fun t => decide (s.now < t + 1000000))).length)

theorem execLinkRetrainStart_due {site : SiteId} {e : Fin 32} {cause : RetrainCause} {j : Nat} {s : State} (he : e.val < 24)
    (hup : (s.link (site.val * 32 + e.val)).up = true) (hdue : s.retrainDue (site.val * 32 + e.val) cause)
    (hj : s.linkPartner site e = some j) :
    let go := fun (l : LinkEnd) => { l with state := 3, retrains := sat 16 (l.retrains + 1), replayRun := 0, crcTimes := [] }
    execLinkRetrainStart site e cause s = .next ((s.updLink (site.val * 32 + e.val) go).updLink j go) := by
  have he' : e.val < 28 := by omega
  rcases hdue with ⟨rfl, hrun⟩ | rfl | ⟨rfl, hcrc⟩
  · simp [execLinkRetrainStart, hup, he, he', hj, hrun]
  · simp [execLinkRetrainStart, hup, he, he', hj]
  · simp [execLinkRetrainStart, hup, he, he', hj, hcrc]

/-- The groups of a link with at most one bad lane (R208). -/
def goodGroups (f : List Nat) : List Nat := (List.range 4).filter (fun g => decide (f.getD g 0 ≤ 1))

theorem retrainWidth_full {f : List Nat} (h : (goodGroups f).length = 4) : ∃ spared, retrainWidth f = (1, 15, spared) :=
  ⟨_, if_pos h⟩

theorem retrainWidth_half {f : List Nat} (hlo : 2 ≤ (goodGroups f).length) (hhi : (goodGroups f).length < 4) :
    ∃ groups spared, retrainWidth f = (2, groups, spared) :=
  ⟨_, _, (if_neg hhi.ne).trans (if_pos hlo)⟩

theorem retrainWidth_few {f : List Nat} (h : (goodGroups f).length < 2) : retrainWidth f = (4, 0, 0) :=
  (if_neg (h.trans (by decide : 2 < 4)).ne).trans (if_neg (Nat.not_le.mpr h))

section done
variable {site : SiteId} {e : Fin 32} {f0 f1 f2 f3 : Nat} {s : State} (hst : (s.link (site.val * 32 + e.val)).state = 3)
include hst

/-- A retrain that ends at a die-edge link, by the width that it finds. -/
theorem execLinkRetrainDone_edge {j : Nat} (he : e.val < 24) (hj : s.linkPartner site e = some j) :
    execLinkRetrainDone site e f0 f1 f2 f3 s = .next (
      let key := site.val * 32 + e.val
      let w := retrainWidth [f0, f1, f2, f3]
      let s1 := if w.1 = 4 then disableLink s key
        else [key, j].foldl (fun t x => t.updLink x (fun l => { l with state := w.1, groups := w.2.1, spared := w.2.2 })) s
      if w.1 = 1 then s1
      else if w.1 = 2 then linkRecord s1 site e 0
      else [key, j].foldl (fun t x => checkLinks t (x / 32)) (changeOf (linkRecord s1 site e 6) site)) := by
  simp only [execLinkRetrainDone, hst, he, hj]
  rfl

section inner
variable (he : 24 ≤ e.val)
include he

theorem execLinkRetrainDone_up (hf : f0 = 0) :
    execLinkRetrainDone site e f0 f1 f2 f3 s = .next (s.updLink (site.val * 32 + e.val) (fun l => { l with state := 1 })) := by
  simp [execLinkRetrainDone, hst, Nat.not_lt.mpr he, hf]

theorem execLinkRetrainDone_expressLost (he28 : e.val < 28) (hf : f0 ≠ 0) : execLinkRetrainDone site e f0 f1 f2 f3 s =
    .next (changeOf (linkRecord (s.updLink (site.val * 32 + e.val) (fun l => { l with state := 4 })) site e 6) site) := by
  simp [execLinkRetrainDone, hst, Nat.not_lt.mpr he, hf, Nat.not_le.mpr he28]

end inner

theorem execLinkRetrainDone_tapLost (he : 28 ≤ e.val) (hf : f0 ≠ 0) :
    execLinkRetrainDone site e f0 f1 f2 f3 s = .next (tapLost s (site.val * 4 + (e.val - 28))) := by
  have he24 : ¬ e.val < 24 := by omega
  simp [execLinkRetrainDone, hst, he24, hf, he]

end done

/-- Settles O21: a frame time, the frame written, the FIFO read, the frame read, and the two ends of a retrain. -/
theorem linksAcknowledgeAndRetrain : Obligations.LinksAcknowledgeAndRetrain := by
  refine ⟨?frameTime, fun key j noise s => ⟨writeFrame_writes, writeFrame_held⟩, fun key place s => readFifo_whole, ?frame,
    fun site e cause j s => execLinkRetrainStart_due, ?done⟩
  case frameTime =>
    intro site e noise s place j hp hj
    have heq := execLinkFrameReceive_eq (noise := noise) hp hj
    exact ⟨fun hkey hother => heq.trans (congrArg _ (if_neg (by simp [hkey, hother]))),
      fun hdown => heq.trans (congrArg _ (if_pos (by rcases hdown with h | h <;> simp [h])))⟩
  case frame =>
    intro key place b s
    exact ⟨readFrame_badCrc, readFrame_noSlots,
      fun hcrc hmask hc hseq => (readFrame_slots hcrc hmask hc).trans (if_pos hseq),
      fun hcrc hmask hc hseq => (readFrame_slots hcrc hmask hc).trans (if_neg hseq)⟩
  case done =>
    intro site e f0 f1 f2 f3 s hst
    refine ⟨fun j he hj => ⟨fun hfull => ?full, fun hlo hhi => ?half, fun hfew => ?few⟩, execLinkRetrainDone_up hst,
      execLinkRetrainDone_expressLost hst, execLinkRetrainDone_tapLost hst⟩
    case full =>
      obtain ⟨spared, hw⟩ := retrainWidth_full hfull
      refine (execLinkRetrainDone_edge hst he hj).trans ?_
      simp only [hw]
      rfl
    case half =>
      obtain ⟨groups, spared, hw⟩ := retrainWidth_half hlo hhi
      refine (execLinkRetrainDone_edge hst he hj).trans ?_
      simp only [hw]
      rfl
    case few =>
      refine (execLinkRetrainDone_edge hst he hj).trans ?_
      simp only [retrainWidth_few hfew]
      rfl

end Sys2Proof.Machine
end

section
/-!
PROOFS. Chapters 10 and 13: trips of eFuses, column groups and channels, the loss of a hub, and base groups that fail.
-/
namespace Sys2Proof.Machine

/-! ## Trips (R296, R297, R302, R312) -/

section trips
variable {s : State}

theorem State.trips_of_closed {site : Nat} (h : s.power.efuses.has site = true) : s.trips site = true := by
  rw [State.trips, h, Bool.true_or]

/-- Another trip at this moment opened the eFuse (R312). -/
theorem State.trips_of_now {site : Nat} (h : (s.cox site).tripAt = some s.now) : s.trips site = true := by
  rw [State.trips, h, beq_self_eq_true, Bool.or_true]

/-- A trip acts once on a unit: where it opens the eFuse and no short of it is noted. -/
theorem State.trips_unnoted {site : Nat} (h : s.trips site = true) (hs : s.power.shorts.contains (1, site) = false) :
    (s.trips site && !s.power.shorts.contains (1, site)) = true := by
  rw [h, hs]; rfl

theorem execEfuseTrip_trips {site : SiteId} (h : s.trips site = true) (hs : s.power.shorts.contains (1, site.val) = false) :
    execEfuseTrip site s = .next ((appendDefect (tripDie s site 0x07) { kind := 4, cause := 7, unit := site.val, stroke := s.stroke.count }).updPower
      (fun p => { p with shorts := p.shorts ++ [(1, site.val)] })) :=
  congrArg _ (if_pos (State.trips_unnoted h hs))

theorem execChannelTrip_spareRow {n : Fin 60} (hn : n.val < 12) (h : s.trips (n.val * 13 + 12) = true)
    (hs : s.power.shorts.contains (1, n.val * 13 + 12) = false) : execChannelTrip n s =
      .next ((tripDie s (n.val * 13 + 12) 0x07).updPower (fun p => { p with shorts := p.shorts ++ [(1, n.val * 13 + 12)] })) :=
  congrArg _ ((if_pos hn).trans (if_pos (State.trips_unnoted h hs)))

theorem execChannelTrip_hbm {n : Fin 60} (hn : 12 ≤ n.val) (hon : (Tab.get {} s.power.rails (n.val - 12) : Rail).state = 1) :
    execChannelTrip n s = .next (failStack (s.updPower (fun p => { p with
      rails := Tab.upd {} p.rails (n.val - 12) (fun (x : Rail) => { x with state := 2 }), shorts := p.shorts ++ [(3, n.val - 12)] }))
      (n.val - 12) 2 0x0C) :=
  congrArg _ ((if_neg (Nat.not_lt.mpr hn)).trans (if_pos hon))

end trips

/-! ## The loss of a hub (R39, R312, R370) -/

/-- A hub and its link are down, and its partition has stopped. -/
def hubDown (s : State) (h : Nat) : State :=
  stopReported ((s.updHub h (fun x => { x with live := false, linkUp := false })).updPower (fun p => { p with
    aux := Tab.upd {} p.aux h (fun (x : Rail) => { x with state := 2 }) })) h

/-- The grants stop until hub 2 has taken hub 0's roles. -/
def awaitTakeover (s : State) : State :=
  (s.updPower (fun p => { p with noGrants := true })).updStroke (fun k => { k with takeover := true })

theorem execHubLost_live {h : HubId} {s : State} (hlive : (s.hub h).live = true) (ha : s.supply.stageA = true) :
    execHubLost h s = .next (
      if h.val ≠ 0 then hubDown s h
      else if (awaitTakeover (hubDown s h)).bring.running = 2 then (awaitTakeover (hubDown s h)).updBring (fun b => { b with verdict := 3 })
      else awaitTakeover (hubDown s h)) :=
  congrArg _ (if_pos (by rw [hlive, ha]; rfl))

theorem execMasterTakeover_lost {s : State} (h0 : (s.hub 0).live = false) (h2 : (s.hub 2).live = true) (hm : s.stroke.master2 = false) :
    execMasterTakeover s = .next (raiseAll ((takeMaster s).updPower (fun p => { p with noGrants := s.panelStopped, epochs := 0 })) 5) :=
  congrArg _ (if_pos (by rw [h0, h2, hm]; rfl))

/-! ## Base groups (R302, R344) -/

/-- A base group has tripped. -/
def baseDown (s : State) (b : Fin 2) : State :=
  s.updPower (fun p => { p with aux := Tab.upd {} p.aux (4 + b.val) (fun (x : Rail) => { x with state := 2 }) })

theorem execBaseGroupFail_live {b : Fin 2} {s : State} (hon : (Tab.get {} s.power.aux (4 + b.val) : Rail).state = 1) :
    execBaseGroupFail b s = .next (
      if (Tab.get {} (baseDown s b).power.aux (5 - b.val) : Rail).state ≠ 2 then hubRecord (baseDown s b) (panelRec (baseDown s b) 0x0B 0 0 0)
      else if (baseDown s b).bring.running = 1 then
        (baseDown s b).updBring (fun x => { x with verdict := 2, verdictDetail := 4 + b.val })
      else removeStageA (baseDown s b) false) :=
  congrArg _ (if_pos hon)

/-- Settles O28, row by row; a hub lost and a base group that fails by what they are to the others. -/
theorem tripsAndHubLossActAsStated : Obligations.TripsAndHubLossActAsStated := by
  refine ⟨fun site s h => execEfuseTrip_trips (h.elim State.trips_of_closed State.trips_of_now),
    fun g overcur s hlive => congrArg Host.Outcome.next (if_pos hlive),
    fun n s hn hclosed => execChannelTrip_spareRow hn (State.trips_of_closed hclosed), fun n s => execChannelTrip_hbm,
    ?hub, fun s => execMasterTakeover_lost, ?base⟩
  case hub =>
    intro h s hlive ha
    have heq := execHubLost_live hlive ha
    exact ⟨fun hother => heq.trans (congrArg _ (if_pos hother)),
      fun h0 hrun => heq.trans (congrArg _ ((if_neg (not_not.mpr h0)).trans (if_neg hrun))),
      fun h0 hrun => heq.trans (congrArg _ ((if_neg (not_not.mpr h0)).trans (if_pos hrun)))⟩
  case base =>
    intro b s hon
    have heq := execBaseGroupFail_live hon
    exact ⟨fun hother => heq.trans (congrArg _ (if_pos hother)),
      fun hother hrun => heq.trans (congrArg _ ((if_neg (not_not.mpr hother)).trans (if_pos hrun))),
      fun hother hrun => heq.trans (congrArg _ ((if_neg (not_not.mpr hother)).trans (if_neg hrun)))⟩

end Sys2Proof.Machine
end

section
/-!
PROOFS. Chapter 12: power arrival and the bring-up steps SUPPLY to INVENTORY.
-/
namespace Sys2Proof.Machine

/-! ## Power arrival (R340, R476) -/

/-- The conditions of R340 for stage A. -/
def State.mayStart (s : State) : Prop :=
  s.supply.supEn = true ∧ s.supply.charged = true ∧ s.supply.stageA = false ∧ 5000 ≤ s.supply.vin ∧ s.supply.vin ≤ 6000

theorem State.mayStart_iff (s : State) : (s.supply.supEn && s.supply.charged && !s.supply.stageA && decide (5000 ≤ s.supply.vin)
    && decide (s.supply.vin ≤ 6000)) = true ↔ s.mayStart := by
  simp [State.mayStart, and_assoc]

theorem startStageA_starts {s : State} (h : s.mayStart) :
    startStageA s = bootHubs (s.updSupply (fun u => { u with stageA := true, pg := true, faultN := false })) (fun k => s.supply.hubOk.getLsbD k) :=
  if_pos (s.mayStart_iff.mpr h)

theorem startStageA_waits {s : State} (h : ¬ s.mayStart) : startStageA s = s := if_neg (mt s.mayStart_iff.mp h)

/-! ## A step that comes in its order (R342, R344) -/

section steps
variable {p : PortId} {s : State} (hlive : s.portLive p = true) (hrun : s.bring.running = 0) (hstop : s.bring.stopped = false)
  (hfail : s.bring.failed = false)

/-- A step runs from the write of a port on, with no verdict yet. -/
def State.runStep (s : State) (p n : Nat) : State :=
  s.updBring (fun b => { b with running := n, failed := false, verdict := 0, verdictDetail := 0, port := p, since := s.now, input := .none })

include hrun hstop hfail in
/-- The step after the last one done is taken; LOAD and READY, which may come again, have rules of their own. -/
theorem State.stepAnswer_next {n : Nat} (hn : n = s.bring.done + 1) (h7 : n ≤ 7) : s.stepAnswer p n = 1 := by
  have h8 : s.bring.done ≠ 7 := by omega
  have h9 : s.bring.done ≠ 8 := by omega
  simp [State.stepAnswer, BringUp.blocked, hrun, hstop, hfail, hn, h8, h9]

include hlive hrun hstop hfail

theorem takeStep_next {n : Nat} (f : State → State) (hn : n = s.bring.done + 1) (h7 : n ≤ 7) : takeStep s p n f = f (s.runStep p n) := by
  rw [takeStep, hlive, if_neg (by decide), State.stepAnswer_next hrun hstop hfail hn h7]
  rfl

theorem execSupply_next {vin : Nat} (hd : s.bring.done = 0) :
    let t := (beginBringUp (s.runStep p 1)).updSupply (fun u => { u with vin := vin })
    execSupply p vin s = .next (
      if vin < 5000 || decide (6000 < vin) || decide (8 < s.power.converters) then failStep t 2 0xFFFF else powerSites t) :=
  congrArg _ (takeStep_next hlive hrun hstop hfail _ (congrArg (· + 1) hd.symm) (by decide))

theorem execHub_next (hd : s.bring.done = 1) :
    let t := (s.runStep p 2).updStroke (fun k => { k with qualifying := true, intervals := [], lastAt := none, quals := [] })
    execHub p s = .next (if (s.hub 0).live then t else failStep t 3 0) :=
  congrArg _ (takeStep_next hlive hrun hstop hfail _ (congrArg (· + 1) hd.symm) (by decide))

theorem execAuth_next {inp : AuthInput} (hd : s.bring.done = 2) : execAuth p inp s = .next (
    if !inp.factoryListOk || !inp.calibrationOk || !inp.hallmarkOk then failStep (s.runStep p 3) 4 0xFFFF
    else (s.runStep p 3).updBring (fun b => { b with input := .auth inp })) :=
  congrArg _ (takeStep_next hlive hrun hstop hfail _ (congrArg (· + 1) hd.symm) (by decide))

end steps

/-- Settles O34: what starts stage A, and the first four steps, each as the next in order. -/
theorem firstBringUpStepsRun : Obligations.FirstBringUpStepsRun := by
  refine ⟨?arrival, fun p s hlive hrun hstop hfail => ⟨fun vin hd hlo hhi hconv => ?inRange, fun vin hd hout => ?outOfRange,
    fun hd => ⟨fun h0 => ?hubLive, fun h0 => ?hubDown⟩, fun inp hd => ⟨fun hlist hcal hmark => ?passes, fun hbad => ?fails⟩,
    fun repaired hd => ?inventory⟩⟩
  case arrival =>
    intro c s t hc
    have hstart : exec c s = .next (startStageA t) := by rcases hc with ⟨rfl, rfl⟩ | ⟨vin, h, rfl, rfl⟩ <;> rfl
    rw [hstart]
    exact ⟨fun hall => congrArg _ (startStageA_starts hall), fun hall => congrArg _ (startStageA_waits hall)⟩
  case inRange => exact (execSupply_next hlive hrun hstop hfail hd).trans (congrArg _ (if_neg (by simp [hlo, hhi, hconv])))
  case outOfRange =>
    exact (execSupply_next hlive hrun hstop hfail hd).trans (congrArg _ (if_pos (by rcases hout with h | h <;> simp [h])))
  case hubLive => exact (execHub_next hlive hrun hstop hfail hd).trans (congrArg _ (if_pos h0))
  case hubDown => exact (execHub_next hlive hrun hstop hfail hd).trans (congrArg _ (if_neg (by simp [h0])))
  case passes => exact (execAuth_next hlive hrun hstop hfail hd).trans (congrArg _ (if_neg (by simp [hlist, hcal, hmark])))
  case fails =>
    exact (execAuth_next hlive hrun hstop hfail hd).trans (congrArg _ (if_pos (by rcases hbad with h | h | h <;> simp [h])))
  case inventory => exact congrArg Host.Outcome.next (takeStep_next hlive hrun hstop hfail _ (congrArg (· + 1) hd.symm) (by decide))

end Sys2Proof.Machine
end

section
/-!
PROOFS. Chapter 3: cores: what a read or a request leaves of the cores, and what the sequencer does with the word it fetches.
-/
namespace Sys2Proof.Machine

/-! ## Cores and SRAM as they were -/

/-- The two states have the same cores and the same bytes of SRAM. -/
def SameCores (s t : State) : Prop := t.cores = s.cores ∧ t.sram = s.sram

theorem SameCores.refl (s : State) : SameCores s s := ⟨rfl, rfl⟩

theorem SameCores.trans {s t u : State} (h : SameCores s t) (g : SameCores t u) : SameCores s u :=
  ⟨g.1.trans h.1, g.2.trans h.2⟩

theorem State.each_sameCores {α : Type} {s : State} {l : List α} {f : State → α → State} (hf : ∀ t x, SameCores t (f t x)) :
    SameCores s (s.each l f) :=
  State.each_keeps (P := SameCores s) (fun t x ht => ht.trans (hf t x)) (SameCores.refl s)

theorem State.send_sameCores (s : State) (p : Packet) : SameCores s (s.send p) := ⟨State.send_cores s p, State.send_sram s p⟩

theorem hubRecord_sameCores (s : State) (rec : FaultRec) : SameCores s (hubRecord s rec) :=
  State.each_sameCores fun _ _ => ⟨rfl, rfl⟩

theorem coxRecord_sameCores (s : State) (site : Nat) (rec : FaultRec) : SameCores s (coxRecord s site rec) := by
  refine SameCores.trans ?_ (hubRecord_sameCores _ rec)
  split <;> exact ⟨rfl, rfl⟩

theorem cancelGrant_sameCores (s : State) (u : Nat) (g : Nat × Nat × Nat × Nat × Nat × Nat) : SameCores s (cancelGrant s u g) := by
  have hsend : ∀ {t : State} (p : Packet), SameCores s t → SameCores s (t.send p) := fun p h => h.trans (State.send_sameCores _ p)
  simp only [cancelGrant]
  split
  · refine hsend _ ?_
    split
    · split
      · exact hsend _ ⟨rfl, rfl⟩
      · exact hsend _ (hsend _ ⟨rfl, rfl⟩)
    · exact hsend _ ⟨rfl, rfl⟩
  · exact ⟨rfl, rfl⟩

theorem cancelGrants_sameCores (s : State) (l : Nat) : SameCores s (cancelGrants s l) :=
  State.each_sameCores fun _ _ => State.each_sameCores fun _ _ => cancelGrant_sameCores _ _ _

/-! ## What a reading of the cores keeps -/

/-- The SRAM is as it was, and so is what g reads of each core. -/
structure Undisturbed {α : Type} (g : Core → α) (s t : State) : Prop where
  sram : t.sram = s.sram
  wf : Tab.wf {} t.cores = true
  reads : ∀ k, g (t.core k) = g (s.core k)

section undisturbed
variable {α : Type} {g : Core → α} {s t u : State}

theorem Undisturbed.refl (h : Tab.wf {} s.cores = true) : Undisturbed g s s := ⟨rfl, h, fun _ => rfl⟩

theorem Undisturbed.same (h : Undisturbed g s t) (hu : SameCores t u) : Undisturbed g s u where
  sram := hu.2.trans h.sram
  wf := by rw [hu.1]; exact h.wf
  reads k := by rw [State.core, hu.1]; exact h.reads k

theorem Undisturbed.updCore {k : Nat} {f : Core → Core} (h : Undisturbed g s t) (hf : ∀ c, g (f c) = g c) :
    Undisturbed g s (t.updCore k f) where
  sram := h.sram
  wf := Tab.wf_upd k f h.wf
  reads j := by
    rw [State.updCore_core t k f j h.wf]
    split
    · next hj => rw [hf, hj]; exact h.reads k
    · exact h.reads j

theorem Undisturbed.updRegion {r : Nat} {f : Region → Region} (h : Undisturbed g s t) : Undisturbed g s (t.updRegion r f) := h.same ⟨rfl, rfl⟩

theorem Undisturbed.setCoreOf {l : Nat} {k : Option Nat} (h : Undisturbed g s t) : Undisturbed g s (t.setCoreOf l k) := h.same ⟨rfl, rfl⟩

theorem Undisturbed.setRings {v : List RingReport} (h : Undisturbed g s t) : Undisturbed g s (t.setRings v) := h.same ⟨rfl, rfl⟩

theorem Undisturbed.setSramCe {v : NSet} (h : Undisturbed g s t) : Undisturbed g s (t.setSramCe v) := h.same ⟨rfl, rfl⟩

theorem Undisturbed.send {p : Packet} (h : Undisturbed g s t) : Undisturbed g s (t.send p) := h.same (State.send_sameCores t p)

theorem Undisturbed.coxRecord {site : Nat} {rec : FaultRec} (h : Undisturbed g s t) :
    Undisturbed g s (Sys2Proof.Machine.coxRecord t site rec) :=
  h.same (coxRecord_sameCores t site rec)

theorem Undisturbed.cancelGrants {l : Nat} (h : Undisturbed g s t) : Undisturbed g s (Sys2Proof.Machine.cancelGrants t l) :=
  h.same (cancelGrants_sameCores t l)

theorem Undisturbed.each {β : Type} {l : List β} {f : State → β → State} (h : Undisturbed g s t)
    (hf : ∀ t x, Undisturbed g s t → Undisturbed g s (f t x)) : Undisturbed g s (t.each l f) :=
  State.each_keeps hf h

theorem Undisturbed.ite {c : Prop} [Decidable c] (ht : Undisturbed g s t) (hu : Undisturbed g s u) :
    Undisturbed g s (if c then t else u) := by
  split <;> assumption

/-- A condition under which a further change follows. -/
theorem Undisturbed.iteElse {c : Prop} [Decidable c] (ht : Undisturbed g s t) (hu : Undisturbed g s t → Undisturbed g s u) :
    Undisturbed g s (if c then t else u) :=
  ht.ite (hu ht)

end undisturbed

/-! ## Faults and reads leave the program and the place in it (R72, R102, R371) -/

/-- Where the sequencer fetches: the base of the program region and the PC. -/
def Core.fetchPlace (c : Core) : Nat × Nat := (c.base, c.pc)

section fetchPlace
variable {s t : State} (h : Undisturbed Core.fetchPlace s t)
include h

theorem haltCore_undisturbed {k cause unit : Nat} {tkv : Bool} {tkt pc addr : Nat} {fails absent : Bool} :
    Undisturbed Core.fetchPlace s (haltCore t k cause unit tkv tkt pc addr fails absent) := by
  exact Undisturbed.ite (h.updCore fun _ => rfl)
    (Undisturbed.iteElse (Undisturbed.setRings (Undisturbed.cancelGrants (h.updCore fun _ => rfl))) Undisturbed.coxRecord)

theorem coreFault_undisturbed {k cause unit : Nat} {tkv : Bool} {tkt pc addr : Nat} {fails absent : Bool} {peer : Option (Nat × Found)} :
    Undisturbed Core.fetchPlace s (coreFault t k cause unit tkv tkt pc addr fails absent peer) :=
  (haltCore_undisturbed h).each fun _ _ ht => Undisturbed.ite ht (haltCore_undisturbed ht)

theorem coreFail_undisturbed {k cause : Nat} {by_ : Option Found} {peer : Option (Nat × Found)} :
    Undisturbed Core.fetchPlace s (coreFail t k cause by_ peer) := by
  unfold coreFail
  dsimp only
  split
  · exact Undisturbed.updRegion (h.updCore fun _ => rfl)
  · refine Undisturbed.iteElse (Undisturbed.updCore (Undisturbed.ite h (coreFault_undisturbed h)) fun _ => rfl) fun hfails => ?_
    split
    · refine Undisturbed.coxRecord (Undisturbed.updRegion (Undisturbed.setCoreOf ?_))
      exact Undisturbed.updCore (hfails.updCore fun _ => rfl) fun _ => rfl
    · exact Undisturbed.coxRecord (Undisturbed.iteElse (Undisturbed.setCoreOf (hfails.updCore fun _ => rfl)) Undisturbed.setRings)

theorem checkLines_undisturbed {k : Nat} : Undisturbed Core.fetchPlace s (checkLines t k) :=
  Undisturbed.ite (coreFail_undisturbed h) h

theorem sramRead_undisturbed {k off len : Nat} : Undisturbed Core.fetchPlace s (sramRead t k off len) := by
  have hfixed {c : Prop} [Decidable c] {f : Region → Region} {v : NSet} :
      Undisturbed Core.fetchPlace s (if c then t else (t.updRegion (coreRegion k) f).setSramCe v) := Undisturbed.ite h h.updRegion.setSramCe
  unfold sramRead
  dsimp only
  split
  · exact hfixed
  · exact Undisturbed.updCore (Undisturbed.updRegion hfixed) fun _ => rfl

theorem unitReads_undisturbed {k : Nat} {runs : List (Nat × Nat)} : Undisturbed Core.fetchPlace s (unitReads t k runs).s := by
  unfold unitReads
  dsimp only
  split <;> exact checkLines_undisturbed (h.each fun _ _ ht => sramRead_undisturbed ht)

end fetchPlace

/-- A fetch leaves the word that it fetches. -/
theorem fetchWord_word {s : State} {k : Nat} (h : Tab.wf {} s.cores = true) : (fetchWord s k).s.word k = s.word k := by
  have hk := unitReads_undisturbed (Undisturbed.refl (g := Core.fetchPlace) h) (k := k)
    (runs := [((s.core k).base + 8 * (s.core k).pc, 8)])
  obtain ⟨hbase, hpc⟩ := Prod.mk.inj (hk.reads k)
  rw [fetchWord, State.word, State.sramBytes, hbase, hpc, hk.sram]
  rfl

theorem fetchWord_wf {s : State} {k : Nat} (h : Tab.wf {} s.cores = true) : Tab.wf {} (fetchWord s k).s.cores = true :=
  (unitReads_undisturbed (Undisturbed.refl (g := Core.fetchPlace) h)).wf

/-! ## Issue -/

theorem exec_coreRow (k : PCore) (ups : List (Nat × Nat × W32)) (f : CoreFn) (s : State) :
    exec (coreRow k ups f) s = .next (issueAs s k f (if f = .mma then ups else [])) := by
  cases f <;> rfl

section issue
variable {s : State} {k : Nat} {f : CoreFn} {ups : List (Nat × Nat × W32)}

/-- What State.issues says, part by part. -/
theorem State.issues_iff : s.issues k f = true ↔ s.coreActive k = true ∧ (fetchWord s k).cause = 0 ∧ decodeWord (s.word k) = some f ∧
    (s.core k).executes (s.word k) = true ∧ stalls (s.core k) f (s.word k) = false := by
  simp [State.issues, and_assoc]

theorem issueAs_issues (h : s.issues k f = true) : issueAs s k f ups = issueFn (fetchWord s k).s k f ups := by
  obtain ⟨hact, hcause, hdec, hexe, hstall⟩ := State.issues_iff.mp h
  simp [issueAs, hact, hcause, hdec, hexe, hstall]

section fetched
variable (hact : s.coreActive k = true)
include hact

theorem issueAs_fetchFault (hcause : (fetchWord s k).cause ≠ 0) : issueAs s k f ups =
    coreFault (fetchWord s k).s k (fetchWord s k).cause 0 false 0 (s.core k).pc (fetchWord s k).addr := by
  simp [issueAs, hact, hcause]

variable (hcause : (fetchWord s k).cause = 0)
include hcause

theorem issueAs_illegal (hdec : decodeWord (s.word k) = none) : issueAs s k f ups = issueFault (fetchWord s k).s k 0x01 0 := by
  simp [issueAs, hact, hcause, hdec]

theorem issueAs_heldBack (hdec : decodeWord (s.word k) = some f) (hexe : (s.core k).executes (s.word k) = false) :
    issueAs s k f ups = seqNext (fetchWord s k).s k id := by
  simp [issueAs, hact, hcause, hdec, hexe]

end fetched

/-! ## The next instruction (R72, R76) -/

theorem goTo_inside {n : Nat} (hn : n < (s.core k).length) : goTo s k n = s.updCore k (fun c => { c with pc := n }) :=
  if_pos ⟨Int.natCast_nonneg n, Int.ofNat_lt.mpr hn⟩

/-- After a write to core k that leaves its PC and its region, its sequencer goes on at n. -/
theorem goTo_updCore {n : Nat} {g : Core → Core} (hwf : Tab.wf {} s.cores = true) (hlen : (g (s.core k)).length = (s.core k).length)
    (hn : n < (s.core k).length) : goTo (s.updCore k g) k n = (s.updCore k g).updCore k (fun c => { c with pc := n }) := by
  refine goTo_inside ?_
  rw [State.updCore_core s k g k hwf, if_pos rfl, hlen]
  exact hn

/-- An effect on a core that leaves its PC and the length of its program. -/
def KeepsPlace (g : Core → Core) : Prop := ∀ c, (g c).pc = c.pc ∧ (g c).length = c.length

theorem KeepsPlace.id : KeepsPlace id := fun _ => ⟨rfl, rfl⟩
theorem KeepsPlace.setSreg (n : Nat) (v : Core → W64) : KeepsPlace (fun c => c.setSreg n (v c)) := fun _ => ⟨rfl, rfl⟩
theorem KeepsPlace.setTreg (n : Nat) (v : Core → BitVec 256) : KeepsPlace (fun c => c.setTreg n (v c)) := fun _ => ⟨rfl, rfl⟩
theorem KeepsPlace.setPred (n : Nat) (v : Core → Bool) : KeepsPlace (fun c => c.setPred n (v c)) := by
  intro c
  dsimp only [Core.setPred]
  split <;> exact ⟨rfl, rfl⟩

theorem seqNext_goesOn {g : Core → Core} (hwf : Tab.wf {} s.cores = true) (hg : KeepsPlace g) (hn : (s.core k).pc + 1 < (s.core k).length) :
    seqNext s k g = s.goesOn k ((s.core k).pc + 1) g := by
  obtain ⟨hpc, hlen⟩ := hg { s.core k with seq := (s.core k).seq + 1 }
  have hnext : ((s.updCore k (fun c => g { c with seq := c.seq + 1 })).core k).pc = (s.core k).pc := by
    rw [State.updCore_core s k _ k hwf, if_pos rfl]; exact hpc
  rw [seqNext, goNext, hnext]
  exact goTo_updCore hwf hlen hn

end issue

/-! ## The sequencer class (R75 to R77) -/

/-- The second operand of PSET and ALU. -/
theorem immOr_eq (c : Core) (w : W64) (x bits r : Nat) :
    immOr c w (x == 1) bits r = if x = 1 then sext bits (wbits w (bits - 1) 0) else c.sreg r := by
  simp [immOr]

section access
variable {s : State} {k size v a : Nat} {put : Core → Nat → Core}
  (ha : a = ((s.core k).sreg (wbits (s.word k) 39 35) + BitVec.ofNat 64 (wbits (s.word k) 20 0)).toNat)
  (hin : a + size ≤ sramSize) (hal : a % size = 0)
include ha hin hal

theorem seqAccess_good : seqAccess (s.core k) (s.word k) size = (a, 0) := by
  rw [seqAccess, ← ha, if_neg (Nat.not_lt.mpr hin), if_neg (by simp [hal])]

theorem seqLoad_good (hcause : (unitReads s k [(a, size)]).cause = 0) :
    seqLoad s k size put = seqNext (unitReads s k [(a, size)]).s k (fun c => put c (natLE (s.sramBytes k a size))) := by
  simp [seqLoad, seqAccess_good ha hin hal, hcause]

theorem seqStore_good (hcause : (unitWrite s k a (bytesLE size v)).cause = 0) :
    seqStore s k size v = seqNext (unitWrite s k a (bytesLE size v)).s k id := by
  simp [seqStore, seqAccess_good ha hin hal, hcause]

end access

/-- Settles O11: the effect of an issued word is issueFn's, clause by clause; a fetch leaves the word as it was. -/
theorem sequencerInstructionsTakeEffect : Obligations.SequencerInstructionsTakeEffect := by
  intro k s hcan w s1 next
  have hkept : Kept s.mark s1 := unitReads_kept (State.kept_mark hcan)
  have hwf : Tab.wf {} s1.cores = true := hkept.canon.cores
  have hword : s1.word k = w := fetchWord_word (State.kept_mark hcan).canon.cores
  have hexec {f : CoreFn} (h : s.issues k f = true) : issueAs s k f = issueFn s1 k f [] := issueAs_issues h
  have hnext {g : Core → Core} (hg : KeepsPlace g) (hn : next < (s1.core k).length) : seqNext s1 k g = s1.goesOn k next g :=
    seqNext_goesOn hwf hg hn
  refine ⟨fun h hn => ?nop, fun h => ?halt, fun h hlo hhi => ?br, fun h hhi => ?brr, fun h hn => ?twait, fun h hn => ?pset,
    fun h hn => ?alu, fun h hn => ?movi, fun h hn => ?tdset, fun h hn hsel => ?srd, fun h hn hsel => ?cycles,
    fun a ha => ⟨fun h hin hal hc hn => ?sld, fun h hin hal hc hn => ?tdld, fun r hr h hin hal hc hn => ?sst,
      fun r hr h hin hal hc hn => ?tdst⟩⟩
  all_goals refine congrArg Host.Outcome.next ((hexec h).trans ?_)
  all_goals simp only [issueFn, hword, doPset, doAlu, doMovi, doTdset, immOr_eq]
  case nop => exact hnext .id hn
  case twait => exact hnext .id hn
  case br =>
    rw [← Int.toNat_of_nonneg hlo] at hhi ⊢
    exact goTo_updCore hwf rfl (Int.ofNat_lt.mp hhi)
  case brr => exact goTo_updCore hwf rfl hhi
  case pset => exact hnext (.setPred _ _) hn
  case alu => exact hnext (.setSreg _ _) hn
  case movi => exact hnext (.setSreg _ _) hn
  case tdset => exact hnext (.setTreg _ _) hn
  case srd => rw [if_neg hsel]; exact hnext (.setSreg _ _) hn
  case cycles =>
    rw [if_pos hsel, hsel]
    exact seqNext_goesOn (s := s1.draw) hwf (.setSreg _ _) hn
  case sld =>
    rw [seqLoad_good (hword ▸ ha) hin hal hc]
    exact seqNext_goesOn (unitReads_kept hkept).canon.cores (.setSreg _ _) hn
  case tdld =>
    rw [seqLoad_good (hword ▸ ha) hin hal hc]
    exact seqNext_goesOn (unitReads_kept hkept).canon.cores (.setTreg _ _) hn
  case sst =>
    subst hr
    rw [seqStore_good (hword ▸ ha) hin hal hc]
    exact seqNext_goesOn (unitWrite_kept hkept).canon.cores .id hn
  case tdst =>
    subst hr
    rw [seqStore_good (hword ▸ ha) hin hal hc]
    exact seqNext_goesOn (unitWrite_kept hkept).canon.cores .id hn

end Sys2Proof.Machine
end

section
/-!
PROOFS. Chapter 3: words that go to a unit, words that do not execute, and the frames of the register instructions.
-/
namespace Sys2Proof.Machine

/-! ## Issue to a unit (R62, R66, R71, R73, R74) -/

section unit
variable {s : State} {k : Nat} {f : CoreFn} {ups : List (Nat × Nat × W32)}

theorem issueUnit_good (h : issueCause s k f { opOf (s.core k) f (s.word k) with upset := ups } = 0) :
    issueUnit s k f ups = goNext (enqueueOp (s.updCore k (fun c => { c with
      seq := c.seq + 1, tpend := if f = .recv then NSet.add c.tpend (wbits (opOf (s.core k) f (s.word k)).w 44 41) else c.tpend })) k
        { opOf (s.core k) f (s.word k) with upset := ups }) k := by
  simp [issueUnit, h]

theorem issueUnit_bad (h : issueCause s k f { opOf (s.core k) f (s.word k) with upset := ups } ≠ 0) :
    issueUnit s k f ups = issueFault s k (issueCause s k f { opOf (s.core k) f (s.word k) with upset := ups }) 0 := by
  simp [issueUnit, h]

end unit

/-- The functions of the engines, the mover and the sync unit are issued by issueUnit; STROKEWAIT's issue is its own. -/
theorem issueFn_unit (s : State) (k : Nat) (ups : List (Nat × Nat × W32)) : ∀ f ∈ [CoreFn.mma, .mst, .mld, .mzero, .ew, .cvt, .red, .trn, .smx,
    .warp, .copy, .rcopy, .gather, .scatter, .send, .recv, .voidMark, .route, .signal, .wait, .arm, .barrier],
    issueFn s k f ups = issueUnit s k f ups := by
  simp only [List.forall_mem_cons, issueFn, true_and, List.not_mem_nil, false_implies, implies_true]

/-- Settles O12: a word that issues goes to issueUnit; one that does not is judged before, by its fetch, its code and its predicate. -/
theorem unitInstructionsAreIssued : Obligations.UnitInstructionsAreIssued := by
  refine ⟨fun k ups f s hf h => ⟨fun hgood => ?queued, fun hbad => ?faults⟩, fun k ups f s hact hcause hdec hexe => ?heldBack,
    fun k ups f s hact hcause hdec => ?illegal, fun k ups f s hact hcause => ?fetchFault⟩
  all_goals refine (exec_coreRow k ups f s).trans (congrArg Host.Outcome.next ?_)
  case queued => exact (issueAs_issues h).trans ((issueFn_unit _ _ _ f hf).trans (issueUnit_good hgood))
  case faults => exact (issueAs_issues h).trans ((issueFn_unit _ _ _ f hf).trans (issueUnit_bad hbad))
  case heldBack => exact issueAs_heldBack hact hcause hdec hexe
  case illegal => exact issueAs_illegal hact hcause hdec
  case fetchFault => exact issueAs_fetchFault hact hcause

/-! ## Reads that find nothing faulty (R267, R371) -/

section clean
variable {s : State} {k : Nat} (hue : s.sramUe = []) (hce : s.sramCe = [])

include hue hce in
theorem sramRead_clean (off len : Nat) : sramRead s k off len = s := by
  simp [sramRead, wordsIn, hue, hce]

theorem checkLines_few (hlines : (s.core k).badLines.length < 2) : checkLines s k = s := by
  simp [checkLines, hlines]

include hue hce

theorem sramReads_clean (runs : List (Nat × Nat)) : s.each runs (fun s r => sramRead s k r.1 r.2) = s :=
  State.each_keeps (P := (· = s)) (fun t r ht => by subst ht; exact sramRead_clean hue hce _ _) rfl

variable (hlines : (s.core k).badLines.length < 2)
include hlines

theorem unitReads_clean (runs : List (Nat × Nat)) : unitReads s k runs = { s := s } := by
  have hbad : s.firstBad k runs = none := by simp [State.firstBad, wordsIn, hue]
  simp only [unitReads, hbad, sramReads_clean hue hce, checkLines_few hlines]

theorem fetchWord_clean : fetchWord s k = { s := s } := unitReads_clean hue hce hlines _

end clean

/-! ## The frame of the next instruction -/

section goesOn
variable {s : State} {k n : Nat} {g : Core → Core} (hwf : Tab.wf {} s.cores = true)
include hwf

theorem State.updCore_wf {f : Core → Core} : Tab.wf {} (s.updCore k f).cores = true := Tab.wf_upd k f hwf

theorem State.goesOn_core_self : (s.goesOn k n g).core k = { g { s.core k with seq := (s.core k).seq + 1 } with pc := n } := by
  rw [State.goesOn, State.updCore_core _ k _ k (State.updCore_wf hwf), if_pos rfl, State.updCore_core s k _ k hwf, if_pos rfl]

theorem State.goesOn_core_ne {j : Nat} (hj : j ≠ k) : (s.goesOn k n g).core j = s.core j := by
  rw [State.goesOn, State.updCore_core _ k _ j (State.updCore_wf hwf), if_neg hj, State.updCore_core s k _ j hwf, if_neg hj]

end goesOn

/-! ## Predication (R73) -/

theorem Core.executes_iff (c : Core) (w : W64) : c.executes w = true ↔ c.pred (wPred w) ≠ wPneg w :=
  Bool.xor_iff_ne

/-- Settles O51. -/
theorem falsePredicateIsANoOp : Obligations.FalsePredicateIsANoOp := by
  refine ⟨Core.executes_iff, fun c w hp hn => ?never, fun k ups f s hcan hue hce hlines hact hdec hexe hn => ?heldBack,
    fun k f s hact hcause hdec hexe hstall => State.issues_iff.mpr ⟨hact, hcause, hdec, hexe, hstall⟩⟩
  case never => simp [Core.executes, Core.pred, hp, hn]
  case heldBack =>
    have hwf := (State.kept_mark hcan).canon.cores
    have hfetch := fetchWord_clean hue hce hlines
    have hnext : exec (coreRow k ups f) s = .next (s.goesOn k ((s.core k).pc + 1) id) := by
      rw [exec_coreRow, issueAs_heldBack hact (by rw [hfetch]) hdec hexe, hfetch, seqNext_goesOn hwf .id hn]
    exact ⟨_, hnext, State.goesOn_core_self hwf, rfl, fun j => State.goesOn_core_ne hwf⟩

/-! ## The frame of the register instructions (R75) -/

/-- Core 0 of a running region at a MOVI of 0 into s5, with another word after it. Its scalar registers are listed out of order, so that
s3 reads 0 behind s5. -/
def unorderedRegisters : State :=
  { State.reset with
    cores := [(0, { mode := .running, length := 2, sregs := [(5, 1), (3, 7)] })]
    regions := [(0, { clock := .running })]
    sram := (bytesLE 8 (7 * 2 ^ 54 + 5 * 2 ^ 40)).zipIdx.filterMap (fun (b, i) => if b = 0 then none else some (i, b)) }

/-- Refutes O52: the premise State.canonical says nothing of the tables inside a core. In unorderedRegisters the MOVI takes s5, whose entry
hides that of s3, out of the table, and s3, which is not its destination, reads 7 after it. -/
theorem not_registerInstructionsStayInTheirCore : ¬ Obligations.RegisterInstructionsStayInTheirCore := by
  intro h
  obtain ⟨t, ht, -, -, -, -, -, -, -, hsregs, -⟩ := h 0 [] .movi unorderedRegisters (by decide +kernel) rfl rfl (by decide +kernel)
    (by decide) (by decide +kernel) (by decide +kernel)
  have hkept : (t.core 0).sreg 3 = (unorderedRegisters.core 0).sreg 3 := hsregs 3 (.inr rfl) (by decide +kernel)
  rw [exec_coreRow, Host.Outcome.next.injEq] at ht
  rw [← ht] at hkept
  exact absurd hkept (by decide +kernel)

end Sys2Proof.Machine
end

section
/-!
PROOFS. Chapters 3 and 9: the bytes that a store of a core, a write packet and a slice write change, and that reads change none.
-/
namespace Sys2Proof.Machine

/-! ## Bytes placed one after another -/

/-- Bytes placed each at its own key are a run. -/
theorem Tab.foldl_put_zipIdx {α : Type} [DecidableEq α] (d : α) (vs : List α) (key n : Nat) (t : Tab α) :
    (vs.zipIdx n).foldl (fun t x => Tab.put d t (key + x.2) x.1) t = Tab.putList d t (key + n) vs := by
  induction vs generalizing n t with
  | nil => rfl
  | cons v vs ih => rw [List.zipIdx_cons, List.foldl_cons, ih]; rfl

/-- Bytes placed from a key on. -/
theorem Tab.foldl_put_zipIdx_zero {α : Type} [DecidableEq α] (d : α) (vs : List α) (key : Nat) (t : Tab α) :
    vs.zipIdx.foldl (fun t x => Tab.put d t (key + x.2) x.1) t = Tab.putList d t key vs :=
  Tab.foldl_put_zipIdx d vs key 0 t

theorem length_bytesLE (len v : Nat) : (bytesLE len v).length = len := by simp [bytesLE]

/-! ## Writes of SRAM where no word is faulty (R267) -/

/-- SRAM with a run of bytes of core k written. -/
def State.withSram (s : State) (k off : Nat) (bytes : List Byte) : State := s.setSram (Tab.putList 0 s.sram (sramKey k off) bytes)

@[simp] theorem State.withSram_core (s : State) (k off : Nat) (bytes : List Byte) (j : Nat) : (s.withSram k off bytes).core j = s.core j := rfl
@[simp] theorem State.withSram_sram (s : State) (k off : Nat) (bytes : List Byte) :
    (s.withSram k off bytes).sram = Tab.putList 0 s.sram (sramKey k off) bytes := rfl
@[simp] theorem State.withSram_hbm (s : State) (k off : Nat) (bytes : List Byte) : (s.withSram k off bytes).hbm = s.hbm := rfl

section sram
variable {s : State} {k off : Nat} {bytes : List Byte} (hue : s.sramUe = []) (hce : s.sramCe = [])

include hue in
theorem partialBad_clean (len : Nat) : s.partialBad k off len = false := by simp [State.partialBad, wordsIn, hue]

include hue hce

theorem sramWrite_clean : sramWrite s k off bytes = s.withSram k off bytes := by
  have hwords (len : Nat) : wordsIn s.sramUe (sramKey k off) len = [] := by simp [wordsIn, hue]
  have hue' (p : Nat → Bool) : s.sramUe.filter p = s.sramUe := by rw [hue, List.filter_nil]
  have hce' (p : Nat → Bool) : s.sramCe.filter p = s.sramCe := by rw [hce, List.filter_nil]
  simp only [sramWrite, hwords, List.filter_nil, List.contains_nil, Bool.not_false, List.filter_true, List.isEmpty_nil, if_true, hue', hce']
  rw [Tab.foldl_put_zipIdx_zero]
  rfl

theorem inboundWrite_clean (hlines : (s.core k).badLines.length < 2) : inboundWrite s k off bytes = (s.withSram k off bytes, false) := by
  rw [inboundWrite, sramReads_clean hue hce, sramWrite_clean hue hce, partialBad_clean hue, checkLines_few (s := s.withSram k off bytes) hlines]

end sram

/-- What the digest of a pair does not enter (R136) and the next instruction asks for: PC, length of the program, lines with an
uncorrectable error. -/
def Core.course (c : Core) : Nat × Nat × NSet := (c.pc, c.length, c.badLines)

section digest
variable {s t : State} {k : Nat}

theorem addDigest_undisturbed {α : Type} {g : Core → α} {record : List Byte} (hg : ∀ (c : Core) d, g { c with digest := d } = g c)
    (h : Undisturbed g s t) : Undisturbed g s (addDigest t k record) :=
  Undisturbed.ite (h.updCore fun c => hg c _) h

@[simp] theorem addDigest_hbm (s : State) (k : Nat) (record : List Byte) : (addDigest s k record).hbm = s.hbm := by
  unfold addDigest; split <;> rfl

end digest

section unitWrite
variable {s : State} {k off : Nat} {bytes : List Byte} (hue : s.sramUe = []) (hce : s.sramCe = []) (hwf : Tab.wf {} s.cores = true)
  (hlines : (s.core k).badLines.length < 2) (hne : bytes.isEmpty = false) (hprog : (s.core k).inProgram off bytes.length = false)
include hue hce hwf hlines hne hprog

/-- A unit's write outside the program changes SRAM and, of its core's course, nothing. -/
theorem unitWrite_clean : ∃ t, unitWrite s k off bytes = { s := t } ∧ t.hbm = s.hbm ∧ Undisturbed Core.course (s.withSram k off bytes) t := by
  let t := (s.withSram k off bytes).each (writeRecords off bytes) (fun s r => addDigest s k r)
  have ht : Undisturbed Core.course (s.withSram k off bytes) t :=
    Undisturbed.each (Undisturbed.refl hwf) fun _ _ => addDigest_undisturbed fun _ _ => rfl
  obtain ⟨-, -, hbad⟩ : _ ∧ _ ∧ (t.core k).badLines = (s.core k).badLines := by
    simpa [Core.course] using ht.reads k
  refine ⟨t, ?_, State.each_reading fun _ _ => addDigest_hbm _ _ _, ht⟩
  simp only [unitWrite, hne, hprog, partialBad_clean hue, sramReads_clean hue hce, sramWrite_clean hue hce, Bool.false_eq_true, if_false]
  exact congrArg (fun s => ({ s := s } : Res)) (checkLines_few (hbad ▸ hlines))

end unitWrite

/-- A store that goes on changes the bytes stored to and no other. -/
theorem seqStore_frame {s : State} {k a size v : Nat} (hue : s.sramUe = []) (hce : s.sramCe = []) (hcanon : Canon s)
    (hlines : (s.core k).badLines.length < 2) (hn : (s.core k).pc + 1 < (s.core k).length) (hsize : 0 < size)
    (ha : a = ((s.core k).sreg (wbits (s.word k) 39 35) + BitVec.ofNat 64 (wbits (s.word k) 20 0)).toNat) (hal : a % size = 0)
    (hin : a + size ≤ sramSize) (hprog : (s.core k).inProgram a size = false) :
    (seqStore s k size v).hbm = s.hbm ∧ ∀ x, Tab.get 0 (seqStore s k size v).sram x =
      if sramKey k a ≤ x ∧ x < sramKey k a + size then (bytesLE size v).getD (x - sramKey k a) 0 else Tab.get 0 s.sram x := by
  obtain ⟨t, hw, hhbm, ht⟩ := unitWrite_clean hue hce hcanon.cores hlines (bytes := bytesLE size v)
    (by rw [← Bool.not_eq_true, List.isEmpty_iff_length_eq_zero, length_bytesLE]; omega) (by rw [length_bytesLE]; exact hprog)
  obtain ⟨hpc, hlen, -⟩ : (t.core k).pc = (s.core k).pc ∧ (t.core k).length = (s.core k).length ∧ _ := by
    simpa [Core.course] using ht.reads k
  rw [seqStore_good ha hin hal (by rw [hw]), hw, seqNext_goesOn ht.wf .id (by rw [hpc, hlen]; exact hn)]
  refine ⟨hhbm, fun x => (congrArg (Tab.get 0 · x) ht.sram).trans ?_⟩
  rw [State.withSram_sram, Tab.get_putList _ x _ hcanon.sram, length_bytesLE]

/-! ## Requests at a router (R267, R268) -/

section inbound
variable {s : State} {i l off k : Nat} {p : Packet} (hat : s.atTarget p = true) (htarget : targetOf p.addr = .sram l off)
include hat htarget

theorem execInboundRd_window (harr : s.arrived i [0, 1] [0] = some p) :
    execInboundRd i s = .next (readSram (s.takePacket i) p l off p.readLen) := by
  simp [execInboundRd, harr, hat, htarget]

theorem inboundWriteAt_window : inboundWriteAt s i p = writeSram (s.takePacket i) p l off p.writeBytes := by
  simp [inboundWriteAt, hat, htarget]

end inbound

section requests
variable {s : State} {p : Packet} {l off k : Nat} (hserved : s.servedCore l = some k)
include hserved

/-- A read that fits answers with its bytes, or with STATUS 2. -/
theorem readSram_served {n : Nat} (hin : off + n ≤ sramSize) : readSram s p l off n =
    (sramTouch s k off n).send (if s.sramBad k off n then p.ack 2 else p.rdata p.readOff (s.sramBytes k off n)) := by
  simp only [readSram, hserved, if_neg (Nat.not_lt.mpr hin)]
  split <;> rfl

theorem readSram_beyond {n : Nat} (hin : sramSize < off + n) : readSram s p l off n = s.send (p.ack 1) := by
  simp only [readSram, hserved, if_pos hin]

variable {bytes : List Byte} (hprog : (s.core k).inProgram off bytes.length = false) (hin : off + bytes.length ≤ sramSize)
include hprog hin

theorem writeSram_single (hpair : (s.core k).paired = false) : writeSram s p l off bytes =
    (inboundWrite s k off bytes).1.send (p.ack (if (inboundWrite s k off bytes).2 then 2 else 0)) := by
  simp [writeSram, hserved, hprog, Nat.not_lt.mpr hin, hpair]

theorem writeSram_paired {j : Nat} (hpair : (s.core k).paired = true) (hj : s.pairOf k = some j) : writeSram s p l off bytes =
    (inboundWrite (inboundWrite s k off bytes).1 j off bytes).1.send (p.ack (if (inboundWrite s k off bytes).2 then 2 else 0)) := by
  simp [writeSram, hserved, hprog, Nat.not_lt.mpr hin, hpair, hj]

end requests

/-! ## Slices where no word is faulty (R279) -/

section slice
variable {s : State} {sl byte : Nat}

/-- A write whose decoding finds nothing changes no more than which words hold a single-bit error. -/
theorem partialFinds_none {part addr len : Nat} {whole : Bool} : ∃ v, partialFinds s part sl byte addr len whole [] [] = s.setHbmCe v :=
  ⟨_, by simp [partialFinds, foundWords, freshUe]; rfl⟩

variable (hue : s.hbmUe = []) (hlost : ∀ q, (s.hub q).lostUnits = [])
include hue hlost

theorem State.hbmBad_clean (w : Nat) : s.hbmBad w = false := by simp [State.hbmBad, State.hbmLost, hue, hlost]

theorem readFinds_none {part addr len : Nat} : ∃ v, readFinds s part sl byte addr len [] [] = (s.setHbmCe v, []) :=
  ⟨_, by simp [readFinds, foundWords, freshUe, State.hbmBad_clean hue hlost]; rfl⟩

end slice

theorem healWords_sram (s : State) (ws : List Nat) : (healWords s ws).sram = s.sram :=
  State.each_reading fun _ _ => by split <;> rfl

theorem healWords_hbm (s : State) (ws : List Nat) : (healWords s ws).hbm = s.hbm :=
  State.each_reading fun _ _ => by split <;> rfl

theorem hbmWrite_clean {s : State} {sl byte : Nat} {bytes : List Byte} (hbad : ∀ w, s.hbmBad w = false) :
    (hbmWrite s sl byte bytes).2 = [] ∧ (hbmWrite s sl byte bytes).1.sram = s.sram ∧
    (hbmWrite s sl byte bytes).1.hbm = Tab.putList 0 s.hbm (hbmKey s sl byte) bytes := by
  have hnone (l : List Nat) : l.filter s.hbmBad = [] := List.filter_eq_nil_iff.mpr fun w _ => by simp [hbad w]
  refine ⟨hnone _, healWords_sram _ _, (healWords_hbm _ _).trans ?_⟩
  simp only [hnone, List.contains_nil, Bool.not_false, List.filter_true]
  exact Tab.foldl_put_zipIdx_zero 0 bytes (hbmKey s sl byte) s.hbm

theorem popSlice_keep {s : State} (sl byte : Nat) (hwf : Tab.wf {} s.slices = true) : hbmKey (popSlice s sl) sl byte = hbmKey s sl byte := by
  rw [hbmKey, popSlice, State.updSlice_slice s sl _ sl hwf, if_pos rfl]
  rfl

/-! ## The frames -/

/-- Settles O53. -/
theorem storesWriteTheirBytesOnly : Obligations.StoresWriteTheirBytesOnly := by
  intro s t hcan hue hce hhue hhce hlost
  have hcanon := (State.kept_mark hcan).canon
  have hissue {k : Nat} {f : CoreFn} (hlines : (s.core k).badLines.length < 2) (h : s.issues k f = true)
      (hex : Host.Outcome.next (issueAs s k f) = (.next t : Host.Outcome State Fault Refusal)) : t = issueFn s k f [] := by
    rw [issueAs_issues h, fetchWord_clean hue hce hlines] at hex
    exact (Host.Outcome.next.inj hex).symm
  refine ⟨fun k hlines hn => ⟨fun h hal hin hprog hex => ?sst, fun h hal hin hprog hex => ?tdst⟩,
    fun i p l off k harr hat htarget hserved hpair hlines hprog hin hex => ?inboundWr,
    fun i p l off k harr hat htarget hserved hlines hex => ?inboundRd, fun sl p byte hhead hex => ?sliceWrite,
    fun sl p byte hhead hex => ?sliceRead⟩
  case sst =>
    rw [hissue hlines h hex]
    exact seqStore_frame hue hce hcanon hlines hn (by decide) rfl hal hin hprog
  case tdst =>
    rw [hissue hlines h hex]
    exact seqStore_frame hue hce hcanon hlines hn (by decide) rfl hal hin hprog
  case inboundWr =>
    have hex' : exec (.inboundWr i) s = .next (((s.takePacket i).withSram k off p.writeBytes).send (p.ack 0)) := by
      show execInboundWr i s = _
      simp only [execInboundWr, harr]
      rw [inboundWriteAt_window hat htarget, writeSram_single (by simpa using hserved) (by simpa using hprog) hin (by simpa using hpair),
        inboundWrite_clean (by simpa using hue) (by simpa using hce) (by simpa using hlines)]
      rfl
    cases hex.symm.trans hex'
    simp only [State.send_hbm, State.send_sram, State.withSram_hbm, State.withSram_sram, takePacket_hbm, takePacket_sram]
    exact ⟨trivial, fun x => Tab.get_putList _ x _ hcanon.sram⟩
  case inboundRd =>
    rw [show exec (.inboundRd i) s = _ from execInboundRd_window hat htarget harr] at hex
    cases hex
    have hserved' : (s.takePacket i).servedCore l = some k := by simpa using hserved
    rcases Nat.lt_or_ge sramSize (off + p.readLen) with hbeyond | hin
    · simp [readSram_beyond hserved' hbeyond]
    · have htouch : sramTouch (s.takePacket i) k off p.readLen = s.takePacket i := by
        rw [sramTouch, sramRead_clean (by simpa using hue) (by simpa using hce), checkLines_few (by simpa using hlines)]
      simp [readSram_served hserved' hin, htouch]
  case sliceWrite =>
    obtain ⟨v, hfinds⟩ := partialFinds_none (s := popSlice s sl) (sl := sl) (byte := byte) (part := p.part) (addr := p.addr)
      (len := p.writeBytes.length) (whole := false)
    obtain ⟨hnone, hsram, hhbm⟩ := hbmWrite_clean (s := (popSlice s sl).setHbmCe v) (sl := sl) (byte := byte) (bytes := p.writeBytes)
      (State.hbmBad_clean (s := (popSlice s sl).setHbmCe v) hhue hlost)
    have hex' : exec (.sliceWrite sl {}) s =
        .next ((hbmWrite ((popSlice s sl).setHbmCe v) sl byte p.writeBytes).1.send (p.ack 0)) := by
      show execSliceWrite sl {} s = _
      simp only [execSliceWrite, hhead]
      simp only [noteParity, Bool.false_eq_true, if_false, hfinds, hnone, List.isEmpty_nil, if_true]
    cases hex.symm.trans hex'
    have hkey : hbmKey ((popSlice s sl).setHbmCe v) sl byte = hbmKey s sl byte := popSlice_keep sl byte hcanon.slices
    rw [State.send_sram, State.send_hbm, hsram, hhbm, hkey]
    exact ⟨rfl, fun x => Tab.get_putList _ x _ hcanon.hbm⟩
  case sliceRead =>
    obtain ⟨v, hfinds⟩ := readFinds_none (s := popSlice s sl) (sl := sl) (byte := byte) hhue hlost (part := p.part) (addr := p.addr)
      (len := p.readLen)
    change execSliceRead sl [] {} s = _ at hex
    simp only [execSliceRead, hhead, noteParity, Bool.false_eq_true, if_false, hfinds, List.isEmpty_nil, if_true] at hex
    cases hex
    simp only [State.send_sram, State.send_hbm]
    exact ⟨rfl, rfl⟩

end Sys2Proof.Machine
end

section
/-!
PROOFS. Chapter 3: what a core does with the requests, responses and messages that reach its router, and with its own requests that stay
unanswered.
-/
namespace Sys2Proof.Machine

/-! ## Requests at a router (R104, R135, R248, R267, R268) -/

section control
variable {s : State} {i : Nat} {p : Packet} (hat : s.atTarget p = true) (hctl : ∀ l off, targetOf p.addr ≠ .sram l off)
include hat hctl

theorem execInboundRd_control {v : Nat} (harr : s.arrived i [0, 1] [0] = some p) (hv : (s.takePacket i).controlWord p.addr = some v)
    (hlen : p.readLen = 4) (hal : p.addr % 4 = 0) :
    execInboundRd i s = .next ((s.takePacket i).send (p.rdata p.readOff (bytesLE 4 v))) := by
  cases ht : targetOf p.addr with
  | sram l off => exact absurd ht (hctl l off)
  | _ => simp [execInboundRd, harr, hat, ht, hv, hlen, hal]

theorem inboundWriteAt_control {t : State} (hlen : p.writeBytes.length = 4) (hal : p.addr % 4 = 0)
    (ht : writeControl (s.takePacket i) p.addr (natLE p.writeBytes) = some t) : inboundWriteAt s i p = t.send (p.ack 0) := by
  cases htgt : targetOf p.addr with
  | sram l off => exact absurd htgt (hctl l off)
  | _ => simp [inboundWriteAt, hat, htgt, ht, hlen, hal]

end control

section rows
variable {s : State} {i : Nat} {p : Packet}

theorem execInboundWr_arrived (harr : s.arrived i [0, 1] [1] = some p) : execInboundWr i s = .next (inboundWriteAt s i p) := by
  simp only [execInboundWr, harr]

theorem execInboundWrs_arrived (harr : s.arrived i [0, 1] [2] = some p) : execInboundWrs i s = .next (inboundWriteAt s i p) := by
  simp only [execInboundWrs, harr]

/-- A write packet acts alike as WR and as WRS. -/
theorem inboundWrites_next {t : State} (h : inboundWriteAt s i p = t) :
    (s.arrived i [0, 1] [1] = some p → exec (.inboundWr i) s = .next t) ∧
    (s.arrived i [0, 1] [2] = some p → exec (.inboundWrs i) s = .next t) :=
  ⟨fun harr => (execInboundWr_arrived harr).trans (congrArg _ h), fun harr => (execInboundWrs_arrived harr).trans (congrArg _ h)⟩

end rows

theorem readSram_unserved {s : State} {p : Packet} {l off n : Nat} (h : s.servedCore l = none) : readSram s p l off n = s.send (p.ack 1) := by
  simp only [readSram, h]

theorem writeSram_refused {s : State} {p : Packet} {l off : Nat} {bytes : List Byte}
    (h : s.servedCore l = none ∨ ∃ k, s.servedCore l = some k ∧ (s.core k).inProgram off bytes.length = true) :
    writeSram s p l off bytes = s.send (p.ack 1) := by
  rcases h with h | ⟨k, hk, hprog⟩
  · simp only [writeSram, h]
  · simp [writeSram, hk, hprog]

/-- Settles O17: a packet's leaving its router changes nothing that the answer to it reads. -/
theorem inboundRequestsAreServed : Obligations.InboundRequestsAreServed := by
  intro i p s hat
  refine ⟨fun l off ht => ⟨fun harr => ?read, fun k hk hprog hin hpair => ?single, fun k j hk hprog hin hpair hj => ?paired, fun h => ?refused⟩,
    fun v hctl harr => execInboundRd_control hat hctl harr, fun t hctl hlen hal hw => ?control⟩
  case read =>
    have hexec := execInboundRd_window hat ht harr
    refine ⟨fun k hk hin hbad => hexec.trans (congrArg _ ?_), fun k hk hin hbad => hexec.trans (congrArg _ ?_),
      fun hnone => hexec.trans (congrArg _ (readSram_unserved (by simpa using hnone)))⟩
    · rw [readSram_served (by simpa using hk) hin]; simp [hbad]
    · rw [readSram_served (by simpa using hk) hin]; simp [hbad]
  case single =>
    exact inboundWrites_next ((inboundWriteAt_window hat ht).trans
      (writeSram_single (by simpa using hk) (by simpa using hprog) hin (by simpa using hpair)))
  case paired =>
    exact inboundWrites_next ((inboundWriteAt_window hat ht).trans
      (writeSram_paired (by simpa using hk) (by simpa using hprog) hin (by simpa using hpair) (by simpa using hj)))
  case refused => exact inboundWrites_next ((inboundWriteAt_window hat ht).trans (writeSram_refused (by simpa using h)))
  case control => exact inboundWrites_next (inboundWriteAt_control hat hctl hlen hal hw)

/-! ## Responses at a core (R214 to R216, R221, R243) -/

section response
variable {s : State} {i x y k : Nat} {p : Packet} (hloc : p.loc = .router x y) (hk : s.coreHere p = some k) (htag : p.tag < agentTag)
  (hej : s.ejects k = true)
include hloc hk htag hej

/-- A response to a request of the core at its router goes to the core. -/
theorem takeResponse_core {toCore : State → Nat → State} {toAgent : State → State} {st : Nat} {data : List Byte} :
    takeResponse s i p toCore toAgent st data = toCore (s.takePacket i) k := by
  simp [takeResponse, hloc, hk, Nat.not_le.mpr htag, hej]

theorem execRdata_core (harr : s.arrived i [2] [0] = some p) : execRdata i s = .next (coreRdata (s.takePacket i) k p) := by
  simp only [execRdata, harr, takeResponse_core hloc hk htag hej]

theorem execAck_core (harr : s.arrived i [2] [1] = some p) : execAck i s = .next (coreAck (s.takePacket i) k p) := by
  simp only [execAck, harr, takeResponse_core hloc hk htag hej]

theorem execRelease_core (harr : s.arrived i [2] [2] = some p) :
    execRelease i s = .next (coreRelease (s.takePacket i) k p.addr (p.aux % 16)) := by
  simp only [execRelease, harr, takeResponse_core hloc hk htag hej]

theorem execGrant_core (harr : s.arrived i [2] [3] = some p) : execGrant i s = .next (coreGrant (s.takePacket i) k p) := by
  simp only [execGrant, harr, takeResponse_core hloc hk htag hej]

theorem execCredit_core (harr : s.arrived i [2] [4] = some p) : execCredit i s = .next (coreCredit (s.takePacket i) k (p.addr % 4096)) := by
  have hport : nodePort p.loc = none := by rw [hloc]; rfl
  simp only [execCredit, harr, hport, takeResponse_core hloc hk htag hej]

theorem execAdata_core (harr : s.arrived i [2] [5] = some p) : execAdata i s = .next (coreAck (s.takePacket i) k p) := by
  simp only [execAdata, harr, takeResponse_core hloc hk htag hej]

end response

section answered
variable {s : State} {k : Nat} {p : Packet} {q : Req} (hq : (s.core k).findReq p.tag = some q)
include hq

theorem coreAck_found : coreAck s k p = advancePair (answerReq (takeReq s k p.tag) k q (p.aux % 16)) k := by
  simp only [coreAck, hq]

theorem coreRdata_stage (hkind : q.kind = .stage) : coreRdata s k p = advancePair (stageDone (settle ((takeReq s k p.tag).setRun k q.seq (fun r =>
    { r with got := r.got ++ [(q.off, p.readBytes)] })) k q.seq) k q.seq) k := by
  simp [coreRdata, hq, hkind]

section lands
variable (hkind : q.kind ≠ .stage)
include hkind

theorem coreRdata_faulted (hf : (s.core k).fault.valid = true) : coreRdata s k p = settle (readLands (takeReq s k p.tag) k p).s k q.seq := by
  simp [coreRdata, hq, hkind, hf]

theorem coreRdata_lands (hf : (s.core k).fault.valid = false) : coreRdata s k p =
    let r := readLands (takeReq s k p.tag) k p
    advancePair (if r.cause = 0 then settle r.s k q.seq else failReq r.s k { q with addr := r.addr } r.cause) k := by
  simp [coreRdata, hq, hkind, hf]

end lands

section grant
variable {t c : Nat} (hkind : q.kind = .asksGrant t c)
include hkind

theorem coreGrant_granted (haux : p.aux % 4 = 0) (hf : (s.core k).fault.valid = false) : coreGrant s k p =
    advancePair (routeAll (routeGranted (takeReq s k p.tag) k q.seq t c q.off (natLE (p.payload.take 2)) (natLE (slice p.payload 2 1))
      (natLE (slice p.payload 3 2))) k q.seq) k := by
  simp [coreGrant, hq, hkind, haux, hf]

theorem coreGrant_refused (haux : p.aux % 4 ≠ 0) (hf : (s.core k).fault.valid = false) :
    coreGrant s k p = advancePair (routeAll (routeRefused (takeReq s k p.tag) k q.seq t q.off) k q.seq) k := by
  simp [coreGrant, hq, hkind, haux, hf]

theorem coreGrant_refusedFaulted (haux : p.aux % 4 ≠ 0) (hf : (s.core k).fault.valid = true) : coreGrant s k p = takeReq s k p.tag := by
  simp [coreGrant, hq, hkind, haux, hf]

end grant
end answered

section acknowledged
variable {s : State} {k : Nat} {q : Req}

theorem answerReq_sync (hkind : q.kind = .sync) : answerReq s k q 0 = finish s k .sy q.seq false := by
  simp only [answerReq, hkind, if_true]

theorem answerReq_settles (hkind : q.kind = .write ∨ q.kind = .note ∨ q.kind = .message) : answerReq s k q 0 = settle s k q.seq := by
  rcases hkind with h | h | h <;> simp only [answerReq, h, if_true]

theorem answerReq_error {st : Nat} (h0 : st ≠ 0) (h3 : st ≠ 3) : answerReq s k q st = failReq s k q (if st = 2 then 0x0C else 0x0A) := by
  simp only [answerReq, if_neg h0, if_neg h3, statusCause]

end acknowledged

/-- A core and, in a pair, its other core. -/
def State.bothCores (s : State) (k : Nat) : List Nat := k :: (if (s.core k).paired then (s.pairOf k).toList else [])

theorem coreRelease_ok (s : State) (k obj : Nat) : coreRelease s k obj 0 =
    advancePair (((s.core k).freedFirst obj).foldl (fun s' r => (s.bothCores k).foldl (fun s'' j => releaseRun s'' j r.op.seq r.heldAtHome) s')
      (s.updCore k (fun c => { c with reqs := c.reqs.filter (fun q => !(((s.core k).freedFirst obj).any (fun r => r.op.seq == q.seq))) }))) k := rfl

theorem coreCredit_working {s : State} {k sid : Nat} (hf : (s.core k).fault.valid = false) : coreCredit s k sid =
    advancePair ((s.bothCores k).foldl (fun s j =>
      pumpStream (s.updCore j (fun c => { c with credits := Tab.upd 0 c.credits sid (· + 1) })) j sid) s) k :=
  if_neg (by rw [hf]; decide)

/-- Settles O15: each packet reaches its core by takeResponse_core; the rest is what the core does with it. -/
theorem responsesAnswerTheirRequests : Obligations.ResponsesAnswerTheirRequests := by
  intro i p x y k s hloc hk htag hej
  refine ⟨fun q harr hq hkind => ⟨fun hf hc => ?lands, fun hf hc => ?fails, fun hf => ?faulted⟩, fun q harr hq hkind => ?stage,
    fun q harr hq => ⟨fun haux hkind => ?sync, fun haux hkind => ?settles, fun haux haux3 => ?error⟩, fun q harr hq => ?adata,
    fun q t c harr hq hkind haux hf => ?granted, fun q t c harr hq hkind haux hf => ?refused, fun q t c harr hq hkind haux hf => ?refusedFaulted,
    fun harr haux => ?release, fun harr hf => ?credit⟩
  -- what the statement reads of the core before the packet leaves, the core reads after
  all_goals rw [← takePacket_core s i k] at *
  case lands =>
    exact (execRdata_core hloc hk htag hej harr).trans (congrArg _ ((coreRdata_lands hq hkind hf).trans (congrArg (advancePair · k) (if_pos hc))))
  case fails =>
    exact (execRdata_core hloc hk htag hej harr).trans (congrArg _ ((coreRdata_lands hq hkind hf).trans (congrArg (advancePair · k) (if_neg hc))))
  case faulted => exact (execRdata_core hloc hk htag hej harr).trans (congrArg _ (coreRdata_faulted hq hkind hf))
  case stage => exact (execRdata_core hloc hk htag hej harr).trans (congrArg _ (coreRdata_stage hq hkind))
  case sync =>
    refine (execAck_core hloc hk htag hej harr).trans (congrArg _ ((coreAck_found hq).trans ?_))
    rw [haux, answerReq_sync hkind]
  case settles =>
    refine (execAck_core hloc hk htag hej harr).trans (congrArg _ ((coreAck_found hq).trans ?_))
    rw [haux, answerReq_settles hkind]
  case error =>
    refine (execAck_core hloc hk htag hej harr).trans (congrArg _ ((coreAck_found hq).trans ?_))
    rw [answerReq_error haux haux3]
  case adata => exact (execAdata_core hloc hk htag hej harr).trans (congrArg _ (coreAck_found hq))
  case granted => exact (execGrant_core hloc hk htag hej harr).trans (congrArg _ (coreGrant_granted hq hkind haux hf))
  case refused => exact (execGrant_core hloc hk htag hej harr).trans (congrArg _ (coreGrant_refused hq hkind haux hf))
  case refusedFaulted => exact (execGrant_core hloc hk htag hej harr).trans (congrArg _ (coreGrant_refusedFaulted hq hkind haux hf))
  case release =>
    refine (execRelease_core hloc hk htag hej harr).trans (congrArg _ ?_)
    rw [haux, coreRelease_ok, ← takePacket_pairOf s i k]
    rfl
  case credit =>
    refine (execCredit_core hloc hk htag hej harr).trans (congrArg _ ((coreCredit_working hf).trans ?_))
    rw [← takePacket_pairOf s i k]
    rfl

/-! ## Messages and timeouts (R93, R102, R221) -/

section message
variable {s : State} {k : Nat} {p : Packet}

/-- The acknowledgement of a packet of a message: STATUS 1 where the core works for no region of a layout. -/
def State.ackMessage (s : State) (k : Nat) (p : Packet) : State :=
  s.send (p.ack (if (s.core k).lcid = none ∨ (s.region (coreRegion k)).assign = none then 1 else 0))

theorem State.ackMessage_eq (s : State) (k : Nat) (p : Packet) :
    s.send (p.ack (if (s.core k).lcid.isNone || (s.region (coreRegion k)).assign.isNone then 1 else 0)) = s.ackMessage k p := by
  simp [State.ackMessage]

theorem coreMessage_faulted (hf : (s.core k).fault.valid = true) : coreMessage s k p = s.ackMessage k p := by
  simp only [coreMessage, State.ackMessage_eq, hf, if_true]

theorem coreMessage_posted {r : Run} (hf : (s.core k).fault.valid = false) (hr : (s.core k).postedRecv (p.addr % 4096) = some r) :
    coreMessage s k p =
      if (p.ctrl && p.aux.testBit 7) = true then advancePair (deliverMessage (s.ackMessage k p) k r true []) k
      else if p.aux.testBit 6 = true then
        advancePair (deliverMessage ((s.ackMessage k p).setRun k r.op.seq (fun r => { r with bytes := [] })) k r false (r.bytes ++ p.msgBytes)) k
      else (s.ackMessage k p).setRun k r.op.seq (fun x => { x with bytes := r.bytes ++ p.msgBytes }) := by
  simp only [coreMessage, State.ackMessage_eq, hf, hr, Bool.false_eq_true, if_false]

theorem execMsgReceive_core {i : Nat} (harr : s.arrived i [0, 1] [6] = some p) (hk : s.coreHere p = some k) (hej : s.ejects k = true) :
    execMsgReceive i s = .next (coreMessage (s.takePacket i) k p) := by
  simp only [execMsgReceive, harr, hk, hej, if_true]

end message

theorem execResponseTimeout_due {k : PCore} {tag : W16} {q : Req} {s : State} (hq : (s.core k).findReq tag.toNat = some q)
    (hwait : (s.core k).waitReq q = false) (hdue : q.born + 10000000 ≤ s.now) : execResponseTimeout k tag s = .next (
      let s1 := takeReq (s.updFab (s.partOfCore k) (fun f => { f with timeout := sat 32 (f.timeout + 1) })) k tag.toNat
      if (s.core k).fault.valid then settle s1 k q.seq
      else advancePair (failReq s1 k q (if 1 ≤ q.win ∧ q.win ≤ 1536 then 0x0C else 0x0A)) k) := by
  simp [execResponseTimeout, hq, hwait, Nat.not_lt.mpr hdue]

/-- Settles O16. -/
theorem messagesArriveAndRequestsTimeOut : Obligations.MessagesArriveAndRequestsTimeOut := by
  refine ⟨fun i p k s harr hk hej => ?message, fun k tag q s hq hwait hdue => ⟨fun hf => ?fails, fun hf => ?ends⟩⟩
  case message =>
    have hexec := execMsgReceive_core harr hk hej
    rw [← takePacket_core s i k, ← takePacket_region s i (coreRegion k)]
    refine ⟨fun hf => hexec.trans (congrArg _ (coreMessage_faulted hf)), fun r hf hr => ?posted⟩
    have hposted := hexec.trans (congrArg _ (coreMessage_posted hf hr))
    refine ⟨fun hvoid => ?_, fun hvoid hlast => ?_, fun hvoid hlast => ?_⟩
    · exact hposted.trans (congrArg _ (if_pos hvoid))
    · rw [if_neg (Bool.eq_false_iff.mp hvoid), if_pos hlast] at hposted
      exact hposted
    · rw [if_neg (Bool.eq_false_iff.mp hvoid), if_neg (Bool.eq_false_iff.mp hlast)] at hposted
      exact hposted
  case fails => exact (execResponseTimeout_due hq hwait hdue).trans (congrArg _ (if_neg (by simp [hf])))
  case ends => exact (execResponseTimeout_due hq hwait hdue).trans (congrArg _ (if_pos hf))

end Sys2Proof.Machine
end

section
/-!
PROOFS. Chapter 3: instructions that start in their units, and the events that complete or end them.
-/
namespace Sys2Proof.Machine

/-! ## STROKEWAIT, completions and halts (R66, R67, R97, R105, R137) -/

/-- The count that a STROKEWAIT waits for (R97). -/
def strokeTarget (c : Core) (w : W64) (count : Nat) : Nat :=
  if wbits w 39 39 = 1 then count + wbits w 31 0 else (c.sreg (wbits w 44 40)).toNat % 2 ^ 48

section strokewait
variable {s : State} {k : Nat}

theorem issueStrokewait_reached
    (h : strokeTarget (s.core k) (s.word k) (s.region (coreRegion k)).count ≤ (s.region (coreRegion k)).count) :
    issueStrokewait s k = seqNext s k id :=
  if_pos h

theorem issueStrokewait_waits
    (h : (s.region (coreRegion k)).count < strokeTarget (s.core k) (s.word k) (s.region (coreRegion k)).count) :
    issueStrokewait s k = goNext (enqueueOp (s.updCore k (fun c => { c with seq := c.seq + 1 })) k { opOf (s.core k) .strokewait (s.word k) with
      va := BitVec.ofNat 64 (strokeTarget (s.core k) (s.word k) (s.region (coreRegion k)).count) }) k :=
  if_neg (Nat.not_le.mpr h)

end strokewait

theorem execInstrComplete_running {k : PCore} {u : CoreUnit} {i : Nat} {r : Run} {s : State} (hrun : s.routerRuns k = true)
    (hr : ((s.core k).runs u)[i]? = some r) (hu : u = .me ∨ u = .ve ∨ (u = .mv ∧ r.alone = true ∧ r.done = true)) :
    execInstrComplete k u i s = .next (advance (retireOne s k u r.op.seq false) k) := by
  have hcond : (u = .me || u = .ve || (u = .mv && r.alone && r.done)) = true := by
    rcases hu with rfl | rfl | ⟨rfl, ha, hd⟩
    · rfl
    · rfl
    · simp [ha, hd]
  simp only [execInstrComplete, hrun, hr, hcond, if_true]

/-- When a core's digest of its pair was submitted. -/
def Core.sentAt (c : Core) : Option Nat := c.submitted.map (·.2) <|> c.noteSub.map (·.2.2)

theorem execPairSubmissionTimeout_late {k : PCore} {j t : Nat} {s : State} (hj : s.pairOf k = some j) (hpart : (s.core k).partner = false)
    (hsent : ((s.core k).sentAt = some t ∧ (s.core j).sentAt = none) ∨ ((s.core j).sentAt = some t ∧ (s.core k).sentAt = none))
    (hlate : t + 100000 ≤ s.now) : execPairSubmissionTimeout k s = .next (pairMismatch s k j) := by
  unfold Core.sentAt at hsent
  rcases hsent with ⟨ha, hb⟩ | ⟨hb, ha⟩ <;> simp only [execPairSubmissionTimeout, hj, ha, hb, hpart] <;> simp [hlate]

theorem execHaltReq_reached {p : PortId} {l : Lcid} {data : W32} {k : Nat} {s : State} (hup : s.hostUp p = true) (hrec : s.bring.recovery = false)
    (hk : s.reachCore p l = some k) (hpart : (s.core k).partner = false) (hbit : data.toNat.testBit 0 = true) :
    execHaltReq p l data s = .next (haltRequest s k) := by
  simp [execHaltReq, hup, hrec, hk, hpart, hbit]

/-- Settles O14. -/
theorem coreEventsComplete : Obligations.CoreEventsComplete := by
  refine ⟨?strokewait, fun k u i r s => execInstrComplete_running, fun k j t s hj hpart => ?timeout, fun p l data k s => execHaltReq_reached⟩
  case timeout => exact execPairSubmissionTimeout_late hj hpart
  case strokewait =>
    intro k s hcan h
    have hexec : exec (.strokewait k) s = .next (issueStrokewait (fetchWord s k).s k) := congrArg Host.Outcome.next (issueAs_issues h)
    refine ⟨fun hreached hn => ?reached, fun hwaits => ?waits⟩
    case reached =>
      refine hexec.trans (congrArg _ ((issueStrokewait_reached hreached).trans (seqNext_goesOn ?_ .id hn)))
      exact fetchWord_wf (State.kept_mark hcan).canon.cores
    case waits => exact hexec.trans (congrArg _ (issueStrokewait_waits hwaits))

/-! ## Starts (R84, R95, R96, R149, R245) -/

theorem State.updCore_congr {s : State} {k : Nat} {f g : Core → Core} (h : f (s.core k) = g (s.core k)) : s.updCore k f = s.updCore k g := by
  rw [State.updCore, State.updCore, Tab.upd, Tab.upd, show f (Tab.get {} s.cores k) = g (Tab.get {} s.cores k) from h]

/-- The instruction at the head of a queue leaves it as it starts. -/
theorem startHead_eq {s : State} {k : Nat} {u : CoreUnit} {op : Op} {rest : List Op} (hq : (s.core k).queue u = op :: rest) :
    startHead s k u op =
      if u = .mv && (s.core k).partner then takeGift (takeGift (startNow (s.updCore k (fun c => c.setQueue u rest)) k u op) k op.seq) k op.seq
      else startNow (s.updCore k (fun c => c.setQueue u rest)) k u op := by
  have hpop : s.updCore k (fun c => c.setQueue u ((c.queue u).drop 1)) = s.updCore k (fun c => c.setQueue u rest) :=
    State.updCore_congr (by rw [hq]; rfl)
  rw [startHead, hpop]

section void
variable {s : State} {k : Nat} {op : Op}

/-- A vector instruction whose destination or source is void writes nothing. -/
theorem startOp_vector_void (hvoid : (descOf op.td).void = true ∨ (descOf op.ta).void = true) :
    ∀ f ∈ [CoreFn.ew, .cvt, .red, .trn, .smx, .warp], coreFn (wCls op.w) (wFn op.w) = some f → startOp s k op = { s := s } := by
  have hor : ((descOf op.td).void || (descOf op.ta).void) = true := by simpa using hvoid
  simp only [List.forall_mem_cons, List.not_mem_nil, false_implies, implies_true, and_true]
  refine ⟨fun h => ?_, fun h => ?_, fun h => ?_, fun h => ?_, fun h => ?_, fun h => ?_⟩ <;>
    simp only [startOp, h, ewStart, cvtStart, redStart, trnStart, smxStart, warpStart, hor, Bool.true_or, if_true]

theorem mmaStart_void (hvoid : (descOf op.ta).void = true ∨ (descOf op.tb).void = true) : mmaStart s k op =
    { s := if wbits op.w 34 34 = 1 then s else s.setBank k (wbits op.w 44 43) { int := !(descOf op.ta).isFloat, elems := [] } } := by
  have hor : ((descOf op.ta).void || (descOf op.tb).void) = true := by simpa using hvoid
  simp only [mmaStart, hor, if_true, beq_iff_eq]

end void

/-! ## SYNC requests (R245) -/

section request
variable {s t : State} {k : Nat} (h : Undisturbed Core.partner s t)
include h

theorem injectNow_undisturbed {p : Packet} {r : Req} : Undisturbed Core.partner s (injectNow t k p r) := by
  refine Undisturbed.iteElse (addDigest_undisturbed (fun _ _ => rfl) h) fun hdigest => ?_
  exact Undisturbed.send (hdigest.updCore fun _ => rfl)

theorem pumpHeld_undisturbed : Undisturbed Core.partner s (pumpHeld t k) := by
  refine List.foldlRecOn (motive := fun acc : State × List Node => Undisturbed Core.partner s acc.1) _ _ h fun acc hacc x _ => ?_
  split
  · refine injectNow_undisturbed ?_
    exact hacc.updCore fun _ => rfl
  · exact hacc

theorem request_undisturbed {p : Packet} {r : Req} : Undisturbed Core.partner s (request t k p r) :=
  pumpHeld_undisturbed (h.updCore fun _ => rfl)

end request

section sync
variable {s : State} {k : Nat} {op : Op} {home : Node} (hwf : Tab.wf {} s.cores = true) (hpart : (s.core k).partner = false)
include hwf

theorem setSyRun_undisturbed {seq : Nat} {f : Run → Run} : Undisturbed Core.partner s (s.setSyRun k seq f) :=
  (Undisturbed.refl hwf).updCore fun _ => rfl

variable (hobj : s.objNode op.obj = some home)
include hpart

theorem setSyRun_lcidSeen {seq : Nat} {f : Run → Run} : (s.setSyRun k seq f).lcidSeen k = s.lcidSeen k := by
  have hcore : (s.setSyRun k seq f).core k = { s.core k with syRun := mapRun (s.core k).syRun seq f } := by
    rw [State.setSyRun, State.updCore_core s k _ k hwf, if_pos rfl]
  simp only [State.lcidSeen, hcore, hpart, Bool.false_eq_true, if_false]

theorem setSyRun_nodeOf {seq : Nat} {f : Run → Run} : (s.setSyRun k seq f).nodeOf k = s.nodeOf k := by
  rw [State.nodeOf, setSyRun_lcidSeen hwf hpart]
  rfl

include hobj

/-- The state in which the request of a SYNC instruction is on its way. -/
theorem syncRequest_sent {kind value : Nat} {f : Run → Run} : syncRequest (s.setSyRun k op.seq f) k op.seq op.obj kind value =
    { s := request (s.setSyRun k op.seq f) k (syncPacket 0 (s.partOfCore k) 0 op.obj kind value (s.lcidSeen k) (s.nodeOf k) home)
        { tag := 0, seq := op.seq, kind := .sync } } := by
  have hobj' : (s.setSyRun k op.seq f).objNode op.obj = some home := hobj
  simp only [syncRequest, hobj', setSyRun_lcidSeen hwf hpart, setSyRun_nodeOf hwf hpart]
  rfl

theorem signalStart_sent (hpair : (s.core k).paired = false) : signalStart s k op =
    { s := request (s.setSyRun k op.seq (fun r => { r with done := true })) k
        (syncPacket 0 (s.partOfCore k) 0 op.obj 0 (wbits op.w 15 0) (s.lcidSeen k) (s.nodeOf k) home)
        { tag := 0, seq := op.seq, kind := .sync } } := by
  rw [signalStart, if_neg (by simp [hpair]), syncRequest_sent hwf hpart hobj]

theorem syStart_sent {kind value : Nat} : syStart s k op kind value =
    { s := request (s.setSyRun k op.seq (fun r => { r with key := op.obj, barrier := kind == 3 })) k
        (syncPacket 0 (s.partOfCore k) 0 op.obj kind value (s.lcidSeen k) (s.nodeOf k) home) { tag := 0, seq := op.seq, kind := .sync } } := by
  rw [syStart, syncRequest_sent hwf hpart hobj, Res.andThen, if_pos rfl]
  refine congrArg (fun s => ({ s := s } : Res)) (if_neg ?_)
  rw [(request_undisturbed (setSyRun_undisturbed hwf)).reads k, hpart]
  decide

end sync

/-- Settles O13. -/
theorem unitsStartInstructions : Obligations.UnitsStartInstructions := by
  refine ⟨fun k u s op rest hq => ⟨fun hu => ?own, fun hu hpart => ?gifts⟩, fun k s op hfn => ?mzero, fun k s op f hf hfn hvoid => ?vector,
    fun k s op hfn hvoid => ?mma, fun k s op f kind value home hf hfn hcan hpair hpart hobj => ?sync⟩
  case own => exact (startHead_eq hq).trans (if_neg (by rcases hu with h | h <;> simp [h]))
  case gifts => exact (startHead_eq hq).trans (if_pos (by simp [hu, hpart]))
  case mzero => simp only [startOp, hfn, mzeroStart]
  case vector => exact startOp_vector_void hvoid f hf hfn
  case mma => simp only [startOp, hfn, mmaStart_void hvoid, true_and]
  case sync =>
    have hwf := (State.kept_mark hcan).canon.cores
    simp only [List.mem_cons, Prod.mk.injEq, List.not_mem_nil, or_false] at hf
    rcases hf with ⟨rfl, rfl, rfl⟩ | ⟨rfl, rfl, rfl⟩ | ⟨rfl, rfl, rfl⟩ | ⟨rfl, rfl, rfl⟩
    · simp only [startOp, hfn, signalStart_sent hwf hpart hobj hpair]; exact ⟨trivial, rfl⟩
    all_goals simp only [startOp, hfn, syStart_sent hwf hpart hobj]; exact ⟨trivial, rfl⟩

end Sys2Proof.Machine
end

section
/-!
PROOFS. Chapter 4: what rounding to multiples of a power of two answers, and that elements keep their bits.
-/
namespace Sys2Proof.Machine

/-! ## Rounding (R117) -/

section rounding
variable {k rnd r x : Nat}

theorem roundTo_exact (h : x % 2 ^ k = 0) : roundTo k rnd r x = x := if_pos h

theorem roundTo_nearest (h : x % 2 ^ k ≠ 0) : roundTo k 0 r x =
    if 2 ^ k < 2 * (x % 2 ^ k) ∨ 2 ^ k = 2 * (x % 2 ^ k) ∧ x / 2 ^ k % 2 = 1 then (x / 2 ^ k + 1) * 2 ^ k else x / 2 ^ k * 2 ^ k := by
  simp [roundTo, h, ite_mul]

theorem roundTo_zero (h : x % 2 ^ k ≠ 0) : roundTo k 1 r x = x / 2 ^ k * 2 ^ k := by
  simp [roundTo, h]

theorem roundTo_stochastic (h : x % 2 ^ k ≠ 0) : roundTo k 2 r x =
    if 65536 ≤ 65536 * (x % 2 ^ k) / 2 ^ k + r then (x / 2 ^ k + 1) * 2 ^ k else x / 2 ^ k * 2 ^ k := by
  simp [roundTo, h, ite_mul]

/-- Every mode takes one of the two multiples next to the magnitude. -/
theorem roundTo_neighbour : roundTo k rnd r x = x / 2 ^ k * 2 ^ k ∨ roundTo k rnd r x = (x / 2 ^ k + 1) * 2 ^ k := by
  by_cases h : x % 2 ^ k = 0
  · exact .inl ((roundTo_exact h).trans (Nat.div_mul_cancel (Nat.dvd_of_mod_eq_zero h)).symm)
  · simp only [roundTo, h, if_false, ite_mul]
    split_ifs <;> simp

/-- No multiple lies between lo and hi. -/
theorem multiple_le_or_ge {n y : Nat} (hy : n ∣ y) : y ≤ x / n * n ∨ (x / n + 1) * n ≤ y := by
  obtain ⟨j, rfl⟩ := hy
  rw [mul_comm n j]
  rcases Nat.lt_or_ge (x / n) j with h | h
  · exact .inr (Nat.mul_le_mul_right n h)
  · exact .inl (Nat.mul_le_mul_right n h)

/-- RND 0 is off by no more than either neighbour is. -/
theorem roundTo_nearest_error : roundTo k 0 r x ≤ x + min (x % 2 ^ k) (2 ^ k - x % 2 ^ k) ∧
    x ≤ roundTo k 0 r x + min (x % 2 ^ k) (2 ^ k - x % 2 ^ k) := by
  have hlt : x % 2 ^ k < 2 ^ k := Nat.mod_lt x (Nat.two_pow_pos k)
  have hx : x / 2 ^ k * 2 ^ k + x % 2 ^ k = x := Nat.div_add_mod' x (2 ^ k)
  by_cases h : x % 2 ^ k = 0
  · rw [roundTo_exact h]
    omega
  · rw [roundTo_nearest h, Nat.succ_mul (x / 2 ^ k)]
    generalize x / 2 ^ k * 2 ^ k = lo at *
    split <;> omega

theorem roundTo_tie_even (htie : 2 ^ k = 2 * (x % 2 ^ k)) : roundTo k 0 r x / 2 ^ k % 2 = 0 := by
  have hpos := Nat.two_pow_pos k
  rw [roundTo_nearest (by omega)]
  split <;> rw [Nat.mul_div_cancel _ hpos] <;> omega

end rounding

/-- Settles O55. -/
theorem roundingTakesTheRightNeighbour : Obligations.RoundingTakesTheRightNeighbour := by
  intro k r x lo hi
  have hpos := Nat.two_pow_pos k
  have hlt : x % 2 ^ k < 2 ^ k := Nat.mod_lt x hpos
  have hx : lo + x % 2 ^ k = x := Nat.div_add_mod' x (2 ^ k)
  have hhi : hi = (x / 2 ^ k + 1) * 2 ^ k := (Nat.succ_mul _ _).symm
  have hgap : hi = lo + 2 ^ k := rfl
  refine ⟨fun rnd => roundTo_exact, fun rnd => ?between, fun y hy => ?nearest, fun htie => roundTo_tie_even (by omega), ?zero, fun h => ?stochastic⟩
  case between =>
    rcases roundTo_neighbour (k := k) (rnd := rnd) (r := r) (x := x) with h | h <;> rw [h]
    · exact ⟨Dvd.intro_left _ rfl, le_rfl, Nat.le_add_right _ _⟩
    · exact ⟨Dvd.intro_left _ rfl, hhi ▸ Nat.le_add_right _ _, hhi.ge⟩
  case nearest =>
    have herr := roundTo_nearest_error (k := k) (r := r) (x := x)
    have hside : y ≤ lo ∨ hi ≤ y := hhi ▸ multiple_le_or_ge hy
    omega
  case zero =>
    by_cases h : x % 2 ^ k = 0
    · rw [roundTo_exact h]
      omega
    · exact roundTo_zero h
  case stochastic =>
    have hrem : x - lo = x % 2 ^ k := by omega
    have hstep : hi - lo = 2 ^ k := by omega
    rw [roundTo_stochastic h, ← hhi, hrem, hstep]
    exact ⟨fun htaken => of_not_not fun hn => by rw [if_neg hn] at htaken; omega, fun h => if_pos h⟩

/-! ## The fields of an element (R107, R108) -/

def FloatFmt.expField (g : FloatFmt) (v : Nat) : Nat := v / 2 ^ g.mb % 2 ^ (g.width - 1 - g.mb)

def FloatFmt.mantField (g : FloatFmt) (v : Nat) : Nat := v % 2 ^ g.mb

/-- The exponent, in units of 2^−320, of the last place of subnormals. -/
def FloatFmt.ulpExp (g : FloatFmt) : Nat := 321 - g.bias - g.mb

/-- The magnitude that an exponent field and a mantissa field stand for. -/
def FloatFmt.mag (g : FloatFmt) (e m : Nat) : Nat :=
  if e = 0 then m * 2 ^ g.ulpExp else (2 ^ g.mb + m) * 2 ^ (320 + e - g.bias - g.mb)

/-- The exponent field of the greatest finite value. -/
def FloatFmt.topExp (g : FloatFmt) : Nat := 2 ^ (g.width - 1 - g.mb) - (if g.ieee then 2 else 1)

/-- The mantissa field of the greatest finite value: in E4M3 the one above it is NaN. -/
def FloatFmt.topMant (g : FloatFmt) : Nat := if g = e4m3 then 6 else 2 ^ g.mb - 1

/-- What the formats have in common: the fields fit the width, subnormals are whole units, and `maxMag` is the magnitude of the
greatest finite value. -/
structure FloatFmt.Sound (g : FloatFmt) : Prop where
  fits : g.mb < g.width
  units : g.bias + g.mb ≤ 320
  top_pos : 1 ≤ g.topExp
  maxMag : g.maxMag = g.mag g.topExp g.topMant

theorem FloatFmt.sound_of_mem : ∀ g ∈ [fp32, bf16, fp16, e4m3, e5m2, e3m2, e2m3, e2m1], g.Sound := by
  have h : ∀ g ∈ [fp32, bf16, fp16, e4m3, e5m2, e3m2, e2m3, e2m1],
      g.mb < g.width ∧ g.bias + g.mb ≤ 320 ∧ 1 ≤ g.topExp ∧ g.maxMag = g.mag g.topExp g.topMant := by decide +kernel
  intro g hg
  obtain ⟨hfits, hunits, htop, hmax⟩ := h g hg
  exact ⟨hfits, hunits, htop, hmax⟩

section fields
variable {g : FloatFmt} {v : Nat}

theorem FloatFmt.mantField_lt : g.mantField v < 2 ^ g.mb := Nat.mod_lt v (Nat.two_pow_pos g.mb)

theorem FloatFmt.expField_lt : g.expField v < 2 ^ (g.width - 1 - g.mb) := Nat.mod_lt _ (Nat.two_pow_pos _)

/-- A pattern is its sign, exponent and mantissa fields. -/
theorem FloatFmt.fields_eq (hfits : g.mb < g.width) (hv : v < 2 ^ g.width) :
    g.signBit (v.testBit (g.width - 1)) + g.expField v * 2 ^ g.mb + g.mantField v = v := by
  have hlow : v % 2 ^ (g.width - 1) = g.mantField v + 2 ^ g.mb * g.expField v := by
    rw [FloatFmt.mantField, FloatFmt.expField, ← Nat.mod_mul, ← pow_add, Nat.add_sub_cancel' (by omega)]
  have hhigh : g.signBit (v.testBit (g.width - 1)) = 2 ^ (g.width - 1) * (v / 2 ^ (g.width - 1)) := by
    have hlt : v / 2 ^ (g.width - 1) < 2 := by
      rw [Nat.div_lt_iff_lt_mul (Nat.two_pow_pos _), ← pow_succ', Nat.sub_add_cancel (by omega)]
      exact hv
    rw [Nat.testBit_eq_decide_div_mod_eq, Nat.mod_eq_of_lt hlt, FloatFmt.signBit]
    rcases Nat.le_one_iff_eq_zero_or_eq_one.mp (Nat.lt_succ_iff.mp hlt) with h | h <;> simp [h]
  calc _ = 2 ^ (g.width - 1) * (v / 2 ^ (g.width - 1)) + v % 2 ^ (g.width - 1) := by rw [hhigh, hlow]; ring
    _ = v := Nat.div_add_mod v _

theorem decodeFloat_eq : decodeFloat g v =
    if g.ieee && g.expField v == 2 ^ (g.width - 1 - g.mb) - 1 then
      if g.mantField v = 0 then .inf (v.testBit (g.width - 1)) else .nan
    else if g == e4m3 && v % 128 == 127 then .nan
    else .fin (v.testBit (g.width - 1)) (g.mag (g.expField v) (g.mantField v)) := by
  rw [FloatFmt.mag, apply_ite (Fpv.fin _)]
  rfl

theorem e4m3_fields_le_top (hv : v % 128 ≠ 127) :
    e4m3.expField v < e4m3.topExp ∨ e4m3.expField v = e4m3.topExp ∧ e4m3.mantField v ≤ e4m3.topMant := by
  rw [show e4m3.topMant = 6 from if_pos rfl]
  change v / 8 % 16 < 15 ∨ v / 8 % 16 = 15 ∧ v % 8 ≤ 6
  omega

/-- The fields of a pattern that is neither infinity nor NaN are at most those of the greatest finite value. -/
theorem FloatFmt.fields_le_top (hieee : ¬(g.ieee = true ∧ g.expField v = 2 ^ (g.width - 1 - g.mb) - 1)) (hnan : ¬(g = e4m3 ∧ v % 128 = 127)) :
    g.expField v < g.topExp ∨ g.expField v = g.topExp ∧ g.mantField v ≤ g.topMant := by
  by_cases hg : g = e4m3
  · subst hg
    exact e4m3_fields_le_top fun h => hnan ⟨rfl, h⟩
  · have hmant : g.mantField v ≤ g.topMant := (Nat.le_sub_one_of_lt FloatFmt.mantField_lt).trans_eq (if_neg hg).symm
    have hexp := FloatFmt.expField_lt (g := g) (v := v)
    have htop : g.expField v ≤ g.topExp := by
      unfold FloatFmt.topExp
      split
      case isTrue h =>
        have hones : g.expField v ≠ 2 ^ (g.width - 1 - g.mb) - 1 := fun he => hieee ⟨h, he⟩
        omega
      case isFalse => omega
    exact htop.lt_or_eq.imp_right fun h => ⟨h, hmant⟩

/-- What a pattern that is no NaN stands for. -/
theorem decodeFloat_of_ne_nan (hnan : decodeFloat g v ≠ .nan) :
    (g.ieee = true ∧ g.expField v = 2 ^ (g.width - 1 - g.mb) - 1 ∧ g.mantField v = 0 ∧ decodeFloat g v = .inf (v.testBit (g.width - 1))) ∨
    ((g.expField v < g.topExp ∨ g.expField v = g.topExp ∧ g.mantField v ≤ g.topMant) ∧
      decodeFloat g v = .fin (v.testBit (g.width - 1)) (g.mag (g.expField v) (g.mantField v))) := by
  rw [decodeFloat_eq] at hnan ⊢
  split_ifs at hnan ⊢ with hones hmant he4m3
  · simp only [Bool.and_eq_true, beq_iff_eq] at hones
    exact .inl ⟨hones.1, hones.2, hmant, rfl⟩
  · exact absurd rfl hnan
  · exact absurd rfl hnan
  · simp only [Bool.and_eq_true, beq_iff_eq] at hones he4m3
    exact .inr ⟨FloatFmt.fields_le_top hones he4m3, rfl⟩

end fields

/-! ## Magnitudes of fields -/

section magnitude
variable {g : FloatFmt} {e m : Nat}

theorem FloatFmt.mag_zero : g.mag 0 m = m * 2 ^ g.ulpExp := if_pos rfl

theorem FloatFmt.mag_succ (hunits : g.bias + g.mb ≤ 320) : g.mag (e + 1) m = (2 ^ g.mb + m) * 2 ^ (g.ulpExp + e) := by
  rw [FloatFmt.mag, if_neg e.succ_ne_zero, FloatFmt.ulpExp, show 320 + (e + 1) - g.bias - g.mb = 321 - g.bias - g.mb + e by omega]

/-- A normal magnitude is no less than the power of two that begins its binade. -/
theorem FloatFmt.le_mag_succ (hunits : g.bias + g.mb ≤ 320) : 2 ^ (g.ulpExp + e + g.mb) ≤ g.mag (e + 1) m := by
  rw [FloatFmt.mag_succ hunits, pow_add _ _ g.mb, mul_comm]
  exact Nat.mul_le_mul_right _ (Nat.le_add_right _ m)

variable (hm : m < 2 ^ g.mb) (hunits : g.bias + g.mb ≤ 320)
include hm hunits

/-- A magnitude is less than the power of two that begins the next binade. -/
theorem FloatFmt.mag_lt : g.mag e m < 2 ^ (g.ulpExp + e + g.mb) := by
  cases e with
  | zero =>
    rw [FloatFmt.mag_zero, pow_add, mul_comm]
    exact Nat.mul_lt_mul_of_pos_left hm (Nat.two_pow_pos _)
  | succ e =>
    rw [FloatFmt.mag_succ hunits, show g.ulpExp + (e + 1) + g.mb = g.mb + 1 + (g.ulpExp + e) by omega, pow_add _ (g.mb + 1), pow_succ]
    exact Nat.mul_lt_mul_of_pos_right (by omega) (Nat.two_pow_pos _)

/-- A greater exponent field, or the same one and a mantissa field no less, stands for no smaller a magnitude. -/
theorem FloatFmt.mag_le_mag {e' m' : Nat} (hpos : 1 ≤ e') (h : e < e' ∨ e = e' ∧ m ≤ m') : g.mag e m ≤ g.mag e' m' := by
  obtain ⟨f, rfl⟩ := Nat.exists_eq_add_of_le' hpos
  rcases h with hlt | ⟨rfl, hle⟩
  · calc g.mag e m ≤ 2 ^ (g.ulpExp + e + g.mb) := (FloatFmt.mag_lt hm hunits).le
      _ ≤ 2 ^ (g.ulpExp + f + g.mb) := Nat.pow_le_pow_right two_pos (by omega)
      _ ≤ g.mag (f + 1) m' := FloatFmt.le_mag_succ hunits
  · rw [FloatFmt.mag_succ hunits, FloatFmt.mag_succ hunits]
    exact Nat.mul_le_mul_right _ (Nat.add_le_add_left hle _)

theorem FloatFmt.log2_mag_zero_le : (g.mag 0 m).log2 ≤ g.ulpExp + g.mb := by
  have h := Nat.log_mono_right (b := 2) (FloatFmt.mag_lt (e := 0) hm hunits).le
  rwa [Nat.log_pow one_lt_two, ← Nat.log2_eq_log_two] at h

theorem FloatFmt.log2_mag_succ : (g.mag (e + 1) m).log2 = g.ulpExp + e + g.mb := by
  have hlo := FloatFmt.le_mag_succ (e := e) (m := m) hunits
  have hhi := FloatFmt.mag_lt (e := e + 1) hm hunits
  rw [← add_assoc, add_right_comm] at hhi
  exact (Nat.log2_eq_iff (Nat.ne_of_gt (Nat.lt_of_lt_of_le (Nat.two_pow_pos _) hlo))).mpr ⟨hlo, hhi⟩

/-- The magnitude of two fields is a multiple of the last place of its binade, so no rounding changes it. -/
theorem FloatFmt.roundMag_mag {rnd r : Nat} : g.roundMag rnd r (g.mag e m) = g.mag e m := by
  refine roundTo_exact (Nat.mod_eq_zero_of_dvd ?_)
  rw [show 321 - g.bias - g.mb = g.ulpExp from rfl]
  cases e with
  | zero =>
    rw [max_eq_right (Nat.sub_le_of_le_add (FloatFmt.log2_mag_zero_le hm hunits)), FloatFmt.mag_zero]
    exact Nat.dvd_mul_left _ _
  | succ e =>
    rw [FloatFmt.log2_mag_succ hm hunits, Nat.add_sub_cancel, max_eq_left (Nat.le_add_right _ e), FloatFmt.mag_succ hunits]
    exact Nat.dvd_mul_left _ _

theorem FloatFmt.bitsOfMag_mag {neg : Bool} : g.bitsOfMag neg (g.mag e m) = g.signBit neg + e * 2 ^ g.mb + m := by
  cases e with
  | zero =>
    have hsub : g.bitsOfMag neg (g.mag 0 m) = g.signBit neg + g.mag 0 m / 2 ^ g.ulpExp := if_pos (FloatFmt.mag_lt (e := 0) hm hunits)
    rw [hsub, FloatFmt.mag_zero, Nat.mul_div_cancel _ (Nat.two_pow_pos _), zero_mul, add_zero]
  | succ e =>
    have hnormal : g.bitsOfMag neg (g.mag (e + 1) m) = g.signBit neg + ((g.mag (e + 1) m).log2 - (g.ulpExp + g.mb) + 1) * 2 ^ g.mb +
        (g.mag (e + 1) m / 2 ^ ((g.mag (e + 1) m).log2 - g.mb) - 2 ^ g.mb) :=
      if_neg (Nat.not_lt.mpr ((Nat.pow_le_pow_right two_pos (Nat.add_le_add_right (Nat.le_add_right _ e) _)).trans (FloatFmt.le_mag_succ hunits)))
    rw [hnormal, FloatFmt.log2_mag_succ hm hunits, Nat.add_sub_cancel, FloatFmt.mag_succ hunits,
      Nat.mul_div_cancel _ (Nat.two_pow_pos _), Nat.add_sub_cancel_left, show g.ulpExp + e + g.mb - (g.ulpExp + g.mb) = e by omega]

end magnitude

theorem FloatFmt.encode_mag {g : FloatFmt} {e m rnd r : Nat} {neg sat : Bool} (hg : g.Sound) (hm : m < 2 ^ g.mb)
    (htop : e < g.topExp ∨ e = g.topExp ∧ m ≤ g.topMant) :
    g.encode rnd sat r (.fin neg (g.mag e m)) = g.signBit neg + e * 2 ^ g.mb + m := by
  have hle : g.mag e m ≤ g.maxMag := hg.maxMag ▸ FloatFmt.mag_le_mag hm hg.units hg.top_pos htop
  simp only [FloatFmt.encode, FloatFmt.roundMag_mag hm hg.units, hle, if_true]
  exact FloatFmt.bitsOfMag_mag hm hg.units

/-- Settles O56. -/
theorem elementsKeepTheirBits : Obligations.ElementsKeepTheirBits := by
  intro g v rnd r hmem hv hnan
  have hg := FloatFmt.sound_of_mem g hmem
  have hfields := FloatFmt.fields_eq hg.fits hv
  rcases decodeFloat_of_ne_nan hnan with ⟨hieee, he, hm, hinf⟩ | ⟨htop, hfin⟩
  · rw [hinf]
    refine ⟨?_, fun hfalse => absurd hfalse Bool.false_ne_true⟩
    rw [he, hm] at hfields
    simpa [FloatFmt.encode, hieee, FloatFmt.infBits] using hfields
  · rw [hfin, FloatFmt.encode_mag hg FloatFmt.mantField_lt htop, FloatFmt.encode_mag hg FloatFmt.mantField_lt htop]
    exact ⟨hfields, fun _ => hfields⟩

end Sys2Proof.Machine
end

section
/-!
PROOFS. Chapter 5: what an admission unit answers, and the catch points of a core.
-/
namespace Sys2Proof.Machine

/-! ## Admission (R155, R160) -/

section admission
variable {s : State} {u : Nat} {p : Packet}

/-- A request that stands at the router of its unit is the unit's to answer, once it has left the router. -/
theorem execAdmitRequest_arrived {i k : Nat} (harr : s.arrived i [0] [5] = some p) (hu : s.admitUnit p = some u)
    (hk : s.coreHere p = some k) (hrun : s.routerRuns k = true) : execAdmitRequest i s = .next (admitTake (s.takePacket i) u p) := by
  simp only [execAdmitRequest, harr, hu, hk, Option.map_some, hrun, Option.getD_some, if_true]

/-- R155: the slot is the number granted so far. Nothing is cancelled, for the sender has a core (R162). -/
theorem admitTake_grants {j : Nat} (hopen : (s.admUnit u).open_ = true) (hroom : (s.admUnit u).granted < (s.admUnit u).expert.capacity)
    (hsender : s.coreOf (natLE (p.payload.take 2)) = some j) :
    let a := s.admUnit u
    let l := natLE (p.payload.take 2)
    let t := natLE (slice p.payload 2 2)
    let c := natLE (slice p.payload 4 1)
    admitTake s u p = (s.updAdmit u (fun a => { a with
      granted := a.granted + 1, admitted := sat 32 (a.admitted + 1)
      grants := a.grants ++ [(l, a.granted, a.windowNo % 2, t, c, a.windowNo % 65536)] })).send (grantPacket p a 0 a.granted t c) := by
  simp only [admitTake, hopen, hroom, decide_true, Bool.and_self, if_true, hsender, Option.isNone_some, Bool.false_eq_true, if_false]
  -- the model notes the grant by the unit as the request found it, which is what the update reads
  rfl

theorem admitTake_refuses (h : (s.admUnit u).open_ = false ∨ (s.admUnit u).expert.capacity ≤ (s.admUnit u).granted) :
    let a := s.admUnit u
    admitTake s u p = (s.updAdmit u (fun a => a.refuse (natLE (slice p.payload 5 1) % 2 == 1))).send
      (grantPacket p a (if a.open_ then 1 else 2) 0 (natLE (slice p.payload 2 2)) (natLE (slice p.payload 4 1))) := by
  have hcond : ((s.admUnit u).open_ && decide ((s.admUnit u).granted < (s.admUnit u).expert.capacity)) = false := by
    rcases h with hclosed | hfull
    · rw [hclosed, Bool.false_and]
    · rw [decide_eq_false (Nat.not_lt.mpr hfull), Bool.and_false]
  simp only [admitTake, hcond, Bool.false_eq_true, if_false]

end admission

/-! ## Catch points (R250 to R252) -/

/-- A core takes a catch point: it waits for it no longer, and runs at a quarter of its rate for 256 ns from now (R252). -/
def State.takeCatch (s : State) (k : Nat) (c : Catch) : State :=
  s.updCore k (fun x => { x with catches := x.catches.erase c, quarterUntil := s.now + 256 })

section catchPoints
variable {s : State} {k : PCore}

section due
variable {c : Catch} (hdue : (s.core k).catches.find? (fun c => decide (c.due ≤ s.now)) = some c) (hrun : s.routerRuns k = true)
include hdue hrun

theorem execCatchPoint_alone (hseq : c.seq = none) : execCatchPoint k s = .next (advance (s.takeCatch k c) k) := by
  simp only [execCatchPoint, hdue, hrun, hseq, Bool.not_true, Bool.false_eq_true, if_false, State.takeCatch]

theorem execCatchPoint_awaited {n : Nat} (hseq : c.seq = some n) :
    execCatchPoint k s = .next (advance (retireOne (s.takeCatch k c) k .sy n false) k) := by
  simp only [execCatchPoint, hdue, hrun, hseq, Bool.not_true, Bool.false_eq_true, if_false, State.takeCatch]

end due

theorem execCatchEnd_over (hset : (s.core k).quarterUntil ≠ 0) (hover : (s.core k).quarterUntil ≤ s.now) :
    execCatchEnd k s = .next (s.updCore k (fun c => { c with quarterUntil := 0 })) := by
  simp only [execCatchEnd, bne_iff_ne.mpr hset, decide_eq_true hover, Bool.and_self, if_true]

end catchPoints

/-- Settles O19: a request's leaving its router changes neither the unit nor the sender's core. -/
theorem admissionAndCatchPointsComplete : Obligations.AdmissionAndCatchPointsComplete := by
  refine ⟨fun i p u k s harr hu hk hrun => ⟨fun hopen hroom ⟨j, hsender⟩ => ?grants, fun h => ?refuses⟩,
    fun k s c hdue hrun => ⟨execCatchPoint_alone hdue hrun, fun n => execCatchPoint_awaited hdue hrun⟩, fun k s => execCatchEnd_over⟩
  -- what the statement reads of the unit before the packet leaves, the unit reads after
  all_goals
    have hexec : exec (.admitRequest i) s = _ := execAdmitRequest_arrived harr hu hk hrun
    rw [← takePacket_admUnit s i u] at *
  case grants => exact hexec.trans (congrArg _ (admitTake_grants hopen hroom (by simpa using hsender)))
  case refuses => exact hexec.trans (congrArg _ (admitTake_refuses h))

end Sys2Proof.Machine
end

section
/-!
PROOFS. Chapter 6: layout streams are staged and discarded, and replace the layout in force.
-/
namespace Sys2Proof.Machine

/-! ## Before a partition is formed (R191) -/

/-- The interleave that a stream gives its partition, where no layout is in force yet: s tells whether one is, t takes it. -/
def State.unlessFormed (s : State) (p : Nat) (order : List Nat) (t : State) : State :=
  if (s.layoutOf p).isNone then t.updHub p (fun h => { h with interleave := order }) else t

theorem State.unlessFormed_formed {s : State} {p : Nat} (order : List Nat) (t : State) (h : (s.layoutOf p).isSome = true) :
    s.unlessFormed p order t = t :=
  if_neg (by rw [Option.isNone_eq_false_iff.mpr h]; decide)

theorem State.unlessFormed_unformed {s : State} {p : Nat} (order : List Nat) (t : State) (h : s.layoutOf p = none) :
    s.unlessFormed p order t = t.updHub p (fun h => { h with interleave := order }) :=
  if_pos (by rw [h]; rfl)

/-- What is made of the state with the interleave given, in the two cases in which the rows of a stream are stated. -/
theorem State.unlessFormed_cases {s t : State} {p : Nat} {order : List Nat} {o : Host.Outcome State Fault Refusal} (f : State → State)
    (h : o = .next (f (s.unlessFormed p order t))) : ((s.layoutOf p).isSome = true → o = .next (f t)) ∧
      (s.layoutOf p = none → o = .next (f (t.updHub p (fun h => { h with interleave := order })))) :=
  ⟨fun hformed => by rw [h, State.unlessFormed_formed _ _ hformed],
    fun hunformed => by rw [h, State.unlessFormed_unformed _ _ hunformed]⟩

/-! ## Staging and discarding (R188 to R191, R276) -/

section staging
variable {s : State} {p : PortId}

theorem execLayoutStage_busy (hlive : s.portLive p = true)
    (hbusy : (s.hub p).lay.state = .replacePending ∨ (s.hub p).lay.state = .applying ∨ s.bring.done < 4) :
    execLayoutStage p s = .next (s.updLay p (fun y => y.fail 0 ⟨0x19, 0, noRecord⟩)) :=
  congrArg _ ((if_neg (by simp [hlive])).trans (if_pos (by simpa [or_assoc] using hbusy)))

theorem execLayoutStage_reads (hlive : s.portLive p = true)
    (hfree : (s.hub p).lay.state = .empty ∨ (s.hub p).lay.state = .staged ∨ (s.hub p).lay.state = .rejected)
    (hdone : 4 ≤ s.bring.done) :
    execLayoutStage p s = .next (raiseEvt ((s.unlessFormed p []
      (s.updLay p (fun y => { y.fail 0 ⟨0, 0, 0⟩ with state := .fetching, staged := none }))).emit
        (.hostRead p (s.hub p).lay.addr (s.hub p).lay.len)) p 2) := by
  have hidle : (s.hub p).lay.state ≠ .replacePending ∧ (s.hub p).lay.state ≠ .applying ∧ (s.hub p).lay.state ≠ .fetching := by
    rcases hfree with h | h | h <;> rw [h] <;> decide
  obtain ⟨hpending, happlying, hfetching⟩ := hidle
  exact congrArg _ ((if_neg (by simp [hlive])).trans ((if_neg (by simp [hpending, happlying, hdone])).trans
    (if_neg (by simpa using hfetching))))

section fetched
variable (hfetching : (s.hub p).lay.state = .fetching)
include hfetching

theorem execLayoutFetchDone_lost : execLayoutFetchDone p none s =
    .next (raiseEvt (s.updLay p (fun y => { y.fail 0 ⟨3, 0, noRecord⟩ with state := .rejected })) p 2) :=
  congrArg _ (if_neg (by simp [hfetching]))

theorem execLayoutFetchDone_rejects {b : List Byte} {e : LErr} (hfails : s.stageCheck p (s.hub p).lay.len b = some e) :
    execLayoutFetchDone p (some b) s = .next (raiseEvt (s.updLay p (fun y => { y.fail 0 e with state := .rejected })) p 2) := by
  simp only [execLayoutFetchDone, hfetching, hfails, bne_self_eq_false, Bool.false_eq_true, if_false]

theorem execLayoutFetchDone_stages {b : List Byte} (hpasses : s.stageCheck p (s.hub p).lay.len b = none) :
    execLayoutFetchDone p (some b) s = .next (raiseEvt (s.unlessFormed p (s.liveStacks (readLayout b).part.stackMask)
      (s.updLay p (fun y => { y with state := .staged, staged := some (readLayout b) }))) p 2) := by
  simp only [execLayoutFetchDone, hfetching, hpasses, bne_self_eq_false, Bool.false_eq_true, if_false, State.unlessFormed]

end fetched

theorem execLayoutDiscard_staged (hlive : s.portLive p = true) (hstaged : (s.hub p).lay.state = .staged) :
    execLayoutDiscard p s = .next (raiseEvt (s.unlessFormed p []
      (s.updLay p (fun y => { y with state := .empty, staged := none }))) p 2) :=
  congrArg _ (if_pos (by simp [hlive, hstaged]))

end staging

/-! ## Replacement (R194 to R197) -/

section replacement
variable {s : State}

/-- REPLACE of a staged stream is judged by its posting alone, and leaves the result of the last posting as it was. -/
theorem execLayoutReplace_staged {p : PortId} (hlive : s.portLive p = true) (hstaged : (s.hub p).lay.state = .staged)
    (hformed : (s.layoutOf p).isSome = true) (hrun : s.partStopped p = false) :
    let u := postEvent s p .replacement (s.hub p).lay.repl
    execLayoutReplace p s = .next (raiseEvt ((if u.posted = .ok then u.updLay p (fun y => { y with state := .replacePending })
      else setLayRc s p 25).setPosted s.posted) p 2) :=
  congrArg _ (if_pos (by simp [hlive, hstaged, hformed, hrun]))

theorem execLayoutCancel_pending {p : PortId} (hlive : s.portLive p = true) (hpending : (s.hub p).lay.state = .replacePending) :
    execLayoutCancel p s = .next (raiseEvt ((cancelEvents s p (fun e => e == .replacement)).updLay p (fun y =>
      { y with state := .staged })) p 2) :=
  congrArg _ (if_pos (by simp [hlive, hpending]))

theorem execReplaceDrainTimeout_late {p : PartId} {t0 : Nat} (hquieting : s.quieting p = true) (hbusy : s.partQuiet p = false)
    (hsince : (s.hub p).lay.quietSince = some t0) (hlate : t0 + 1000000 ≤ s.now) :
    execReplaceDrainTimeout p s = .next (raiseEvt (resetPartition (setLayRc (clearFabric s p) p 27) p) p 2) :=
  congrArg _ (if_pos (by simp [hquieting, hbusy, hsince, hlate]))

end replacement

/-- Settles O38: what each row of a layout stream makes of the stream's state, with a layout in force and without. -/
theorem layoutsAreStagedAndReplaced : Obligations.LayoutsAreStagedAndReplaced := by
  refine fun p s => ⟨execLayoutStage_busy, fun hlive hfree hdone => ?stage, fun hfetching => ?fetch,
    fun hlive hstaged => ?staged, execLayoutCancel_pending, fun hquieting hquiet => ?quiet,
    fun t0 => execReplaceDrainTimeout_late, fun ce ue l hstaged happlying hloading hstill hformed => ?loadDone,
    fun r ce ue lc l k lead hloading hpart hlayout hcore hlead => ?spare⟩
  case stage =>
    exact State.unlessFormed_cases (fun u => raiseEvt (u.emit (.hostRead p (s.hub p).lay.addr (s.hub p).lay.len)) p 2)
      (execLayoutStage_reads hlive hfree hdone)
  case fetch =>
    exact ⟨execLayoutFetchDone_lost hfetching, fun b e => execLayoutFetchDone_rejects hfetching, fun b hpasses =>
      State.unlessFormed_cases (fun u => raiseEvt u p 2) (execLayoutFetchDone_stages hfetching hpasses)⟩
  case staged =>
    obtain ⟨hdiscard, hdiscardUnformed⟩ := State.unlessFormed_cases (fun u => raiseEvt u p 2) (execLayoutDiscard_staged hlive hstaged)
    refine ⟨hdiscard, hdiscardUnformed, fun hformed hrun => ?_⟩
    have hreplace : exec (.layoutReplace p) s = _ := execLayoutReplace_staged hlive hstaged hformed hrun
    exact ⟨fun hok => by rw [hreplace, if_pos hok], fun hrefused => by rw [hreplace, if_neg hrefused]⟩
  case quiet => exact congrArg Host.Outcome.next (if_pos (by rw [hquieting, hquiet]; rfl))
  case loadDone =>
    have hready : ((s.hub p).lay.state == .applying && (s.hub p).lay.loading && !(s.hub p).moving && (s.layoutOf p).isSome) = true := by
      simp [happlying, hloading, hstill, hformed]
    have hexec : exec (.replaceLoadDone p ce ue) s = execReplaceLoadDone p ce ue s := rfl
    simp only [hexec, execReplaceLoadDone, hstaged, hready, if_true]
  case spare =>
    have hexec : exec (.spareLoadDone r ce ue) s = execSpareLoadDone r ce ue s := rfl
    simp only [hexec, execSpareLoadDone, hloading, hpart, hlayout, hcore, hlead, Option.bind_some, Option.map_some]

end Sys2Proof.Machine
end

section
/-!
PROOFS. Chapter 7: one hop of a packet, by the way on that its node finds, the taps of a die, and the steps of a route change.
-/
namespace Sys2Proof.Machine

/-! ## A packet that goes further (R215, R219, R226) -/

section forward
variable {s : State} {i : Nat} {p : Packet} {x y f sub : Nat}

theorem execRouterForward_router {k : Nat} (hi : s.net[i]? = some p) (hloc : p.loc = .router x y) (hk : s.coreHere p = some k)
    (hrun : s.routerRuns k = true) (hhead : headOfLine s.net i = true) : execRouterForward i s = .next (forward s i p) := by
  simp [execRouterForward, hi, hloc, hk, hrun, hhead]

theorem execRouterForward_edge (hi : s.net[i]? = some p) (hloc : p.loc = .edge f sub) (hhead : headOfLine s.net i = true)
    (hdest : p.dest ≠ some p.loc) : execRouterForward i s = .next (forward s i p) := by
  rw [hloc] at hdest
  simp [execRouterForward, hi, hloc, hhead, hdest]

theorem forward_edge_holds (hloc : p.loc = .edge f sub) (hhop : s.nextHop p = .hold) : forward s i p = s := by
  simp only [forward, hloc, hhop]

theorem forward_edge_stops (hloc : p.loc = .edge f sub) {st : Nat} (hhop : s.nextHop p = .stop st) : forward s i p = stopPacket s i p st := by
  simp only [forward, hloc, hhop]

theorem forward_edge_moves (hloc : p.loc = .edge f sub) {n : Node} {arr : Dir} {esc : Bool} (hhop : s.nextHop p = .move n arr esc) :
    forward s i p = hop s i p := by
  simp only [forward, hloc, hhop]

theorem forward_reserved (hloc : p.loc = .router x y) (h : listedOpc p.cls p.opc = false ∨ p.dkind = 3) :
    forward s i p = countTtl (s.takePacket i) p.part := by
  simp only [forward, hloc]
  exact if_pos (by rcases h with h | h <;> simp [h])

/-- A packet that goes further has a next node: it is not at its destination, and a tree's packet has been given its port. -/
def Packet.goesFurther (p : Packet) : Prop := p.dest ≠ some p.loc ∧ (p.dkind = 2 → p.port ≠ none)

theorem Packet.goesFurther.not_at {n : Node} (h : p.goesFurther) (hn : p.loc = n) :
    (p.dest == some n || (p.dkind == 2 && p.port.isNone)) = false := by
  subst hn
  obtain ⟨hdest, hport⟩ := h
  simpa [hdest, Option.ne_none_iff_isSome] using hport

/-- Only a packet with a way on asks for an output. -/
theorem State.nextHop_of_wants (hgo : p.goesFurther) {o : Nat} (hwants : s.wants p = some o) :
    (∃ n d esc, s.nextHop p = .move n d esc) ∨ ∃ key x' y' d esc, s.nextHop p = .cross key x' y' d esc := by
  rw [State.wants, hgo.not_at rfl, if_neg Bool.false_ne_true] at hwants
  cases hhop : s.nextHop p with
  | move n d esc => exact .inl ⟨n, d, esc, rfl⟩
  | cross key x' y' d esc => exact .inr ⟨key, x', y', d, esc, rfl⟩
  | hold => simp [hhop] at hwants
  | stop st => simp [hhop] at hwants

/-! A listed packet that goes further: its TTL is judged before its way on (log entry 163). -/

section listed
variable (hloc : p.loc = .router x y) (hopc : listedOpc p.cls p.opc = true) (hkind : p.dkind ≠ 3) (hgo : p.goesFurther)
include hloc hopc hkind hgo

theorem forward_ttlEnds (httl : p.ttl ≤ 1) : forward s i p = countTtl (dropAtInput (s.takePacket i) p true) p.part := by
  simp [forward, hloc, hopc, hkind, hgo.not_at hloc, httl]

variable (httl : 1 < p.ttl)
include httl

theorem forward_holds (hhop : s.nextHop p = .hold) : forward s i p = s := by
  simp [forward, hloc, hopc, hkind, hgo.not_at hloc, httl.not_ge, hhop]

theorem forward_stops {st : Nat} (hhop : s.nextHop p = .stop st) :
    forward s i p = if p.dkind = 2 then s.takePacket i else stopPacket s i { p with ttl := p.ttl - 1 } st := by
  simp [forward, hloc, hopc, hkind, hgo.not_at hloc, httl.not_ge, hhop]

/-- The output that a packet asks for grants one of those that ask for it, which makes its hop (R219). -/
theorem forward_grants {o j : Nat} {a : Arb} {q : Packet} (hwants : s.wants p = some o) (hgrant : s.outGrant p.loc o = some (j, a))
    (hj : s.net[j]? = some q) (hq : 1 < q.ttl) : forward s i p = hop s j q := by
  rw [hloc] at hgrant
  rcases State.nextHop_of_wants hgo hwants with ⟨n, d, esc, hhop⟩ | ⟨key, x', y', d, esc, hhop⟩ <;>
    simp [forward, hloc, hopc, hkind, hgo.not_at hloc, httl.not_ge, hhop, hwants, hgrant, hj, hq.not_ge]

end listed
end forward

/-! ## The hop from a router (R204, R206) -/

section hop
variable {s : State} {i : Nat} {p : Packet} {x y : Nat} (hloc : p.loc = .router x y)
include hloc

theorem hop_arrives {n : Node} {arr : Dir} {esc : Bool} (hhop : s.nextHop p = .move n arr esc)
    (hadm : ∀ f sub, n = .edge f sub → s.edgeAdmits p n = true) :
    hop s i p = takeRoom (arrive (s.takePacket i) { p with ttl := p.ttl - 1, loc := n, arr := arr, esc := esc, port := none }) p := by
  cases n with
  | router x' y' => simp [hop, hloc, hhop]
  | edge f sub => simp [hop, hloc, hhop, hadm f sub rfl]

/-- A packet that the edge field does not admit is a fence violation: a response is dropped, any other packet answered (R204). -/
theorem hop_fenced {f sub : Nat} {arr : Dir} {esc : Bool} (hhop : s.nextHop p = .move (.edge f sub) arr esc)
    (hadm : s.edgeAdmits p (.edge f sub) = false) :
    hop s i p = takeRoom (if p.cls = 2 then dropAtInput (countFence (s.takePacket i) p.part) p false
      else (countFence (s.takePacket i) p.part).send (({ p with ttl := p.ttl - 1 } : Packet).ack 5)) p := by
  simp [hop, hloc, hhop, hadm]

theorem hop_crosses {key x' y' : Nat} {arr : Dir} {esc : Bool} (hhop : s.nextHop p = .cross key x' y' arr esc) :
    hop s i p = takeRoom ((s.takePacket i).updLink key (fun l => { l with
      sendQ := l.sendQ ++ ({ p with ttl := p.ttl - 1, esc := esc, port := none } : Packet).flits.map (fun z => (({ p with esc := esc } : Packet).vc, z)) })) p := by
  simp only [hop, hloc, hhop]
  rfl

end hop

theorem takeRoom_noPort {s : State} {p : Packet} (h : p.port = none) : takeRoom s p = s := by simp only [takeRoom, h]

theorem execTapOutOfService_working {r : PRegion} {s : State} (hlive : s.regionLive r = true) (hin : (s.region r).tapOut = false)
    (hup : (s.link (r.val / 4 * 32 + 28 + r.val % 4)).up = true) : execTapOutOfService r s = .next (tapLost s r) :=
  congrArg _ (if_pos (by simp [hlive, hin, hup]))

/-- Settles O20: what a router and an edge unit do with the packet at the head, what its hop makes, and a tap that goes. -/
theorem packetsMoveOneHop : Obligations.PacketsMoveOneHop := by
  refine ⟨?router, ?edge, fun i p x y s hloc => ⟨fun n arr esc => hop_arrives hloc, fun f sub arr esc => hop_fenced hloc,
    fun key x' y' arr esc => hop_crosses hloc⟩, fun p s => takeRoom_noPort, fun r s => execTapOutOfService_working⟩
  case router =>
    intro i p x y k s hi hloc hk hrun hhead
    have hexec : exec (.routerForward i) s = .next (forward s i p) := execRouterForward_router hi hloc hk hrun hhead
    rw [hexec]
    refine ⟨fun h => congrArg _ (forward_reserved hloc h), fun hopc hkind hdest hport => ?_⟩
    have hgo : p.goesFurther := ⟨hdest, hport⟩
    exact ⟨fun httl => congrArg _ (forward_ttlEnds hloc hopc hkind hgo httl),
      fun httl hhop => congrArg _ (forward_holds hloc hopc hkind hgo httl hhop),
      fun st httl hhop => congrArg _ (forward_stops hloc hopc hkind hgo httl hhop),
      fun o j a q httl hwants hgrant hj hq => congrArg _ (forward_grants hloc hopc hkind hgo httl hwants hgrant hj hq)⟩
  case edge =>
    intro i p f sub s hi hloc hhead hdest
    have hexec : exec (.routerForward i) s = .next (forward s i p) := execRouterForward_edge hi hloc hhead hdest
    rw [hexec]
    exact ⟨fun hhop => congrArg _ (forward_edge_holds hloc hhop), fun st hhop => congrArg _ (forward_edge_stops hloc hhop),
      fun n arr esc hhop => congrArg _ (forward_edge_moves hloc hhop)⟩

/-! ## Route changes (R225) -/

section routeChange
variable {p : PartId} {s : State} (hpaused : s.paused p = true)
include hpaused

theorem execRouteDrainDone_empty (hopen : (s.hub p).fab.drained = false) (hempty : s.drainedNow p = true) :
    execRouteDrainDone p s = .next (recompute s p) :=
  congrArg _ (if_pos (by simp [hpaused, hopen, hempty]))

theorem execRouteDrainTimeout_late (hopen : (s.hub p).fab.drained = false) (hlate : (s.hub p).fab.pausedAt + 1000000 ≤ s.now) :
    execRouteDrainTimeout p s = .next (recompute (discardAll s p) p) :=
  congrArg _ (if_pos (by simp [hpaused, hopen, hlate]))

/-- With the tables in place, the cores with an LCID send what they held back, and every router of a tree folds on (R225 step 4). -/
theorem execRouteTablesLoaded_drained (hdrained : (s.hub p).fab.drained = true) :
    let s2 := tablesInPlace s p
    let s3 := s2.each ((s2.partSites p).flatMap siteCores) (fun t k => if (t.core k).lcid.isSome then resumeCore t k else t)
    execRouteTablesLoaded p s = .next (s3.each ((s3.trees.filter (fun t => t.2.part == p.val)).map (·.1)) (fun t tk =>
      tryTree (t.each ((t.tree tk).nodes.map (·.1)) (fun u r => foldNode 2100 u tk r)) tk)) :=
  congrArg _ (if_pos (by rw [hpaused, hdrained]; rfl))

end routeChange

/-- Settles O22: the guard of each step holds, and tablesInPlace is what the last step puts in place. -/
theorem routeChangesDrainAndResume : Obligations.RouteChangesDrainAndResume :=
  ⟨fun _ _ => execRouteDrainDone_empty, fun _ _ => execRouteDrainTimeout_late, fun _ _ => execRouteTablesLoaded_drained⟩

end Sys2Proof.Machine
end

section
/-!
PROOFS. Chapter 14: BAR2 accesses, the end of an HBM move, and the link of a host port.
-/
namespace Sys2Proof.Machine

/-! ## BAR2 (R276, R281, R287, R390) -/

section bar2
variable {p : PortId} {s : State}

theorem takeBar2_held {kind off len : Nat} {data : Nat → List Byte} (hmoving : (s.hub p).moving = true) :
    takeBar2 s p kind off len data = s.updHub p (fun h => { h with
      barHeld := h.barHeld ++ [(kind, (s.hub p).bar2 + off, len, data ((s.hub p).bar2 + off))] }) :=
  if_pos hmoving

theorem takeBar2_serves {kind off len : Nat} {data : Nat → List Byte} (hstill : (s.hub p).moving = false) :
    takeBar2 s p kind off len data = serveBar2 s p kind ((s.hub p).bar2 + off) len (data ((s.hub p).bar2 + off)) :=
  if_neg (by simp [hstill])

theorem execHbmMoveDone_moving (hmoving : (s.hub p).moving = true) :
    execHbmMoveDone p s = .next (((moveHbm s p).updHub p (fun h => { h with barHeld := [] })).each (s.hub p).barHeld (fun s x =>
      serveBar2 s p x.1 x.2.1 x.2.2.1 x.2.2.2)) :=
  congrArg _ (if_neg (by simp [hmoving]))

theorem execHostLinkReturn_present (hport : s.part.hostPresent p = true) (hlive : (s.hub p).live = true) :
    execHostLinkReturn p s = .next (s.updHub p (fun h => { h with linkUp := true })) :=
  congrArg _ (if_pos (by rw [hport, hlive]; rfl))

section reached
variable {off : BitVec 36} (hup : s.hostUp p = true)
include hup

theorem execBar2Read_empty : execBar2Read p off 0 s = .next (s.emit (.completion p 0 [])) := by
  simp [execBar2Read, hup]

theorem execBar2Read_some {len : Nat} (hlen : 1 ≤ len) : execBar2Read p off len s = .next (takeBar2 s p 0 off.toNat len (fun _ => [])) := by
  have hlen0 : len ≠ 0 := by omega
  simp [execBar2Read, hup, hlen0]

theorem execBar2Write_reached {data : List Byte} :
    execBar2Write p off data s = .next (takeBar2 s p 1 off.toNat data.length (fun _ => data)) :=
  congrArg _ (if_pos hup)

section atomic
variable {op : AtomOp} {size : Nat} {op0 op1 : W64}

theorem execBar2Atomic_aligned (hsize : size = 4 ∨ size = 8) (halign : off.toNat % size = 0) :
    execBar2Atomic p off op size op0 op1 s = .next (takeBar2 s p 2 off.toNat size (fun a =>
      bytesLE 1 (atomCode op size a) ++ bytesLE 8 (op0.toNat % 2 ^ (8 * size)) ++ bytesLE 8 (op1.toNat % 2 ^ (8 * size)))) :=
  congrArg _ ((if_neg (by simp [hup])).trans (if_neg (by omega)))

theorem execBar2Atomic_unsupported (h : ¬ ((size = 4 ∨ size = 8) ∧ off.toNat % size = 0)) :
    execBar2Atomic p off op size op0 op1 s = .next (s.emit (.completion p 1 [])) :=
  congrArg _ ((if_neg (by simp [hup])).trans (if_pos (by omega)))

end atomic

theorem execHostLinkDown_up : execHostLinkDown p s =
    .next ((stopReported (s.updHub p (fun h => { h with linkUp := false, barHeld := [] })) p).updCmd p
      (fun c => { c with state := 0, fetch := 0 })) :=
  congrArg _ (if_neg (by simp [hup]))

end reached
end bar2

/-- Settles O40: each access that reaches the hub is one takeBar2, which holds it while the contents move and else serves it. -/
theorem bar2AccessesComplete : Obligations.Bar2AccessesComplete := by
  refine fun p s => ⟨fun off => execBar2Read_empty, ?read, ?write, ?atomic, execHbmMoveDone_moving, execHostLinkDown_up,
    execHostLinkReturn_present⟩
  case read =>
    intro off len hlen hup
    have hexec : exec (.bar2Read p off len) s = _ := execBar2Read_some hup hlen
    exact ⟨fun hmoving => hexec.trans (congrArg _ (takeBar2_held hmoving)), fun hstill => hexec.trans (congrArg _ (takeBar2_serves hstill))⟩
  case write =>
    intro off data hup
    have hexec : exec (.bar2Write p off data) s = _ := execBar2Write_reached hup
    exact ⟨fun hmoving => hexec.trans (congrArg _ (takeBar2_held hmoving)), fun hstill => hexec.trans (congrArg _ (takeBar2_serves hstill))⟩
  case atomic =>
    intro off op size op0 op1 hup
    exact ⟨fun hsize halign hmoving => (execBar2Atomic_aligned hup hsize halign).trans (congrArg _ (takeBar2_held hmoving)),
      fun hsize halign hstill => (execBar2Atomic_aligned hup hsize halign).trans (congrArg _ (takeBar2_serves hstill)),
      execBar2Atomic_unsupported hup⟩

end Sys2Proof.Machine
end

section
/-!
PROOFS. Chapter 8: sync objects at their homes, and the packets and reports that trees take.
-/
namespace Sys2Proof.Machine

/-! ## An object reaches its target (R242) -/

theorem SyncObj.reached_of_le {x : SyncObj} (hr : x.released = false) (ht : 0 < x.target) (hc : x.target ≤ x.counter) : x.reached = true := by
  simp [SyncObj.reached, hr, ht.ne', hc]

theorem SyncObj.not_reached {x : SyncObj} (h : x.released = true ∨ x.target = 0 ∨ x.counter < x.target) : x.reached = false := by
  rcases h with hr | ht | hc
  · simp [SyncObj.reached, hr]
  · simp [SyncObj.reached, ht]
  · simp [SyncObj.reached, Nat.not_le.mpr hc]

/-! ## What an answer leaves of the objects -/

section objects
variable {s : State} {o l : Nat}

@[simp] theorem freeRuns_sync (pick : Run → Bool) (q : Nat) : (freeRuns s o l pick).sync q = s.sync q := by
  unfold freeRuns
  split <;> rfl

@[simp] theorem answerTaken_sync (p : Packet) (st q : Nat) : (answerTaken s p o l st).sync q = s.sync q := by
  rw [answerTaken, State.send_sync, freeRuns_sync]

@[simp] theorem homeTakesReport_sync (q : Nat) : (homeTakesReport s o).sync q = s.sync q := by
  unfold homeTakesReport
  split <;> rfl

/-- A core that is held enters the waiters alone. -/
theorem homeHold_sync (hwf : Tab.wf {} s.syncs = true) : (homeHold s o l).sync o = { s.sync o with waiters := (s.sync o).waiters.add l } := by
  have hadd : (s.updSync o (fun x => { x with waiters := x.waiters.add l })).sync o = { s.sync o with waiters := (s.sync o).waiters.add l } :=
    (State.updSync_sync s o _ o hwf).trans (if_pos rfl)
  unfold homeHold
  split
  · refine (State.each_reading (g := fun t => t.sync o) ?_).trans hadd
    exact fun t j => State.updCore_sync t j _ o
  · exact hadd

end objects

/-! ## SIGNAL, ARM and WAIT at the home (R242, R246) -/

section home
variable {s : State} {o : Nat}

section signal
variable {n : Nat} (hwf : Tab.wf {} s.syncs = true)
include hwf

theorem countUp_sync : (s.updSync o (fun x => countUp x n)).sync o = countUp (s.sync o) n :=
  (State.updSync_sync s o _ o hwf).trans (if_pos rfl)

theorem homeSignalOp_counts (h : (s.sync o).released = true ∨ (s.sync o).target = 0 ∨ min ((s.sync o).counter + n) 0xFFFFFFFF < (s.sync o).target) :
    homeSignalOp s o n = s.updSync o (fun x => countUp x n) := by
  have hreached : ((s.updSync o (fun x => countUp x n)).sync o).reached = false := by rw [countUp_sync hwf]; exact SyncObj.not_reached h
  exact if_neg (by simp [hreached])

theorem homeSignalOp_releases (hr : (s.sync o).released = false) (ht : 0 < (s.sync o).target)
    (hc : (s.sync o).target ≤ min ((s.sync o).counter + n) 0xFFFFFFFF) :
    homeSignalOp s o n = homeRelease (s.updSync o (fun x => countUp x n)) o true := by
  have hreached : ((s.updSync o (fun x => countUp x n)).sync o).reached = true := by rw [countUp_sync hwf]; exact SyncObj.reached_of_le hr ht hc
  exact if_pos hreached

end signal

variable {p : Packet} {l : Nat}

theorem homeWaitOp_faulted (hf : (s.sync o).faulted = true) : homeWaitOp s p o l = waiterFault s o l (s.sync o).cause := if_pos hf

section working
variable (hf : (s.sync o).faulted = false)
include hf

theorem homeWaitOp_released (hr : (s.sync o).released = true) : homeWaitOp s p o l = answerTaken s p o l 0 :=
  (if_neg (by simp [hf])).trans (if_pos hr)

theorem homeWaitOp_holds (hr : (s.sync o).released = false) : homeWaitOp s p o l = homeHold s o l :=
  (if_neg (by simp [hf])).trans (if_neg (by simp [hr]))

end working

/-! ## BARRIER at the home (R242, R244, R246) -/

theorem homeBarrierOp_faulted (hf : (s.sync o).faulted = true) : homeBarrierOp s p o l = waiterFault s o l (s.sync o).cause := if_pos hf

theorem homeBarrierOp_run (hf : (s.sync o).faulted = false) (hrun : (s.sync o).run = true) : homeBarrierOp s p o l = answerTaken s p o l 1 :=
  (if_neg (by simp [hf])).trans (if_pos hrun)

section counted
variable (hf : (s.sync o).faulted = false) (hrun : (s.sync o).run = false) (hwf : Tab.wf {} s.syncs = true)
include hf hrun

/-- A BARRIER that is counted waits as a WAIT does, and then may release the object with a reset. -/
theorem homeBarrierOp_counted {t : State} (ht : homeWaitOp (s.updSync o (fun x => countUp x 1)) p o l = t) :
    homeBarrierOp s p o l = if (t.sync o).reached then homeRelease t o false else t := by
  subst ht
  exact (if_neg (by simp [hf])).trans (if_neg (by simp [hrun]))

include hwf

theorem homeBarrierOp_released (hr : (s.sync o).released = true) :
    homeBarrierOp s p o l = answerTaken (s.updSync o (fun x => countUp x 1)) p o l 0 := by
  have hx := countUp_sync (o := o) (n := 1) hwf
  rw [homeBarrierOp_counted hf hrun (homeWaitOp_released (by rw [hx]; exact hf) (by rw [hx]; exact hr)), answerTaken_sync, hx,
    SyncObj.not_reached (x := countUp (s.sync o) 1) (.inl hr), if_neg Bool.false_ne_true]

variable (hr : (s.sync o).released = false)
include hr

/-- The target judges the counter that the BARRIER has raised: being held changes neither. -/
theorem homeBarrierOp_held : homeBarrierOp s p o l = if (countUp (s.sync o) 1).reached
    then homeRelease (homeHold (s.updSync o (fun x => countUp x 1)) o l) o false else homeHold (s.updSync o (fun x => countUp x 1)) o l := by
  have hx := countUp_sync (o := o) (n := 1) hwf
  have hwf' : Tab.wf {} (s.updSync o (fun x => countUp x 1)).syncs = true := Tab.wf_upd (t := s.syncs) o (fun x => countUp x 1) hwf
  rw [homeBarrierOp_counted hf hrun (homeWaitOp_holds (by rw [hx]; exact hf) (by rw [hx]; exact hr)), homeHold_sync hwf', hx]
  rfl

theorem homeBarrierOp_holds (h : (s.sync o).target = 0 ∨ min ((s.sync o).counter + 1) 0xFFFFFFFF < (s.sync o).target) :
    homeBarrierOp s p o l = homeHold (s.updSync o (fun x => countUp x 1)) o l := by
  rw [homeBarrierOp_held hf hrun hwf hr, SyncObj.not_reached (x := countUp (s.sync o) 1) (.inr h), if_neg Bool.false_ne_true]

theorem homeBarrierOp_releases (ht : 0 < (s.sync o).target) (hc : (s.sync o).target ≤ min ((s.sync o).counter + 1) 0xFFFFFFFF) :
    homeBarrierOp s p o l = homeRelease (homeHold (s.updSync o (fun x => countUp x 1)) o l) o false := by
  rw [homeBarrierOp_held hf hrun hwf hr, SyncObj.reached_of_le (x := countUp (s.sync o) 1) hr ht hc, if_pos rfl]

end counted
end home

/-! ## The rows of the home agent -/

section rows
variable {s : State} {i : Nat} {p : Packet}

theorem execHomeSignal_run (hp : s.syncHere i 0 = some p) (hrun : (s.sync p.addr).run = true) :
    execHomeSignal i s = .next ((s.takePacket i).send (p.ack 1)) := by
  simp only [execHomeSignal, hp, hrun, if_true]

theorem execHomeSignal_takes (hp : s.syncHere i 0 = some p) (hrun : (s.sync p.addr).run = false) :
    execHomeSignal i s = .next ((homeSignalOp (s.takePacket i) p.addr (p.syncValue % 65536)).send (p.ack 0)) := by
  simp only [execHomeSignal, hp, hrun, Bool.false_eq_true, if_false]

theorem execHomeArm_run (hp : s.syncHere i 2 = some p) (hrun : (s.sync p.addr).run = true) :
    execHomeArm i s = .next ((s.takePacket i).send (p.ack 1)) := by
  simp only [execHomeArm, hp, hrun, if_true]

theorem execHomeArm_takes (hp : s.syncHere i 2 = some p) (hrun : (s.sync p.addr).run = false) :
    execHomeArm i s = .next ((homeArmOp (s.takePacket i) p.addr p.syncValue).send (p.ack 0)) := by
  simp only [execHomeArm, hp, hrun, Bool.false_eq_true, if_false]

theorem execHomeWait_takes (hp : s.syncHere i 1 = some p) :
    execHomeWait i s = .next (homeWaitOp (s.takePacket i) p p.addr p.syncLcid) := by
  simp only [execHomeWait, hp]

theorem execHomeBarrier_takes (hp : s.syncHere i 3 = some p) :
    execHomeBarrier i s = .next (homeBarrierOp (s.takePacket i) p p.addr p.syncLcid) := by
  simp only [execHomeBarrier, hp]

theorem homeArmOp_arms {o t : Nat} (ht : t ≠ 0) :
    homeArmOp s o t = s.updSync o (fun x => { x with target := t, counter := 0, released := false }) := if_neg ht

theorem homeArmOp_zero {o : Nat} :
    homeArmOp s o 0 = homeRelease (s.updSync o (fun x => { x with target := 0, counter := 0, released := false })) o true := by
  simp only [homeArmOp, if_true]

theorem execHomeFaultReport_lost {o : ObjId} {l : Lcid} {absent : Bool} (hsig : (s.sync o).signallers.has l = true)
    (hlost : s.lcidLost l absent = true) :
    execHomeFaultReport o l absent s = .next (homeFault (homeTakesReport s o) o (if absent then 0x12 else 0x11)) :=
  congrArg _ (if_pos (by rw [hsig, hlost]; rfl))

end rows

/-- Settles O18: the object is read as it is before the packet leaves its router, which changes no object. -/
theorem syncObjectsCountAndRelease : Obligations.SyncObjectsCountAndRelease := by
  refine ⟨fun i p s hcan hp => ?signal, fun i p s hp => ?arm, fun i p s hp => ?wait, fun i p s hcan hp => ?barrier,
    fun o l absent s hsig hlost => ?report⟩
  case signal =>
    have hwf := (State.takePacket_kept (i := i) (State.kept_mark hcan)).canon.syncs
    have hrunning := execHomeSignal_run hp
    have htakes := execHomeSignal_takes hp
    rw [← takePacket_sync s i p.addr] at *
    refine ⟨hrunning, fun hrun h => (htakes hrun).trans ?_, fun hrun hr ht hc => (htakes hrun).trans ?_⟩
    · rw [homeSignalOp_counts hwf h]; rfl
    · rw [homeSignalOp_releases hwf hr ht hc]; rfl
  case arm =>
    refine ⟨execHomeArm_run hp, fun hrun ht => (execHomeArm_takes hp hrun).trans ?_, fun hrun ht => (execHomeArm_takes hp hrun).trans ?_⟩
    · rw [homeArmOp_arms ht]
    · rw [ht, homeArmOp_zero]
  case wait =>
    have hexec := execHomeWait_takes hp
    rw [← takePacket_sync s i p.addr]
    exact ⟨fun hf => hexec.trans (congrArg _ (homeWaitOp_faulted hf)), fun hf hr => hexec.trans (congrArg _ (homeWaitOp_released hf hr)),
      fun hf hr => hexec.trans (congrArg _ (homeWaitOp_holds hf hr))⟩
  case barrier =>
    have hwf := (State.takePacket_kept (i := i) (State.kept_mark hcan)).canon.syncs
    have hexec := execHomeBarrier_takes hp
    rw [← takePacket_sync s i p.addr]
    exact ⟨fun hf => hexec.trans (congrArg _ (homeBarrierOp_faulted hf)), fun hf hrun => hexec.trans (congrArg _ (homeBarrierOp_run hf hrun)),
      fun hf hrun hr => hexec.trans (congrArg _ (homeBarrierOp_released hf hrun hwf hr)),
      fun hf hrun hr h => hexec.trans (congrArg _ (homeBarrierOp_holds hf hrun hwf hr h)),
      fun hf hrun hr ht hc => hexec.trans (congrArg _ (homeBarrierOp_releases hf hrun hwf hr ht hc))⟩
  case report =>
    refine (execHomeFaultReport_lost hsig hlost).trans ?_
    simp only [homeFault, homeTakesReport_sync]

end Sys2Proof.Machine
end

section
/-!
PROOFS. Chapter 8: the packets that the routers of a tree take, and the reports of the cox rings.
-/
namespace Sys2Proof.Machine

/-! ## Credits, copies, contributions and counts at a router (R254 to R258, R263) -/

section tree
variable {s : State} {i : Nat} {p : Packet}

theorem execTreeCredit_multicast (hp : s.colHere i 0 [1] [1] = some p) :
    execTreeCredit i s = .next (tryTree (mergeCredits ((leaveBuffer (s.takePacket i) p).updNode p.treeKey p.atRouter (fun n => { n with
      creds := n.creds ++ [(p.colK, p.colFrom, p.colCount)] })) p.treeKey p.atRouter) p.treeKey) := by
  simp only [execTreeCredit, hp]

theorem execTreeCredit_reduction (hnone : s.colHere i 0 [1] [1] = none) (hp : s.colHere i 1 [0] [1] = some p) :
    execTreeCredit i s = .next (creditDown (leaveBuffer (s.takePacket i) p) p.treeKey p.atRouter p) := by
  simp only [execTreeCredit, hnone, hp]

/-- A packet of the tree before p waits at its router for the buffer of a child (R255). -/
def State.mcastWaits (s : State) (p : Packet) : Bool :=
  s.net.any (fun q => q.port.isSome && q.treeKey == p.treeKey && q.atRouter == p.atRouter && q.opc == 0)

theorem execTreeMcast_here (hp : s.colHere i 0 [0] [0, 4] = some p) : execTreeMcast i s = .next (
    if s.paused p.part || s.mcastWaits p then s else copyDown (leaveBuffer (s.takePacket i) p) p.treeKey p.atRouter p) := by
  simp only [execTreeMcast, hp]
  rfl

theorem execTreeContrib_here (hp : s.colHere i 1 [1] [0, 4] = some p) :
    execTreeContrib i s = .next (takeContrib (s.takePacket i) p.treeKey p.atRouter p) := by
  simp only [execTreeContrib, hp]

theorem execTreeDone_here (hp : s.colHere i 0 [1] [2] = some p) :
    execTreeDone i s = .next (mergeDone ((leaveBuffer (s.takePacket i) p).updNode p.treeKey p.atRouter (fun n => { n with
      dones := n.dones ++ [(p.colFrom, p.colCount)] })) p.treeKey p.atRouter) := by
  simp only [execTreeDone, hp]

theorem execTreeDropped_here (hp : s.colHere i 0 [1] [3] = some p) :
    execTreeDropped i s = .next (mergeDone (dropUp (leaveBuffer (s.takePacket i) p) p.treeKey p.atRouter p.colCount (natLE (p.payload.take 2)))
      p.treeKey p.atRouter) := by
  simp only [execTreeDropped, hp]

theorem execCoxFenceReport_here {rep : RingReport} (hrep : s.rings[i]? = some rep) :
    execCoxFenceReport i s = .next (takeReport (s.setRings (s.rings.eraseIdx i)) rep) := by
  simp only [execCoxFenceReport, hrep]

/-! ## A RESULT at a core that ejects (R256, R257, R420) -/

section result
variable {k : Nat} (hej : s.ejects k = true)
include hej

theorem execTreeResult_port (hport : s.portResultHere i = some (p, k)) : execTreeResult i s = .next (portResult (s.takePacket i) k p) := by
  simp only [execTreeResult, hport, hej, if_true]

variable (hport : s.portResultHere i = none) (hk : s.coreHere p = some k)
include hport hk

theorem execTreeResult_member (hp : s.colHere i 0 [2] [0, 4] = some p) :
    execTreeResult i s = .next (memberTakes (s.takePacket i) p.treeKey p.atRouter k p) := by
  simp only [execTreeResult, hport, hp, hk, hej, if_true]

/-- One that comes up a reduction brings its member a credit, or the root a result. -/
theorem execTreeResult_reduction (hnone : s.colHere i 0 [2] [0, 4] = none) (hp : s.colHere i 1 [2] [0, 1, 4] = some p) :
    execTreeResult i s = .next (if p.colKind = 1 then grantSend (s.takePacket i) p.treeKey k else rootTakes (s.takePacket i) p.treeKey p) := by
  simp only [execTreeResult, hport, hnone, hp, hk, hej, Bool.not_true, Bool.false_eq_true, if_false, beq_iff_eq]

end result
end tree

/-- Settles O23: what each row does once its packet or report is known to stand there. -/
theorem treePacketsAreServed : Obligations.TreePacketsAreServed := by
  refine ⟨fun i p s => execTreeCredit_multicast, fun i p s => execTreeCredit_reduction, fun i p s hp => ⟨fun hpaused hwaits => ?copies, fun h => ?held⟩,
    fun i p s => execTreeContrib_here, fun i p k s hport hp hk hej => execTreeResult_member hej hport hk hp,
    fun i p k s hport hnone hp hk hej => ⟨fun hcredit => ?credit, fun hcredit => ?root⟩, fun i p k s hport hej => execTreeResult_port hej hport,
    fun i p s => execTreeDone_here, fun i p s => execTreeDropped_here, fun i rep s => execCoxFenceReport_here⟩
  case copies => exact (execTreeMcast_here hp).trans (congrArg _ (if_neg (by rw [State.mcastWaits, hpaused, hwaits]; decide)))
  case held => exact (execTreeMcast_here hp).trans (congrArg _ (if_pos ((Bool.or_eq_true _ _).mpr h)))
  case credit => exact (execTreeResult_reduction hej hport hk hnone hp).trans (congrArg _ (if_pos hcredit))
  case root => exact (execTreeResult_reduction hej hport hk hnone hp).trans (congrArg _ (if_neg hcredit))

end Sys2Proof.Machine
end

section
/-!
PROOFS. Chapter 14: the start of a WAIT on an object that another partition holds.
-/
namespace Sys2Proof.Machine

/-! ## The command at the head of the list (R402) -/

section start
variable {p : PortId} {s u : State} {i : Nat} {r : List Byte} (hu : settleCmds s p = u)
include hu

/-- The command at the head starts once the records before it that have no known form have ended. -/
theorem startCmd_head {opc : Nat} {f : State → Nat → List Byte → State} (hhead : u.headCmd p opc = some (i, r)) :
    startCmd s p opc f = f u i r := by
  unfold startCmd
  rw [hu]
  simp only [hhead]

/-- A WAIT on an object that is not the partition's ends with DETAIL 0, whatever the object's release count. -/
theorem execCmdWait_foreign (hhead : u.headCmd p 4 = some (i, r)) (hown : u.ownObject p (recNat r 16 4) = false) :
    execCmdWait p s = .next (endCmd (popCmd u p (u.sync (recNat r 16 4)).releases) p i 1 0) := by
  simp only [execCmdWait, startCmd_head hu hhead, hown, Bool.not_false, if_true]

end start

/-- A record of 64 bytes with OPC 4, VER 1 and, at byte 16, object 1,536, the first of die 12. -/
def waitRecord : List Byte := [4, 1] ++ zeros 15 ++ [6] ++ zeros 46

/-- Partition 0 has column 0 and partition 1 column 1, whose object 1,536 has released once; partition 0's command ring has fetched a WAIT on it. -/
def waitsAbroad : State :=
  { State.reset with
    colMaps := [(0, { valid := true }), (1, { valid := true })]
    hubs := [(0, { lay := { layout? := some { part := {} } }, cmd := { state := 1, fetched := [(0, waitRecord)] } }),
      (1, { lay := { layout? := some { part := { firstCol := 1, lastCol := 1 } } } })]
    syncs := [(1536, { releases := 1 })] }

/-- Refutes O41: R403 gives a WAIT's completion the release count as DETAIL, and so does the statement for an object outside the partition
(STATUS 1); the model gives 0 there. The object in waitsAbroad has released once. -/
theorem not_commandRingRuns : ¬ Obligations.CommandRingRuns := by
  intro h
  obtain ⟨-, -, hstarts, -⟩ := h 0 waitsAbroad
  obtain ⟨-, -, -, -, -, hwait, -⟩ := hstarts 0 waitRecord
  have hhead : (settleCmds waitsAbroad 0).headCmd 0 4 = some (0, waitRecord) := by decide +kernel
  have hown : (settleCmds waitsAbroad 0).ownObject 0 (recNat waitRecord 16 4) = false := by decide +kernel
  obtain ⟨hstated, -⟩ := hwait _ rfl hhead
  have hends := Host.Outcome.next.inj ((execCmdWait_foreign (p := 0) rfl hhead hown).symm.trans (hstated hown))
  have hdetail := congrArg (fun t => (t.hub 0).cmd.held.map (·.detail)) hends
  exact absurd hdetail (by decide +kernel)

end Sys2Proof.Machine
end

section
/-!
PROOFS. Chapter 9: the interleave of a partition's HBM window.
-/
namespace Sys2Proof.Machine

/-! ## The window as rows of units (R272, R274) -/

/-- The window address of byte o of unit row of pseudo-channel pc of the i-th of n stacks. -/
def windowAddr (n row i pc o : Nat) : Nat := ((row * n + i) * 32 + pc) * 4096 + o

theorem windowAddr_add (n row i pc o d : Nat) : windowAddr n row i pc o + d = windowAddr n row i pc (o + d) := Nat.add_assoc _ _ _

section window
variable {l : List Nat}

theorem hbmLocate_eq_none_iff {a : Nat} : hbmLocate l a = none ↔ 32 * l.length * 178000 * 4096 ≤ a := by
  rw [← Nat.le_div_iff_mul_le (by decide)]
  simp [hbmLocate, sliceUnits]

/-- Consecutive units go to the 32 slices of one stack after another, and then to the next unit of each. -/
theorem hbmLocate_windowAddr {row i pc o : Nat} (hi : i < l.length) (hpc : pc < 32) (hrow : row < 178000) (ho : o < 4096) :
    hbmLocate l (windowAddr l.length row i pc o) = some (l[i] * 32 + pc, row * 4096 + o) := by
  have hunit : windowAddr l.length row i pc o / 4096 = 32 * l.length * row + (i * 32 + pc) := by
    have hterms : (row * l.length + i) * 32 + pc = 32 * l.length * row + (i * 32 + pc) := by ring
    rw [windowAddr, hterms]
    omega
  have hoff : windowAddr l.length row i pc o % 4096 = o := by rw [windowAddr]; omega
  have hpos : i * 32 + pc < 32 * l.length := by omega
  have hin : ¬ 32 * l.length * sliceUnits ≤ 32 * l.length * row + (i * 32 + pc) := by
    have := Nat.mul_le_mul_left (32 * l.length) (show row + 1 ≤ sliceUnits from hrow)
    rw [Nat.mul_succ] at this
    omega
  have hstack : (i * 32 + pc) / 32 = i := by omega
  have hchan : (i * 32 + pc) % 32 = pc := by omega
  simp [hbmLocate, hunit, hoff, hin, Nat.mod_eq_of_lt hpos, Nat.mul_add_div (Nat.zero_lt_of_lt hpos),
    Nat.div_eq_of_lt hpos, hstack, hchan, hi]

/-- Every address below the window's end is one of windowAddr. -/
theorem exists_windowAddr {a : Nat} (ha : a < 32 * l.length * 178000 * 4096) :
    ∃ row i pc o, i < l.length ∧ pc < 32 ∧ row < 178000 ∧ o < 4096 ∧ a = windowAddr l.length row i pc o := by
  have hn : 0 < l.length := by by_contra h; simp [Nat.eq_zero_of_not_pos h] at ha
  refine ⟨a / 4096 / 32 / l.length, a / 4096 / 32 % l.length, a / 4096 % 32, a % 4096, Nat.mod_lt _ hn, Nat.mod_lt _ (by decide), ?_,
    Nat.mod_lt _ (by decide), ?_⟩
  · rw [Nat.div_lt_iff_lt_mul hn]
    omega
  · rw [windowAddr, Nat.mul_comm (_ / l.length), Nat.div_add_mod]
    omega

theorem exists_windowAddr_of_hbmLocate {a : Nat} {x : Nat × Nat} (h : hbmLocate l a = some x) :
    ∃ row i pc o, ∃ hi : i < l.length, pc < 32 ∧ row < 178000 ∧ o < 4096 ∧ a = windowAddr l.length row i pc o ∧
      x = (l[i] * 32 + pc, row * 4096 + o) := by
  have ha : a < 32 * l.length * 178000 * 4096 := by
    rw [← Nat.not_le, ← hbmLocate_eq_none_iff, h]
    exact Option.some_ne_none x
  obtain ⟨row, i, pc, o, hi, hpc, hrow, ho, rfl⟩ := exists_windowAddr ha
  exact ⟨row, i, pc, o, hi, hpc, hrow, ho, rfl, Option.some.inj (h.symm.trans (hbmLocate_windowAddr hi hpc hrow ho))⟩

/-- Distinct stacks tell the place of a stack in the interleave from the slice. -/
theorem hbmLocate_injective (hl : l.Nodup) {a b : Nat} {x : Nat × Nat} (ha : hbmLocate l a = some x) (hb : hbmLocate l b = some x) :
    a = b := by
  obtain ⟨row, i, pc, o, hi, hpc, -, ho, rfl, rfl⟩ := exists_windowAddr_of_hbmLocate ha
  obtain ⟨row', i', pc', o', hi', hpc', -, ho', rfl, hx⟩ := exists_windowAddr_of_hbmLocate hb
  obtain ⟨hslice, hbyte⟩ := Prod.mk.inj hx
  have hstack : l[i] = l[i'] := by omega
  obtain rfl : i = i' := (hl.getElem_inj_iff).mp hstack
  obtain rfl : row = row' := by omega
  obtain rfl : pc = pc' := by omega
  obtain rfl : o = o' := by omega
  rfl

end window

/-- Settles O54: an address is a row, the place of a stack, a pseudo-channel and a byte (windowAddr), and its image tells each of them. -/
theorem interleaveIsABijection : Obligations.InterleaveIsABijection := by
  refine fun l hl => ⟨fun a => hbmLocate_eq_none_iff, fun a b x => hbmLocate_injective hl, fun a sl byte ha => ?range,
    fun st pc byte hst hpc hbyte => ?onto, fun a sl byte d ha hd => ?unit⟩
  case range =>
    obtain ⟨row, i, pc, o, hi, hpc, hrow, ho, rfl, hx⟩ := exists_windowAddr_of_hbmLocate ha
    obtain ⟨rfl, rfl⟩ := Prod.mk.inj hx
    have hstack : (l[i] * 32 + pc) / 32 = l[i] := by omega
    exact ⟨hstack.symm ▸ List.getElem_mem hi, by omega, by rw [windowAddr]; omega⟩
  case onto =>
    obtain ⟨i, hi, rfl⟩ := List.getElem_of_mem hst
    have hrow : byte / 4096 < 178000 := by omega
    exact ⟨_, (hbmLocate_windowAddr hi hpc hrow (Nat.mod_lt byte (by decide))).trans (by rw [Nat.div_add_mod'])⟩
  case unit =>
    obtain ⟨row, i, pc, o, hi, hpc, hrow, ho, rfl, hx⟩ := exists_windowAddr_of_hbmLocate ha
    obtain ⟨rfl, rfl⟩ := Prod.mk.inj hx
    have hlt : o + d < 4096 := by rw [windowAddr] at hd; omega
    rw [windowAddr_add, Nat.add_assoc]
    exact hbmLocate_windowAddr hi hpc hrow hlt

end Sys2Proof.Machine
end

section
/-!
PROOFS. Chapter 9: what stacks do by themselves: retirement, training, heat, refresh and zeroing.
-/
namespace Sys2Proof.Machine

/-! ## Runs of updates and dropped entries -/

/-- Entries dropped by their keys. -/
theorem Tab.get_filter {α : Type} [DecidableEq α] {d : α} {b : Option Nat} {t : Tab α} (q : Nat → Bool) (n : Nat)
    (h : Tab.wfFrom d b t = true) : Tab.get d (t.filter (fun c => q c.1)) n = if q n then Tab.get d t n else d := by
  induction t generalizing b with
  | nil => simp [Tab.get]
  | cons e t ih =>
    obtain ⟨k, v⟩ := e
    obtain ⟨-, -, ht⟩ := Tab.wfFrom_cons.mp h
    rw [List.filter_cons]
    by_cases hn : n = k
    · subst hn
      by_cases hq : q n = true <;> simp [Tab.get, hq, ih ht]
    · by_cases hlt : n < k
      · have hbelow : Tab.get d t n = d := Tab.get_below ht (Nat.le_of_lt hlt)
        by_cases hq : q k = true <;> simp [Tab.get, hn, hlt, hq, ih ht, hbelow]
      · by_cases hq : q k = true <;> simp [Tab.get, hn, hlt, hq, ih ht]

/-- A change made at several stacks that made twice is as made once. -/
theorem State.each_updStack_stack {s : State} {f : Stack → Stack} (hf : ∀ x, f (f x) = f x) (l : List Nat) (q : Nat)
    (h : Tab.wf {} s.stackTab = true) :
    (s.each l (fun t st => t.updStack st f)).stack q = if q ∈ l then f (s.stack q) else s.stack q := by
  induction l generalizing s with
  | nil => rfl
  | cons st l ih =>
    rw [State.each_cons, ih (Tab.wf_upd st f h), State.updStack_stack s st f q h]
    by_cases hst : q = st <;> by_cases hl : q ∈ l <;> simp [hst, hl, hf]

/-! ## Training, heat and refresh (R271, R282, R283, R285, R483) -/

section rows
variable {s : State} {st : StackId}

theorem execHbmRetrainStart_triggered {ch : Fin 16} {cause : RetrainCause} (hworks : (s.stack st).state = 2 ∨ (s.stack st).state = 3)
    (hidle : (s.stack st).retraining.has ch = false)
    (htrigger : (cause = .parity ∧
        32 ≤ ((Tab.get [] (s.stack st).parityTimes ch).filter (fun t => decide (s.now < t + 1000000))).length) ∨ cause = .margin ∨
      (cause = .temperature ∧
        (∃ t, Tab.get 0 (s.stack st).trainTemp ch = t + 1 ∧ (t + 15 ≤ (s.stack st).temp ∨ (s.stack st).temp + 15 ≤ t)))) :
    execHbmRetrainStart st ch cause s = .next (s.updStack st (fun x => { x with
      state := 3, retraining := x.retraining.add ch, retrains := sat 16 (x.retrains + 1) })) := by
  refine congrArg _ (if_pos ?_)
  rcases htrigger with ⟨rfl, hparity⟩ | rfl | ⟨rfl, t, htrained, hdrift⟩
  · simp [hworks, hidle, hparity]
  · simp [hworks, hidle]
  · simp [hworks, hidle, htrained, Nat.add_assoc, hdrift]

theorem execHbmRetrainDone_retrains {ch : Fin 16} {ok : Bool} {repaired : Nat} (hretrains : (s.stack st).retraining.has ch = true) :
    execHbmRetrainDone st ch ok repaired s = .next (if ok then s.updStack st (fun x => { x with
      retraining := x.retraining.del ch, state := if (x.retraining.del ch).isEmpty then 2 else 3
      repaired := sat 8 repaired
      parityTimes := Tab.put [] x.parityTimes ch [], trainTemp := Tab.put 0 x.trainTemp ch (x.temp + 1) })
      else failStack s st 1 0x0B) :=
  congrArg _ (if_neg (by rw [hretrains]; decide))

theorem execStackOvertemp_hot {t : Nat} (hsince : (s.stack st).hotSince = some t) (hlong : t + 1000000000 ≤ s.now)
    (hworks : (s.stack st).state = 2 ∨ (s.stack st).state = 3) : execStackOvertemp st s = .next (failStack s st 5 0x0E) := by
  simp [execStackOvertemp, hsince, hlong, hworks]

end rows

/-! ## Zeroing (R277) -/

/-- The stacks that HBM_ZERO_DONE makes ready: those that are trained. -/
def State.trainedStacks (s : State) : List Nat := s.part.stackList.filter (fun st => (s.stack st).state == 1)

theorem State.mem_trainedStacks {s : State} {st : Nat} :
    st ∈ s.trainedStacks ↔ s.part.stackPresent st = true ∧ st < 48 ∧ (s.stack st).state = 1 := by
  simp only [State.trainedStacks, Part.stackList, List.mem_filter, List.mem_range, beq_iff_eq]
  tauto

/-- The state with HBM as zeroing leaves it: no byte of a trained stack is listed, and no such word is faulty. -/
def State.zeroedHbm (s : State) : State :=
  let mine := fun (key : Nat) => s.trainedStacks.contains (key / sliceBytes / 32)
  ((s.setHbm (s.hbm.filter (fun c => !mine c.1))).setHbmUe (s.hbmUe.filter (fun w => !mine (w * 8)))).setHbmCe
    (s.hbmCe.filter (fun w => !mine (w * 8)))

/-- A stack whose zeros are written: ready, and in self-refresh. -/
def Stack.zeroed (x : Stack) : Stack := { x with state := 2, selfRefresh := true }

/-- The whole next state: every trained stack is ready, and no unit is held as lost in a move. -/
def State.zeroed (s : State) : State :=
  (s.zeroedHbm.each s.trainedStacks (fun t st => t.updStack st Stack.zeroed)).each (List.range 4) (fun t p =>
    t.updHub p (fun h => { h with lostUnits := [], healed := [] }))

theorem execHbmZeroDone_eq (s : State) : execHbmZeroDone s = .next s.zeroed := rfl

/-- What neither the stacks nor the hubs enter is as the zeroing of the bytes leaves it. -/
theorem State.zeroed_reading {β : Type} (s : State) (g : State → β) (hstack : ∀ t st f, g (t.updStack st f) = g t)
    (hhub : ∀ t p f, g (t.updHub p f) = g t) : g s.zeroed = g s.zeroedHbm :=
  (State.each_reading fun t p => hhub t p _).trans (State.each_reading fun t st => hstack t st _)

theorem State.zeroed_byte {s : State} (h : Tab.wf 0 s.hbm = true) (a : Nat) :
    Tab.get 0 s.zeroed.hbm a = if a / sliceBytes / 32 ∈ s.trainedStacks then 0 else Tab.get 0 s.hbm a := by
  rw [s.zeroed_reading State.hbm (fun _ _ _ => rfl) (fun _ _ _ => rfl)]
  refine (Tab.get_filter (fun k => !s.trainedStacks.contains (k / sliceBytes / 32)) a h).trans ?_
  by_cases hmem : a / sliceBytes / 32 ∈ s.trainedStacks <;> simp [hmem]

theorem State.zeroed_stack {s : State} {st : Nat} (h : Tab.wf {} s.stackTab = true) (hst : st ∈ s.trainedStacks) :
    s.zeroed.stack st = (s.stack st).zeroed :=
  (State.each_reading (g := fun t => t.stack st) fun t p => State.updHub_stack t p _ st).trans
    ((State.each_updStack_stack (s := s.zeroedHbm) (f := Stack.zeroed) (fun _ => rfl) _ st h).trans (if_pos hst))

/-- Settles O25: the guard of each row holds, and State.zeroed is what zeroing leaves. A first reading stands for the temperature of a
training before it (log entry 155). -/
theorem stacksKeepThemselves : Obligations.StacksKeepThemselves := by
  refine ⟨fun sl u n rest s hfirst hworks => ?retire, fun st ch cause s => execHbmRetrainStart_triggered,
    fun st ch repaired s hretrains => ⟨execHbmRetrainDone_retrains hretrains, execHbmRetrainDone_retrains hretrains⟩,
    fun st t s hthere => congrArg _ (if_neg hthere), fun st t s => execStackOvertemp_hot,
    fun st n s hthere hworks => congrArg _ (if_neg (by simp [hthere, hworks])),
    fun sl s hthere hworks hself => congrArg _ (if_neg (by simp [hthere, hworks, hself])), fun s hcanonical => ?zero⟩
  case retire =>
    have hexec : exec (.retireCopyDone sl) s = execRetireCopyDone sl s := rfl
    exact ⟨fun hnone => by simp only [hexec, execRetireCopyDone, hfirst, hworks, hnone, Bool.not_true, Bool.false_eq_true, if_false],
      fun p hp => by simp only [hexec, execRetireCopyDone, hfirst, hworks, hp, Bool.not_true, Bool.false_eq_true, if_false]⟩
  case zero =>
    have hcanon := (State.canonical_iff s).mp hcanonical
    have hkept {β : Type} (g : State → β) := s.zeroed_reading g
    refine ⟨s.zeroed, execHbmZeroDone_eq s, fun a => ?bytes, fun st hthere hst htrained => ?ready,
      hkept State.sram (fun _ _ _ => rfl) (fun _ _ _ => rfl), hkept State.cores (fun _ _ _ => rfl) (fun _ _ _ => rfl),
      hkept State.regions (fun _ _ _ => rfl) (fun _ _ _ => rfl)⟩
    case bytes => rw [State.zeroed_byte hcanon.hbm]; simp only [State.mem_trainedStacks]
    case ready => rw [State.zeroed_stack hcanon.stackTab (State.mem_trainedStacks.mpr ⟨hthere, hst, htrained⟩)]; rfl

end Sys2Proof.Machine
end

section
/-!
PROOFS. Chapter 9: the queue of a slice, and its reads, writes and atomics.
-/
namespace Sys2Proof.Machine

/-! ## The queue (R278) -/

/-- A slice's arbiter lets request i go: it leaves its router, and the arbiter's pointer stands past it. -/
def State.letGo (s : State) (i sl ptr : Nat) : State := (s.takePacket i).updSlice sl (fun x => { x with ptr := ptr })

section enqueue
variable {s : State} {i sl ptr : Nat} {p : Packet} (harr : s.arrived i [0, 1] [0, 1, 2, 3, 4, 5, 6] = some p)
  (hnode : nodeSlice p.loc = some sl) (hgrant : s.sliceGrant sl = some (i, ptr))
include harr hnode hgrant

theorem execSliceEnqueue_failed (hfailed : (s.stack (sl / 32)).state = 4) :
    execSliceEnqueue i s = .next ((s.letGo i sl ptr).send (p.ack 2)) := by
  simp [execSliceEnqueue, harr, hnode, hgrant, hfailed, State.letGo]

/-- A stack that is not trained, an opcode of no slice, and an address without a byte. -/
theorem execSliceEnqueue_unserved (hworks : (s.stack (sl / 32)).state ≠ 4)
    (hno : (s.stack (sl / 32)).state < 2 ∨ 4 ≤ p.opc ∨ s.sliceByte p.part p.addr = none) :
    execSliceEnqueue i s = .next ((s.letGo i sl ptr).send (p.ack 1)) := by
  have hbyte : (if (decide ((s.stack (sl / 32)).state < 2) || decide (4 ≤ p.opc)) = true then none else s.sliceByte p.part p.addr) = none := by
    rcases hno with h | h | h <;> simp [h]
  simp only [execSliceEnqueue, harr, hnode, hgrant, hworks, hbyte, ne_eq, not_true_eq_false, if_false, State.letGo]

section served
variable {x byte : Nat} (htrained : 2 ≤ (s.stack (sl / 32)).state) (hworks : (s.stack (sl / 32)).state ≠ 4) (hopc : p.opc < 4)
  (hbyte : s.sliceByte p.part p.addr = some (x, byte))
include htrained hworks hopc hbyte

theorem execSliceEnqueue_served : execSliceEnqueue i s = .next (
    if x ≠ sl then (s.letGo i sl ptr).send (p.ack 1) else if 64 ≤ (s.slice sl).queue.length then s
    else (s.letGo i sl ptr).updSlice sl (fun y => { y with queue := y.queue ++ [(p, byte)] })) := by
  simp [execSliceEnqueue, harr, hnode, hgrant, hworks, hbyte, Nat.not_lt.mpr htrained, Nat.not_le.mpr hopc, State.letGo]

end served
end enqueue

/-! ## The head of the queue (R279, R280, R284) -/

section head
variable {s : State} {sl : SliceId} {p : Packet} {byte : Nat}

section read
variable {ce : List Nat} {errs : SliceErrors} {r : State × List Nat} (hhead : s.sliceHead sl [0] = some (p, byte))
  (hr : readFinds (noteParity (popSlice s sl) sl errs.parity) p.part sl byte p.addr p.readLen ce errs.ue = r)
include hhead hr

theorem execSliceRead_clean (hclean : r.2 = []) : execSliceRead sl ce errs s =
    .next (r.1.send (({ p with loc := sliceNode sl } : Packet).rdata p.readOff (s.hbmBytes sl byte p.readLen))) := by
  simp [execSliceRead, hhead, hr, hclean]

theorem execSliceRead_faulty (hfaulty : r.2 ≠ []) : execSliceRead sl ce errs s =
    .next (countUe (r.1.send (p.ack 2)) (sl.val / 32) r.2.length) := by
  simp [execSliceRead, hhead, hr, hfaulty]

end read

section write
variable {f : SliceFinds} {w : State × List Nat} (hhead : s.sliceHead sl [1, 2] = some (p, byte))
  (hw : hbmWrite (partialFinds (noteParity (popSlice s sl) sl f.parity) p.part sl byte p.addr p.writeBytes.length false f.ce f.ue) sl byte
    p.writeBytes = w)
include hhead hw

theorem execSliceWrite_clean (hclean : w.2 = []) : execSliceWrite sl f s = .next (w.1.send (p.ack 0)) := by
  simp [execSliceWrite, hhead, hw, hclean]

theorem execSliceWrite_poisons (hfaulty : w.2 ≠ []) : execSliceWrite sl f s = .next (countUe ((w.1.updStack (sl.val / 32) (fun x =>
    { x with poisoned := sat 16 (x.poisoned + (w.2.map (· / 8)).dedup.length) })).send (p.ack 2)) (sl.val / 32) w.2.length) := by
  simp [execSliceWrite, hhead, hw, hfaulty]

end write

section atomic
variable {f : SliceFinds} {t : State} {old : Nat} (hhead : s.sliceHead sl [3] = some (p, byte))
  (ht : partialFinds (noteParity (popSlice s sl) sl f.parity) p.part sl (byte / 8 * 8) (p.addr / 8 * 8) 8 true f.ce f.ue = t)
include hhead ht

theorem execSliceAtom_faulty (hfaulty : t.hbmBad (hbmKey s sl (byte / 8 * 8) / 8) = true) :
    execSliceAtom sl f s = .next (countUe (t.send (adata p 2 0)) (sl.val / 32) 1) := by
  simp [execSliceAtom, hhead, ht, hfaulty]

variable (hold : natLE (s.hbmBytes sl (byte / 8 * 8) 8) = old) (hgood : t.hbmBad (hbmKey s sl (byte / 8 * 8) / 8) = false)
include hold hgood

theorem execSliceAtom_writes {v : Nat}
    (hnew : atomResult (p.aux % 16) old (natLE (p.payload.take 8)) (natLE (slice p.payload 8 8)) = some v) :
    execSliceAtom sl f s = .next ((hbmWrite t sl (byte / 8 * 8) (bytesLE 8 v)).1.send (adata p 0 old)) := by
  simp [execSliceAtom, hhead, ht, hgood, hold, hnew]

theorem execSliceAtom_reserved (hnew : atomResult (p.aux % 16) old (natLE (p.payload.take 8)) (natLE (slice p.payload 8 8)) = none) :
    execSliceAtom sl f s = .next (t.send (adata p 1 old)) := by
  simp [execSliceAtom, hhead, ht, hgood, hold, hnew]

end atomic
end head

/-- Settles O24: where a request at an edge unit goes, and what the head of the queue does once decoding has found what it finds. -/
theorem slicesServeRequests : Obligations.SlicesServeRequests := by
  refine ⟨fun i p sl ptr s harr hnode hgrant => ?enqueue,
    fun sl ce errs p byte s hhead => ⟨execSliceRead_clean hhead rfl, execSliceRead_faulty hhead rfl⟩,
    fun sl f p byte s hhead => ⟨execSliceWrite_clean hhead rfl, execSliceWrite_poisons hhead rfl⟩,
    fun sl f p byte s hhead => ⟨fun v hgood => execSliceAtom_writes hhead rfl rfl hgood, execSliceAtom_reserved hhead rfl rfl,
      execSliceAtom_faulty hhead rfl⟩⟩
  case enqueue =>
    have hunserved := execSliceEnqueue_unserved harr hnode hgrant
    refine ⟨execSliceEnqueue_failed harr hnode hgrant, fun huntrained => hunserved (by omega) (.inl huntrained),
      fun hworks hno => hunserved hworks (.inr hno), fun x byte htrained hworks hopc hbyte => ?_⟩
    have hserved : exec (.sliceEnqueue i) s = _ := execSliceEnqueue_served harr hnode hgrant htrained hworks hopc hbyte
    refine ⟨fun helse => ?elsewhere, fun hown hroom => ?takes, fun hown hfull => ?full⟩
    case elsewhere => rw [hserved, if_pos helse]; rfl
    case takes => rw [hserved, if_neg (not_not_intro hown), if_neg (Nat.not_le.mpr hroom)]; rfl
    case full => rw [hserved, if_neg (not_not_intro hown), if_pos hfull]

end Sys2Proof.Machine
end

section
/-!
PROOFS. Chapters 9 and 13: the scrubber's reads, and the records that a partition's log takes.
-/
namespace Sys2Proof.Machine

section log
variable {h : HubId} {rc : FaultRec} {rest : List FaultRec} {s : State} (hinbox : (s.hub h).inbox = rc :: rest)
include hinbox

theorem execFaultRecordAppend_full (hfull : (s.hub h).pending = 256) : execFaultRecordAppend h s =
    .next ((s.updHub h (fun x => { x with inbox := rest })).updHub h (fun x => { x with lost := sat 16 (x.lost + 1) })) := by
  simp only [execFaultRecordAppend, hinbox, hfull, if_true]

/-- The host is told when the first record comes to stand in the log. -/
theorem execFaultRecordAppend_room {t : State} (hroom : (s.hub h).pending < 256)
    (ht : (s.updHub h (fun x => { x with inbox := rest })).updHub h (fun x => { x with
      log := Tab.insert rc x.log x.logWr, logWr := (x.logWr + 1) % 256, pending := x.pending + 1 }) = t) :
    execFaultRecordAppend h s = .next (if (s.hub h).pending = 0 then raiseEvt t h 0 else t) := by
  simp only [execFaultRecordAppend, hinbox, Nat.ne_of_lt hroom, if_false, ht]

end log

/-- Settles O26: the scrubber's region runs, and the log is full or has room. -/
theorem scrubberAndLogComplete : Obligations.ScrubberAndLogComplete :=
  ⟨fun k line ce ue pass s hrun => congrArg Host.Outcome.next (if_neg (by rw [hrun]; decide)),
    fun h rc rest s hinbox hroom => execFaultRecordAppend_room hinbox hroom rfl,
    fun h rc rest s => execFaultRecordAppend_full⟩

end Sys2Proof.Machine
end

section
/-!
PROOFS. Chapter 10: faults of the supply, path resistance and the re-enabling of shorted units, and admission of new load.
-/
namespace Sys2Proof.Machine

/-! ## Stage A (R292 to R294) -/

/-- The converters that have failed, once n is among them. -/
def State.failedWith (s : State) (n : Fin 20) : Nat := bitCount (s.power.failed + 2 ^ n.val) 20

/-- Converter n is marked as failed and recorded (R293). -/
def converterLost (s : State) (n : Fin 20) : State :=
  hubRecord (s.updPower (fun p => { p with
    failed := s.power.failed + 2 ^ n.val, converters := s.failedWith n, limited := decide (3 ≤ s.failedWith n) })) (panelRec s 0x0B 0 0 0)

section stageA
variable {s : State} (ha : s.supply.stageA = true)

include ha

theorem execStageaConverterFail_works {n : Fin 20} (hworks : s.power.failed.testBit n = false) : execStageaConverterFail n s = .next (
    if 9 ≤ s.failedWith n then orderedStop (if s.failedWith n = 3 then raiseAll (converterLost s n) 3 else converterLost s n) 6
    else if s.failedWith n = 3 then raiseAll (converterLost s n) 3 else converterLost s n) :=
  congrArg _ (if_pos (by rw [ha, hworks]; rfl))

theorem execInputOvervoltage_on : execInputOvervoltage s = .next (removeStageA s false) := congrArg _ (if_pos ha)

end stageA

/-- Stage A goes without FAULT_N being held by what removes it. -/
theorem removeStageA_supply (s : State) :
    (removeStageA s false).supply = { s.supply with stageA := false, pg := false, booted := false } :=
  congrArg (fun fault => { s.supply with stageA := false, pg := false, booted := false, faultN := fault }) (Bool.or_false _)

/-! ## Phases and rails (R298, R302) -/

section phased
variable {r : PRegion} {s : State} (hon : s.phased r = true)
include hon

theorem execPhaseFail_good {n : Fin 8} (hgood : (s.region r).phaseFail.toNat.testBit n = false) :
    let s1 := s.updRegion r (fun x => { x with phaseFail := x.phaseFail ||| BitVec.ofNat 8 (2 ^ n.val) })
    execPhaseFail r n s = .next (if ((s.region r).phaseFail == 0) = true then
      coxRecord s1 (r.val / 4) (siteRec s1 (r.val / 4) 0x0B 0 ((s1.logicalRegion r).getD 0) 0) else darken s1 r 1 0x06) :=
  congrArg _ (if_pos (by rw [hon, hgood]; rfl))

theorem execSensorLoss_phased {valid : BitVec 6} :
    let s1 := s.updRegion r (fun x => { x with sensors := valid })
    execSensorLoss r valid s = .next (if bitCount (s1.region r).sensors.toNat 6 < 3 then darken s1 r 4 0 else s1) :=
  congrArg _ (if_pos hon)

end phased

/-- Settles O27: a converter by how many have failed with it, the input, and a region's phases, rail and sensors. -/
theorem supplyFaultsActAsStated : Obligations.SupplyFaultsActAsStated := by
  refine ⟨?converter, fun s ha => congrArg Host.Outcome.next (if_pos ha), ?overvoltage, ?phase,
    fun r s hon => ⟨congrArg Host.Outcome.next (if_pos hon), congrArg Host.Outcome.next (if_pos hon)⟩, ?sensors⟩
  case converter =>
    intro n s ha hworks f s2
    have heq : exec (.stageaConverterFail n) s = .next (if 9 ≤ f then orderedStop (if f = 3 then raiseAll s2 3 else s2) 6
      else if f = 3 then raiseAll s2 3 else s2) := execStageaConverterFail_works ha hworks
    refine ⟨fun hfew => ?few, fun hthird => ?third, fun hmore hfew => ?more, fun hnine => ?nine⟩
    case few => rw [heq, if_neg (by omega), if_neg (by omega)]
    case third => rw [heq, if_neg (by omega), if_pos hthird]
    case more => rw [heq, if_neg (by omega), if_neg (by omega)]
    case nine => rw [heq, if_pos hnine, if_neg (by omega)]
  case overvoltage =>
    intro s ha
    exact ⟨removeStageA s false, execInputOvervoltage_on ha, removeStageA_supply s, rfl, rfl, rfl, rfl, rfl, rfl, rfl, rfl, rfl, rfl, rfl,
      rfl, rfl, rfl, rfl, rfl⟩
  case phase =>
    intro r n s hon hgood
    have heq := execPhaseFail_good hon hgood
    exact ⟨fun hfirst => heq.trans (congrArg _ (if_pos (beq_iff_eq.mpr hfirst))),
      fun hother => heq.trans (congrArg _ (if_neg (mt beq_iff_eq.mp hother)))⟩
  case sensors =>
    intro r valid s hon
    have heq := execSensorLoss_phased hon (valid := valid)
    exact ⟨fun henough => heq.trans (congrArg _ (if_neg (Nat.not_lt.mpr henough))), fun hfew => heq.trans (congrArg _ (if_pos hfew))⟩

/-! ## Path resistance and re-enabling (R301, R303) -/

/-- A test that has run its 1 ms is the oldest, and ends. -/
theorem execReenTestDone_due {short : Bool} {kind u t : Nat} {rest : List (Nat × Nat × Nat)} {s : State}
    (hrun : s.power.reenRun = (kind, u, t) :: rest) (hdue : t + 1000000 ≤ s.now) :
    let newest := s.power.reenKind == kind && s.reenUnit kind s.power.reenId == u
    let s1 := s.updPower (fun p => { p with reenRun := rest, reenResult := if newest then (if short then 3 else 2) else p.reenResult })
    execReenTestDone short s = .next (if short then s1 else resolveShort (repower s1 kind u) kind u) := by
  simp only [execReenTestDone, hrun, if_neg (Nat.not_lt.mpr hdue)]

/-- Settles O29: the record of R301 is due at the first estimate above 25 percent, and R303's tests begin and end. -/
theorem pathResistanceAndReenable : Obligations.PathResistanceAndReenable := by
  refine ⟨?estimates, ?test, fun short kind u t rest s => execReenTestDone_due⟩
  case estimates =>
    intro r ests s hon hfence x kept base excess above high s1 s2
    have hrec : (if (above 25 && !x.pathFlag) = true then
        coxRecord s1 (r.val / 4) (siteRec s1 (r.val / 4) 0x0B 0 ((s1.logicalRegion r).getD 0) 0) else s1) = s2 :=
      if_congr (by rw [Bool.and_eq_true, Bool.not_eq_true']) rfl rfl
    have hlive : (s.phased r && !(s.region r).fenced) = true := by rw [hon, hfence]; rfl
    exact congrArg Host.Outcome.next ((if_pos hlive).trans (congrArg (fun t => if high = 100 then darken t r 5 0x08 else t) hrec))
  case test =>
    intro p data s kind id u hpart hshort hdone
    exact congrArg Host.Outcome.next (if_pos ⟨hpart, hshort, Bool.eq_false_iff.mp hdone⟩)

/-! ## Admission (R304 to R309) -/

/-- The grant q has reached region r: it leaves the manager's list, and the region notes its window. -/
def takeGrant (s : State) (r : PRegion) (q : PowReq) : State :=
  (s.updPower (fun p => { p with granted := p.granted.filter (fun x => x.region != r.val) })).updRegion r (fun x =>
    { x with grantAt := some q.since })

section grant
variable {r : PRegion} {q : PowReq} {s : State}
  (hq : s.power.granted.find? (fun q => q.region == r.val && decide (q.since + 2000 ≤ s.now)) = some q)

include hq

theorem execPowerGrant_crewStart (hkind : q.kind = .crewStart) : execPowerGrant r s =
    .next (startCores (startRamp ((takeGrant s r q).updRegion r (fun x => { x with startDue := false })) r) r) := by
  simp only [execPowerGrant, hq, hkind]; rfl

theorem execPowerGrant_wake (hkind : q.kind = .wake) : execPowerGrant r s = .next (takeGrant s r q) := by
  simp only [execPowerGrant, hq, hkind]; rfl

theorem execPowerGrant_powerOn (hkind : q.kind = .powerOn) : execPowerGrant r s =
    .next ((takeGrant s r q).updRegion r (fun x => { x with pstate := 2, vset := vsetOf x.op, sensors := 0x3F })) := by
  simp only [execPowerGrant, hq, hkind]; rfl

end grant

section clock
variable {r : PRegion} {s : State} (hramp : (s.region r).pstate = 2)
include hramp

/-- The rail of a granted region stands at its setpoint (R308 steps 5 and 6). -/
theorem execPllLock_settled {t : Nat} (hgrant : (s.region r).grantAt = some t) (hoff : (s.region r).clock = .off)
    (hfence : (s.region r).fenced = false) (hrail : t + 2000 + railMv (s.region r).vset * 20 ≤ s.now) : execPllLock r s =
    .next (startRamp (s.updRegion r (fun x => { x with
      clock := .running, count := (s.cox (r.val / 4)).count, acted := (s.cox (r.val / 4)).count })) r) := by
  simp only [execPllLock, hgrant]
  exact congrArg _ (if_pos (by rw [hramp, hoff, hfence, decide_eq_true hrail]; rfl))

theorem execRampDone_running (hrun : (s.region r).clock = .running) : execRampDone r s =
    .next (setRatio (s.updRegion r (fun x => { x with pstate := 3, ramping := false, rampR := 0, finalCur := 0, grantAt := none })) r) :=
  congrArg _ (if_pos (by rw [hramp, hrun]; rfl))

end clock

/-- Settles O30, in the order of R308: request, window, grant by its kind, clock, end of the ramp; then the records. -/
theorem admissionOfLoadCompletes : Obligations.AdmissionOfLoadCompletes := by
  refine ⟨fun r kind final present s hmay => congrArg Host.Outcome.next (if_pos hmay), ?window, ?grant,
    fun r t s hgrant hramp hoff hfence hrail => execPllLock_settled hramp hgrant hoff hfence hrail,
    fun r s => execRampDone_running, fun t s ha => congrArg Host.Outcome.next (if_pos ha)⟩
  case window =>
    intro s hman hnew
    exact congrArg Host.Outcome.next (if_pos (by rw [hman, decide_eq_true hnew]; rfl))
  case grant =>
    intro r q s hq
    exact ⟨execPowerGrant_crewStart hq, execPowerGrant_wake hq, execPowerGrant_powerOn hq⟩

end Sys2Proof.Machine
end

section
/-!
PROOFS. Chapter 11: caps, idle depths, heat and coolant; what only the host sees of a command.
-/
namespace Sys2Proof.Machine

/-! ## What only the host sees -/

/-- The second state differs from the first in the registers of the hubs and in what was sent outside, and in nothing else. -/
def HostSide (s t : State) : Prop := t = { s with hubs := t.hubs, out := t.out }

namespace HostSide
variable {s t u : State}

theorem refl (s : State) : HostSide s s := rfl

theorem trans (h : HostSide s t) (g : HostSide t u) : HostSide s u := by
  unfold HostSide at h g ⊢
  rw [g, h]

theorem updHub (h : HostSide s t) (p : Nat) (f : Hub → Hub) : HostSide s (t.updHub p f) := h.trans rfl

theorem emit (h : HostSide s t) (o : Out) : HostSide s (t.emit o) := h.trans rfl

theorem each {α : Type} {l : List α} {f : State → α → State} (hf : ∀ t x, HostSide t (f t x)) : HostSide s (s.each l f) :=
  State.each_keeps (P := HostSide s) (fun t x ht => ht.trans (hf t x)) (refl s)

theorem ite {c : Prop} [Decidable c] (ht : HostSide s t) (hu : HostSide s u) : HostSide s (if c then t else u) := by
  split
  · exact ht
  · exact hu

/-- A reading of the state without its hubs and without what was sent is the same. -/
theorem reading {β : Type} {g : State → β} (h : HostSide s t)
    (hg : ∀ (u : State) hubs out, g { u with hubs := hubs, out := out } = g u) : g t = g s := by
  rw [h, hg]

end HostSide

theorem msixSend_hostSide (s : State) (p n : Nat) : HostSide s (msixSend s p n) := by
  simp only [msixSend]; split <;> rfl

theorem raiseEvt_hostSide (s : State) (p n : Nat) : HostSide s (raiseEvt s p n) := by
  unfold raiseEvt
  split
  · exact HostSide.refl s
  · exact ((HostSide.refl s).updHub p _).trans (msixSend_hostSide _ p _)

theorem raiseAll_hostSide (s : State) (n : Nat) : HostSide s (raiseAll s n) := HostSide.each fun t p => raiseEvt_hostSide t p n

theorem hubRecord_hostSide (s : State) (rec : FaultRec) : HostSide s (hubRecord s rec) := HostSide.each fun t h => (HostSide.refl t).updHub h _

theorem secRecord_hostSide (s : State) (event unit : Nat) : HostSide s (secRecord s event unit) :=
  (hubRecord_hostSide s _).trans (raiseAll_hostSide _ 7)

/-! ## Local limits and idle depths (R314, R325, R326) -/

section idle
variable {r : PRegion} {s : State}

theorem execLocalLimit_over {cur : Nat} (hv : (s.region r).vset ≠ 0) (hf : (s.region r).fenced = false) (hlim : (s.region r).limit < cur) :
    let s1 := s.updRegion r (fun y => { y with localR := ratioRule y.localR cur (s.region r).limit })
    execLocalLimit r cur s = .next (match (s.region r).assign with
      | some a => applyRatio s1 a.part a.crew
      | none => s1) :=
  congrArg Host.Outcome.next (if_pos (by simp [hv, hf, hlim]))

theorem execIdleClockGate_quiet (hq : s.regionQuiet r = true) (hp : s.packetWaits r = false) (hd : (s.region r).depth = 0)
    (ha : (s.region r).assign.isSome = true) (hmay : 1 ≤ s.allowedDepth r) :
    execIdleClockGate r s = .next (s.updRegion r (fun x => { x with depth := 1, idleSince := some s.now })) :=
  congrArg Host.Outcome.next (if_pos (by simp [hq, hp, hd, ha, hmay]))

/-- A region that has been idle since t goes one depth down when its layout allows it and the time of that depth is over. -/
theorem deeper_due {t depth ns : Nat} (hs : (s.region r).idleSince = some t) (hq : s.regionQuiet r = true) (hp : s.packetWaits r = false)
    (hw : (s.region r).waking = false) (hd : (s.region r).depth + 1 = depth) (hmay : depth ≤ s.allowedDepth r) (ht : t + ns ≤ s.now) :
    deeper s r depth ns = s.updRegion r (fun x => { x with depth := depth }) := by
  simp only [deeper, hs]
  exact if_pos (by simp [hq, hp, hw, hd, hmay, ht])

/-- The partition that region r is assigned to has stopped in order. -/
def State.crewStopped (s : State) (r : Nat) : Bool :=
  match (s.region r).assign with
  | some a => s.partStopped a.part
  | none => false

theorem State.crewStopped_eq_false (ha : ∀ a, (s.region r).assign = some a → s.partStopped a.part = false) : s.crewStopped r = false := by
  unfold State.crewStopped
  split
  · next a h => exact ha a h
  · rfl

theorem execRegionWake_caused (hd : (s.region r).depth ≠ 0) (hw : (s.region r).waking = false) (hf : (s.region r).fenced = false)
    (hs : s.panelStopped = false) (ha : ∀ a, (s.region r).assign = some a → s.partStopped a.part = false)
    (hcause : s.packetWaits r = true ∨ (s.region r).wakeReq = true ∨ (s.region r).startDue = true ∨ s.strokeNear r s.stroke.period = true) :
    execRegionWake r s = .next (s.updRegion r (fun y => { y with
      waking := true, wakeReq := false, grantAt := if y.depth = 1 then some s.now else none })) := by
  have hguard : ((s.region r).depth != 0 && !(s.region r).waking && !(s.region r).fenced && !(s.panelStopped || s.crewStopped r)
      && (s.packetWaits r || (s.region r).wakeReq || (s.region r).startDue || s.strokeNear r s.stroke.period)) = true := by
    simp [hd, hw, hf, hs, State.crewStopped_eq_false ha, or_assoc, hcause]
  exact congrArg Host.Outcome.next (if_pos hguard)

theorem execWakeDone_due {t : Nat} (hg : (s.region r).grantAt = some t) (hw : (s.region r).waking = true) (hd : (s.region r).depth ≠ 0)
    (ht : t + (if (s.region r).depth = 3 then 120000 else if (s.region r).depth = 2 then 8000 else 100) ≤ s.now) :
    let s1 := s.updRegion r (fun y => { y with
      count := (s.cox (r.val / 4)).count, depth := 0, waking := false, idleSince := none
      wakes := if (s.region r).depth = 1 then y.wakes else sat 16 (y.wakes + 1), grantAt := none })
    let s2 := if (s.region r).depth = 1 then s1 else startRamp s1 r
    execWakeDone r s = .next (s2.each ((regionCores r).filter (fun k => (s2.core k).mode == .running)) (fun t k => catchAt t k none)) := by
  simp only [execWakeDone, hg]
  exact congrArg Host.Outcome.next (if_pos (by simp [hw, hd, ht]))

end idle

theorem execThermalPredict_managed {rp : List (PRegion × Int)} {sp : List (StackId × Int)} {s : State} (hm : s.managed = true) :
    let s1 := s.each rp (fun t x => t.updRegion x.1 (fun r => { r with pred := x.2 }))
    let s2 := s1.each sp (fun t x => t.updStack x.1 (fun r => { r with pred := x.2 }))
    execThermalPredict rp sp s = .next (if s2.panelStopped then s2 else tightenHeat s2) :=
  congrArg Host.Outcome.next (if_pos hm)

/-! ## Cap epochs (R315, R318 to R324) -/

/-- A cap epoch falls on this stroke: the manager runs, the panel has not stopped, and the epoch has not been taken yet. -/
structure State.EpochDue (s : State) : Prop where
  managed : s.managed = true
  running : s.stroke.running = true
  goesOn : s.panelStopped = false
  stroke : s.stroke.count % s.stroke.epoch = 0
  fresh : s.power.lastEpoch < s.stroke.count ∨ s.power.epochs = 0

theorem State.EpochDue.guard {s : State} (h : s.EpochDue) : (s.managed && s.stroke.running && !s.panelStopped
    && s.stroke.count % s.stroke.epoch == 0 && (decide (s.power.lastEpoch < s.stroke.count) || s.power.epochs == 0)) = true := by
  simp [h.managed, h.running, h.goesOn, h.stroke, h.fresh]

/-- Caps that come into force leave every layout in force as it is. -/
theorem each_latchCap_layoutOf {s : State} (ps : List Nat) (hwf : Tab.wf {} s.hubs = true) (q : Nat) :
    (s.each ps latchCap).layoutOf q = s.layoutOf q := by
  refine (State.each_keeps (P := fun t => Tab.wf {} t.hubs = true ∧ t.layoutOf q = s.layoutOf q) (fun t p ht =>
    ⟨Tab.wf_upd p (fun h => { h with capNow := h.pcap }) ht.1, ?_⟩) ⟨hwf, rfl⟩).2
  rw [← ht.2, State.layoutOf, latchCap, State.updHub_hub t p _ q ht.1]
  split
  · next h => rw [h]; rfl
  · rfl

/-- Settles O32: the guard holds, and the rest is the command's own text. -/
theorem capEpochPostsEveryComponent : Obligations.CapEpochPostsEveryComponent :=
  fun _ hm hr hg hs hf => congrArg Host.Outcome.next (if_pos (State.EpochDue.mk hm hr hg hs hf).guard)

/-- Settles O31, in the order of the commands. With no partition formed an epoch posts at none of them. -/
theorem capsAndIdleDepthsComplete : Obligations.CapsAndIdleDepthsComplete := by
  refine ⟨fun r cur s => execLocalLimit_over, fun r s => execIdleClockGate_quiet, fun r t s hs hq hp hw => ⟨fun hd hmay ht => ?retention,
    fun hd hmay ht => ?off⟩, fun r s => execRegionWake_caused, fun r t s => execWakeDone_due, fun rp sp s => execThermalPredict_managed, ?epoch⟩
  case retention => exact congrArg Host.Outcome.next (deeper_due hs hq hp hw (congrArg (· + 1) hd) hmay ht)
  case off => exact congrArg Host.Outcome.next (deeper_due hs hq hp hw (congrArg (· + 1) hd) hmay ht)
  case epoch =>
    intro s hc hm hr hg hs hf hnone mayRelax s2
    have hformed : (List.range 4).filter (fun p => (s2.layoutOf p).isSome && !s2.partStopped p) = [] := by
      refine List.filter_eq_nil_iff.mpr fun p hp => ?_
      have hlay : s2.layoutOf p = none :=
        (each_latchCap_layoutOf (s := s.updPower _) _ ((State.canonical_iff s).mp hc).hubs p).trans (hnone p (List.mem_range.mp hp))
      simp [hlay]
    refine (capEpochPostsEveryComponent s hm hr hg hs hf).trans ?_
    simp only [s2, mayRelax] at hformed ⊢
    rw [hformed]
    rfl

/-! ## Heat (R328, R329) -/

/-- The fence at 113 °C waits for one region of the die that has been as hot for 1 ms. -/
theorem execThermalFence113_held {site : SiteId} {r t : Nat} {s : State} (htrip : s.trips site = true) (hnot : s.heatFenced site = false)
    (hr : r ∈ siteRegions site) (hhot : (s.region r).hot113 = some t) (ht : t + 1000000 ≤ s.now) :
    execThermalFence113 site s = .next (heatFence s site) := by
  have hany : (siteRegions site).any (fun r => match (s.region r).hot113 with
      | some t => decide (t + 1000000 ≤ s.now)
      | none => false) = true :=
    List.any_eq_true.mpr ⟨r, hr, by simp [hhot, ht]⟩
  exact congrArg Host.Outcome.next (if_pos (by rw [htrip, hnot]; exact hany))

/-! ## Coolant samples (R332, R335, R339) -/

section coolant
variable {c0 : Coolant} {s : State} (ha : s.supply.stageA = true)
include ha

theorem execCoolantSample_noLeak (h : c0.leak = false ∨ s.cool.leak = true) : execCoolantSample c0 s =
    .next ((takeSample (s.calibrated c0) s).updCool (fun x => { x with leak := c0.leak })) := by
  refine congrArg Host.Outcome.next ((if_pos (by simp [ha])).trans (if_neg ?_))
  rcases h with h | h <;> simp [h]

theorem execCoolantSample_leak (h : c0.leak = true) (hnew : s.cool.leak = false) :
    execCoolantSample c0 s = .next (leakFound (takeSample (s.calibrated c0) s)) :=
  congrArg Host.Outcome.next ((if_pos (by simp [ha])).trans (if_pos (by simp [h, hnew])))

end coolant

/-- What a sample shows with stage A, before its events. -/
def State.sampled (s : State) (c : Coolant) : State :=
  let since := fun (b : Bool) (t : Option Nat) => if b then some (t.getD s.now) else none
  s.updCool (fun x => { x with
    sampled := true, flow := c.flow, dp := c.dp, outlet := c.outlet, inlet := c.inlet
    alert80 := flowBelow c.flow c.inlet 8, alert60 := flowBelow c.flow c.inlet 6, inletHigh := decide (400 < c.inlet)
    dpHist := x.dpHist.filter (fun h => decide (s.now ≤ h.1 + 1000000000)) ++ [(s.now, c.dp)]
    lowSince := since (flowBelow c.flow c.inlet 4) x.lowSince, hotSince := since (decide (450 ≤ c.inlet)) x.hotSince })

theorem takeSample_hostSide {c : Coolant} {s : State} (ha : s.supply.stageA = true) : HostSide (s.sampled c) (takeSample c s) := by
  rw [takeSample, if_pos ha]
  exact HostSide.ite (HostSide.refl _) ((HostSide.ite (hubRecord_hostSide _ _) (HostSide.refl _)).trans (raiseAll_hostSide _ 3))

/-- A condition that has held since t for 1 s. -/
theorem heldSecond_of_le {s : State} {t : Nat} {u : Option Nat} (hu : u = some t) (ht : t + 1000000000 ≤ s.now) : heldSecond s u = true := by
  rw [hu]; exact decide_eq_true ht

/-! ## Loss of stage A (R334, R335) -/

theorem execSupervisorCheck_rises {before after : List Int} {t : Nat} {s : State} (hstop : s.cool.stopAt = some t) (ha : s.supply.stageA = true)
    (ht : t + 2000000000 ≤ s.now) (hrise : (before.zip after).any (fun x => decide (x.1 < x.2)) = true) :
    execSupervisorCheck before after s = .next (removeStageA s true) := by
  simp only [execSupervisorCheck, hstop]
  exact congrArg Host.Outcome.next (if_pos (by rw [ha, decide_eq_true ht, hrise]; rfl))

theorem execLeakPowerOff_due {t : Nat} {s : State} (hleak : s.cool.leakAt = some t) (ha : s.supply.stageA = true)
    (ht : t + 500000000 ≤ s.now) : execLeakPowerOff s = .next (removeStageA s true) := by
  simp only [execLeakPowerOff, hleak]
  exact congrArg Host.Outcome.next (if_pos (by rw [ha, decide_eq_true ht]; rfl))

/-- The partitions whose drain ends now (R333 step 5). -/
def State.drainsEnded (s : State) : State := s.each ((List.range 4).filter (fun p => match (s.hub p).stopping with
  | some t => s.drainedNow p || decide (t + 1000000 ≤ s.now)
  | none => false)) stopEnds

/-- With the last partition of a panel stop every other region is to go off, and the stacks enter self refresh. -/
theorem execOrderedStopDrain_eq (s : State) :
    let s2 := switchOff s.drainsEnded (s.drainsEnded.regions.map (·.1))
    execOrderedStopDrain s = .next (
      if s.drainsEnded.panelStopped && !s.drainsEnded.cool.drained && (List.range 4).all (fun p => (s.drainsEnded.hub p).stopping.isNone) then
        (s2.each (s2.stackTab.map (·.1)) (fun t st => t.updStack st (fun x => { x with selfRefresh := true }))).updCool (fun c => { c with
          drained := true })
      else s.drainsEnded) := rfl

theorem execOrderedStopDrain_panelRuns {s : State} (h : s.drainsEnded.panelStopped = false) : execOrderedStopDrain s = .next s.drainsEnded :=
  (execOrderedStopDrain_eq s).trans (congrArg Host.Outcome.next (if_neg (by rw [h]; exact Bool.false_ne_true)))

theorem execOrderedStopDrain_last {s : State} (h : s.drainsEnded.panelStopped = true) (hd : s.drainsEnded.cool.drained = false)
    (hall : ∀ p, p < 4 → (s.drainsEnded.hub p).stopping = none) :
    let s2 := switchOff s.drainsEnded (s.drainsEnded.regions.map (·.1))
    execOrderedStopDrain s = .next ((s2.each (s2.stackTab.map (·.1)) (fun t st => t.updStack st (fun x => { x with
      selfRefresh := true }))).updCool (fun c => { c with drained := true })) := by
  have hnone : (List.range 4).all (fun p => (s.drainsEnded.hub p).stopping.isNone) = true :=
    List.all_eq_true.mpr fun p hp => by rw [hall p (List.mem_range.mp hp)]; rfl
  exact (execOrderedStopDrain_eq s).trans (congrArg Host.Outcome.next (if_pos (by rw [h, hd]; exact hnone)))

/-- Settles O33, in the order of the commands. -/
theorem thermalAndCoolantCommandsComplete : Obligations.ThermalAndCoolantCommandsComplete := by
  refine ⟨fun site h a0 b0 pred s hlive => congrArg Host.Outcome.next (if_pos hlive), fun site r t s => execThermalFence113_held,
    fun site s htrip hnot => congrArg Host.Outcome.next (if_pos (by rw [htrip, hnot]; rfl)), ?sample, fun c0 s => execCoolantSample_leak,
    fun t s ha hlow ht => congrArg Host.Outcome.next (if_pos (by rw [ha, heldSecond_of_le hlow ht]; rfl)),
    fun t s ha hhot ht => congrArg Host.Outcome.next (if_pos (by rw [ha, heldSecond_of_le hhot ht]; rfl)),
    fun s ha hfall => congrArg Host.Outcome.next (if_pos (by rw [ha, hfall]; rfl)),
    fun s => ⟨execOrderedStopDrain_panelRuns, execOrderedStopDrain_last⟩, fun before after t s => execSupervisorCheck_rises,
    fun s ha => congrArg Host.Outcome.next (if_pos ha), fun t s => execLeakPowerOff_due,
    fun s ha hdone => congrArg Host.Outcome.next (if_pos (by rw [ha, decide_eq_true hdone]; rfl))⟩
  case sample =>
    intro c0 s ha hleak
    have hside := takeSample_hostSide (c := s.calibrated c0) ha
    have hcool : (takeSample (s.calibrated c0) s).cool = (s.sampled (s.calibrated c0)).cool := hside.reading fun _ _ _ => rfl
    exact ⟨_, execCoolantSample_noLeak ha hleak, congrArg Cooling.sampled hcool, congrArg Cooling.flow hcool, congrArg Cooling.dp hcool,
      congrArg Cooling.outlet hcool, congrArg Cooling.inlet hcool, congrArg Cooling.alert80 hcool, congrArg Cooling.alert60 hcool,
      congrArg Cooling.inletHigh hcool, rfl, hside.reading (g := State.regions) fun _ _ _ => rfl,
      hside.reading (g := State.cores) fun _ _ _ => rfl, hside.reading (g := State.power) fun _ _ _ => rfl⟩

end Sys2Proof.Machine
end

section
/-!
PROOFS. Chapter 12: the order of the bring-up steps, WAVES to READY, the end of a step, and recovery.
-/
namespace Sys2Proof.Machine

/-! ## Steps out of order (R342, R344) -/

section answer
variable {p n : Nat} {s : State}

theorem takeStep_notLive (f : State → State) (h : s.portLive p = false) : takeStep s p n f = s := if_pos (by rw [h]; rfl)

theorem takeStep_ignored (f : State → State) (h : s.stepAnswer p n = 0) : takeStep s p n f = s := by
  unfold takeStep
  split
  · rfl
  · rw [h]; rfl

theorem takeStep_refused (f : State → State) (hlive : s.portLive p = true) (h : s.stepAnswer p n = 2) :
    takeStep s p n f = s.updBring (fun b => { b with errCode := 1, errStep := n, errPort := p, errDetail := 0 }) := by
  rw [takeStep, hlive, if_neg (by decide), h]
  rfl

theorem takeStep_taken (f : State → State) (hlive : s.portLive p = true) (h : s.stepAnswer p n = 1) : takeStep s p n f = f (s.runStep p n) := by
  rw [takeStep, hlive, if_neg (by decide), h]
  rfl

theorem State.stepAnswer_done (h7 : n ≤ 7) (hd : n ≤ s.bring.done) : s.stepAnswer p n = 0 := by
  simp only [State.stepAnswer, h7, hd]
  split <;> rfl

/-- A write that is neither of the running step nor of one done is judged by its place in the order. -/
theorem State.stepAnswer_new (hrun : n ≠ s.bring.running) (hnew : ¬ (n ≤ 7 ∧ n ≤ s.bring.done))
    (hready : n = 9 → s.bring.ready.has p = false) :
    s.stepAnswer p n = (if s.bring.running ≠ 0 ∨ s.bring.blocked n = true then 2
      else if n = 8 then (if 7 ≤ s.bring.done then 1 else 2)
      else if n = 9 then (if 8 ≤ s.bring.done ∧ (s.layoutOf p).isSome = true then 1 else 2)
      else if n = s.bring.done + 1 then 1 else 2) := by
  have h9 : ¬ (n = 9 ∧ s.bring.ready.has p = true) := fun h => by simp [hready h.1] at h
  simp [State.stepAnswer, hrun, hnew, h9]

theorem BringUp.blocked_of {b : BringUp} (h : b.stopped = true ∨ (b.failed = true ∧ (b.verdict ≠ 5 ∨ n ≠ 5))) : b.blocked n = true := by
  simp only [BringUp.blocked, Bool.or_eq_true, Bool.and_eq_true, Bool.not_eq_true', Bool.and_eq_false_iff, beq_eq_false_iff_ne]
  exact h

theorem BringUp.not_blocked {b : BringUp} (hfail : b.failed = false) (hstop : b.stopped = false) : b.blocked n = false := by
  simp [BringUp.blocked, hfail, hstop]

/-- Out of its order: another step runs, what has failed or stopped blocks it, or the steps before it are not done. -/
theorem State.stepAnswer_outOfOrder (hrun : n ≠ s.bring.running) (hnew : ¬ (n ≤ 7 ∧ n ≤ s.bring.done))
    (hready : n = 9 → s.bring.ready.has p = false)
    (h : s.bring.running ≠ 0 ∨ s.bring.stopped = true ∨ (n ≤ 7 ∧ s.bring.done + 1 < n) ∨ (n = 8 ∧ s.bring.done < 7) ∨
      (n = 9 ∧ s.bring.done < 8) ∨ (s.bring.failed = true ∧ (s.bring.verdict ≠ 5 ∨ n ≠ 5))) : s.stepAnswer p n = 2 := by
  rw [State.stepAnswer_new hrun hnew hready]
  by_cases hb : s.bring.running ≠ 0 ∨ s.bring.blocked n = true
  · exact if_pos hb
  · rw [if_neg hb]
    obtain ⟨hidle, hblock⟩ := not_or.mp hb
    rcases h with h | h | ⟨h7, h⟩ | ⟨rfl, h⟩ | ⟨rfl, h⟩ | h
    · exact absurd h hidle
    · exact absurd (BringUp.blocked_of (.inl h)) hblock
    · rw [if_neg (by omega), if_neg (by omega), if_neg (by omega)]
    · rw [if_pos rfl, if_neg (by omega)]
    · rw [if_neg (by decide), if_pos rfl, if_neg (fun hc => by omega)]
    · exact absurd (BringUp.blocked_of (.inr h)) hblock

end answer

/-- Settles O36: each of the nine writes is a step of its number, and takeStep answers by that number. -/
theorem stepsOutOfOrderAreRefused : Obligations.StepsOutOfOrderAreRefused := by
  intro p n c s hc
  obtain ⟨f, hf⟩ : ∃ f, exec c s = .next (takeStep s p n f) := by
    rcases hc with ⟨rfl, _, rfl⟩ | ⟨rfl, rfl⟩ | ⟨rfl, _, rfl⟩ | ⟨rfl, _, rfl⟩ | ⟨rfl, rfl⟩ | ⟨rfl, _, rfl⟩ | ⟨rfl, _, rfl⟩ | ⟨rfl, rfl⟩ |
      ⟨rfl, rfl⟩ <;> exact ⟨_, rfl⟩
  rw [hf]
  exact ⟨fun hdead => congrArg _ (takeStep_notLive f hdead), fun h7 hd => congrArg _ (takeStep_ignored f (State.stepAnswer_done h7 hd)),
    fun hlive hready hrun hnew hout => congrArg _ (takeStep_refused f hlive (State.stepAnswer_outOfOrder hrun hnew hready hout))⟩

/-! ## READY (R49, R352) -/

section lead
variable {s : State}

theorem State.leadOk_iff {n : Nat} : s.leadOk n = true ↔
    s.stroke.count + 2 ≤ n ∧ s.now + 20000 ≤ s.stroke.lastAt.getD s.stroke.startAt + (n - s.stroke.count) * s.stroke.period := by
  simp [State.leadOk]

theorem ceilDiv_le_iff {a b c : Nat} (hb : 0 < b) : ceilDiv a b ≤ c ↔ a ≤ c * b := by
  rw [ceilDiv, ← Nat.lt_succ_iff, Nat.div_lt_iff_lt_mul hb, Nat.succ_mul]
  omega

theorem State.leadOk_firstLead (hp : 0 < s.stroke.period) : s.leadOk s.firstLead = true := by
  have hceil := (ceilDiv_le_iff (a := s.now + 20000 - s.stroke.lastAt.getD s.stroke.startAt) (b := max 1 s.stroke.period) (by omega)).mp
    (le_max_right 2 _)
  rw [Nat.max_eq_right (show 1 ≤ s.stroke.period from hp)] at hceil
  refine State.leadOk_iff.mpr ⟨Nat.add_le_add_left (le_max_left 2 _) _, ?_⟩
  simp only [State.firstLead, Nat.add_sub_cancel_left]
  rw [Nat.max_eq_right (show 1 ≤ s.stroke.period from hp)]
  omega

/-- A stroke with the lead lies as many periods ahead as the lead asks for, so it is not before the first one. -/
theorem State.firstLead_le {n : Nat} (h : s.leadOk n = true) : s.firstLead ≤ n := by
  obtain ⟨htwo, htime⟩ := State.leadOk_iff.mp h
  have hperiods : ceilDiv (s.now + 20000 - s.stroke.lastAt.getD s.stroke.startAt) (max 1 s.stroke.period) ≤ n - s.stroke.count :=
    (ceilDiv_le_iff (by omega)).mpr (le_trans (by omega) (Nat.mul_le_mul_left _ (le_max_right 1 s.stroke.period)))
  simp only [State.firstLead]
  omega

end lead

theorem NSet.has_add (t : NSet) (n : Nat) : (NSet.add t n).has n = true := by
  induction t with
  | nil => simp [NSet.add, NSet.has]
  | cons k t ih =>
    simp only [NSet.add]
    split
    · simp [NSet.has, *]
    · split
      · simp [NSet.has]
      · simp only [NSet.has, List.contains_cons, Bool.or_eq_true] at ih ⊢
        exact .inr ih

section ready
variable {p : PortId} {s : State} (hlive : s.portLive p = true) (hnot : s.bring.ready.has p = false) (hrun : s.bring.running = 0)
  (hdone : 8 ≤ s.bring.done) (hfail : s.bring.failed = false) (hstop : s.bring.stopped = false)
include hnot hrun hdone hfail hstop

/-- READY in its place asks only for a layout in force. -/
theorem State.stepAnswer_ready : s.stepAnswer p 9 = if (s.layoutOf p).isSome = true then 1 else 2 := by
  rw [State.stepAnswer_new (by omega) (by omega) (fun _ => hnot), if_neg (by simp [hrun, BringUp.not_blocked hfail hstop]),
    if_neg (by decide), if_pos rfl]
  simp only [hdone, true_and]

include hlive

theorem execReady_applied (hl : (s.layoutOf p).isSome = true) : execReady p s =
    .next (((s.runStep p 9).updBring (fun b => { b with ready := b.ready.add p })).updCmd p (fun c => { c with
      state := 1, locked := true, startAt := (s.runStep p 9).firstLead })) :=
  congrArg _ (takeStep_taken _ hlive ((State.stepAnswer_ready hnot hrun hdone hfail hstop).trans (if_pos hl)))

theorem execReady_unapplied (hl : s.layoutOf p = none) : execReady p s =
    .next (s.updBring (fun b => { b with errCode := 1, errStep := 9, errPort := p, errDetail := 0 })) :=
  congrArg _ (takeStep_refused _ hlive ((State.stepAnswer_ready hnot hrun hdone hfail hstop).trans (if_neg (by simp [hl]))))

end ready

/-- Settles O58: the fetcher's start is the first stroke with the lead, and the step before it changes neither the stroke nor the time. -/
theorem readyStartsTheFetcher : Obligations.ReadyStartsTheFetcher := by
  intro p s hc hlive hnot hrun hdone hfail hstop
  refine ⟨fun hl => ⟨_, execReady_applied hlive hnot hrun hdone hfail hstop hl, ?_⟩, execReady_unapplied hlive hnot hrun hdone hfail hstop⟩
  have hhub : ∀ f, ((((s.runStep p 9).updBring (fun b => { b with ready := b.ready.add p })).updCmd p f).hub p).cmd = f (s.hub p).cmd :=
    fun f => congrArg Hub.cmd ((State.updHub_hub _ _ _ p ((State.canonical_iff s).mp hc).hubs).trans (if_pos rfl))
  rw [hhub]
  exact ⟨rfl, NSet.has_add _ _, fun hp => State.leadOk_firstLead hp, fun n hn => Bool.eq_false_iff.mpr fun h =>
    absurd (State.firstLead_le h) (Nat.not_le.mpr hn)⟩

/-! ## WAVES to LOAD (R344, R346, R351) -/

section steps
variable {p : PortId} {s : State} (hlive : s.portLive p = true) (hrun : s.bring.running = 0) (hstop : s.bring.stopped = false)
  (hfail : s.bring.failed = false)
include hlive hrun hstop hfail

theorem execWaves_next (hd : s.bring.done = 4) :
    let all := (List.range 624).filter (fun r => s.power.efuses.has (r / 4) && !(s.region r).fenced && (s.region r).pstate == 0)
    execWaves p s = .next (if s.coolantBad then failStep (s.runStep p 5) 5 0
      else nextWave ((s.runStep p 5).updBring (fun b => { b with waveLeft := all }))) :=
  congrArg _ (takeStep_next hlive hrun hstop hfail _ (congrArg (· + 1) hd.symm) (by decide))

/-- LOAD comes after MESH, and again after a LOAD. -/
theorem execLoad_again (hd : 7 ≤ s.bring.done) : let t := beginLoad (s.runStep p 8)
    execLoad p s = .next (if t.bring.waveLeft.isEmpty then t else nextWave t) := by
  have hans : s.stepAnswer p 8 = 1 := by
    rw [State.stepAnswer_new (by omega) (by omega) (by omega), if_neg (by simp [hrun, BringUp.not_blocked hfail hstop]), if_pos rfl, if_pos hd]
  exact congrArg Host.Outcome.next (takeStep_taken (fun s => let t := beginLoad s; if t.bring.waveLeft.isEmpty then t else nextWave t) hlive hans)

end steps

section waves
variable {s : State}

theorem execPowerWave_settled (hstep : s.bring.running = 5 ∨ s.bring.running = 8) (hgood : s.bring.verdict = 0) (hleft : s.bring.waveLeft ≠ [])
    (hset : s.waveSettled = true) : execPowerWave s = .next (nextWave s) :=
  congrArg _ ((if_pos ⟨hstep, hgood⟩).trans (if_pos ⟨by simpa using hleft, hset⟩))

theorem offWave_next (hleft : s.bring.offLeft ≠ []) (hwin : s.bring.offWindow ≠ some (s.now / 10000)) : offWave s =
    (s.updBring (fun b => { b with offLeft := b.offLeft.drop 24, offWindow := some (s.now / 10000) })).each (s.bring.offLeft.take 24) regionOff :=
  if_neg (by simp [hleft, hwin])

theorem execCoreTestTimeout_late {k : PCore} {res : List Finding} (hin : s.bring.input = .tests res) (hrun : s.bring.running = 6)
    (hlate : s.bring.since + 1000000000 ≤ s.now) (hon : (s.region (coreRegion k)).pstate = 3) (hfence : (s.region (coreRegion k)).fenced = false)
    (hnew : Finding.core k ∉ res) : execCoreTestTimeout k s = .next (s.updBring (fun b => { b with input := .tests (res ++ [.core k]) })) := by
  simp only [execCoreTestTimeout, hin]
  exact congrArg _ (if_pos (by simp [hrun, hlate, hon, hfence, hnew]))

end waves

/-- Settles O35: each step in its place, then the waves and the time of STARTTEST. -/
theorem lastBringUpStepsRun : Obligations.LastBringUpStepsRun := by
  intro p s
  refine ⟨fun hlive hrun hstop hfail => ⟨fun hd hcool => ?waves, fun hd hcool => ?coolant, fun res hd => ?starttest,
    fun lanes channels hd => ?mesh, fun hd => ⟨fun hleft => ?loaded, fun hleft => ?powers⟩,
    fun hd hl hnot => execReady_applied hlive hnot hrun hd hfail hstop hl⟩, execPowerWave_settled,
    fun hstep hleft hwin => congrArg _ ((if_neg hstep).trans (offWave_next hleft hwin)), fun k res => execCoreTestTimeout_late⟩
  case waves => exact (execWaves_next hlive hrun hstop hfail hd).trans (congrArg _ (if_neg (by simp [hcool])))
  case coolant => exact (execWaves_next hlive hrun hstop hfail hd).trans (congrArg _ (if_pos hcool))
  case starttest => exact congrArg Host.Outcome.next (takeStep_next hlive hrun hstop hfail _ (congrArg (· + 1) hd.symm) (by decide))
  case mesh => exact congrArg Host.Outcome.next (takeStep_next hlive hrun hstop hfail _ (congrArg (· + 1) hd.symm) (by decide))
  case loaded => exact (execLoad_again hlive hrun hstop hfail hd).trans (congrArg _ (if_pos (List.isEmpty_iff.mpr hleft)))
  case powers => exact (execLoad_again hlive hrun hstop hfail hd).trans (congrArg _ (if_neg (fun h => hleft (List.isEmpty_iff.mp h))))

/-! ## The end of a step (R342 to R345) -/

section ends
variable {ce ue : List (PartId × Nat)} {s : State}

theorem undoStep_eq (n : Nat) (t : State) : undoStep n t = (if n = 1 then unpowerSites t
    else if n = 2 then t.updStroke (fun k => { k with qualifying := false, intervals := [], lastAt := none, quals := [] })
    else if n = 4 then { t with stackTab := [], slices := [] } else t) := by
  unfold undoStep
  split
  · rfl
  · rfl
  · rfl
  · next h1 h2 h4 => rw [if_neg h1, if_neg h2, if_neg h4]

/-- What each step leaves as it completes: SUPPLY, INVENTORY, WAVES and READY have done their work before. -/
theorem stepCompletes_eq {n : Nat} {u : State} (h : (n = 2 ∧ u = hubCompletes s) ∨
      (∃ inp, n = 3 ∧ s.bring.input = .auth inp ∧ u = authCompletes inp s) ∨
      (∃ res, n = 6 ∧ s.bring.input = .tests res ∧ u = testsComplete res s) ∨
      (∃ lanes ch, n = 7 ∧ s.bring.input = .mesh lanes ch ∧ u = meshCompletes lanes ch s) ∨
      (n = 8 ∧ u = endLoad ce ue s) ∨ ((n = 1 ∨ n = 4 ∨ n = 5 ∨ n = 9) ∧ u = s)) : stepCompletes n ce ue s = u := by
  rcases h with ⟨rfl, hu⟩ | ⟨inp, rfl, hin, hu⟩ | ⟨res, rfl, hin, hu⟩ | ⟨lanes, ch, rfl, hin, hu⟩ | ⟨rfl, hu⟩ |
    ⟨rfl | rfl | rfl | rfl, hu⟩
  case inr.inl | inr.inr.inl | inr.inr.inr.inl => unfold stepCompletes; rw [hin, hu]; rfl
  all_goals exact hu.symm

theorem execStepComplete_restart (hready : s.stepReady = true) (hn : s.bring.running = 15) :
    execStepComplete ce ue s = .next (raiseAll (restartCompletes s) 1) :=
  congrArg _ ((if_pos hready).trans (congrArg (raiseAll · 1) (if_pos hn)))

theorem execStepComplete_fails (hready : s.stepReady = true) (hn : s.bring.running ≠ 15) (hv : s.bring.verdict ≠ 0) :
    execStepComplete ce ue s = .next (raiseAll (undoStep s.bring.running (s.updBring (fun b => { b with
      running := 0, failed := true, errCode := b.verdict, errStep := s.bring.running, errPort := b.port, errDetail := b.verdictDetail
      waveLeft := [], waveNow := [], input := .none }))) 1) :=
  congrArg _ ((if_pos hready).trans (congrArg (raiseAll · 1) ((if_neg hn).trans (if_pos hv))))

theorem execStepComplete_done (hready : s.stepReady = true) (hn : s.bring.running ≠ 15) (hv : s.bring.verdict = 0) :
    execStepComplete ce ue s = .next (raiseAll ((stepCompletes s.bring.running ce ue s).updBring (fun b => { b with
      running := 0, done := s.bring.running, waveNow := [], input := .none })) 1) :=
  congrArg _ ((if_pos hready).trans (congrArg (raiseAll · 1) ((if_neg hn).trans (if_neg (not_not.mpr hv)))))

end ends

/-! ## Recovery (R359, R360) -/

section recovery
variable {s : State} (hrec : s.bring.recovery = true)
include hrec

theorem execRecoveryGo_up {p : PortId} (hboot : s.supply.booted = true) (hport : s.part.hostPresent p = true) (hlive : (s.hub p).live = true)
    (hup : (s.hub p).linkUp = true) (hst : s.bring.recovState = 0 ∨ s.bring.recovState = 4) : execRecoveryGo p s =
    .next ((s.updBring (fun b => { b with recovState := 1, recovSupplied := 0, recovAttempts := sat 8 (b.recovAttempts + 1) })).emit
      (.hostRead p (s.hub p).recovAddr (s.hub p).recovLen)) :=
  congrArg _ (if_pos (by simp [hrec, hboot, hport, hlive, hup, hst]))

theorem execRecoveryFetchDone_eq {img : Option Image} (hst : s.bring.recovState = 1) : execRecoveryFetchDone img s = .next (match img with
    | none => s.updBring (fun b => { b with recovState := 4, recovSupplied := 5 })
    | some i => if imageCause s.sec.floor i = 0 then s.updBring (fun b => { b with recovState := 3, recovImage := some i })
      else s.updBring (fun b => { b with recovState := 4, recovSupplied := imageCause s.sec.floor i })) :=
  congrArg _ (if_pos (by rw [hrec, hst]; rfl))

theorem execRecoveryWriteDone_boots {i : Image} (hst : s.bring.recovState = 3) (himg : s.bring.recovImage = some i) :
    execRecoveryWriteDone s = .next (bootHubs (s.updSec (fun x => { x with slotImage := some i })) (fun h => (s.hub h).live)) := by
  have hguard : (s.bring.recovery && s.bring.recovState == 3) = true := by rw [hrec, hst]; rfl
  simp only [execRecoveryWriteDone, hguard, himg]

end recovery

/-- Settles O37: a step ends as a restart, a failure or a completion; then RESTART and the loading of an image. -/
theorem stepsEndAndRecoveryLoads : Obligations.StepsEndAndRecoveryLoads := by
  intro s
  refine ⟨fun ce ue hready => ⟨execStepComplete_restart hready, fun hn hv => ?fails, fun u hn hv hu => ?completes⟩, fun inp => rfl,
    fun lanes channels => rfl, fun p hlive => congrArg _ (if_pos hlive), fun p hrec => execRecoveryGo_up hrec, fun hrec hst => ?fetched,
    fun i hrec => execRecoveryWriteDone_boots hrec⟩
  case fails => exact (execStepComplete_fails hready hn hv).trans (congrArg (fun t => Host.Outcome.next (raiseAll t 1)) (undoStep_eq _ _))
  case completes =>
    refine (execStepComplete_done hready hn hv).trans ?_
    rw [stepCompletes_eq hu]
  case fetched =>
    exact ⟨execRecoveryFetchDone_eq (img := none) hrec hst,
      fun i hgood => (execRecoveryFetchDone_eq (img := some i) hrec hst).trans (congrArg _ (if_pos hgood)),
      fun i hbad => (execRecoveryFetchDone_eq (img := some i) hrec hst).trans (congrArg _ (if_neg hbad))⟩

end Sys2Proof.Machine
end

section
/-!
PROOFS. Chapter 16: security commands, and the user calibration.
-/
namespace Sys2Proof.Machine

/-! ## The form of a security command (R437, R438) -/

section rows
variable {p : PortId} {code : Nat} {act : State → SecCmd → State × Nat} {b : List Byte} {c : SecCmd} {s : State}

/-- The CODE of a command of good form is its byte 5, and one of the eleven. -/
theorem secCmdOf_code (h : secCmdOf b = some c) : recByte b 5 = c.code := by
  obtain ⟨-, hc⟩ := Option.ite_none_right_eq_some.mp h
  rw [← Option.some.inj hc]

/-- A fresh nonce follows bytes that carry a signature (R438). -/
def afterSig (b : List Byte) (t : State) : State := if carriesSig b then freshNonce t else t

/-- A port whose buffer has been fetched, at a panel that has booted and where no UPDATE runs. -/
structure State.SecReady (s : State) (p : PortId) : Prop where
  booted : s.supply.booted = true
  normal : s.bring.recovery = false
  live : (s.hub p).live = true
  fetched : (s.hub p).sec.state = 1
  idle : s.sec.updating = none
  written : s.sec.writing = none

theorem secRow_waits {bytes : Option (List Byte)} (h : s.bring.recovery = true ∨ (s.hub p).sec.state ≠ 1 ∨ s.sec.updating.isSome = true) :
    secRow s p code bytes act = s :=
  if_pos (by rcases h with h | h | h <;> simp [h])

variable (hs : s.SecReady p)
include hs

theorem State.SecReady.guard : ¬ (!s.supply.booted || s.bring.recovery || !(s.hub p).live || (s.hub p).sec.state ≠ 1 || s.sec.updating.isSome
    || s.sec.writing.isSome) = true := by
  simp [hs.booted, hs.normal, hs.live, hs.fetched, hs.idle, hs.written]

theorem secRow_unread : secRow s p code none act = endSec s p 0 8 0 := if_neg hs.guard

/-- Bytes of the row's CODE end with RESULT 1 where their form is wrong, with that of the judgement where it refuses them, and are else acted
upon. -/
theorem secRow_own (hown : recByte b 5 = code) : secRow s p code (some b) act = afterSig b (match secCmdOf b with
    | none => endSec s p code 1 0
    | some c => if s.judge c ≠ 0 then endSec s p code (s.judge c) 0
      else if code = 8 then (act s c).1 else endSec (act s c).1 p code (act s c).2 0) := by
  rw [secRow, if_neg hs.guard]
  simp only [hown]
  rw [if_neg (by simp)]
  rfl

theorem secRow_malformed (hown : recByte b 5 = code) (h : secCmdOf b = none) :
    secRow s p code (some b) act = afterSig b (endSec s p code 1 0) := by
  rw [secRow_own hs hown, h]

theorem secRow_refused (hown : recByte b 5 = code) (h : secCmdOf b = some c) (hj : s.judge c ≠ 0) :
    secRow s p code (some b) act = afterSig b (endSec s p code (s.judge c) 0) := by
  rw [secRow_own hs hown, h]
  exact congrArg _ (if_pos hj)

theorem secRow_accepted (h : secCmdOf b = some c) (hj : s.judge c = 0) (hc : c.code = code) (h8 : code ≠ 8) :
    secRow s p code (some b) act = afterSig b (endSec (act s c).1 p code (act s c).2 0) := by
  rw [secRow_own hs ((secCmdOf_code h).trans hc), h]
  exact congrArg _ ((if_neg (not_not.mpr hj)).trans (if_neg h8))

/-- UPDATE goes on when its image has come. -/
theorem secRow_update (h : secCmdOf b = some c) (hj : s.judge c = 0) (hc : c.code = 8) :
    secRow s p 8 (some b) act = afterSig b (act s c).1 := by
  rw [secRow_own hs ((secCmdOf_code h).trans hc), h]
  exact congrArg _ ((if_neg (not_not.mpr hj)).trans (if_pos rfl))

end rows

/-- Settles O48: each row is a secRow of its CODE, and the judgement comes before what the row does. -/
theorem refusedSecurityCommandsDoNothingElse : Obligations.RefusedSecurityCommandsDoNothingElse := by
  intro p bytes i n s hi
  obtain ⟨act, hrow⟩ : ∃ act, exec i s = .next (secRow s p n bytes act) := by
    rcases hi with ⟨rfl, rfl⟩ | ⟨rfl, rfl⟩ | ⟨rfl, rfl⟩ | ⟨rfl, rfl⟩ | ⟨rfl, rfl⟩ | ⟨rfl, rfl⟩ | ⟨rfl, rfl⟩ |
      ⟨rfl, rfl⟩ | ⟨rfl, rfl⟩ | ⟨rfl, rfl⟩ | ⟨rfl, rfl⟩ <;> exact ⟨_, rfl⟩
  rw [hrow]
  refine ⟨fun h => congrArg _ (secRow_waits h), fun hboot hrec hlive hst hup hwr => ?_⟩
  have hs : s.SecReady p := ⟨hboot, hrec, hlive, hst, hup, hwr⟩
  refine ⟨?unread, ?read⟩
  case unread => rintro rfl; exact congrArg _ (secRow_unread hs)
  case read =>
    rintro b rfl hown
    exact ⟨fun h => congrArg _ (secRow_malformed hs hown h), fun c h hj => congrArg _ (secRow_refused hs hown h hj)⟩

/-- Settles O47: the row acts, and POLICY and CAL_WRITE find the record that the judgement read. -/
theorem acceptedSecurityCommandsAct : Obligations.AcceptedSecurityCommandsAct := by
  intro p b c s hboot hrec hlive hst hup hwr hcmd hj fin
  have hs : s.SecReady p := ⟨hboot, hrec, hlive, hst, hup, hwr⟩
  have hact : ∀ {code : Nat} {act : State → SecCmd → State × Nat}, c.code = code → code ≠ 8 →
      (Host.Outcome.next (secRow s p code (some b) act) : Host.Outcome State Fault Refusal) = .next (fin (endSec (act s c).1 p code (act s c).2 0)) :=
    fun hc h8 => congrArg Host.Outcome.next (secRow_accepted hs hcmd hj hc h8)
  refine ⟨fun hc => hact hc (by decide), fun hc => hact hc (by decide), fun hc => hact hc (by decide), fun q floor hc hpol => ?policy,
    fun hc => hact hc (by decide), fun hc => hact hc (by decide), fun hc => hact hc (by decide),
    fun hc => congrArg Host.Outcome.next (secRow_update hs hcmd hj hc), fun l hc hcal => ?cal, fun hc => hact hc (by decide),
    fun hc => ⟨fun hroom => ?report, fun hroom => ?noRoom⟩⟩
  case policy =>
    refine (hact hc (by decide)).trans ?_
    rw [hpol]
  case cal =>
    refine (hact hc (by decide)).trans ?_
    rw [hcal]
  case report =>
    refine (hact hc (by decide)).trans ?_
    rw [if_neg (not_not.mpr hroom)]
  case noRoom =>
    refine (hact hc (by decide)).trans ?_
    rw [if_pos hroom]

/-! ## What an answer leaves of the stores (R438) -/

@[simp] theorem endSec_sec (s : State) (p code result detail : Nat) : (endSec s p code result detail).sec = s.sec := by
  simp only [endSec]
  split
  · rfl
  · exact (secRecord_hostSide _ _ _).reading (g := State.sec) fun _ _ _ => rfl

theorem afterSig_calibration (b : List Byte) (t : State) : (afterSig b t).sec.restorePend = t.sec.restorePend ∧
    (afterSig b t).sec.userCal = t.sec.userCal ∧ (afterSig b t).sec.calStored = t.sec.calStored := by
  unfold afterSig
  split <;> exact ⟨rfl, rfl, rfl⟩

/-- A CAL_WRITE that is accepted carries entries in order: the judgement has read them (R447). -/
theorem readCal_of_judge {s : State} {c : SecCmd} (hc : c.code = 9) (hj : s.judge c = 0) : ∃ l, readCal c.payload = some l := by
  have hgood : payloadBad c = false := by
    by_contra hbad
    rw [State.judge, if_pos (Bool.not_eq_false _ ▸ hbad)] at hj
    exact absurd hj (by decide)
  simp only [payloadBad, hc] at hgood
  exact Option.isSome_iff_exists.mp (by simpa using hgood)

/-! ## Fencing leaves the stores (R367, R368, R450) -/

section fence
variable (s : State)

theorem cancelGrant_sec (u : Nat) (g : Nat × Nat × Nat × Nat × Nat × Nat) : (cancelGrant s u g).sec = s.sec := by
  simp only [cancelGrant]
  repeat' split
  all_goals simp only [State.send_sec, State.updAdmit_sec]

theorem cancelGrants_sec (l : Nat) : (cancelGrants s l).sec = s.sec :=
  State.each_reading fun _ _ => State.each_reading fun _ _ => cancelGrant_sec _ _ _

theorem takeBack_sec (key j : Nat) : (takeBack s key j).sec = s.sec := by
  unfold takeBack
  split
  · rfl
  · refine State.each_reading fun t x => ?_
    dsimp only
    repeat' split
    all_goals rfl

theorem cutRegion_sec (r : Nat) : (cutRegion s r).sec = s.sec := by
  refine State.each_reading fun t e => ?_
  split
  · rw [State.updLink_sec, State.updLink_sec, takeBack_sec]
  · rfl

theorem fenceCores_sec (r : Nat) : (fenceCores s r).sec = s.sec := by
  simp only [fenceCores]
  refine (State.each_reading (g := State.sec) ?cores).trans ((State.each_reading (g := State.sec) ?grants).trans (cutRegion_sec _ r))
  case cores => exact fun _ _ => rfl
  case grants => exact fun t l => cancelGrants_sec _ l

theorem hubRecord_sec (rec : FaultRec) : (hubRecord s rec).sec = s.sec := (hubRecord_hostSide s rec).reading (g := State.sec) fun _ _ _ => rfl

theorem secRecord_sec (event unit : Nat) : (secRecord s event unit).sec = s.sec :=
  (secRecord_hostSide s event unit).reading (g := State.sec) fun _ _ _ => rfl

theorem routeChange_sec (p : Nat) : (routeChange s p).sec = s.sec := by
  unfold routeChange
  split
  · rfl
  · split
    · rfl
    · exact hubRecord_sec _ _

theorem openFuse_sec (site : Nat) : (openFuse s site).sec = s.sec := rfl

theorem fenceDie_sec (site detail : Nat) : (fenceDie s site detail).sec = s.sec := by
  unfold fenceDie
  split
  · rfl
  · have hcut : ((s.each (siteRegions site) (fun s r => if (s.region r).fenced then s else fenceCores s r))).sec = s.sec :=
      State.each_reading fun t r => by
        split
        · rfl
        · exact fenceCores_sec t r
    have hopen : ∀ t : State, ∀ rec,
        (openFuse ((hubRecord t rec).updCox site (fun c => { c with live := false, fenced := true })) site).sec = t.sec :=
      fun t rec => (openFuse_sec _ _).trans (hubRecord_sec t rec)
    dsimp only
    split
    · split
      · exact (routeChange_sec _ _).trans ((hopen _ _).trans hcut)
      · exact (hopen _ _).trans hcut
    · exact (hopen _ _).trans hcut

theorem cutDie_sec (site detail : Nat) : (cutDie s site detail).sec = s.sec :=
  (openFuse_sec _ site).trans (fenceDie_sec s site detail)

theorem admitBezel_sec (n : Nat) (a : BezelAnswer) : (admitBezel s n a).sec = s.sec := by
  unfold admitBezel
  split
  · rfl
  · exact secRecord_sec _ _ _

end fence

/-! ## AUTH and the user calibration (R447, R448) -/

/-- The block stored comes into force with AUTH, or goes where RESTORE_FACTORY has asked for it; dies and bezels have no part in it. -/
theorem authCompletes_calibration (inp : AuthInput) (s : State) : (authCompletes inp s).sec.restorePend = false ∧
    (s.sec.restorePend = true → (authCompletes inp s).sec.userCal = [] ∧ (authCompletes inp s).sec.calStored = []) ∧
    (s.sec.restorePend = false →
      (authCompletes inp s).sec.userCal = s.sec.calStored ∧ (authCompletes inp s).sec.calStored = s.sec.calStored) := by
  obtain ⟨t, ht, hcal⟩ : ∃ t : State, t.sec = s.sec ∧ ∃ rep, (authCompletes inp s).sec = { (calInForce t).sec with report := rep } := by
    refine ⟨_, ?_, _, rfl⟩
    refine (State.each_reading (g := State.sec) fun t x => ?_).trans (State.each_reading (g := State.sec) fun t site => ?_)
    · split
      · exact admitBezel_sec t _ _
      · rfl
    · exact (secRecord_sec _ _ _).trans (cutDie_sec t site 0)
  obtain ⟨rep, hrep⟩ := hcal
  rw [hrep, calInForce, State.updSec_sec, ht]
  cases hpend : s.sec.restorePend <;> simp

/-- Settles O59: RESTORE_FACTORY and CAL_WRITE only mark and store; the end of AUTH discards the block or puts it into force. -/
theorem restoreFactoryDiscardsAtAuth : Obligations.RestoreFactoryDiscardsAtAuth := by
  refine ⟨fun p b c s hboot hrec hlive hst hup hwr hcmd hj => ?_, fun p inp s hlive hrun hstop hfail hd hlist hcal hmark => ?auth⟩
  · have hs : s.SecReady p := ⟨hboot, hrec, hlive, hst, hup, hwr⟩
    refine ⟨fun hc => ⟨_, congrArg Host.Outcome.next (secRow_accepted hs hcmd hj hc (by decide)), ?_⟩, fun hc => ?_⟩
    · obtain ⟨hpend, huser, -⟩ := afterSig_calibration b (endSec (s.updSec (fun x => { x with restorePend := true })) p 0x0A 0 0)
      exact ⟨hpend, huser⟩
    · obtain ⟨l, hl⟩ := readCal_of_judge hc hj
      refine ⟨_, l, hl, congrArg Host.Outcome.next (secRow_accepted hs hcmd hj hc (by decide)), ?_⟩
      simp only [hl]
      obtain ⟨hpend, huser, hstored⟩ :=
        afterSig_calibration b (endSec (s.updSec (fun x => { x with calStored := l, restorePend := false })) p 0x09 0 0)
      exact ⟨hpend, hstored, huser⟩
  case auth =>
    refine ⟨_, (execAuth_next hlive hrun hstop hfail hd).trans (congrArg _ (if_neg (by simp [hlist, hcal, hmark]))), rfl, rfl, fun ce ue => ?_⟩
    refine ⟨_, execStepComplete_done rfl (show 3 ≠ 15 by decide) rfl, ?_⟩
    have hsec : ∀ u : State, (raiseAll u 1).sec = u.sec := fun u => (raiseAll_hostSide u 1).reading (g := State.sec) fun _ _ _ => rfl
    rw [hsec, State.updBring_sec]
    exact authCompletes_calibration inp _

end Sys2Proof.Machine
end

section
/-!
PROOFS. Chapter 14: what a host's read changes, and that every command goes on.
-/
namespace Sys2Proof.Machine

/-! ## Every row goes on (R386, R415) -/

/-- Each row of the dispatch is the next state of its command: none ends in a fault or a refusal (log entries 9 and 10). -/
theorem exec_goesOn (c : Instr) (s : State) : ∃ t, exec c s = .next t := by
  cases c <;> exact ⟨_, rfl⟩

/-- Settles O4: a step is a command's, or lets time pass. -/
theorem everyCommandGoesOn : Obligations.EveryCommandGoesOn := by
  refine ⟨exec_goesOn, fun s => ?_⟩
  cases hq : s.pending with
  | nil => exact ⟨_, step_nil hq⟩
  | cons c rest =>
    obtain ⟨t, ht⟩ := exec_goesOn c { s with pending := rest }
    exact ⟨t, (step_cons hq).trans ht⟩

/-! ## What a read of a host changes (R13, R394, R395) -/

/-- The second state differs from the first in the registers of hub p and in what was sent outside, and in nothing else. -/
structure OnlyPort (p : Nat) (s t : State) : Prop where
  side : HostSide s t
  others : ∀ q, q ≠ p → t.hub q = s.hub q

section onlyPort
variable {p : Nat} {s : State}

theorem OnlyPort.refl (p : Nat) (s : State) : OnlyPort p s s := ⟨HostSide.refl s, fun _ _ => rfl⟩

theorem OnlyPort.emit {t : State} (h : OnlyPort p s t) (o : Out) : OnlyPort p s (t.emit o) := ⟨h.side.emit o, h.others⟩

variable (hwf : Tab.wf {} s.hubs = true)
include hwf

theorem updHub_onlyPort (f : Hub → Hub) : OnlyPort p s (s.updHub p f) :=
  ⟨(HostSide.refl s).updHub p f, fun q hq => (State.updHub_hub s p f q hwf).trans (if_neg hq)⟩

theorem badRead_onlyPort (bit addr : Nat) : OnlyPort p s (badRead s p bit addr) := (updHub_onlyPort hwf _).emit _

theorem clearingRead_onlyPort (off v : Nat) (mask : W32) : OnlyPort p s (goodRead (clearRc s p off mask) p v) := (updHub_onlyPort hwf _).emit _

theorem execRcRead_onlyPort (p : PortId) (off : BitVec 26) : ∃ u, execRcRead p off s = .next u ∧ OnlyPort p s u := by
  refine ⟨_, rfl, ?_⟩
  dsimp only
  split
  · exact OnlyPort.refl p s
  split
  · exact (OnlyPort.refl p s).emit _
  split
  · exact badRead_onlyPort hwf _ _
  split
  · exact clearingRead_onlyPort hwf _ _ _
  · exact OnlyPort.refl p s
  · exact OnlyPort.refl p s
  split
  · exact (OnlyPort.refl p s).emit _
  · exact badRead_onlyPort hwf _ _

theorem execAliasRead_onlyPort (p : PortId) (off : BitVec 26) : ∃ u, execAliasRead p off s = .next u ∧ OnlyPort p s u := by
  refine ⟨_, rfl, ?_⟩
  dsimp only
  split
  · exact OnlyPort.refl p s
  split
  · exact OnlyPort.refl p s
  split
  · exact (OnlyPort.refl p s).emit _
  split
  · exact badRead_onlyPort hwf _ _
  split
  · split
    · exact (OnlyPort.refl p s).emit _
    · exact clearingRead_onlyPort hwf _ _ _
  · split
    · exact (OnlyPort.refl p s).emit _
    · exact badRead_onlyPort hwf _ _
  · exact OnlyPort.refl p s

end onlyPort

/-- A read of the page outside recovery leaves, of what RC holds, what clearRc leaves of it. -/
theorem execRcRead_register {β : Type} (g : Hub → β) {p : PortId} {off : BitVec 26} {r : Nat} {v : β} {f : Hub → Hub} {s t : State}
    (hwf : Tab.wf {} s.hubs = true) (hup : s.hostUp p = true) (hrec : s.bring.recovery = false) (hread : execRcRead p off s = .next t)
    (hal : off.toNat % 4 = 0) (hb : barPlace off.toNat = .page r) (hf : clearRc s p r 0xFFFFFFFF = s.updHub p f) (hv : g (f (s.hub p)) = v) :
    g (t.hub p) = v := by
  cases hread.symm.trans (execRcRead_page hup hrec hal hb)
  rw [goodRead, State.emit_hub, hf, State.updHub_hub s p f p hwf, if_pos rfl, hv]

theorem and_not_ones (x : W32) : x &&& ~~~0xFFFFFFFF = 0 := BitVec.and_zero

/-- Settles O57: a read writes one hub, its own port's, and clears there every bit of the register it reads. -/
theorem readsClearOnlyTheirOwnPort : Obligations.ReadsClearOnlyTheirOwnPort := by
  intro p off s t hc
  have hwf := ((State.canonical_iff s).mp hc).hubs
  refine ⟨fun h => ?own, fun hup hrec hread => ?clears⟩
  case own =>
    obtain ⟨hside, hothers⟩ : OnlyPort p s t := by
      rcases h with h | h
      · obtain ⟨u, hu, honly⟩ := execRcRead_onlyPort hwf p off
        cases hu.symm.trans h
        exact honly
      · obtain ⟨u, hu, honly⟩ := execAliasRead_onlyPort hwf p off
        cases hu.symm.trans h
        exact honly
    exact ⟨hside, hothers⟩
  case clears =>
    have hreg := fun {β : Type} (g : Hub → β) {r : Nat} {v : β} {f : Hub → Hub} =>
      execRcRead_register g (r := r) (v := v) (f := f) hwf hup hrec hread
    refine ⟨?_, ?_, ?_, ?_, ?_, ?_, ?_, ?_⟩ <;> rintro rfl
    · exact hreg Hub.strokeRc rfl rfl rfl (and_not_ones _)
    · exact hreg Hub.pwrRc rfl rfl rfl (and_not_ones _)
    · exact hreg Hub.coolRc rfl rfl rfl (and_not_ones _)
    · exact hreg Hub.layRc rfl rfl rfl (and_not_ones _)
    · exact hreg Hub.fabRc rfl rfl rfl (and_not_ones _)
    · exact hreg Hub.cmdRc rfl rfl rfl (and_not_ones _)
    · exact hreg Hub.evt rfl rfl rfl BitVec.and_zero
    · exact hreg Hub.err rfl rfl rfl (and_not_ones _)

end Sys2Proof.Machine
end

section
/-!
PROOFS. Chapter 15: the fabric ports: frames, the handshake, retrains and timers, messages and windows.
-/
namespace Sys2Proof.Machine

/-! ## Retrains, timers and PORT_CTL (R411 to R413, R417, R423, R429, R430) -/

section control
variable {f : FpId} {lanes : Byte} {s : State}

/-- The lanes found good make a link: all eight, or the four of a half (R411). -/
def goodLanes (lanes : Byte) : Prop := lanes.toNat % 16 = 15 ∨ lanes.toNat / 16 = 15

theorem goodLanes_iff : (lanes.toNat % 16 == 15 || lanes.toNat / 16 == 15) = true ↔ goodLanes lanes := by simp [goodLanes]

theorem trainPort_eq : trainPort s f lanes = portNotice (s.updFport f (fun p => { p with
    lanes := lanes, state := if lanes.toNat % 16 == 15 || lanes.toNat / 16 == 15 then 1 else 2, downAt := s.now })) f := rfl

theorem trainPort_good (h : goodLanes lanes) :
    trainPort s f lanes = portNotice (s.updFport f (fun p => { p with lanes := lanes, state := 1, downAt := s.now })) f := by
  rw [trainPort_eq, if_pos (goodLanes_iff.mpr h)]

theorem trainPort_bad (h : ¬ goodLanes lanes) :
    trainPort s f lanes = portNotice (s.updFport f (fun p => { p with lanes := lanes, state := 2, downAt := s.now })) f := by
  rw [trainPort_eq, if_neg (mt goodLanes_iff.mp h)]

theorem execPortRetrainDone_good (hst : (s.fport f).state = 5) (h : goodLanes lanes) :
    let w4 := lanes != 0xFF
    let t := s.updFport f (fun p => { p with state := 4, lanes := lanes, width4 := w4, lastRx := s.now })
    let u := portNotice (if (s.fport f).width4 = w4 then t else portRecord t f 0x12) f
    execPortRetrainDone f lanes s = .next (if (s.fport f).rekeying then startRekey u f else pumpPort u f) :=
  congrArg Host.Outcome.next (if_pos (by rw [hst]; exact goodLanes_iff.mpr h))

theorem execPortTrainRetry_due {q : Nat} (hst : (s.fport f).state = 2 ∨ (s.fport f).state = 7) (hen : (s.fport f).enable = true)
    (hp : (s.fport f).part = some q) (hrun : s.partStopped q = false) (ht : (s.fport f).downAt + 100000000 ≤ s.now) :
    execPortTrainRetry f lanes s = .next (trainPort s f lanes) :=
  congrArg Host.Outcome.next (if_pos (by simp [hst, hen, hp, hrun, ht]))

theorem execRekeyTimer_due (hst : (s.fport f).state = 4) (hno : (s.fport f).rekeying = false)
    (hdue : (s.fport f).keyAt + 3600000000000 ≤ s.now ∨ 2 ^ 31 ≤ (s.fport f).txn) : execRekeyTimer f s = .next (startRekey s f) :=
  congrArg Host.Outcome.next (if_pos (by simpa [hst, hno] using hdue))

variable {p : PortId} (hp : s.mayControl p f = true)
include hp

theorem execPortRekey_eq (hno : (s.fport f).rekeying = false) : execPortRekey p f s = .next (
    if (s.fport f).state = 4 then startRekey s f
    else if (s.fport f).state = 5 then s.updFport f (fun x => { x with rekeying := true }) else s) :=
  congrArg Host.Outcome.next (if_neg (by simp [hp, hno]))

theorem execPortDown_eq : execPortDown p f s = .next (
    if (s.fport f).linkUp then portQuit s f 10
    else if (s.fport f).state = 3 then portClose (sendPlain s f 0x06 (bytesLE 1 10) false) f 7 10
    else if (s.fport f).state = 1 then portClose s f 7 10 else s) :=
  congrArg Host.Outcome.next (if_neg (by simp [hp]))

theorem execPortRearm_eq (hrun : s.partStopped p = false) (hst : (s.fport f).state = 6 ∨ (s.fport f).state = 2) :
    execPortRearm p f lanes s = .next (if (s.fport f).enable then trainPort s f lanes else portNotice (s.updFport f (fun x => { x with state := 7 })) f) :=
  congrArg Host.Outcome.next (if_neg (by rcases hst with h | h <;> simp [hp, hrun, h]))

end control

/-- Settles O45: a retrain and its end, the timers, and the three writes of PORT_CTL. -/
theorem portsRetrainAndRearm : Obligations.PortsRetrainAndRearm := by
  intro f lanes s x good
  refine ⟨fun hst => congrArg Host.Outcome.next (if_pos hst), fun hst hgood => ⟨fun hno => ?goesOn, fun hre => ?rekeys⟩,
    fun hst ht => congrArg Host.Outcome.next (if_pos (by rw [hst, decide_eq_true ht]; rfl)),
    fun hst ht => congrArg Host.Outcome.next (if_pos (by rw [hst, decide_eq_true ht]; rfl)),
    fun hst ht => congrArg Host.Outcome.next (if_pos (by rw [hst, decide_eq_true ht]; rfl)),
    fun q hst hen hq hrun ht => ⟨fun hgood => ?trains, fun hbad => ?waits⟩, execRekeyTimer_due,
    fun p hp => ⟨?rekey, ?later, ?down, ?quit, ?close, fun hrun hst => ⟨fun hen => ?rearm, fun hen => ?off⟩⟩⟩
  case goesOn => exact (execPortRetrainDone_good hst hgood).trans (congrArg _ (if_neg (ne_true_of_eq_false hno)))
  case rekeys => exact (execPortRetrainDone_good hst hgood).trans (congrArg _ (if_pos hre))
  case trains => exact (execPortTrainRetry_due hst hen hq hrun ht).trans (congrArg _ (trainPort_good hgood))
  case waits => exact (execPortTrainRetry_due hst hen hq hrun ht).trans (congrArg _ (trainPort_bad hbad))
  case rekey => exact fun hst hno => (execPortRekey_eq hp hno).trans (congrArg _ (if_pos hst))
  case later =>
    exact fun hst hno => (execPortRekey_eq hp hno).trans (congrArg _ ((if_neg fun h => absurd (hst.symm.trans h) (by decide)).trans (if_pos hst)))
  case down => exact fun hup => (execPortDown_eq hp).trans (congrArg _ (if_pos hup))
  case quit => exact fun hdown hst => (execPortDown_eq hp).trans (congrArg _ ((if_neg (ne_true_of_eq_false hdown)).trans (if_pos hst)))
  case close =>
    exact fun hdown hst => (execPortDown_eq hp).trans (congrArg _ ((if_neg (ne_true_of_eq_false hdown)).trans
      ((if_neg fun h => absurd (hst.symm.trans h) (by decide)).trans (if_pos hst))))
  case rearm => exact (execPortRearm_eq hp hrun hst).trans (congrArg _ (if_pos hen))
  case off => exact (execPortRearm_eq hp hrun hst).trans (congrArg _ (if_neg (ne_true_of_eq_false hen)))

/-! ## Messages out and ingest windows (R419, R420, R422) -/

@[simp] theorem takePacket_fport (s : State) (i f : Nat) : (s.takePacket i).fport f = s.fport f :=
  takePacket_reading s i (fun t => t.fport f) fun _ ⟨_, _, _, _, h⟩ => by rw [h]; rfl

section messages
variable {i f : Nat} {p : Packet} {s : State} (harr : s.arrived i [0, 3] [0, 6] = some p)
  (hmsg : (p.cls = 0 ∧ p.opc = 6) ∨ (p.cls = 3 ∧ p.opc = 0)) (hport : nodePort p.loc = some f)
include harr hmsg hport

/-- The packet leaves the fabric at its port, one of class DATA with its acknowledgement; on a link that is down it is discarded, else it joins
its channel's message, which the last one sends. -/
theorem execPortMsgEnqueue_eq :
    let t := if p.cls = 0 then (s.takePacket i).send (p.ack 0) else s.takePacket i
    let ch := p.addr % 4096
    let a : Assembly := Tab.get {} (s.fport f).asmOut ch
    let bytes := a.bytes ++ (outPiece p).1
    execPortMsgEnqueue i s = .next (if !(s.fport f).linkUp then t
      else if (outPiece p).2.1 then
        sendMessage (t.updFport f (fun x => { x with asmOut := Tab.put {} x.asmOut ch {} })) f ch (outPiece p).2.2 bytes
      else t.updFport f (fun x => { x with asmOut := Tab.put {} x.asmOut ch { a with bytes := bytes } })) := by
  have hkind : (!((p.cls == 0 && p.opc == 6) || (p.cls == 3 && p.opc == 0))) = false := by
    rcases hmsg with ⟨hc, ho⟩ | ⟨hc, ho⟩ <;> rw [hc, ho] <;> rfl
  simp only [execPortMsgEnqueue, harr, hkind, hport, enqueuePiece, takePacket_fport]
  rfl

end messages

/-- The oldest record has every acknowledgement: its size goes to WR. -/
theorem execWindowCommit_acknowledged {f : FpId} {w : Fin 16} {s : State} {at_ size : Nat} {rest : List (Nat × Nat × Nat)}
    (hrecs : ((s.fport f).window w).recs = (at_, size, 0) :: rest) :
    let t := s.updWindow f w (fun x => { x with wr := x.wr + size, recs := rest })
    execWindowCommit f w s = .next (if (s.fport f).winIrq then portNotice t f else t) := by
  simp only [execWindowCommit, hrecs]

section windows
variable {p : PortId} {f : FpId} {w : Fin 16} {data : W32} {s : State} {d : Nat} (hp : s.mayControl p f = true)
  (hd : (data.toNat + 2 ^ 32 - ((s.fport f).window w).rd % 2 ^ 32) % 2 ^ 32 = d)
include hp hd

/-- A write moves RD by d, unless that is beyond WR; a window that moves is advertised anew. -/
theorem execWinRdWrite_eq :
    let t := s.updWindow f w (fun y => { y with rd := y.rd + d })
    execWinRdWrite p f w data s = .next (if ((s.fport f).window w).wr - ((s.fport f).window w).rd < d then s
      else if d ≠ 0 ∧ ((s.fport f).window w).enable = true then advertise t f w else t) := by
  simp only [execWinRdWrite, hd, hp, Bool.not_true, Bool.false_or, decide_eq_true_eq, Bool.and_eq_true]

end windows

/-- Settles O46: a packet at its port, a record that commits, and a write of RD. -/
theorem messagesLeaveAndWindowsCommit : Obligations.MessagesLeaveAndWindowsCommit := by
  refine ⟨fun i p f s harr hmsg hport => ?_, fun f w s at_ size rest hrecs => ?_, fun p f w data s hp => ?_⟩
  · have heq := execPortMsgEnqueue_eq harr hmsg hport
    exact ⟨fun hdown => heq.trans (congrArg _ (if_pos (by rw [hdown]; rfl))), fun hup =>
      ⟨fun hmore => heq.trans (congrArg _ ((if_neg (by rw [hup]; decide)).trans (if_neg (ne_true_of_eq_false hmore)))),
        fun hlast => heq.trans (congrArg _ ((if_neg (by rw [hup]; decide)).trans (if_pos hlast)))⟩⟩
  · have heq := execWindowCommit_acknowledged hrecs
    exact ⟨fun hirq => heq.trans (congrArg _ (if_pos hirq)), fun hirq => heq.trans (congrArg _ (if_neg (ne_true_of_eq_false hirq)))⟩
  · have heq := execWinRdWrite_eq (w := w) (data := data) hp rfl
    exact ⟨fun hbeyond => heq.trans (congrArg _ (if_pos hbeyond)),
      fun hin hne hen => heq.trans (congrArg _ ((if_neg (Nat.not_lt.mpr hin)).trans (if_pos ⟨hne, hen⟩))),
      fun hin hno => heq.trans (congrArg _ ((if_neg (Nat.not_lt.mpr hin)).trans
        (if_neg fun h => hno.elim h.1 (fun hoff => absurd (hoff.symm.trans h.2) (by decide)))))⟩

/-! ## A frame of an up link (R415, R424) -/

theorem isType_of {fr : Frame} {t : BitVec 8} {n : Nat} (h : fr.hd.type = t) (hn : t.toNat = n) : isType fr n = true :=
  beq_iff_eq.mpr ((congrArg BitVec.toNat h).trans hn)

section link
variable {f : Nat} {fr : Frame} {s : State} (hup : (s.fport f).state = 4)

theorem linkLayer_notUp (h : (s.fport f).state ≠ 4) : linkLayer s f fr = (s, false) := if_pos h

theorem linkLayer_up (h : (linkLayer s f fr).2 = true) : (s.fport f).state = 4 := by
  by_contra hdown
  rw [linkLayer_notUp hdown] at h
  cases h

include hup

theorem linkLayer_badFcs (h : fr.fcsOk = false) : linkLayer s f fr = (portNak s f, false) :=
  (if_neg (not_not.mpr hup)).trans (if_pos (by rw [h]; rfl))

variable (hfcs : fr.fcsOk = true)
include hfcs

/-- The arrival of a frame with a good FCS is noted, whatever becomes of the frame. -/
theorem linkLayer_heard :
    let p := s.fport f
    let heard := s.updFport f (fun p => { p with lastRx := s.now, grace := p.grace - 1 })
    linkLayer s f fr = if !fr.tagOk || !(fr.hd.key == p.keyBit || decide (0 < p.grace)) then (portTagFail heard f, false)
      else
        let back := takeReturns heard f fr
        if !isNumbered fr then (back, true)
        else if fr.hd.seq.toNat = p.seqIn then
          (back.updFport f (fun p => { p with seqIn := (p.seqIn + 1) % 2 ^ 32, nakSent := false }), true)
        else (portNak back f, false) :=
  (if_neg (not_not.mpr hup)).trans (if_neg (by rw [hfcs]; decide))

variable (htag : fr.tagOk = true) (hkey : fr.hd.key = (s.fport f).keyBit ∨ 0 < (s.fport f).grace)
include htag hkey

/-- The returns of a frame whose tag and key do are taken; a numbered one goes on only in order. -/
theorem linkLayer_returns :
    let back := takeReturns (s.updFport f (fun p => { p with lastRx := s.now, grace := p.grace - 1 })) f fr
    linkLayer s f fr = if !isNumbered fr then (back, true)
      else if fr.hd.seq.toNat = (s.fport f).seqIn then
        (back.updFport f (fun p => { p with seqIn := (p.seqIn + 1) % 2 ^ 32, nakSent := false }), true)
      else (portNak back f, false) :=
  (linkLayer_heard hup hfcs).trans (if_neg (by rw [htag]; rcases hkey with h | h <;> simp [h]))

end link

theorem linkLayer_badTag {f : Nat} {fr : Frame} {s : State} (hup : (s.fport f).state = 4) (hfcs : fr.fcsOk = true)
    (h : fr.tagOk = false ∨ (fr.hd.key ≠ (s.fport f).keyBit ∧ (s.fport f).grace = 0)) :
    linkLayer s f fr = (portTagFail (s.updFport f (fun p => { p with lastRx := s.now, grace := p.grace - 1 })) f, false) :=
  (linkLayer_heard hup hfcs).trans (if_pos (by rcases h with h | ⟨hk, hg⟩ <;> simp [*]))

section onFrame
variable {f : Nat} {fr : Frame} {s u : State} {take : State → State}

theorem onFrame_stops (h : linkLayer s f fr = (u, false)) : onFrame s f fr true take = u := by
  simp only [onFrame, h]
  rfl

theorem onFrame_malformed (h : linkLayer s f fr = (u, true)) (hbad : (u.fport f).badHeader fr = true) :
    onFrame s f fr true take = portMalformed u f := by
  simp only [onFrame, h, firewall, hbad]
  rfl

theorem onFrame_taken {mine : Bool} (hm : mine = true) (hlink : (linkLayer s f fr).2 = true)
    (hwall : firewall (linkLayer s f fr).1 f fr = (u, true)) : onFrame s f fr mine take = take u := by
  simp only [onFrame, hm, hlink, hwall]
  rfl

end onFrame

/-- Settles O42: each frame of an up link comes through onFrame, and what the link layer or the firewall stops is taken by no row. -/
theorem framesAreJudged : Obligations.FramesAreJudged := by
  intro f fr c s hc p heard keyOk back
  obtain ⟨take, hrow⟩ : ∃ take, exec c s = .next (onFrame s f fr true take) := by
    rcases hc with ⟨rfl, ht⟩ | ⟨rfl, ht⟩ | ⟨rfl, ht⟩ | ⟨rfl, ht⟩ | ⟨rfl, ht⟩ | ⟨rfl, ht⟩ | ⟨rfl, ht⟩
    case inr.inr.inl => exact ⟨_, congrArg (fun m => Host.Outcome.next (onFrame s f fr m _)) (by rw [ht]; rfl)⟩
    all_goals exact ⟨_, congrArg (fun m => Host.Outcome.next (onFrame s f fr m _)) (isType_of ht rfl)⟩
  rw [hrow]
  refine ⟨fun hdown => congrArg _ (onFrame_stops (linkLayer_notUp hdown)), fun hup hfcs => congrArg _ (onFrame_stops (linkLayer_badFcs hup hfcs)),
    fun hup hfcs htag => congrArg _ (onFrame_stops (linkLayer_badTag hup hfcs (.inl htag))),
    fun hup hfcs hkey hgrace => congrArg _ (onFrame_stops (linkLayer_badTag hup hfcs (.inr ⟨hkey, hgrace⟩))),
    fun hup hfcs htag hkey hnum hseq => ?order, fun hup hfcs htag hkey hnum hbad => ?plain, fun hup hfcs htag hkey hnum hseq hbad => ?numbered⟩
  case order =>
    exact congrArg _ (onFrame_stops ((linkLayer_returns hup hfcs htag hkey).trans ((if_neg (by simp [isNumbered, hnum])).trans (if_neg hseq))))
  case plain =>
    exact congrArg _ (onFrame_malformed ((linkLayer_returns hup hfcs htag hkey).trans (if_pos (by simp [isNumbered, Nat.not_le.mpr hnum]))) hbad)
  case numbered =>
    exact congrArg _ (onFrame_malformed
      ((linkLayer_returns hup hfcs htag hkey).trans ((if_neg (by simp [isNumbered, hnum])).trans (if_pos hseq))) hbad)

/-! ## Frames that pass (R419 to R428) -/

theorem ifFresh_stale {s : State} {f : Nat} {fr : Frame} {take : State → State} (h : fr.hd.gen.toNat ≠ s.portGen f) :
    ifFresh s f fr take = s.updFport f (fun p => { p with stale := sat 32 (p.stale + 1) }) := if_neg h

theorem ifFresh_fresh {s : State} {f : Nat} {fr : Frame} {take : State → State} (h : fr.hd.gen.toNat = s.portGen f) :
    ifFresh s f fr take = take s := if_pos h

section taken
variable {f : FpId} {fr : Frame} {s u : State} (hlink : (linkLayer s f fr).2 = true)
  (hwall : firewall (linkLayer s f fr).1 f fr = (u, true))
include hlink hwall

/-- Where a DATA frame goes by its channel: the streams and collectives, the windows, and the places beyond. -/
def takeData (f : FpId) (fr : Frame) (s : State) : State :=
  let ch := fr.hd.channel.toNat
  if 3088 ≤ ch then portMalformed s f
  else if 3072 ≤ ch then takeWindow s f (ch - 3072) fr
  else match s.channelIn f ch with
    | some r => takeSegment s f r ch fr
    | none => portMalformed s f

theorem execData_taken (ht : fr.hd.type = 0x10) : execData f fr s = .next (ifFresh u f fr (takeData f fr)) :=
  congrArg _ (onFrame_taken (by rw [ht]; rfl) hlink hwall)

theorem execScredit_taken {r : StreamRec} {dst : Node} (ht : fr.hd.type = 0x11) (hg : fr.hd.gen.toNat = u.portGen f)
    (hr : u.channelOut f fr.hd.channel.toNat = some r) (hd : u.lcidNode r.srcLcid = some dst) :
    let pk : Packet := { cls := 2, opc := 4, part := ((u.fport f).part).getD 0, addr := r.srcId, payload := zeros 16, loc := portNode f }
    execScredit f fr s = .next (u.send ((pk.setSrc (portNode f)).setDest dst)) := by
  refine congrArg _ ((onFrame_taken (isType_of ht rfl) hlink hwall).trans ((ifFresh_fresh hg).trans ?_))
  simp only [hr, hd]

theorem execWcredit_taken (ht : fr.hd.type = 0x12) (hg : fr.hd.gen.toNat = u.portGen f) (hlo : 3072 ≤ fr.hd.channel.toNat)
    (hhi : fr.hd.channel.toNat < 3088) : execWcredit f fr s =
    .next (u.updFport f (fun p => { p with wcOut := Tab.put 0 p.wcOut fr.hd.channel.toNat (natLE (fr.payload.take 4)) })) := by
  refine congrArg _ ((onFrame_taken (isType_of ht rfl) hlink hwall).trans ((ifFresh_fresh hg).trans ?_))
  exact if_neg (not_or.mpr ⟨Nat.not_lt.mpr hlo, Nat.not_le.mpr hhi⟩)

theorem execPublish_taken {p : Nat} (ht : fr.hd.type = 0x14) (hp : (u.fport f).part = some p) : execPublish f fr s = .next (
    if !u.follows p then u else u.updHub p (fun h => { h with
      published := h.published ++ [(natLE (fr.payload.take 6), min 95 (natLE (slice fr.payload 6 1)), f.val)]
      silent := Tab.put 0 h.silent f 0 })) := by
  refine congrArg _ ((onFrame_taken (isType_of ht rfl) hlink hwall).trans ?_)
  simp only [hp]

theorem execKeyUpdate_taken (ht : fr.hd.type = 0x09) :
    let e := Config.kemEncaps u.fv fr.payload
    execKeyUpdate f fr s = .next (if fr.payload.length = 1184 then
        (if (u.fport f).rekeying && (u.fport f).isLo then u else switchKeys (sendPlain u.draw f 0x09 e.1 false) f ((u.fport f).nextKeys e.2))
      else if (u.fport f).rekeying && fr.payload.length == 1088 then
        switchKeys u f ((u.fport f).nextKeys (Config.kemDecaps (u.fport f).ekDraw fr.payload))
      else u) :=
  congrArg _ (onFrame_taken (isType_of ht rfl) hlink hwall)

/-- A link that passes frames is up, so its QUIT is no QUIT of the handshake. -/
theorem execQuit_taken (ht : fr.hd.type = 0x06) : execQuit f fr s = .next (portGoDown u f 8) :=
  congrArg _ ((if_neg (by simp [linkLayer_up hlink])).trans (onFrame_taken (isType_of ht rfl) hlink hwall))

end taken

/-- Settles O43, by the type of the frame. -/
theorem framesAreTaken : Obligations.FramesAreTaken := by
  intro f fr s u hlink hwall
  refine ⟨fun ht => ⟨fun hg => ?stale, fun hg => ⟨fun hch => ?beyond, fun hlo hhi => ?window, fun r hch hr => ?segment,
    fun hch hr => ?nowhere⟩⟩, fun r dst => execScredit_taken hlink hwall, execWcredit_taken hlink hwall,
    fun ht => congrArg Host.Outcome.next (onFrame_taken (isType_of ht rfl) hlink hwall),
    fun p ht hp => ⟨fun hfollows => ?follows, fun hnot => ?ignores⟩,
    fun ht => congrArg Host.Outcome.next (onFrame_taken (isType_of ht rfl) hlink hwall),
    fun ht => ⟨fun hlen hasks => ?request, fun hlen hre => ?answer⟩, execQuit_taken hlink hwall⟩
  case stale => exact (execData_taken hlink hwall ht).trans (congrArg _ (ifFresh_stale hg))
  case beyond => exact (execData_taken hlink hwall ht).trans (congrArg _ ((ifFresh_fresh hg).trans (if_pos hch)))
  case window =>
    exact (execData_taken hlink hwall ht).trans (congrArg _ ((ifFresh_fresh hg).trans ((if_neg (Nat.not_le.mpr hhi)).trans (if_pos hlo))))
  case segment =>
    refine (execData_taken hlink hwall ht).trans (congrArg _ ((ifFresh_fresh hg).trans ((if_neg (by omega)).trans ((if_neg (by omega)).trans ?_))))
    rw [hr]
  case nowhere =>
    refine (execData_taken hlink hwall ht).trans (congrArg _ ((ifFresh_fresh hg).trans ((if_neg (by omega)).trans ((if_neg (by omega)).trans ?_))))
    rw [hr]
  case follows => exact (execPublish_taken hlink hwall ht hp).trans (congrArg _ (if_neg (by rw [hfollows]; decide)))
  case ignores => exact (execPublish_taken hlink hwall ht hp).trans (congrArg _ (if_pos (by rw [hnot]; rfl)))
  case request =>
    exact (execKeyUpdate_taken hlink hwall ht).trans (congrArg _ ((if_pos hlen).trans (if_neg (by rcases hasks with h | h <;> simp [h]))))
  case answer =>
    exact (execKeyUpdate_taken hlink hwall ht).trans (congrArg _ ((if_neg (by omega)).trans (if_pos (by rw [hre, hlen]; rfl))))

/-! ## The handshake (R416, R417, R426, R427) -/

/-- A frame of the handshake is taken in the state of the handshake, or while keys change under version 1.0. -/
theorem State.talking_of {s : State} {f : Nat} {fr : Frame} {t : BitVec 8} {n : Nat} (ht : fr.hd.type = t) (hn : t.toNat = n) (hfcs : fr.fcsOk = true)
    (hst : (s.fport f).state = 3 ∨ ((s.fport f).state = 4 ∧ (s.fport f).rekeying = true ∧ (s.fport f).version = 0x10)) :
    s.talking f fr n = true := by
  rw [State.talking, isType_of ht hn, hfcs]
  rcases hst with h | ⟨h, hr, hv⟩
  · simp [h]
  · simp [h, hr, hv]

section handshake
variable {f : FpId} {fr : Frame} {s : State} (hst : (s.fport f).state = 3) (hfcs : fr.fcsOk = true)

theorem execPortPcsLock_trains {w4 : Bool} (htr : (s.fport f).state = 1) (hen : (s.fport f).enable = true)
    (hrun : s.partStopped ((s.fport f).part.getD 0) = false) (hw : w4 = true ∨ (s.fport f).lanes = 0xFF) : execPortPcsLock f w4 s = .next (
      sendTalk (portNotice (s.updFport f (fun p => { p with state := 3, width4 := w4, step := 1, talk := [] })) f) f 0x01 1
        (bytesLE 1 fabricMin ++ bytesLE 1 fabricMax ++ bytesLE 1 ((s.fport f).part.getD 0) ++ bytesLE 1 s.part.code)) :=
  congrArg _ (if_pos (by rcases hw with h | h <;> simp [htr, hen, hrun, h]))

theorem execFinish_eq (htalk : s.talking f fr 0x05 = true) (hstep : (s.fport f).step = 6) : execFinish f fr s = .next (
    if Config.mldsaVerify (s.fport f).peerKey (s.fport f).transcript fr.payload then
      (if (s.fport f).state = 4 then switchKeys s f (s.fport f).newKeys else comeUp s f)
    else portHandshakeFail s f 5) :=
  congrArg _ (if_neg (by simp [htalk, hstep]))

include hst

theorem joinRekey_handshake : joinRekey s f fr = s := if_neg (by simp [hst])

include hfcs

/-- HELLO closes the link where no version is common, else the panel's chain follows. -/
theorem execHello_eq (ht : fr.hd.type = 0x01) (hstep : (s.fport f).step = 1) :
    let low := max fabricMin (natLE (fr.payload.take 1))
    let high := min fabricMax (natLE (slice fr.payload 1 1))
    execHello f fr s = .next (if high < low then portClose (portRecord (sendPlain s f 0x06 (bytesLE 1 3) false) f 0x15) f 7 3
      else sendChain (s.updFport f (fun p => { p with
        version := high, peerPart := natLE (slice fr.payload 2 1), talk := p.talk ++ [(1, false, fr.payload)] })) f) :=
  congrArg _ (if_neg (by simp [State.talking_of (n := 1) ht rfl hfcs (.inl hst), hst, hstep]))

/-- CERT joins the partner's chain, which its last segment has judged. -/
theorem execCert_eq (ht : fr.hd.type = 0x02) (hstep : (s.fport f).step = 3) :
    let chain := (if fr.hd.first then [] else (s.fport f).chain) ++ fr.payload
    let key := chainLeaf chain
    execCert f fr s = .next (if !fr.hd.last then s.updFport f (fun p => { p with chain := chain })
      else if chainAnchors chain s.ownerKeys s.sec.policy.roots then
        sendEk (s.updFport f (fun p => { p with
          chain := chain, peerKey := key, peer := (digest64 key).take 8, talk := p.talk ++ [(3, false, chain)] })) f
      else portHandshakeFail s f 4) := by
  rw [execCert, joinRekey_handshake hst]
  exact congrArg _ (if_neg (by simp [State.talking_of (n := 2) ht rfl hfcs (.inl hst), hstep]))

theorem execKemEk_eq (ht : fr.hd.type = 0x03) (hstep : (s.fport f).step = 4) (hnone : (s.fport f).ssPeer = none) :
    let e := Config.kemEncaps s.fv fr.payload
    execKemEk f fr s = .next (maybeFinish (sendTalk (s.draw.updFport f (fun p => { p with
      ssPeer := some e.2, talk := p.talk ++ [(4, false, fr.payload)] })) f 0x04 5 e.1) f) :=
  congrArg _ (if_neg (by simp [State.talking_of (n := 3) ht rfl hfcs (.inl hst), hstep, hnone]))

theorem execKemCt_eq (ht : fr.hd.type = 0x04) (hstep : (s.fport f).step = 4) (hnone : (s.fport f).ssOwn = none) : execKemCt f fr s =
    .next (maybeFinish (s.updFport f (fun q => { q with
      ssOwn := some (Config.kemDecaps (s.fport f).ekDraw fr.payload), talk := q.talk ++ [(5, false, fr.payload)] })) f) :=
  congrArg _ (if_neg (by simp [State.talking_of (n := 4) ht rfl hfcs (.inl hst), hstep, hnone]))

theorem execQuit_handshake (ht : fr.hd.type = 0x06) : execQuit f fr s = .next (portClose s f 7 8) :=
  congrArg _ (if_pos (by rw [hst, isType_of (n := 6) ht rfl, hfcs]; rfl))

end handshake

/-- Settles O44: the steps in their order, each frame at its step. -/
theorem handshakeGoesThroughItsSteps : Obligations.HandshakeGoesThroughItsSteps := by
  intro f fr s p
  refine ⟨fun w4 => execPortPcsLock_trains, fun hst hfcs => ⟨fun ht hstep => ⟨fun hnone => ?noVersion, fun hcommon => ?version⟩,
    fun ht hstep => ⟨fun hmore => ?more, fun hlast hanchor => ?anchors, fun hlast hno => ?foreign⟩, execKemEk_eq hst hfcs, execKemCt_eq hst hfcs,
    fun ht hstep hsig => ?up, fun ht hstep hsig => ?badSig, execQuit_handshake hst hfcs⟩, fun hst hre hv hfcs ht hstep hsig => ?switch⟩
  case noVersion => exact (execHello_eq hst hfcs ht hstep).trans (congrArg _ (if_pos hnone))
  case version => exact (execHello_eq hst hfcs ht hstep).trans (congrArg _ (if_neg (Nat.not_lt.mpr hcommon)))
  case more => exact (execCert_eq hst hfcs ht hstep).trans (congrArg _ (if_pos (by rw [hmore]; rfl)))
  case anchors => exact (execCert_eq hst hfcs ht hstep).trans (congrArg _ ((if_neg (by rw [hlast]; decide)).trans (if_pos hanchor)))
  case foreign =>
    exact (execCert_eq hst hfcs ht hstep).trans (congrArg _ ((if_neg (by rw [hlast]; decide)).trans (if_neg (ne_true_of_eq_false hno))))
  case up =>
    exact (execFinish_eq (State.talking_of ht rfl hfcs (.inl hst)) hstep).trans (congrArg _ ((if_pos hsig).trans
      (if_neg fun h => absurd (hst.symm.trans h) (by decide))))
  case badSig => exact (execFinish_eq (State.talking_of ht rfl hfcs (.inl hst)) hstep).trans (congrArg _ (if_neg (ne_true_of_eq_false hsig)))
  case switch =>
    exact (execFinish_eq (State.talking_of ht rfl hfcs (.inr ⟨hst, hre, hv⟩)) hstep).trans (congrArg _ ((if_pos hsig).trans (if_pos hst)))

end Sys2Proof.Machine
end

section
/-!
PROOFS. Chapter 16: sessions and images, the bezels, and the panel's boundary.
-/
namespace Sys2Proof.Machine

/-! ## Sessions and images (R442, R443, R445) -/

theorem execAccessExpire_due {x : Session} {s : State} (hx : s.sec.session = some x) (ht : x.since + 28800000000000 ≤ s.now) :
    execAccessExpire s = .next (closeSession s) := by
  simp only [execAccessExpire, hx]
  exact congrArg _ (if_pos ht)

/-- The image of an UPDATE is judged as it comes. -/
theorem execUpdateImageFetched_eq {q : Nat} {s : State} (img : Option Image) (hq : s.sec.updating = some q) (hw : s.sec.writing = none) :
    let t := s.updSec (fun x => { x with updating := none })
    execUpdateImageFetched img s = .next (match img with
      | none => endSec t q 8 8 0
      | some i => if imageCause s.sec.floor i ≠ 0 then endSec t q 8 7 (imageCause s.sec.floor i)
        else s.updSec (fun x => { x with writing := some i })) := by
  cases img with
  | none => simp only [execUpdateImageFetched, hq, hw]
  | some i => simp only [execUpdateImageFetched, hq, hw]

theorem execUpdateSlotWritten_eq {q : Nat} {i : Image} {s : State} (hq : s.sec.updating = some q) (hw : s.sec.writing = some i) :
    let t := secRecord (s.updSec (fun x => { x with
      updating := none, writing := none, slotImage := some i, updatePend := digest64 i.manifest != x.runDigest })) 0x1B i.version.toNat
    execUpdateSlotWritten s = .next (if (s.hub q).sec.state = 3 then endSec t q 8 0 0 else t) := by
  simp only [execUpdateSlotWritten, hq, hw]

/-! ## What a record of security leaves of the hubs (R455) -/

section hubSec
variable {s : State} {p : Nat} {f : Hub → Hub}

/-- A hub that is written with more than its reset value is read back, and every other hub is as it was: no entry goes. -/
theorem updHub_hub_of_ne (q : Nat) (hne : f (s.hub p) ≠ {}) : (s.updHub p f).hub q = if q = p then f (s.hub p) else s.hub q := by
  have hput : (s.updHub p f).hub q = Tab.get {} (Tab.insert (f (s.hub p)) s.hubs p) q := by
    rw [State.hub, State.updHub]
    exact congrArg (Tab.get ({} : Hub) · q) (if_neg hne)
  rw [hput]
  split
  · next h => rw [h]; exact Tab.get_insert_same p _
  · next h => exact Tab.get_insert_ne _ h

theorem updHub_hubSec (q : Nat) (hne : f (s.hub p) ≠ {}) (hsec : (f (s.hub p)).sec = (s.hub p).sec) :
    ((s.updHub p f).hub q).sec = (s.hub q).sec := by
  rw [updHub_hub_of_ne q hne]
  split
  · next h => rw [h, hsec]
  · rfl

theorem hubRecord_hubSec (rec : FaultRec) (q : Nat) : ((hubRecord s rec).hub q).sec = (s.hub q).sec := by
  refine State.each_reading (g := fun t => (t.hub q).sec) fun t h => updHub_hubSec q (fun h0 => ?_) rfl
  exact absurd (congrArg Hub.inbox h0) (List.append_ne_nil_of_right_ne_nil _ (List.cons_ne_nil _ _))

theorem msixSend_hubSec (v q : Nat) : ((msixSend s p v).hub q).sec = (s.hub q).sec := by
  simp only [msixSend]
  split
  · refine updHub_hubSec q (fun h0 => ?_) rfl
    have hhas := NSet.has_add (s.hub p).msixPend v
    rw [show (s.hub p).msixPend.add v = [] from congrArg Hub.msixPend h0] at hhas
    cases hhas
  · rfl

/-- HOST_EVT has eight bits, and one of them that rises stands. -/
theorem raiseEvt_hubSec {n : Nat} (hn : BitVec.ofNat 8 (2 ^ n) ≠ 0) (q : Nat) : ((raiseEvt s p n).hub q).sec = (s.hub q).sec := by
  unfold raiseEvt
  split
  · rfl
  · rw [msixSend_hubSec]
    exact updHub_hubSec q (fun h0 => hn (BitVec.or_eq_zero_iff.mp (congrArg Hub.evt h0)).2) rfl

theorem secRecord_hubSec (event unit q : Nat) : ((secRecord s event unit).hub q).sec = (s.hub q).sec :=
  (State.each_reading (g := fun t => (t.hub q).sec) fun _ _ => raiseEvt_hubSec (by decide) q).trans (hubRecord_hubSec _ q)

end hubSec

/-! ## The bezels (R450 to R453, R456) -/

section bezel
variable {n : Fin 4} {r : BezelReq} {s : State}

/-- A packet of an enabled bezel, by the first rule that it breaks. -/
theorem execBezelPacket_enabled (hst : (s.bezel n).state = 3) (hof : s.bezelOf n n = true) :
    let b := s.bezel n
    let at_ := recentTimes b.winAt s.now 1000000
    let t := (s.updBezel n (fun b => { b with violW := min (b.violW + 1) 65535, winAt := at_ })).emit (.bezel n r.tag.toNat 1 [])
    execBezelPacket n r s = .next (if 64 < r.against then bezQuarantine s n 6
      else if bezFilters r then
        bezQuarantine (secRecord (s.updBezel n (fun b => { b with violF := min (b.violF + 1) 65535 })) 0x1D n) n 4
      else if !bezPermitted b r then (if 16 ≤ at_.length then bezQuarantine t n 5 else t)
      else match s.bezNode n r.addr.toNat with
        | some dst => if b.pend.length < b.out + 1 then bezInject s n r dst else s
        | none => s.emit (.bezel n r.tag.toNat 1 [])) :=
  congrArg _ (if_neg (by simp [hst, hof]))

theorem execBezelLinkLost_trained (hst : (s.bezel n).state = 2 ∨ (s.bezel n).state = 3) : execBezelLinkLost n s =
    .next (secRecord (s.updBezel n (fun b => { b with state := 5, cause := 3, pend := [] })) 0x1C n) :=
  congrArg _ (if_pos (by simpa using hst))

variable {p : PortId} (hp : s.bezControl p = true)
include hp

theorem execBezEnable_admitted (hst : (s.bezel p).state = 2) : execBezEnable p s = .next (s.updBezel p (fun b => { b with state := 3 })) :=
  congrArg _ (if_pos (by rw [hp, hst]; rfl))

theorem execBezDisable_enabled (hst : (s.bezel p).state = 3) : execBezDisable p s = .next (s.updBezel p (fun b => { b with state := 2 })) :=
  congrArg _ (if_pos (by rw [hp, hst]; rfl))

theorem execBezRearm_out {ans : BezelAnswer} (hst : (s.bezel p).state = 1 ∨ (s.bezel p).state = 4 ∨ (s.bezel p).state = 5) :
    execBezRearm p ans s = .next (admitBezel s p ans) :=
  congrArg _ (if_pos (by rw [hp]; simpa [or_assoc] using hst))

end bezel

/-! ## The boundary (R477 to R480) -/

section smb
variable {s : State} (hv : s.supply.vin ≠ 0)
include hv

theorem execSmbReadReg_powered {off : W32} : execSmbReadReg off s = .next (
    if off.toNat % 4 ≠ 0 || !panelScope off.toNat then s.emit (.mctp ([1] ++ zeros 4))
    else if !s.supply.booted || s.bring.recovery || (List.range 4).all (fun h => !(s.hub h).live) then s.emit (.mctp ([2] ++ zeros 4))
    else s.emit (.mctp ([0] ++ bytesLE 4 (s.pageWord noPort off.toNat s.rcUnion)))) :=
  congrArg _ (if_neg hv)

variable {off : W32} (hal : off.toNat % 4 = 0) (hscope : panelScope off.toNat = true)
include hal hscope

/-- A register that every port reads alike is answered by the first hub that runs. -/
theorem execSmbReadReg_panel : execSmbReadReg off s = .next (
    if !s.supply.booted || s.bring.recovery || (List.range 4).all (fun h => !(s.hub h).live) then s.emit (.mctp ([2] ++ zeros 4))
    else s.emit (.mctp ([0] ++ bytesLE 4 (s.pageWord noPort off.toNat s.rcUnion)))) :=
  (execSmbReadReg_powered hv).trans (congrArg _ (if_neg (by simp [hal, hscope])))

end smb

/-- Settles O49, in the order of the commands. -/
theorem imagesBezelsAndBoundaryComplete : Obligations.ImagesBezelsAndBoundaryComplete := by
  refine ⟨fun x s => execAccessExpire_due, fun q s hq hw => ⟨?unreadable, fun i hbad => ?badImage, fun i hgood => ?goodImage⟩,
    fun q i s hq hw => ?slot, fun p s hp => ⟨execBezEnable_admitted hp, execBezDisable_enabled hp, fun ans => execBezRearm_out hp⟩, fun n r s hst hof => ?packet,
    fun n s => execBezelLinkLost_trained, fun s ha => congrArg Host.Outcome.next (if_pos ha),
    fun s ha => congrArg Host.Outcome.next (if_neg (ne_true_of_eq_false ha)), fun s => rfl,
    fun off s hv => ⟨fun hbad => ?noRegister, fun hal hscope hdown => ?noHub, fun h h4 hal hscope hboot hrec hlive => ?answer⟩,
    fun s hv => congrArg Host.Outcome.next (if_neg hv)⟩
  case unreadable => exact execUpdateImageFetched_eq none hq hw
  case badImage => exact (execUpdateImageFetched_eq (some i) hq hw).trans (congrArg _ (if_pos hbad))
  case goodImage => exact (execUpdateImageFetched_eq (some i) hq hw).trans (congrArg _ (if_neg (not_not.mpr hgood)))
  case slot =>
    refine ⟨fun h3 => (execUpdateSlotWritten_eq hq hw).trans (congrArg _ (if_pos ?_)),
      fun h3 => (execUpdateSlotWritten_eq hq hw).trans (congrArg _ (if_neg fun h => h3 ?_))⟩
    · rwa [secRecord_hubSec] at h3
    · rwa [secRecord_hubSec]
  case packet =>
    have heq := execBezelPacket_enabled (r := r) hst hof
    refine ⟨fun hagainst => heq.trans (congrArg _ (if_pos hagainst)), fun hage hfilter => ?_,
      fun hage hpass hno => ⟨fun hfew => ?_, fun hmany => ?_⟩, fun dst hage hpass hyes hdst hroom => ?_⟩
    · exact heq.trans (congrArg _ ((if_neg (Nat.not_lt.mpr hage)).trans (if_pos hfilter)))
    all_goals
      refine heq.trans (congrArg _ ((if_neg (Nat.not_lt.mpr hage)).trans ((if_neg (ne_true_of_eq_false hpass)).trans ?_)))
    · exact (if_pos (by rw [hno]; rfl)).trans (if_neg (Nat.not_le.mpr hfew))
    · exact (if_pos (by rw [hno]; rfl)).trans (if_pos hmany)
    · rw [hyes, hdst]
      exact if_pos hroom
  case noRegister => exact (execSmbReadReg_powered hv).trans (congrArg _ (if_pos (by rcases hbad with h | h <;> simp [h])))
  case noHub => exact (execSmbReadReg_panel hv hal hscope).trans (congrArg _ (if_pos (by rcases hdown with h | h <;> simp [h])))
  case answer =>
    have hsome : (List.range 4).all (fun h => !(s.hub h).live) = false :=
      List.all_eq_false.mpr ⟨h, List.mem_range.mpr h4, by rw [hlive]; decide⟩
    exact (execSmbReadReg_panel hv hal hscope).trans (congrArg _ (if_neg (by rw [hboot, hrec, hsome]; decide)))

end Sys2Proof.Machine
end
